-- ==== Sys2Proof/Word.lean ====
section
/-!
DEFINITION. The word types of the Haliskain and nothing else (spec 00 R3, 03 R62): a byte, a 32-bit register, a
64-bit pattern (a register pair, a clause word, a program counter) and a mask with one bit for each of the 16 lanes of
a group. Everything computed on them stands in Machine/Bits.lean.
-/
namespace Sys2Proof

/-- One byte (R3). -/
abbrev Byte := BitVec 8

/-- The contents of a v or w register, or of any 32-bit system register (Table 3.1). -/
abbrev Word := BitVec 32

/-- A clause word, a 64-bit system register, or an even-odd register pair (R48, R56). -/
abbrev DWord := BitVec 64

/-- One bit for each of the sixteen lanes of a group (Table 0.4). -/
abbrev Mask := BitVec 16

end Sys2Proof
end

