-- ==== Sys2Proof/Syntax.lean ====
section
/-!
DEFINITION. The abstract form of every step the part can take (spec/opcode_table.json): the 134 instruction forms of
Table 5.1, each carrying the record of its format (Tables 3.5 and 3.6), and the 118 device events, each carrying the
data that the event brings. A format record holds every field of bits [51:0] of the word; which values a form accepts
is WellFormed's business.
-/
namespace Sys2Proof

/-! ## Formats of an instruction word (03, R62 to R64) -/

/-- Bits [51:48]: GI and GP (Table 3.5). -/
structure Guard where
  gi : Bool
  gp : BitVec 3
  deriving DecidableEq, Repr

/-- Format V, three sources (Table 3.6). -/
structure FmtV where
  guard : Guard
  var : BitVec 4
  dst : BitVec 8
  sa : BitVec 8
  sb : BitVec 8
  sc : BitVec 8
  ea : Bool
  eb : Bool
  ec : Bool
  rnd : BitVec 3
  sat : Bool
  fx : BitVec 9
  deriving DecidableEq, Repr

/-- Format I, register and 16-bit immediate (Table 3.6). -/
structure FmtI where
  guard : Guard
  var : BitVec 4
  dst : BitVec 8
  sa : BitVec 8
  imm : BitVec 16
  ea : Bool
  rnd : BitVec 3
  sat : Bool
  fx : BitVec 11
  deriving DecidableEq, Repr

/-- Format W, 32-bit immediate (Table 3.6). -/
structure FmtW where
  guard : Guard
  var : BitVec 4
  dst : BitVec 8
  imm : BitVec 32
  ed : Bool
  fx : BitVec 7
  deriving DecidableEq, Repr

/-- Format M, memory (Table 3.6). -/
structure FmtM where
  guard : Guard
  var : BitVec 4
  dst : BitVec 8
  hnd : BitVec 6
  sx : BitVec 8
  sy : BitVec 8
  disp : BitVec 10
  ex : Bool
  ey : Bool
  ed : Bool
  scope : BitVec 3
  ord : BitVec 2
  deriving DecidableEq, Repr

/-- Format X, matrix (Table 3.6). -/
structure FmtX where
  guard : Guard
  var : BitVec 4
  dst : BitVec 8
  ta : BitVec 3
  tb : BitVec 3
  sa : BitVec 8
  sb : BitVec 8
  ea : Bool
  eb : Bool
  sat : Bool
  fx : BitVec 15
  deriving DecidableEq, Repr

/-- Format K, control (Table 3.6). -/
structure FmtK where
  guard : Guard
  var : BitVec 4
  dst : BitVec 8
  disp : BitVec 24
  sa : BitVec 8
  ea : Bool
  fx : BitVec 7
  deriving DecidableEq, Repr

/-- Format K2, both words of `brx` (Table 3.6, R124). A pair is [19] invert, [18:16] predicate, [15:0] DISP16. -/
structure FmtK2 where
  guard : Guard
  var : BitVec 4
  dst : BitVec 8
  p0 : BitVec 20
  mid : BitVec 18
  np : BitVec 2
  hi : BitVec 4
  p1 : BitVec 20
  p2 : BitVec 20
  p3 : BitVec 20
  deriving DecidableEq, Repr

/-- Format S, system (Table 3.6). -/
structure FmtS where
  guard : Guard
  var : BitVec 4
  dst : BitVec 8
  sysn : BitVec 12
  sa : BitVec 8
  ea : Bool
  fx : BitVec 19
  deriving DecidableEq, Repr

/-! ## Names used by events -/

/-- A cohort of this package: launch identifier and `cid` (R216, Table 17.6). -/
structure CRef where
  lid : Nat
  cid : Nat
  deriving DecidableEq, Repr

/-- A group: its cohort and its `gid` (R215). -/
structure GRef where
  lid : Nat
  cid : Nat
  gid : Nat
  deriving DecidableEq, Repr

/-- The engines that take commands (R194, R200). Cores and clusters are numbered through the package: core
12 x (8 x die + cluster) + k, cluster 8 x die + c. -/
inductive EngineId where
  | copy (core : Nat)
  | collective (iod : Nat)
  | storage (e : Nat)
  | launchQueue
  | tstream (cluster : Nat)
  deriving DecidableEq, Repr

/-- What the ECC decoder says of one read of a sector (Table 24.1). -/
inductive EccResult where
  | clean
  | corrected
  | uncorrectable
  deriving DecidableEq, Repr

/-- One read of a stored sector: ECC first, then the tag (R374, R385). -/
structure SectorCheck where
  ecc : EccResult
  tagPass : Bool
  deriving DecidableEq, Repr

/-- One bind record with the core whose slot table it is written to (Table 17.6). `resv` is the OR of the fields that
the table gives as zero. -/
structure BindRec where
  core : Nat
  /-- The entry of the slot table, 0 to 15 (R299). -/
  slot : Nat
  lid : Nat
  cid : Nat
  bid : Nat
  regb : Nat
  scrb : Nat
  gidx : Nat
  accb : Nat
  valid : Bool
  restore : Bool
  classH : Bool
  checked : Bool
  blk : Nat
  frame : Nat
  resv : Nat
  deriving DecidableEq, Repr

/-- A view packet of Table 25.1. Package sets are the 36-byte maps of the table. -/
structure ViewPacket where
  group : Nat
  view : Nat
  sender : Nat
  leader : Nat
  members : BitVec 288
  suspect : BitVec 288
  cmds : List (Nat × BitVec 288)
  deriving DecidableEq, Repr

/-- What a collective data packet carries (R398, R400, R425, R426). -/
inductive CollBody where
  /-- The partial sum of a chunk on its way round the ring. -/
  | partialSum (chunk : Nat) (elems : List Word)
  /-- A final chunk sum, forwarded in the all-gather phase or fetched from a holder. -/
  | finalSum (chunk : Nat) (elems : List Word)
  /-- The source of a rank, for an all-gather or a broadcast. -/
  | source (rank : Nat) (elems : List Word)
  deriving DecidableEq, Repr

/-- A collective data packet: PART (R356), membership group, BUCKET, the low 16 bits of the view as tag, and the body (R400). -/
structure CollPacket where
  part : Nat
  group : Nat
  bucket : Nat
  tag : BitVec 16
  sender : Nat
  body : CollBody
  deriving DecidableEq, Repr

/-- An abort packet of R426. -/
structure AbortPacket where
  part : Nat
  group : Nat
  bucket : Nat
  tag : BitVec 16
  cause : Nat
  deriving DecidableEq, Repr

/-- An invalidation request (Table 19.4), with the context whose tables it names and whether the guest made it. -/
structure InvDesc where
  vif : Nat
  guest : Bool
  op : Nat
  stage : Nat
  base : Nat
  len : Nat
  done : Nat
  resv : Nat
  deriving DecidableEq, Repr

/-- What firmware forms a partition from (Table 21.1, R356). -/
structure PartDef where
  part : Nat
  clusters : List Nat
  hbms : List Nat
  /-- Slices as (die, slice). -/
  slices : List (Nat × Nat)
  rdcWays : List (Nat × Nat)
  engines : List Nat
  ports : List Nat
  /-- Byte ranges of package, cellar or other memory it owns beside its stacks, as (PA, length). -/
  ranges : List (Nat × Nat)
  test : Bool
  /-- Depth of each engine queue, 1 to 256 (R195), unless `depths` gives the queue of that engine and class its own. -/
  depth : Nat
  depths : List (EngineId × Bool × Nat)
  /-- Namespace bindings as (engine, NSI, NSID, capacity in blocks) (R348). -/
  nsi : List (Nat × Nat × Nat × Nat)
  /-- Switch routes: pairs of switch ports, each named by the package that it meets (Table 21.1). -/
  routes : List (Nat × Nat) := []
  deriving DecidableEq, Repr

/-- A reblock order (R359): the losing and gaining partitions on one die and what moves. -/
structure ReblockDef where
  die : Nat
  losing : Nat
  gaining : Nat
  clusters : List Nat
  hbms : List Nat
  slices : List Nat
  rdcWays : List Nat
  deriving DecidableEq, Repr

/-- A queue that firmware binds to a slot of an interface, with its shadow (Table 17.1, R291, R367). -/
structure QueueDef where
  qid : Nat
  slot : Nat
  qcb : Nat
  shadow : List Byte
  disabled : Bool
  /-- The MSI-X vector of its completions. -/
  vector : Nat
  deriving DecidableEq, Repr

/-- What firmware creates a virtual interface with (R321, R367, R370). -/
structure VifDef where
  vif : Nat
  part : Nat
  kdom : Nat
  groot : Nat
  hroot : Nat
  queues : List QueueDef
  /-- Entries that the firmware shadow of a launch's handle table marks as SYS: the table's virtual address, the index, and the
  window WIN (R249). -/
  sysWins : List (Nat × Nat × Nat)
  /-- The MSI-X vector of its guest fault ring. -/
  faultVector : Nat
  /-- Created as the destination of a migration: it starts in stopped (Table 22.3). -/
  destination : Bool
  /-- IPA that firmware names for the receipt of its unlocking (R369, R396). -/
  receipt : Nat := 0
  deriving DecidableEq, Repr

/-- Processors that Hearth releases, watches and resets (Table 26.1, R412). -/
inductive Processor where
  | ioManagement (iod : Nat)
  | linkControllers
  | scheduling (die : Nat)
  | storageEngine (e : Nat)
  | collectiveEngine (iod : Nat)
  | pager (iod : Nat)
  deriving DecidableEq, Repr

/-- One demand scrub (R393 to R396): reason, owner and where the receipt goes. -/
structure ScrubDef where
  reason : Nat
  vif : Nat
  part : Nat
  kdom : Nat
  ranges : List (Nat × Nat)
  ipa : Nat
  deriving DecidableEq, Repr

/-- Registers whose write only stores a value (R7, R367, and the values that firmware sets). -/
inductive RegName where
  /-- A kick-page or MSI-X offset of Table 22.1, with an access size of 4 or 8 bytes. -/
  | kickPage (vif offset size : Nat)
  /-- The data window of a migration page (Table 22.3b). -/
  | window (vif offset size : Nat)
  /-- The hypervisor fault ring's base, size and FHEAD (R334). -/
  | hypRingBase (vif : Nat)
  | hypRingLog (vif : Nat)
  | hypRingHead (vif : Nat)
  /-- FTAIL of the hypervisor's ring, read-only (R334). -/
  | hypRingTail (vif : Nat)
  /-- An injector register of a test partition, by its number of Table 11.10: firmware reaches it as `inject` does (R67). -/
  | injector (part n : Nat)
  /-- Message Control of an interface's MSI-X capability, and its configuration space (R367). -/
  | msixControl (vif : Nat)
  | config (vif offset size : Nat)
  /-- Items that are locked while the interface is (R368): a slot binding made or taken back, a QCB's address and shadow, the vectors
  of a queue and of the guest fault ring, the key domain and the partition of the interface. -/
  | bindQueue (vif : Nat) (d : QueueDef)
  | unbindQueue (qid : Nat)
  | qcbAddress (qid : Nat)
  | qcbShadow (qid : Nat) (shadow : List Byte)
  | queueVector (qid : Nat)
  | faultVector (vif : Nat)
  | keyDomain (vif : Nat)
  | partition (vif : Nat)
  /-- WATCHi, low or high half (Table 22.5). -/
  | watch (part i : Nat) (high : Bool)
  | logReader (part : Nat)
  | swapw (part : Nat)
  | rgw (part : Nat)
  | gref (stack : Nat)
  | href (stack : Nat)
  | gal (port : Nat)
  | hal (port : Nat)
  | suspt (group : Nat)
  | claim (cluster : Nat)
  | larderSlots
  | queueDisabled (qid : Nat)
  /-- A core's class G reserve (R303, R356): its stripes, group-table indices, cohort slots and slot pairs; it is a set, so
  the value written says nothing. -/
  | reserve (core : Nat) (stripes gidx slots accPairs : List Nat)
  /-- Bytes of the attic of a die (R304, R309). -/
  | attic (die : Nat)
  /-- Where the attic of a die begins in its addresses (R309). -/
  | atticBase (die : Nat)
  /-- The migration page of an interface, its data window included (Table 22.3b). -/
  | migration (vif offset size : Nat)
  /-- WRSTAT of a compute die (Table 26.3). -/
  | wrstat (die : Nat)
  /-- The cores granted to a launch in each package, as (package, cores), fixed at launch (R219). -/
  | granted (lid : Nat) (cores : List (Nat × Nat))
  /-- Record n of Hearth's error log, the oldest being 0 (R389). -/
  | errorRecord (n : Nat)
  deriving DecidableEq, Repr

/-- Who sends a request to a home slice (R172, R269, R376). -/
inductive HomeReq where
  /-- An access of a group's load-store queue. -/
  | access (g : GRef) (acc : Nat)
  /-- A 1 to 16 byte read by the companion processor. -/
  | companionRead (pa n : Nat)
  /-- A store by the companion processor. -/
  | companionWrite (pa : Nat) (bytes : List Byte)
  /-- A request of another package, in the partition and key domain its packet carries (R356, R373). -/
  | remoteRead (pkg part kdom pa n : Nat)
  | remoteWrite (pkg part kdom pa : Nat) (bytes : List Byte)
  /-- A read of a firmware or kick-page register, by the companion or by firmware (R7, R293). -/
  | register (r : RegName)
  /-- A remote `atom` (VAR of Table 10.3) on one location. -/
  | remoteAtom (pkg part kdom pa : Nat) (var : BitVec 4) (a : DWord)
  deriving DecidableEq, Repr

/-- An uncorrectable error of a core's SRAM (R385, R387). -/
inductive SramError where
  /-- Core-level state that serves a cohort: collectors, slot or group tables, shadow slots of several groups. -/
  | core (c : CRef)
  /-- A register, or a word of a primary or shadow accumulator slot, of a group, by its poison key. -/
  | unit (g : GRef) (key : Nat)
  /-- A 4-byte unit of a scratchpad. -/
  | scratch (c : CRef) (unit : Nat)
  deriving DecidableEq, Repr

/-! ## Every step of the part -/

/-- One constructor for each row of spec/opcode_table.json: the instruction forms of Table 5.1
(`brx` holds both its words), then the device events of 95_what_each_step_holds.md with the data each brings. -/
inductive Instr where
  | iadd (o : FmtV)
  | iaddImm (o : FmtI)
  | isub (o : FmtV)
  | imul (o : FmtV)
  | imulImm (o : FmtI)
  | imulhi (o : FmtV)
  | imad (o : FmtV)
  | iadd64 (o : FmtV)
  | iabs (o : FmtV)
  | ineg (o : FmtV)
  | imin (o : FmtV)
  | iminImm (o : FmtI)
  | imax (o : FmtV)
  | imaxImm (o : FmtI)
  | ishl (o : FmtV)
  | ishlImm (o : FmtI)
  | ishr (o : FmtV)
  | ishrImm (o : FmtI)
  | isar (o : FmtV)
  | isarImm (o : FmtI)
  | irot (o : FmtV)
  | irotImm (o : FmtI)
  | and (o : FmtV)
  | andImm (o : FmtI)
  | or (o : FmtV)
  | orImm (o : FmtI)
  | xor (o : FmtV)
  | xorImm (o : FmtI)
  | andn (o : FmtV)
  | popc (o : FmtV)
  | clz (o : FmtV)
  | ctz (o : FmtV)
  | brev (o : FmtV)
  | lop3 (o : FmtV)
  | bfx (o : FmtV)
  | bfxImm (o : FmtI)
  | bfi (o : FmtV)
  | sel (o : FmtV)
  | icmp (o : FmtV)
  | icmpImm (o : FmtI)
  | mov (o : FmtV)
  | movi (o : FmtW)
  | nop (o : FmtV)
  | pand (o : FmtV)
  | por (o : FmtV)
  | pxor (o : FmtV)
  | pnot (o : FmtV)
  | pmov (o : FmtV)
  | qxch (o : FmtV)
  | qbcast (o : FmtV)
  | gshf (o : FmtV)
  | vote (o : FmtV)
  | matchWord (o : FmtV)
  | elect (o : FmtV)
  | fadd (o : FmtV)
  | fsub (o : FmtV)
  | fmul (o : FmtV)
  | fma (o : FmtV)
  | fscale (o : FmtV)
  | fround (o : FmtV)
  | fmin (o : FmtV)
  | fmax (o : FmtV)
  | fminn (o : FmtV)
  | fmaxn (o : FmtV)
  | fabs (o : FmtV)
  | fneg (o : FmtV)
  | fcmp (o : FmtV)
  | fclass (o : FmtV)
  | frcp (o : FmtV)
  | frsq (o : FmtV)
  | fsqrt (o : FmtV)
  | fexp2 (o : FmtV)
  | flog2 (o : FmtV)
  | fsin (o : FmtV)
  | fcos (o : FmtV)
  | ftanh (o : FmtV)
  | cvt (o : FmtV)
  | fpk (o : FmtV)
  | hadd2 (o : FmtV)
  | hmul2 (o : FmtV)
  | hfma2 (o : FmtV)
  | fdot2 (o : FmtV)
  | qmx (o : FmtV)
  | mma (o : FmtX)
  | mzero (o : FmtX)
  | mld (o : FmtX)
  | mst (o : FmtX)
  | mrd (o : FmtX)
  | mwr (o : FmtX)
  | mscl (o : FmtX)
  | mtd (o : FmtI)
  | mfd (o : FmtI)
  | mfmt (o : FmtI)
  | ld (o : FmtM)
  | st (o : FmtM)
  | ldw (o : FmtM)
  | stf (o : FmtM)
  | pref (o : FmtM)
  | atom (o : FmtM)
  | cas (o : FmtM)
  | fence (o : FmtM)
  | promote (o : FmtM)
  | waitc (o : FmtM)
  | bandj (o : FmtM)
  | bandl (o : FmtM)
  | bandx (o : FmtM)
  | wbr (o : FmtM)
  | invr (o : FmtM)
  | mapset (o : FmtM)
  | mapflush (o : FmtM)
  | hld (o : FmtM)
  | push (o : FmtI)
  | tstream (o : FmtV)
  | fetcht (o : FmtV)
  | bar (o : FmtI)
  | barb (o : FmtI)
  | mfs (o : FmtS)
  | mts (o : FmtS)
  | getc (o : FmtS)
  | yield (o : FmtS)
  | sleep (o : FmtS)
  | xacq (o : FmtS)
  | xrel (o : FmtS)
  | inject (o : FmtS)
  | bra (o : FmtK)
  | brx (o : FmtK2)
  | call (o : FmtK)
  | ret (o : FmtK)
  | jmpi (o : FmtK)
  | rejoin (o : FmtK)
  | kill (o : FmtK)
  | exit (o : FmtK)
  | trap (o : FmtK)
  | rett (o : FmtK)
  -- device events
  /-- A word whose major opcode is unassigned in its class's range (R90). -/
  | illegalInstruction (guard : Guard) (opc : BitVec 8)
  | matrixWordRetire (g : GRef) (op : Nat)
  | boostIntervalBoundary (cluster : Nat)
  | boostClaim (cluster : Nat)
  | slotVote (core slot : Nat)
  /-- `noise` is XORed into the fetched body words: a transient fetch error, 0 for none (R61). -/
  | clauseFetchDone (core slot lid pc noise : Nat)
  | registerFill (g : GRef) (fill : Nat)
  /-- `mismatch`: whether the two physical copies differ (R105). -/
  | checkedCompare (g : GRef) (mismatch : Bool)
  | checkedWaitExpiry (g : GRef)
  | spinDetectLower (g : GRef)
  | spinReleaseTimeout (g : GRef)
  | asyncTrapDelivery (g : GRef)
  | sleepExpiry (g : GRef)
  | waitcReread (g : GRef) (acc : Nat)
  | homeSliceRequest (r : HomeReq)
  | releaseActionsDone (g : GRef) (acc : Nat)
  | l1WayWritebackDone (core stripe : Nat)
  | hbmSectorRead (sector : Nat) (first second : SectorCheck)
  | walkStart (walk : Nat)
  | walkComplete (walk : Nat)
  | faultRecordWrite (rec : Nat)
  | faultAnswerResolved (rec : Nat)
  | faultAnswerRefused (rec : Nat)
  | invalidateRange (d : InvDesc)
  | invalidateContext (d : InvDesc)
  | invalidationDone (inv : Nat)
  | placementCountThreshold (page : Nat)
  | storageFrameTaken (rec : Nat)
  | storagePageReadDone (rec : Nat) (ok : Bool)
  | reclaimSweep (vif engine : Nat)
  | reclaimWritebackDone (vif ipa : Nat) (ok : Bool)
  | flist (vif : Nat) (value : DWord)
  | engineCommandStart (e : EngineId)
  | copyRows (cmd : Nat)
  | fillRows (cmd : Nat)
  | allReduce (cmd : Nat)
  | reduceScatter (cmd : Nat)
  | allGather (cmd : Nat)
  | broadcast (cmd : Nat)
  | storageRead (cmd : Nat) (ok : Bool)
  | storageWrite (cmd : Nat) (ok : Bool)
  | storageFlush (cmd : Nat) (ok : Bool)
  | launchCommand (cmd : Nat)
  | tstreamLoad (cmd : Nat)
  | tstreamStore (cmd : Nat)
  | commandCompletion (cmd : Nat)
  | dispenserRequest (cluster lid : Nat)
  | stealRequest (thief lid : Nat)
  | stealAnswer (thief lid : Nat)
  | kick (vif slot : Nat) (value : DWord)
  | launchRecordTake (qid : Nat)
  | bindRecord (rs : List BindRec)
  | atticWriteAck (core : Nat)
  | mapAtticWriteback (frame : Nat)
  | restoreFrameReadDone (c : CRef)
  | cooperativePreemptRequest (lid : Nat) (cores : List Nat)
  | budgetOverrun (c : CRef)
  | saveComplete (c : CRef)
  | spatialPreemptRequest (lid : Nat) (cores : List Nat)
  | cohortSwap (c : CRef)
  | groupRetire (g : GRef)
  | cohortRetire (c : CRef)
  | completionEntryWrite (qid : Nat)
  | bandAskArrival (die band core : Nat)
  | bandHoldTimerExpiry (die band : Nat)
  | bandFillLand (die fill : Nat)
  | firstTouchFillDone (c : CRef) (entry sector : Nat)
  | homeUnavailableRetry (r : HomeReq)
  | regulatorRefill (stack : Nat)
  | rafterAllowanceRefill (port : Nat)
  | patrolScrubRead (stack : Nat) (chk : SectorCheck)
  | demandScrub (d : ScrubDef)
  | reblockOrder (d : ReblockDef) (signed : Bool)
  | reblockRehash (die : Nat)
  | partitionReset (part : Nat) (signed : Bool)
  | drainExpiry (part : Nat)
  | lockInterface (vif : Nat)
  | startInterface (vif : Nat)
  | stopInterface (vif : Nat)
  | lockedItemChange (vif : Nat)
  | invreq (vif : Nat) (value : DWord)
  /-- `hyp`: written to the hypervisor ring's FRESP rather than the guest's (R334). -/
  | fresp (vif : Nat) (hyp : Bool) (value : DWord)
  | logreq (vif : Nat) (value : DWord)
  | accessLogRecord (part : Nat)
  | registerWrite (r : RegName) (value : DWord)
  | precopy (vif : Nat)
  | stop (vif : Nat)
  | migrationStopped (vif : Nat)
  | resume (vif : Nat)
  | abort (vif : Nat)
  | finish (vif : Nat)
  | migackSource (vif seq : Nat)
  | migackDestination (vif seq : Nat)
  | keyDomainLoad (kdom key : Nat)
  | rafterPortsDown (pkg : Nat)
  | ringStepTimeout (group pkg : Nat)
  | propose (p : ViewPacket)
  | accept (p : ViewPacket)
  | refuse (p : ViewPacket)
  | commit (p : ViewPacket)
  | agreementTimeout (group : Nat)
  | joinreq (p : ViewPacket)
  | exclude (p : ViewPacket)
  | viewDataPacket (p : CollPacket)
  | collectiveAbort (p : AbortPacket)
  | powerGood
  | imageUnlock
  | heartbeat (p : Processor)
  | watchdogExpiry (p : Processor)
  | warmResetOrder (die step : Nat) (signed responds : Bool)
  | warmResetReadmit (die : Nat)
  | selfTest (core : Nat) (pass : Bool)
  | imageInstall (order : Nat) (image : List Byte) (signed : Bool)
  | powerRemoved
  | partitionFormation (d : PartDef)
  | membershipGroupDefinition (group : Nat) (members : BitVec 288) (self : Nat)
  | interfaceCreation (d : VifDef)
  | coreWithdrawal (cores : List Nat) (signed : Bool)
  deriving DecidableEq, Repr

end Sys2Proof
end

