-- ==== Sys2Proof/WellFormed.lean ====
section
/-!
DEFINITION. Which instruction words are legal: the encoding check of step 10 of Table 5.6. `Instr.encInfo` answers the
lowest field code of Table 5.5 that a word fails (R91), and an instruction is well formed when no field fails. The
per-form lists follow Tables 5.3, 5.4, 10.1 and 11.1 and the entries of chapters 07 to 11. A device event has no
encoding and is always well formed.
-/
namespace Sys2Proof

/-! ## Field classes (R66, R91) -/

/-- A special whose value Table 3.6a marks illegal. -/
def illegalSpecial (x : BitVec 8) : Bool := x == 0xE7 || x.toNat ≥ 0xF8

/-- 0x00 to 0xDF name v0 to v191 and w0 to w31. -/
def namesRegister (x : BitVec 8) : Bool := x.toNat < 0xE0

/-- 0xC0 to 0xDF name w0 to w31. -/
def namesW (x : BitVec 8) : Bool := 0xC0 ≤ x.toNat && x.toNat < 0xE0

/-- 0x00 to 0xBF name v0 to v191. -/
def namesV (x : BitVec 8) : Bool := x.toNat < 0xC0

/-- A uniform source: a w register, or a legal special other than `lane` and `qlane` (R151, R168, R193). -/
def uniformSource (x : BitVec 8) : Bool :=
  namesW x || (x.toNat ≥ 0xE0 && !illegalSpecial x && x != 0xE2 && x != 0xE3)

/-- How a source field is used. -/
inductive SrcUse where
  /-- Not read: zero, with its policy bit zero (R63). -/
  | unused
  /-- A register or a special. -/
  | any
  /-- A 64-bit register pair or a special (R48). -/
  | pair
  /-- A register only, aligned to the count of registers (R158). -/
  | regs (n : Nat)
  | pred
  | uniform
  | uniformPair
  /-- w0 to w16, the first of sixteen (R194). -/
  | wBlock
  /-- A v register whose number is a multiple of 4 (R200). -/
  | vQuad
  deriving DecidableEq, Repr

/-- How the destination field is used. -/
inductive DstUse where
  | unused
  /-- A field marked — of Table 10.1: when it is not zero, the code 0x03 of Table 5.5 and the code 0x10 of R168 both apply, and INFO holds
  the lowest (R91; notes/assumptions/43.md). -/
  | dash
  | reg
  /-- A register number that is a multiple of n. -/
  | regs (n : Nat)
  | pred
  /-- [42:40] names a tile or descriptor, [47:43] zero (R155). -/
  | tile
  /-- Store data read from DST: a special may stand there (R171). -/
  | data
  /-- A uniform source that stands in DST (R168). -/
  | uniform
  /-- A w register whose number is a multiple of 4 (R203). -/
  | wQuad
  deriving DecidableEq, Repr

/-- A register number off its alignment (R48). -/
def misaligned (n : Nat) (x : BitVec 8) : Bool := namesRegister x && x.toNat % n != 0

/-- The failures of a source field with the code of its field, the code of its policy bit and the policy bit. SB of `tstream` that names
no v register fails as SB: R200 gives a code only for a number that is no multiple of 4 (DESIGN CHOICE, notes/assumptions/43.md). -/
def SrcUse.fails (u : SrcUse) (code : Nat) (x : BitVec 8) (e : Bool) : List (Nat × Bool) :=
  match u with
  | .unused => [(0x0A, e), (0x10, x != 0)]
  | .any => [(code, illegalSpecial x), (0x0A, e && !namesRegister x)]
  | .pair => [(code, illegalSpecial x), (0x0A, e && !namesRegister x), (0x0D, misaligned 2 x)]
  | .regs n => [(code, !namesRegister x), (0x0A, e && !namesRegister x), (0x0D, misaligned n x)]
  | .pred => [(code, x.toNat ≥ 8), (0x0A, e)]
  | .uniform => [(code, !uniformSource x), (0x0A, e && !namesRegister x)]
  | .uniformPair => [(code, !uniformSource x), (0x0A, e && !namesRegister x), (0x0D, misaligned 2 x)]
  | .wBlock => [(code, !(0xC0 ≤ x.toNat && x.toNat ≤ 0xD0)), (0x0A, e && !namesRegister x)]
  | .vQuad => [(code, !namesV x), (0x0A, e && !namesRegister x), (0x0D, misaligned 4 x)]

/-- The failures of the destination field. -/
def DstUse.fails (u : DstUse) (x : BitVec 8) : List (Nat × Bool) :=
  match u with
  | .unused => [(0x03, x != 0)]
  | .dash => [(0x03, x != 0), (0x10, x != 0)]
  | .reg => [(0x03, !namesRegister x)]
  | .regs n => [(0x03, !namesRegister x), (0x0D, misaligned n x)]
  | .pred => [(0x03, x.toNat ≥ 8)]
  | .tile => [(0x03, x.toNat ≥ 8)]
  | .data => [(0x03, illegalSpecial x)]
  | .uniform => [(0x03, !uniformSource x)]
  | .wQuad => [(0x03, !namesW x), (0x0D, misaligned 4 x)]

/-- The lowest code among the failures, if any (R91). -/
def lowestFail : List (Nat × Bool) → Option Nat
  | [] => none
  | (c, true) :: rest => some (match lowestFail rest with
    | none => c
    | some d => min c d)
  | (_, false) :: rest => lowestFail rest

/-- RND accepts 0 to 4 where it is allowed, and only 0 elsewhere (R64, R88). -/
def rndFails (allowed : Bool) (r : BitVec 3) : List (Nat × Bool) :=
  [(0x07, if allowed then r.toNat ≥ 5 else r != 0)]

/-! ## The checks of each format -/

/-- Format V. -/
def FmtV.fails (o : FmtV) (vars : List Nat) (d : DstUse) (a b c : SrcUse) (rnd sat fx : Bool) : List (Nat × Bool) :=
  [(0x02, !vars.contains o.var.toNat)] ++ d.fails o.dst ++ a.fails 0x04 o.sa o.ea ++ b.fails 0x05 o.sb o.eb ++
    c.fails 0x06 o.sc o.ec ++ rndFails rnd o.rnd ++ [(0x08, o.sat && !sat), (0x09, !fx)]

/-- Format I. -/
def FmtI.fails (o : FmtI) (vars : List Nat) (d : DstUse) (a : SrcUse) (sat fx imm : Bool) : List (Nat × Bool) :=
  [(0x02, !vars.contains o.var.toNat)] ++ d.fails o.dst ++ a.fails 0x04 o.sa o.ea ++ rndFails false o.rnd ++
    [(0x08, o.sat && !sat), (0x09, !fx), (0x10, !imm)]

/-- Format X. -/
def FmtX.fails (o : FmtX) (d : DstUse) (ta tb : Bool) (a b : SrcUse) (sat fx : Bool) : List (Nat × Bool) :=
  [(0x02, o.var != 0)] ++ d.fails o.dst ++ a.fails 0x04 o.sa o.ea ++ b.fails 0x05 o.sb o.eb ++
    [(0x08, o.sat && !sat), (0x09, !fx), (0x10, (!ta && o.ta != 0) || (!tb && o.tb != 0))]

/-- Format M. `hnd`: the form has a handle; `disp`: the displacement is legal; `ed`: the policy bit of DST is used. -/
def FmtM.fails (o : FmtM) (vars : List Nat) (d : DstUse) (x y : SrcUse) (hnd disp ed scope ord : Bool) :
    List (Nat × Bool) :=
  [(0x02, !vars.contains o.var.toNat)] ++ d.fails o.dst ++ x.fails 0x04 o.sx o.ex ++ y.fails 0x05 o.sy o.ey ++
    [(0x0A, o.ed && !(ed && namesRegister o.dst)), (0x0B, !scope), (0x0C, !ord),
     (0x10, (!hnd && o.hnd != 0) || !disp)]

/-- Format K. -/
def FmtK.fails (o : FmtK) (d : DstUse) (a : SrcUse) (fx disp : Bool) : List (Nat × Bool) :=
  [(0x02, o.var != 0)] ++ d.fails o.dst ++ a.fails 0x04 o.sa o.ea ++ [(0x09, !fx), (0x10, !disp)]

/-- Format S. -/
def FmtS.fails (o : FmtS) (d : DstUse) (a : SrcUse) (sysn : Bool) (unusedSysn : Bool) : List (Nat × Bool) :=
  [(0x02, o.var != 0)] ++ d.fails o.dst ++ a.fails 0x04 o.sa o.ea ++
    [(0x09, o.fx != 0), (0x0E, !sysn), (0x10, unusedSysn && o.sysn != 0)]

/-- `brx`: an unused pair, or [63:60] of the second word, must be zero (R124). -/
def FmtK2.fails (o : FmtK2) : List (Nat × Bool) :=
  [(0x02, o.var != 0), (0x03, o.dst != 0),
   (0x0F, o.hi != 0 || (o.np.toNat < 1 && o.p1 != 0) || (o.np.toNat < 2 && o.p2 != 0) || (o.np.toNat < 3 && o.p3 != 0)),
   (0x10, o.mid != 0)]

/-! ## Shared lists of Table 5.3 -/

/-- `.s32` and `.z32`. -/
def vars32 : List Nat := [0xC, 0xD]

/-- The scalar float types (Table 8.1). -/
def varsFloat : List Nat := [0, 1, 2, 3]

/-- A float source: a pair for `.f64` (R129). -/
def floatSrc (var : BitVec 4) : SrcUse := if var == 1 then .pair else .any

/-- A float destination. -/
def floatDst (var : BitVec 4) : DstUse := if var == 1 then .regs 2 else .reg

/-- A type code of Table 5.2 that is 64 bits wide. -/
def wideType (t : BitVec 4) : Bool := t == 0x1 || t == 0xE || t == 0xF

/-- Binary V form without SAT, RND or FX. -/
def FmtV.plain (o : FmtV) (vars : List Nat) (b c : SrcUse) : List (Nat × Bool) :=
  o.fails vars .reg .any b c false false (o.fx == 0)

/-- A scalar float form. -/
def FmtV.floating (o : FmtV) (b c : SrcUse) (rnd sat : Bool) : List (Nat × Bool) :=
  o.fails varsFloat (floatDst o.var) (floatSrc o.var) b c rnd sat (o.fx == 0)

/-- Every transcendental form (R140). -/
def FmtV.transcendental (o : FmtV) : List (Nat × Bool) :=
  o.fails [0] .reg .any .unused .unused true false (o.fx == 0)

/-- Binary I form with a zero FX. -/
def FmtI.plain (o : FmtI) (vars : List Nat) (sat : Bool) : List (Nat × Bool) :=
  o.fails vars .reg .any sat (o.fx == 0) true

/-- SCOPE 0, or 0 to 6 with one of the orderings (Table 10.1). -/
def scopeWithOrd (o : FmtM) (ords : List Nat) : Bool :=
  o.scope == 0 || (o.scope != 7 && ords.contains o.ord.toNat)

/-- Legal IMM16 of `mfmt` (R154, Table 9.3): AFMT [3:0], BFMT [7:4], MXA [8], MXB [9]. -/
def mfmtLegal (imm : BitVec 16) : Bool :=
  let a := imm.toNat % 16
  let b := imm.toNat / 16 % 16
  let mx := imm.toNat / 256 % 4
  imm.toNat < 1024 &&
    ((a ≤ 1 && b ≤ 1 && mx == 0) || ((a == 2 || a == 3) && (b == 2 || b == 3)) || (a == 4 && b == 4) ||
      (a == 5 && b == 5 && mx == 0) || (a == 6 && b == 6 && mx == 0))

/-- Queue selector of `push` (Table 11.2). -/
def selectorLegal (imm : BitVec 16) : Bool :=
  let kind := imm.toNat / 4096
  let inst := imm.toNat % 16
  imm.toNat / 16 % 256 == 0 &&
    ((kind == 0 && inst == 0) || (kind == 1 && inst ≤ 1) || kind == 2 || (kind == 3 && inst == 0))

/-- Group-visible numbers of Table 3.7. -/
def groupSysNumbers : List Nat :=
  [0x000, 0x001, 0x002, 0x003, 0x004, 0x010, 0x011, 0x012, 0x013, 0x014, 0x018, 0x019, 0x020, 0x021, 0x030]

/-- The 64-bit registers of Table 3.7, and INJSEED. -/
def sysIs64 (n : BitVec 12) : Bool := [0x011, 0x013, 0x014, 0x018, 0x030, 0x800].contains n.toNat

/-- Injector registers of Table 11.10, the assigned numbers from 0x800 up. -/
def injectorNumbers : List Nat := [0x800, 0x801, 0x802, 0x803]

/-- Items of Table 11.9. -/
def getcItems : List Nat := [0x000, 0x001, 0x002, 0x003, 0x010, 0x011, 0x012, 0x013, 0x014]

/-- Items that take a source (R210): `view` and `bstat`. -/
def getcTakesSource (n : BitVec 12) : Bool := n == 0x012 || n == 0x013

/-- The number of registers of a matrix move (R158). -/
def moveCount (fx : BitVec 15) : Nat := if fx.toNat % 4 == 1 then 2 else if fx.toNat % 4 == 2 then 4 else 1

/-- Registers of a load or store type of Table 5.4: one, a pair, or a quad. -/
def memRegs (var : BitVec 4) : Nat := if var.toNat % 8 == 5 then 2 else if var.toNat % 8 == 6 then 4 else 1

/-- Destination of stored data: a special may supply only 32 bits or fewer (R171). -/
def storeDst (var : BitVec 4) : DstUse := if memRegs var == 1 then .data else .regs (memRegs var)

/-- A 64-bit `atom` operation of Table 10.3. -/
def atomIs64 (var : BitVec 4) : Bool := var == 0xB || var == 0xC

/-- The failures of an instruction word at step 10 of Table 5.6, in no particular order. The pair of a 64-bit `mfs` may be a v pair:
R67 speaks of a w pair, R209 of an even pair under R48, and R209, the entry of `mfs`, is followed (DESIGN CHOICE, notes/assumptions/43.md). -/
def Instr.fails : Instr → List (Nat × Bool)
  | .iadd o | .isub o | .imul o => o.fails vars32 .reg .any .any .unused false true (o.fx == 0)
  | .iaddImm o | .imulImm o => o.plain vars32 true
  | .imad o => o.fails vars32 .reg .any .any .any false true (o.fx == 0)
  | .iabs o | .ineg o => o.fails vars32 .reg .any .unused .unused false true (o.fx == 0)
  | .imulhi o | .imin o | .imax o => o.plain vars32 .any .unused
  | .iminImm o | .imaxImm o => o.plain vars32 false
  | .iadd64 o => o.fails [0xE, 0xF] (.regs 2) .pair .pair .unused false true (o.fx == 0)
  | .ishl o | .ishr o | .isar o | .irot o | .and o | .or o | .xor o | .andn o => o.plain [0] .any .unused
  | .ishlImm o | .ishrImm o | .isarImm o | .irotImm o | .andImm o | .orImm o | .xorImm o => o.plain [0] false
  | .popc o | .clz o | .ctz o | .brev o | .mov o => o.plain [0] .unused .unused
  | .lop3 o => o.fails [0] .reg .any .any .any false false
      (o.fx.toNat < 256 && o.fx.toNat % 16 < 8 && o.fx.toNat / 16 % 16 < 8)
  | .bfx o => o.plain vars32 .any .unused
  | .bfxImm o => o.plain vars32 false
  | .bfi o => o.plain [0] .any .any
  | .sel o => o.plain [0] .any .pred
  | .icmp o => o.fails vars32 .pred .any .any .unused false false (o.fx.toNat ≤ 5)
  | .icmpImm o => o.fails vars32 .pred .any false (o.fx.toNat ≤ 5) true
  | .movi o => [(0x02, o.var != 0)] ++ DstUse.reg.fails o.dst ++ [(0x09, o.fx != 0), (0x0A, o.ed)]
  | .nop o => o.fails [0] .unused .unused .unused .unused false false (o.fx == 0)
  | .pand o | .por o | .pxor o => o.fails [0] .pred .pred .pred .unused false false (o.fx == 0)
  | .pnot o | .pmov o => o.fails [0] .pred .pred .unused .unused false false (o.fx == 0)
  | .qxch o => o.plain [0, 1, 2] .unused .unused
  | .qbcast o => o.plain [0] .any .unused
  | .gshf o => o.plain [0, 1, 2, 3] .any .unused
  | .vote o => o.fails [0, 1, 2, 3] (if o.var == 2 then .reg else .pred) .pred .unused .unused false false (o.fx == 0)
  | .matchWord o => o.fails [0, 1] .reg (if o.var == 1 then .pair else .any) .unused .unused false false (o.fx == 0)
  | .elect o => o.fails [0] .pred .unused .unused .unused false false (o.fx == 0)
  | .fadd o | .fsub o | .fmul o => o.floating (floatSrc o.var) .unused true true
  | .fma o => o.floating (floatSrc o.var) (floatSrc o.var) true true
  | .fscale o => o.floating .any .unused true true
  | .fround o => o.floating .unused .unused true false
  | .fmin o | .fmax o | .fminn o | .fmaxn o => o.floating (floatSrc o.var) .unused false false
  | .fabs o | .fneg o => o.floating .unused .unused false false
  | .fcmp o => o.fails varsFloat .pred (floatSrc o.var) (floatSrc o.var) .unused false false (o.fx.toNat ≤ 7)
  | .fclass o => o.fails varsFloat .reg (floatSrc o.var) .unused .unused false false (o.fx == 0)
  | .frcp o | .frsq o | .fsqrt o | .fexp2 o | .flog2 o | .fsin o | .fcos o | .ftanh o => o.transcendental
  | .cvt o =>
      let src := o.fx.setWidth 4
      o.fails (List.range 16) (if wideType o.var then .regs 2 else .reg) (if wideType src then .pair else .any) .unused
        .unused true true
        (o.fx.toNat < 16 && src != o.var && !(src == 7 && o.var.toNat ≥ 8) && !(o.var == 7 && src.toNat ≥ 8))
  | .fpk o => o.fails [2, 3, 4, 5, 6] .reg .any .any (if o.var.toNat ≤ 3 then .unused else .any) true true (o.fx == 0)
  | .hadd2 o | .hmul2 o => o.fails [2, 3] .reg .any .any .unused true true (o.fx == 0)
  | .hfma2 o | .fdot2 o => o.fails [2, 3] .reg .any .any .any true true (o.fx == 0)
  | .qmx o => o.plain [4, 5, 6] .any .unused
  | .mma o => o.fails .tile true true .uniform .uniform true (o.fx == 0)
  | .mzero o => o.fails .tile false false .unused .unused false (o.fx == 0)
  | .mld o => o.fails .tile true false .unused .unused false (o.fx == 0)
  | .mst o => o.fails .tile true false .unused .unused false (o.fx == 0 || o.fx == 2 || o.fx == 3)
  | .mrd o => o.fails (.regs (moveCount o.fx)) true false .any .unused false (o.fx.toNat ≤ 2)
  | .mwr o => o.fails .tile false false .any
      (if moveCount o.fx == 1 then .any else .regs (moveCount o.fx)) false (o.fx.toNat ≤ 2)
  | .mscl o => o.fails .tile (o.fx.getLsbD 0) false .any .unused false (o.fx.toNat ≤ 3)
  | .mtd o => o.fails [0] .tile .uniform false (o.fx.toNat ≤ 6) true
  | .mfd o => o.fails [0] .reg .unused false (o.fx.toNat ≤ 6) (o.imm.toNat < 8)
  | .mfmt o => o.fails [0] .unused .unused false (o.fx == 0) (mfmtLegal o.imm)
  | .ld o => o.fails (List.range 7) (.regs (memRegs o.var)) .any .any true true false (scopeWithOrd o [1])
      (o.ord.toNat ≤ 1)
  | .st o => o.fails [0, 2, 4, 5, 6] (storeDst o.var) .any .any true true true (scopeWithOrd o [2])
      (o.ord == 0 || o.ord == 2)
  | .ldw o => o.fails [4, 5, 6, 0xC, 0xD, 0xE] (.regs (memRegs o.var)) .any .any true true false (scopeWithOrd o [1])
      (o.ord.toNat ≤ 1)
  | .stf o => o.fails [4, 5, 6] (storeDst o.var) .any .any true true true (scopeWithOrd o [2])
      (o.ord == 0 || o.ord == 2)
  | .pref o => o.fails [0, 1] .dash .any .any true true false (o.scope == 0) (o.ord == 0)
  | .atom o => o.fails (List.range 13) (if atomIs64 o.var then .regs 2 else .reg) .any
      (if atomIs64 o.var then .pair else .any) true true false (scopeWithOrd o [1, 2, 3]) true
  | .cas o => o.fails [4, 5] (.regs (memRegs o.var)) .any (if o.var == 5 then .pair else .any) true true true
      (scopeWithOrd o [1, 2, 3]) true
  | .fence o => o.fails [0] .dash .unused .unused false (o.disp == 0) false (o.scope != 7) (o.ord != 0)
  | .promote o => o.fails [0] .reg .any .any true true false (2 ≤ o.scope.toNat && o.scope != 7) (o.ord == 0)
  | .waitc o => o.fails [0] .reg .any .any true true false (o.scope != 7) (o.ord == 0)
  | .bandj o | .bandx o => o.fails [0] .dash .uniform .unused false (o.disp == 0) false (o.scope == 0) (o.ord == 0)
  | .bandl o => o.fails [0] .uniform .uniform .uniform true true true (o.scope == 0) (o.ord == 0)
  | .wbr o | .invr o => o.fails [0] .dash .any .any true true false (o.scope == 0) (o.ord == 0)
  | .mapset o => o.fails [0] .uniform .uniform .uniform true (o.disp.toNat < 8) true (o.scope == 0) (o.ord == 0)
  | .mapflush o => o.fails [0] .dash .unused .unused false (o.disp.toNat < 8) false (o.scope == 0) (o.ord == 0)
  | .hld o => o.fails [0] (.regs 2) .unused .unused true (o.disp.toNat < 4) false (o.scope == 0) (o.ord == 0)
  | .push o => o.fails [0] .pred .wBlock false (o.fx == 0) (selectorLegal o.imm)
  | .tstream o => o.fails [0] .pred .uniform .vQuad .uniform false false (o.fx.toNat < 64)
  | .fetcht o => o.fails [0] .wQuad .uniform .unused .unused false false (o.fx == 0)
  | .bar o => o.fails [0] .unused .uniform false (o.fx == 0) (o.imm.toNat < 16)
  | .barb o => o.fails [0] .unused .uniform false (o.fx == 0) (o.imm.toNat < 4)
  | .mfs o => o.fails (if sysIs64 o.sysn then .regs 2 else .reg) .unused
      (groupSysNumbers.contains o.sysn.toNat || injectorNumbers.contains o.sysn.toNat) false
  | .mts o => o.fails .unused (if sysIs64 o.sysn then .uniformPair else .uniform)
      (groupSysNumbers.contains o.sysn.toNat || injectorNumbers.contains o.sysn.toNat) false
  | .getc o => o.fails (if o.sysn == 0x000 || o.sysn == 0x002 then .regs 2 else .reg)
      (if getcTakesSource o.sysn then .uniform else .unused) (getcItems.contains o.sysn.toNat) false
  | .yield o => o.fails .unused .unused true true
  | .sleep o => o.fails .unused .uniform true true
  | .xacq o => o.fails .pred .unused true true
  | .xrel o => o.fails .unused .unused true true
  | .inject o => o.fails .unused (if sysIs64 o.sysn then .uniformPair else .uniform)
      (injectorNumbers.contains o.sysn.toNat) false
  | .bra o => o.fails .unused .unused (o.fx == 0) true
  | .brx o => o.fails
  | .call o => o.fails (.regs 2) .unused (o.fx == 0) true
  | .ret o => o.fails .unused .pair (o.fx == 0) (o.disp == 0)
  | .jmpi o => o.fails .unused .any (o.fx == 0) true
  | .rejoin o | .kill o => o.fails .unused .any (o.fx == 0) (o.disp == 0)
  | .exit o => o.fails .unused .unused (o.fx == 0) (o.disp == 0)
  | .trap o => o.fails .unused .unused (o.fx == 0) (o.disp.toNat < 256)
  | .rett o => o.fails .unused (if o.fx.getLsbD 0 then .pair else .unused) (o.fx.toNat ≤ 1) (o.disp == 0)
  | _ => []

/-- The INFO of trap 0x01 that the word takes, if its encoding fails (R91). -/
def Instr.encInfo (i : Instr) : Option Nat := lowestFail i.fails

/-- The encoding check passes. -/
abbrev Instr.WellFormed (i : Instr) : Prop := i.encInfo = none

end Sys2Proof
end

