-- ==== Sys2Proof/Decode.lean ====
section
/-!
DEFINITION. The decoder and the encoder of instruction words (03, R62 to R64; 05, Tables 3.6, 5.1). `Reject` names why
words are no instruction; `decode` is total on any two words; `encode` writes a well-formed instruction's words from
the same tables.
-/
namespace Sys2Proof

/-- Why a word is rejected. -/
inductive Reject where
  /-- The major opcode is assigned to nothing (R90): trap 0x01, INFO 0x01. -/
  | unassigned (opc : BitVec 8)
  /-- A field of the word fails: trap 0x01 with this INFO (R91). -/
  | field (info : Nat)
  /-- Fewer than eight bytes are left. -/
  | truncated
  deriving DecidableEq, Repr

/-- What the decoder answers. -/
inductive Decoded where
  | ok (i : Instr)
  | rejected (r : Reject)
  deriving DecidableEq, Repr

/-! ## Fields of a word -/

/-- Bits [63:56]. -/
def wordOpc (w : DWord) : BitVec 8 := w.extractLsb' 56 8

/-- Bits [51:48]. -/
def wordGuard (w : DWord) : Guard := ⟨w.getLsbD 51, w.extractLsb' 48 3⟩

/-- Bits [55:52]. -/
def wordVar (w : DWord) : BitVec 4 := w.extractLsb' 52 4

/-- Bits [47:40]. -/
def wordDst (w : DWord) : BitVec 8 := w.extractLsb' 40 8

/-- A bit as a field of width one. -/
def bit1 (b : Bool) : BitVec 1 := BitVec.ofBool b

/-- The common fields of Table 3.5 above the forty bits of a format. -/
def packCommon (opc : BitVec 8) (var : BitVec 4) (g : Guard) (dst : BitVec 8) (low : BitVec 40) : DWord :=
  opc ++ (var ++ (bit1 g.gi ++ (g.gp ++ (dst ++ low))))

def FmtV.parse (w : DWord) : FmtV :=
  { guard := wordGuard w, var := wordVar w, dst := wordDst w, sa := w.extractLsb' 32 8, sb := w.extractLsb' 24 8,
    sc := w.extractLsb' 16 8, ea := w.getLsbD 15, eb := w.getLsbD 14, ec := w.getLsbD 13, rnd := w.extractLsb' 10 3,
    sat := w.getLsbD 9, fx := w.extractLsb' 0 9 }

def FmtV.pack (o : FmtV) (opc : BitVec 8) : DWord :=
  packCommon opc o.var o.guard o.dst
    (o.sa ++ (o.sb ++ (o.sc ++ (bit1 o.ea ++ (bit1 o.eb ++ (bit1 o.ec ++ (o.rnd ++ (bit1 o.sat ++ o.fx))))))))

def FmtI.parse (w : DWord) : FmtI :=
  { guard := wordGuard w, var := wordVar w, dst := wordDst w, sa := w.extractLsb' 32 8, imm := w.extractLsb' 16 16,
    ea := w.getLsbD 15, rnd := w.extractLsb' 12 3, sat := w.getLsbD 11, fx := w.extractLsb' 0 11 }

def FmtI.pack (o : FmtI) (opc : BitVec 8) : DWord :=
  packCommon opc o.var o.guard o.dst (o.sa ++ (o.imm ++ (bit1 o.ea ++ (o.rnd ++ (bit1 o.sat ++ o.fx)))))

def FmtW.parse (w : DWord) : FmtW :=
  { guard := wordGuard w, var := wordVar w, dst := wordDst w, imm := w.extractLsb' 8 32, ed := w.getLsbD 7,
    fx := w.extractLsb' 0 7 }

def FmtW.pack (o : FmtW) (opc : BitVec 8) : DWord :=
  packCommon opc o.var o.guard o.dst (o.imm ++ (bit1 o.ed ++ o.fx))

def FmtM.parse (w : DWord) : FmtM :=
  { guard := wordGuard w, var := wordVar w, dst := wordDst w, hnd := w.extractLsb' 34 6, sx := w.extractLsb' 26 8,
    sy := w.extractLsb' 18 8, disp := w.extractLsb' 8 10, ex := w.getLsbD 7, ey := w.getLsbD 6, ed := w.getLsbD 5,
    scope := w.extractLsb' 2 3, ord := w.extractLsb' 0 2 }

def FmtM.pack (o : FmtM) (opc : BitVec 8) : DWord :=
  packCommon opc o.var o.guard o.dst
    (o.hnd ++ (o.sx ++ (o.sy ++ (o.disp ++ (bit1 o.ex ++ (bit1 o.ey ++ (bit1 o.ed ++ (o.scope ++ o.ord))))))))

def FmtX.parse (w : DWord) : FmtX :=
  { guard := wordGuard w, var := wordVar w, dst := wordDst w, ta := w.extractLsb' 37 3, tb := w.extractLsb' 34 3,
    sa := w.extractLsb' 26 8, sb := w.extractLsb' 18 8, ea := w.getLsbD 17, eb := w.getLsbD 16, sat := w.getLsbD 15,
    fx := w.extractLsb' 0 15 }

def FmtX.pack (o : FmtX) (opc : BitVec 8) : DWord :=
  packCommon opc o.var o.guard o.dst
    (o.ta ++ (o.tb ++ (o.sa ++ (o.sb ++ (bit1 o.ea ++ (bit1 o.eb ++ (bit1 o.sat ++ o.fx)))))))

def FmtK.parse (w : DWord) : FmtK :=
  { guard := wordGuard w, var := wordVar w, dst := wordDst w, disp := w.extractLsb' 16 24, sa := w.extractLsb' 8 8,
    ea := w.getLsbD 7, fx := w.extractLsb' 0 7 }

def FmtK.pack (o : FmtK) (opc : BitVec 8) : DWord :=
  packCommon opc o.var o.guard o.dst (o.disp ++ (o.sa ++ (bit1 o.ea ++ o.fx)))

def FmtS.parse (w : DWord) : FmtS :=
  { guard := wordGuard w, var := wordVar w, dst := wordDst w, sysn := w.extractLsb' 28 12, sa := w.extractLsb' 20 8,
    ea := w.getLsbD 19, fx := w.extractLsb' 0 19 }

def FmtS.pack (o : FmtS) (opc : BitVec 8) : DWord :=
  packCommon opc o.var o.guard o.dst (o.sysn ++ (o.sa ++ (bit1 o.ea ++ o.fx)))

def FmtK2.parse (w w1 : DWord) : FmtK2 :=
  { guard := wordGuard w, var := wordVar w, dst := wordDst w, p0 := w.extractLsb' 20 20, mid := w.extractLsb' 2 18,
    np := w.extractLsb' 0 2, hi := w1.extractLsb' 60 4, p1 := w1.extractLsb' 40 20, p2 := w1.extractLsb' 20 20,
    p3 := w1.extractLsb' 0 20 }

/-- Both words of `brx` (OPC 0xD1). -/
def FmtK2.pack (o : FmtK2) : List DWord :=
  [packCommon 0xD1 o.var o.guard o.dst (o.p0 ++ (o.mid ++ o.np)), o.hi ++ (o.p1 ++ (o.p2 ++ o.p3))]

/-! ## Table 5.1 -/

/-- The form that the major opcode assigns to the words, before its fields are checked. `w1` is the following word,
which only `brx` reads. -/
def assignForm (w w1 : DWord) : Option Instr :=
  match (wordOpc w).toNat with
  | 0x00 => some (.iadd (FmtV.parse w))
  | 0x01 => some (.isub (FmtV.parse w))
  | 0x02 => some (.imul (FmtV.parse w))
  | 0x03 => some (.imulhi (FmtV.parse w))
  | 0x04 => some (.imad (FmtV.parse w))
  | 0x05 => some (.iadd64 (FmtV.parse w))
  | 0x06 => some (.iabs (FmtV.parse w))
  | 0x07 => some (.ineg (FmtV.parse w))
  | 0x08 => some (.imin (FmtV.parse w))
  | 0x09 => some (.imax (FmtV.parse w))
  | 0x0A => some (.ishl (FmtV.parse w))
  | 0x0B => some (.ishr (FmtV.parse w))
  | 0x0C => some (.isar (FmtV.parse w))
  | 0x0D => some (.irot (FmtV.parse w))
  | 0x0E => some (.popc (FmtV.parse w))
  | 0x0F => some (.clz (FmtV.parse w))
  | 0x10 => some (.ctz (FmtV.parse w))
  | 0x11 => some (.brev (FmtV.parse w))
  | 0x12 => some (.and (FmtV.parse w))
  | 0x13 => some (.or (FmtV.parse w))
  | 0x14 => some (.xor (FmtV.parse w))
  | 0x15 => some (.andn (FmtV.parse w))
  | 0x16 => some (.lop3 (FmtV.parse w))
  | 0x17 => some (.bfx (FmtV.parse w))
  | 0x18 => some (.bfi (FmtV.parse w))
  | 0x19 => some (.sel (FmtV.parse w))
  | 0x1A => some (.icmp (FmtV.parse w))
  | 0x1B => some (.mov (FmtV.parse w))
  | 0x1C => some (.nop (FmtV.parse w))
  | 0x20 => some (.iaddImm (FmtI.parse w))
  | 0x21 => some (.imulImm (FmtI.parse w))
  | 0x22 => some (.iminImm (FmtI.parse w))
  | 0x23 => some (.imaxImm (FmtI.parse w))
  | 0x24 => some (.ishlImm (FmtI.parse w))
  | 0x25 => some (.ishrImm (FmtI.parse w))
  | 0x26 => some (.isarImm (FmtI.parse w))
  | 0x27 => some (.irotImm (FmtI.parse w))
  | 0x28 => some (.andImm (FmtI.parse w))
  | 0x29 => some (.orImm (FmtI.parse w))
  | 0x2A => some (.xorImm (FmtI.parse w))
  | 0x2B => some (.icmpImm (FmtI.parse w))
  | 0x2C => some (.bfxImm (FmtI.parse w))
  | 0x2D => some (.movi (FmtW.parse w))
  | 0x30 => some (.pand (FmtV.parse w))
  | 0x31 => some (.por (FmtV.parse w))
  | 0x32 => some (.pxor (FmtV.parse w))
  | 0x33 => some (.pnot (FmtV.parse w))
  | 0x34 => some (.pmov (FmtV.parse w))
  | 0x35 => some (.qxch (FmtV.parse w))
  | 0x36 => some (.qbcast (FmtV.parse w))
  | 0x37 => some (.gshf (FmtV.parse w))
  | 0x38 => some (.vote (FmtV.parse w))
  | 0x39 => some (.matchWord (FmtV.parse w))
  | 0x3A => some (.elect (FmtV.parse w))
  | 0x40 => some (.fadd (FmtV.parse w))
  | 0x41 => some (.fsub (FmtV.parse w))
  | 0x42 => some (.fmul (FmtV.parse w))
  | 0x43 => some (.fma (FmtV.parse w))
  | 0x44 => some (.fmin (FmtV.parse w))
  | 0x45 => some (.fmax (FmtV.parse w))
  | 0x46 => some (.fminn (FmtV.parse w))
  | 0x47 => some (.fmaxn (FmtV.parse w))
  | 0x48 => some (.fabs (FmtV.parse w))
  | 0x49 => some (.fneg (FmtV.parse w))
  | 0x4A => some (.fcmp (FmtV.parse w))
  | 0x4B => some (.fclass (FmtV.parse w))
  | 0x4C => some (.fround (FmtV.parse w))
  | 0x4D => some (.fscale (FmtV.parse w))
  | 0x50 => some (.frcp (FmtV.parse w))
  | 0x51 => some (.frsq (FmtV.parse w))
  | 0x52 => some (.fsqrt (FmtV.parse w))
  | 0x53 => some (.fexp2 (FmtV.parse w))
  | 0x54 => some (.flog2 (FmtV.parse w))
  | 0x55 => some (.fsin (FmtV.parse w))
  | 0x56 => some (.fcos (FmtV.parse w))
  | 0x57 => some (.ftanh (FmtV.parse w))
  | 0x58 => some (.cvt (FmtV.parse w))
  | 0x59 => some (.fpk (FmtV.parse w))
  | 0x5A => some (.hadd2 (FmtV.parse w))
  | 0x5B => some (.hmul2 (FmtV.parse w))
  | 0x5C => some (.hfma2 (FmtV.parse w))
  | 0x5D => some (.fdot2 (FmtV.parse w))
  | 0x5E => some (.qmx (FmtV.parse w))
  | 0x70 => some (.mma (FmtX.parse w))
  | 0x71 => some (.mzero (FmtX.parse w))
  | 0x72 => some (.mld (FmtX.parse w))
  | 0x73 => some (.mst (FmtX.parse w))
  | 0x74 => some (.mrd (FmtX.parse w))
  | 0x75 => some (.mwr (FmtX.parse w))
  | 0x76 => some (.mscl (FmtX.parse w))
  | 0x77 => some (.mtd (FmtI.parse w))
  | 0x78 => some (.mfd (FmtI.parse w))
  | 0x79 => some (.mfmt (FmtI.parse w))
  | 0x90 => some (.ld (FmtM.parse w))
  | 0x91 => some (.st (FmtM.parse w))
  | 0x92 => some (.ldw (FmtM.parse w))
  | 0x93 => some (.stf (FmtM.parse w))
  | 0x94 => some (.pref (FmtM.parse w))
  | 0x95 => some (.atom (FmtM.parse w))
  | 0x96 => some (.cas (FmtM.parse w))
  | 0x97 => some (.fence (FmtM.parse w))
  | 0x98 => some (.promote (FmtM.parse w))
  | 0x99 => some (.waitc (FmtM.parse w))
  | 0x9A => some (.bandj (FmtM.parse w))
  | 0x9B => some (.bandl (FmtM.parse w))
  | 0x9C => some (.bandx (FmtM.parse w))
  | 0x9D => some (.wbr (FmtM.parse w))
  | 0x9E => some (.invr (FmtM.parse w))
  | 0x9F => some (.mapset (FmtM.parse w))
  | 0xA0 => some (.mapflush (FmtM.parse w))
  | 0xA1 => some (.hld (FmtM.parse w))
  | 0xC0 => some (.push (FmtI.parse w))
  | 0xC1 => some (.tstream (FmtV.parse w))
  | 0xC2 => some (.fetcht (FmtV.parse w))
  | 0xC3 => some (.bar (FmtI.parse w))
  | 0xC4 => some (.barb (FmtI.parse w))
  | 0xC8 => some (.mfs (FmtS.parse w))
  | 0xC9 => some (.mts (FmtS.parse w))
  | 0xCA => some (.getc (FmtS.parse w))
  | 0xCB => some (.yield (FmtS.parse w))
  | 0xCC => some (.sleep (FmtS.parse w))
  | 0xCD => some (.xacq (FmtS.parse w))
  | 0xCE => some (.xrel (FmtS.parse w))
  | 0xCF => some (.inject (FmtS.parse w))
  | 0xD0 => some (.bra (FmtK.parse w))
  | 0xD1 => some (.brx (FmtK2.parse w w1))
  | 0xD2 => some (.call (FmtK.parse w))
  | 0xD3 => some (.ret (FmtK.parse w))
  | 0xD4 => some (.jmpi (FmtK.parse w))
  | 0xD5 => some (.rejoin (FmtK.parse w))
  | 0xD6 => some (.kill (FmtK.parse w))
  | 0xD7 => some (.exit (FmtK.parse w))
  | 0xD8 => some (.trap (FmtK.parse w))
  | 0xD9 => some (.rett (FmtK.parse w))
  | _ => none

/-- The instruction in the words, or why there is none: the opcode first, then the fields (R91). -/
def decode (w w1 : DWord) : Decoded :=
  match assignForm w w1 with
  | none => .rejected (.unassigned (wordOpc w))
  | some i =>
    match i.encInfo with
    | some info => .rejected (.field info)
    | none => .ok i

/-- The step that a body word calls for: the instruction of its opcode, whose own encoding check then decides, or
ILLEGAL_INSTRUCTION for an unassigned opcode (R90). -/
def fetchInstr (w w1 : DWord) : Instr :=
  match decode w w1 with
  | .ok i => i
  | .rejected (.unassigned opc) => .illegalInstruction (wordGuard w) opc
  | .rejected _ => (assignForm w w1).getD (.illegalInstruction (wordGuard w) (wordOpc w))

/-- How many body words the instruction takes (R56). -/
def Instr.words : Instr → Nat
  | .brx _ => 2
  | _ => 1

/-! ## Bytes (R3: little-endian) -/

/-- The 64-bit word whose eight bytes stand first in the list. -/
def wordOfBytes (bs : List Byte) : DWord :=
  BitVec.ofNat 64 ((bs.take 8).foldr (fun b acc => b.toNat + 256 * acc) 0)

/-- The eight bytes of a word, lowest address first. -/
def bytesOfWord (w : DWord) : List Byte := (List.range 8).map (fun k => w.extractLsb' (8 * k) 8)

/-- Decode the instruction at the head of a byte string, and answer the bytes after it. -/
def decodeBytes (bs : List Byte) : Decoded × List Byte :=
  if bs.length < 8 then (.rejected .truncated, bs)
  else
    match decode (wordOfBytes bs) (wordOfBytes (bs.drop 8)) with
    | .rejected r => (.rejected r, bs)
    | .ok i => (.ok i, bs.drop (8 * i.words))

/-- The instruction read from an opcode-table word of `nbits` bits: bit 0 of `w` is bit 0 of the first body word, and
bits from 64 up are the second word. -/
def decodeTableWord (nbits w : Nat) : Option Instr :=
  let v := w % 2 ^ nbits
  match decodeBytes (bytesOfWord (BitVec.ofNat 64 v) ++ bytesOfWord (BitVec.ofNat 64 (v / 2 ^ 64))) with
  | (.ok i, _) => some i
  | (.rejected _, _) => none

/-! ## The encoder -/

/-- The words of an instruction, from Tables 3.5, 3.6 and 5.1. A device event has none. -/
def encode : Instr → List DWord
  | .iadd o => [o.pack 0x00]
  | .isub o => [o.pack 0x01]
  | .imul o => [o.pack 0x02]
  | .imulhi o => [o.pack 0x03]
  | .imad o => [o.pack 0x04]
  | .iadd64 o => [o.pack 0x05]
  | .iabs o => [o.pack 0x06]
  | .ineg o => [o.pack 0x07]
  | .imin o => [o.pack 0x08]
  | .imax o => [o.pack 0x09]
  | .ishl o => [o.pack 0x0A]
  | .ishr o => [o.pack 0x0B]
  | .isar o => [o.pack 0x0C]
  | .irot o => [o.pack 0x0D]
  | .popc o => [o.pack 0x0E]
  | .clz o => [o.pack 0x0F]
  | .ctz o => [o.pack 0x10]
  | .brev o => [o.pack 0x11]
  | .and o => [o.pack 0x12]
  | .or o => [o.pack 0x13]
  | .xor o => [o.pack 0x14]
  | .andn o => [o.pack 0x15]
  | .lop3 o => [o.pack 0x16]
  | .bfx o => [o.pack 0x17]
  | .bfi o => [o.pack 0x18]
  | .sel o => [o.pack 0x19]
  | .icmp o => [o.pack 0x1A]
  | .mov o => [o.pack 0x1B]
  | .nop o => [o.pack 0x1C]
  | .iaddImm o => [o.pack 0x20]
  | .imulImm o => [o.pack 0x21]
  | .iminImm o => [o.pack 0x22]
  | .imaxImm o => [o.pack 0x23]
  | .ishlImm o => [o.pack 0x24]
  | .ishrImm o => [o.pack 0x25]
  | .isarImm o => [o.pack 0x26]
  | .irotImm o => [o.pack 0x27]
  | .andImm o => [o.pack 0x28]
  | .orImm o => [o.pack 0x29]
  | .xorImm o => [o.pack 0x2A]
  | .icmpImm o => [o.pack 0x2B]
  | .bfxImm o => [o.pack 0x2C]
  | .movi o => [o.pack 0x2D]
  | .pand o => [o.pack 0x30]
  | .por o => [o.pack 0x31]
  | .pxor o => [o.pack 0x32]
  | .pnot o => [o.pack 0x33]
  | .pmov o => [o.pack 0x34]
  | .qxch o => [o.pack 0x35]
  | .qbcast o => [o.pack 0x36]
  | .gshf o => [o.pack 0x37]
  | .vote o => [o.pack 0x38]
  | .matchWord o => [o.pack 0x39]
  | .elect o => [o.pack 0x3A]
  | .fadd o => [o.pack 0x40]
  | .fsub o => [o.pack 0x41]
  | .fmul o => [o.pack 0x42]
  | .fma o => [o.pack 0x43]
  | .fmin o => [o.pack 0x44]
  | .fmax o => [o.pack 0x45]
  | .fminn o => [o.pack 0x46]
  | .fmaxn o => [o.pack 0x47]
  | .fabs o => [o.pack 0x48]
  | .fneg o => [o.pack 0x49]
  | .fcmp o => [o.pack 0x4A]
  | .fclass o => [o.pack 0x4B]
  | .fround o => [o.pack 0x4C]
  | .fscale o => [o.pack 0x4D]
  | .frcp o => [o.pack 0x50]
  | .frsq o => [o.pack 0x51]
  | .fsqrt o => [o.pack 0x52]
  | .fexp2 o => [o.pack 0x53]
  | .flog2 o => [o.pack 0x54]
  | .fsin o => [o.pack 0x55]
  | .fcos o => [o.pack 0x56]
  | .ftanh o => [o.pack 0x57]
  | .cvt o => [o.pack 0x58]
  | .fpk o => [o.pack 0x59]
  | .hadd2 o => [o.pack 0x5A]
  | .hmul2 o => [o.pack 0x5B]
  | .hfma2 o => [o.pack 0x5C]
  | .fdot2 o => [o.pack 0x5D]
  | .qmx o => [o.pack 0x5E]
  | .mma o => [o.pack 0x70]
  | .mzero o => [o.pack 0x71]
  | .mld o => [o.pack 0x72]
  | .mst o => [o.pack 0x73]
  | .mrd o => [o.pack 0x74]
  | .mwr o => [o.pack 0x75]
  | .mscl o => [o.pack 0x76]
  | .mtd o => [o.pack 0x77]
  | .mfd o => [o.pack 0x78]
  | .mfmt o => [o.pack 0x79]
  | .ld o => [o.pack 0x90]
  | .st o => [o.pack 0x91]
  | .ldw o => [o.pack 0x92]
  | .stf o => [o.pack 0x93]
  | .pref o => [o.pack 0x94]
  | .atom o => [o.pack 0x95]
  | .cas o => [o.pack 0x96]
  | .fence o => [o.pack 0x97]
  | .promote o => [o.pack 0x98]
  | .waitc o => [o.pack 0x99]
  | .bandj o => [o.pack 0x9A]
  | .bandl o => [o.pack 0x9B]
  | .bandx o => [o.pack 0x9C]
  | .wbr o => [o.pack 0x9D]
  | .invr o => [o.pack 0x9E]
  | .mapset o => [o.pack 0x9F]
  | .mapflush o => [o.pack 0xA0]
  | .hld o => [o.pack 0xA1]
  | .push o => [o.pack 0xC0]
  | .tstream o => [o.pack 0xC1]
  | .fetcht o => [o.pack 0xC2]
  | .bar o => [o.pack 0xC3]
  | .barb o => [o.pack 0xC4]
  | .mfs o => [o.pack 0xC8]
  | .mts o => [o.pack 0xC9]
  | .getc o => [o.pack 0xCA]
  | .yield o => [o.pack 0xCB]
  | .sleep o => [o.pack 0xCC]
  | .xacq o => [o.pack 0xCD]
  | .xrel o => [o.pack 0xCE]
  | .inject o => [o.pack 0xCF]
  | .bra o => [o.pack 0xD0]
  | .brx o => o.pack
  | .call o => [o.pack 0xD2]
  | .ret o => [o.pack 0xD3]
  | .jmpi o => [o.pack 0xD4]
  | .rejoin o => [o.pack 0xD5]
  | .kill o => [o.pack 0xD6]
  | .exit o => [o.pack 0xD7]
  | .trap o => [o.pack 0xD8]
  | .rett o => [o.pack 0xD9]
  | _ => []

/-- The major opcode of an instruction form; none for a device event. -/
def Instr.opc : Instr → Option (BitVec 8)
  | .iadd _ => some 0x00
  | .isub _ => some 0x01
  | .imul _ => some 0x02
  | .imulhi _ => some 0x03
  | .imad _ => some 0x04
  | .iadd64 _ => some 0x05
  | .iabs _ => some 0x06
  | .ineg _ => some 0x07
  | .imin _ => some 0x08
  | .imax _ => some 0x09
  | .ishl _ => some 0x0A
  | .ishr _ => some 0x0B
  | .isar _ => some 0x0C
  | .irot _ => some 0x0D
  | .popc _ => some 0x0E
  | .clz _ => some 0x0F
  | .ctz _ => some 0x10
  | .brev _ => some 0x11
  | .and _ => some 0x12
  | .or _ => some 0x13
  | .xor _ => some 0x14
  | .andn _ => some 0x15
  | .lop3 _ => some 0x16
  | .bfx _ => some 0x17
  | .bfi _ => some 0x18
  | .sel _ => some 0x19
  | .icmp _ => some 0x1A
  | .mov _ => some 0x1B
  | .nop _ => some 0x1C
  | .iaddImm _ => some 0x20
  | .imulImm _ => some 0x21
  | .iminImm _ => some 0x22
  | .imaxImm _ => some 0x23
  | .ishlImm _ => some 0x24
  | .ishrImm _ => some 0x25
  | .isarImm _ => some 0x26
  | .irotImm _ => some 0x27
  | .andImm _ => some 0x28
  | .orImm _ => some 0x29
  | .xorImm _ => some 0x2A
  | .icmpImm _ => some 0x2B
  | .bfxImm _ => some 0x2C
  | .movi _ => some 0x2D
  | .pand _ => some 0x30
  | .por _ => some 0x31
  | .pxor _ => some 0x32
  | .pnot _ => some 0x33
  | .pmov _ => some 0x34
  | .qxch _ => some 0x35
  | .qbcast _ => some 0x36
  | .gshf _ => some 0x37
  | .vote _ => some 0x38
  | .matchWord _ => some 0x39
  | .elect _ => some 0x3A
  | .fadd _ => some 0x40
  | .fsub _ => some 0x41
  | .fmul _ => some 0x42
  | .fma _ => some 0x43
  | .fmin _ => some 0x44
  | .fmax _ => some 0x45
  | .fminn _ => some 0x46
  | .fmaxn _ => some 0x47
  | .fabs _ => some 0x48
  | .fneg _ => some 0x49
  | .fcmp _ => some 0x4A
  | .fclass _ => some 0x4B
  | .fround _ => some 0x4C
  | .fscale _ => some 0x4D
  | .frcp _ => some 0x50
  | .frsq _ => some 0x51
  | .fsqrt _ => some 0x52
  | .fexp2 _ => some 0x53
  | .flog2 _ => some 0x54
  | .fsin _ => some 0x55
  | .fcos _ => some 0x56
  | .ftanh _ => some 0x57
  | .cvt _ => some 0x58
  | .fpk _ => some 0x59
  | .hadd2 _ => some 0x5A
  | .hmul2 _ => some 0x5B
  | .hfma2 _ => some 0x5C
  | .fdot2 _ => some 0x5D
  | .qmx _ => some 0x5E
  | .mma _ => some 0x70
  | .mzero _ => some 0x71
  | .mld _ => some 0x72
  | .mst _ => some 0x73
  | .mrd _ => some 0x74
  | .mwr _ => some 0x75
  | .mscl _ => some 0x76
  | .mtd _ => some 0x77
  | .mfd _ => some 0x78
  | .mfmt _ => some 0x79
  | .ld _ => some 0x90
  | .st _ => some 0x91
  | .ldw _ => some 0x92
  | .stf _ => some 0x93
  | .pref _ => some 0x94
  | .atom _ => some 0x95
  | .cas _ => some 0x96
  | .fence _ => some 0x97
  | .promote _ => some 0x98
  | .waitc _ => some 0x99
  | .bandj _ => some 0x9A
  | .bandl _ => some 0x9B
  | .bandx _ => some 0x9C
  | .wbr _ => some 0x9D
  | .invr _ => some 0x9E
  | .mapset _ => some 0x9F
  | .mapflush _ => some 0xA0
  | .hld _ => some 0xA1
  | .push _ => some 0xC0
  | .tstream _ => some 0xC1
  | .fetcht _ => some 0xC2
  | .bar _ => some 0xC3
  | .barb _ => some 0xC4
  | .mfs _ => some 0xC8
  | .mts _ => some 0xC9
  | .getc _ => some 0xCA
  | .yield _ => some 0xCB
  | .sleep _ => some 0xCC
  | .xacq _ => some 0xCD
  | .xrel _ => some 0xCE
  | .inject _ => some 0xCF
  | .bra _ => some 0xD0
  | .brx _ => some 0xD1
  | .call _ => some 0xD2
  | .ret _ => some 0xD3
  | .jmpi _ => some 0xD4
  | .rejoin _ => some 0xD5
  | .kill _ => some 0xD6
  | .exit _ => some 0xD7
  | .trap _ => some 0xD8
  | .rett _ => some 0xD9
  | _ => none

/-! ## Constructors decoded from words written out from the spec (05 Table 5.7; chapters 07 to 16) -/

theorem decode_words_int0 :
    [decode 0x00C7010203000200 0x0000000000000000,
     decode 0x01C7010203000200 0x0000000000000000,
     decode 0x02C7010203000200 0x0000000000000000,
     decode 0x03D7010203000000 0x0000000000000000,
     decode 0x04D7010203042000 0x0000000000000000,
     decode 0x05F7020406000000 0x0000000000000000,
     decode 0x06C7010200000000 0x0000000000000000,
     decode 0x07C7010200000000 0x0000000000000000,
     decode 0x08D7010203000000 0x0000000000000000,
     decode 0x09D7010203000000 0x0000000000000000,
     decode 0x0A070102EB000000 0x0000000000000000,
     decode 0x0B070102EB000000 0x0000000000000000,
     decode 0x0C070102EB000000 0x0000000000000000,
     decode 0x0D070102EB000000 0x0000000000000000] =
    [.ok (.iadd ⟨⟨false, 7⟩, 12, 1, 2, 3, 0, false, false, false, 0, true, 0⟩),
     .ok (.isub ⟨⟨false, 7⟩, 12, 1, 2, 3, 0, false, false, false, 0, true, 0⟩),
     .ok (.imul ⟨⟨false, 7⟩, 12, 1, 2, 3, 0, false, false, false, 0, true, 0⟩),
     .ok (.imulhi ⟨⟨false, 7⟩, 13, 1, 2, 3, 0, false, false, false, 0, false, 0⟩),
     .ok (.imad ⟨⟨false, 7⟩, 13, 1, 2, 3, 4, false, false, true, 0, false, 0⟩),
     .ok (.iadd64 ⟨⟨false, 7⟩, 15, 2, 4, 6, 0, false, false, false, 0, false, 0⟩),
     .ok (.iabs ⟨⟨false, 7⟩, 12, 1, 2, 0, 0, false, false, false, 0, false, 0⟩),
     .ok (.ineg ⟨⟨false, 7⟩, 12, 1, 2, 0, 0, false, false, false, 0, false, 0⟩),
     .ok (.imin ⟨⟨false, 7⟩, 13, 1, 2, 3, 0, false, false, false, 0, false, 0⟩),
     .ok (.imax ⟨⟨false, 7⟩, 13, 1, 2, 3, 0, false, false, false, 0, false, 0⟩),
     .ok (.ishl ⟨⟨false, 7⟩, 0, 1, 2, 235, 0, false, false, false, 0, false, 0⟩),
     .ok (.ishr ⟨⟨false, 7⟩, 0, 1, 2, 235, 0, false, false, false, 0, false, 0⟩),
     .ok (.isar ⟨⟨false, 7⟩, 0, 1, 2, 235, 0, false, false, false, 0, false, 0⟩),
     .ok (.irot ⟨⟨false, 7⟩, 0, 1, 2, 235, 0, false, false, false, 0, false, 0⟩)] := by
  decide +kernel

theorem decode_words_int1 :
    [decode 0x0E07C10200008000 0x0000000000000000,
     decode 0x0F07C10200008000 0x0000000000000000,
     decode 0x1007C10200008000 0x0000000000000000,
     decode 0x1107C10200008000 0x0000000000000000,
     decode 0x12070102EB000000 0x0000000000000000,
     decode 0x13070102EB000000 0x0000000000000000,
     decode 0x14070102EB000000 0x0000000000000000,
     decode 0x15070102EB000000 0x0000000000000000,
     decode 0x1607030405060020 0x0000000000000000,
     decode 0x17D7010203000000 0x0000000000000000,
     decode 0x1807010203090000 0x0000000000000000,
     decode 0x1907010203040000 0x0000000000000000,
     decode 0x1AC7010203000002 0x0000000000000000,
     decode 0x1B07C10200008000 0x0000000000000000] =
    [.ok (.popc ⟨⟨false, 7⟩, 0, 193, 2, 0, 0, true, false, false, 0, false, 0⟩),
     .ok (.clz ⟨⟨false, 7⟩, 0, 193, 2, 0, 0, true, false, false, 0, false, 0⟩),
     .ok (.ctz ⟨⟨false, 7⟩, 0, 193, 2, 0, 0, true, false, false, 0, false, 0⟩),
     .ok (.brev ⟨⟨false, 7⟩, 0, 193, 2, 0, 0, true, false, false, 0, false, 0⟩),
     .ok (.and ⟨⟨false, 7⟩, 0, 1, 2, 235, 0, false, false, false, 0, false, 0⟩),
     .ok (.or ⟨⟨false, 7⟩, 0, 1, 2, 235, 0, false, false, false, 0, false, 0⟩),
     .ok (.xor ⟨⟨false, 7⟩, 0, 1, 2, 235, 0, false, false, false, 0, false, 0⟩),
     .ok (.andn ⟨⟨false, 7⟩, 0, 1, 2, 235, 0, false, false, false, 0, false, 0⟩),
     .ok (.lop3 ⟨⟨false, 7⟩, 0, 3, 4, 5, 6, false, false, false, 0, false, 32⟩),
     .ok (.bfx ⟨⟨false, 7⟩, 13, 1, 2, 3, 0, false, false, false, 0, false, 0⟩),
     .ok (.bfi ⟨⟨false, 7⟩, 0, 1, 2, 3, 9, false, false, false, 0, false, 0⟩),
     .ok (.sel ⟨⟨false, 7⟩, 0, 1, 2, 3, 4, false, false, false, 0, false, 0⟩),
     .ok (.icmp ⟨⟨false, 7⟩, 12, 1, 2, 3, 0, false, false, false, 0, false, 2⟩),
     .ok (.mov ⟨⟨false, 7⟩, 0, 193, 2, 0, 0, true, false, false, 0, false, 0⟩)] := by
  decide +kernel

theorem decode_words_int2 :
    [decode 0x1C07000000000000 0x0000000000000000,
     decode 0x20C7010200040800 0x0000000000000000,
     decode 0x21C7010200040800 0x0000000000000000,
     decode 0x22D7010208040000 0x0000000000000000,
     decode 0x23D7010208040000 0x0000000000000000,
     decode 0x24070102001F8000 0x0000000000000000,
     decode 0x25070102001F8000 0x0000000000000000,
     decode 0x26070102001F8000 0x0000000000000000,
     decode 0x27070102001F8000 0x0000000000000000,
     decode 0x28070102001F8000 0x0000000000000000,
     decode 0x29070102001F8000 0x0000000000000000,
     decode 0x2A070102001F8000 0x0000000000000000,
     decode 0x2BC701E200080002 0x0000000000000000,
     decode 0x2CD7010208040000 0x0000000000000000] =
    [.ok (.nop ⟨⟨false, 7⟩, 0, 0, 0, 0, 0, false, false, false, 0, false, 0⟩),
     .ok (.iaddImm ⟨⟨false, 7⟩, 12, 1, 2, 4, false, 0, true, 0⟩),
     .ok (.imulImm ⟨⟨false, 7⟩, 12, 1, 2, 4, false, 0, true, 0⟩),
     .ok (.iminImm ⟨⟨false, 7⟩, 13, 1, 2, 2052, false, 0, false, 0⟩),
     .ok (.imaxImm ⟨⟨false, 7⟩, 13, 1, 2, 2052, false, 0, false, 0⟩),
     .ok (.ishlImm ⟨⟨false, 7⟩, 0, 1, 2, 31, true, 0, false, 0⟩),
     .ok (.ishrImm ⟨⟨false, 7⟩, 0, 1, 2, 31, true, 0, false, 0⟩),
     .ok (.isarImm ⟨⟨false, 7⟩, 0, 1, 2, 31, true, 0, false, 0⟩),
     .ok (.irotImm ⟨⟨false, 7⟩, 0, 1, 2, 31, true, 0, false, 0⟩),
     .ok (.andImm ⟨⟨false, 7⟩, 0, 1, 2, 31, true, 0, false, 0⟩),
     .ok (.orImm ⟨⟨false, 7⟩, 0, 1, 2, 31, true, 0, false, 0⟩),
     .ok (.xorImm ⟨⟨false, 7⟩, 0, 1, 2, 31, true, 0, false, 0⟩),
     .ok (.icmpImm ⟨⟨false, 7⟩, 12, 1, 226, 8, false, 0, false, 2⟩),
     .ok (.bfxImm ⟨⟨false, 7⟩, 13, 1, 2, 2052, false, 0, false, 0⟩)] := by
  decide +kernel

theorem decode_words_int3 :
    [decode 0x2D07074F7FFFF800 0x0000000000000000,
     decode 0x3007010203000000 0x0000000000000000,
     decode 0x3107010203000000 0x0000000000000000,
     decode 0x3207010203000000 0x0000000000000000,
     decode 0x3307010700000000 0x0000000000000000,
     decode 0x3407010700000000 0x0000000000000000,
     decode 0x3527010200000000 0x0000000000000000,
     decode 0x36070102EB000000 0x0000000000000000,
     decode 0x37370102EC000000 0x0000000000000000,
     decode 0x3827C50200000000 0x0000000000000000,
     decode 0x3907060900000000 0x0000000000000000,
     decode 0x3A07030000000000 0x0000000000000000] =
    [.ok (.movi ⟨⟨false, 7⟩, 0, 7, 1333788664, false, 0⟩),
     .ok (.pand ⟨⟨false, 7⟩, 0, 1, 2, 3, 0, false, false, false, 0, false, 0⟩),
     .ok (.por ⟨⟨false, 7⟩, 0, 1, 2, 3, 0, false, false, false, 0, false, 0⟩),
     .ok (.pxor ⟨⟨false, 7⟩, 0, 1, 2, 3, 0, false, false, false, 0, false, 0⟩),
     .ok (.pnot ⟨⟨false, 7⟩, 0, 1, 7, 0, 0, false, false, false, 0, false, 0⟩),
     .ok (.pmov ⟨⟨false, 7⟩, 0, 1, 7, 0, 0, false, false, false, 0, false, 0⟩),
     .ok (.qxch ⟨⟨false, 7⟩, 2, 1, 2, 0, 0, false, false, false, 0, false, 0⟩),
     .ok (.qbcast ⟨⟨false, 7⟩, 0, 1, 2, 235, 0, false, false, false, 0, false, 0⟩),
     .ok (.gshf ⟨⟨false, 7⟩, 3, 1, 2, 236, 0, false, false, false, 0, false, 0⟩),
     .ok (.vote ⟨⟨false, 7⟩, 2, 197, 2, 0, 0, false, false, false, 0, false, 0⟩),
     .ok (.matchWord ⟨⟨false, 7⟩, 0, 6, 9, 0, 0, false, false, false, 0, false, 0⟩),
     .ok (.elect ⟨⟨false, 7⟩, 0, 3, 0, 0, 0, false, false, false, 0, false, 0⟩)] := by
  decide +kernel

theorem decode_words_flt0 :
    [decode 0x4007010203000A00 0x0000000000000000,
     decode 0x4107010203000A00 0x0000000000000000,
     decode 0x4207010203000A00 0x0000000000000000,
     decode 0x430A040506070400 0x0000000000000000,
     decode 0x4427010203000000 0x0000000000000000,
     decode 0x4527010203000000 0x0000000000000000,
     decode 0x4627010203000000 0x0000000000000000,
     decode 0x4727010203000000 0x0000000000000000,
     decode 0x4837010200000000 0x0000000000000000,
     decode 0x4937010200000000 0x0000000000000000,
     decode 0x4A07010203000002 0x0000000000000000,
     decode 0x4B37010200000000 0x0000000000000000,
     decode 0x4C17020400000C00 0x0000000000000000,
     decode 0x4D07020205000000 0x0000000000000000] =
    [.ok (.fadd ⟨⟨false, 7⟩, 0, 1, 2, 3, 0, false, false, false, 2, true, 0⟩),
     .ok (.fsub ⟨⟨false, 7⟩, 0, 1, 2, 3, 0, false, false, false, 2, true, 0⟩),
     .ok (.fmul ⟨⟨false, 7⟩, 0, 1, 2, 3, 0, false, false, false, 2, true, 0⟩),
     .ok (.fma ⟨⟨true, 2⟩, 0, 4, 5, 6, 7, false, false, false, 1, false, 0⟩),
     .ok (.fmin ⟨⟨false, 7⟩, 2, 1, 2, 3, 0, false, false, false, 0, false, 0⟩),
     .ok (.fmax ⟨⟨false, 7⟩, 2, 1, 2, 3, 0, false, false, false, 0, false, 0⟩),
     .ok (.fminn ⟨⟨false, 7⟩, 2, 1, 2, 3, 0, false, false, false, 0, false, 0⟩),
     .ok (.fmaxn ⟨⟨false, 7⟩, 2, 1, 2, 3, 0, false, false, false, 0, false, 0⟩),
     .ok (.fabs ⟨⟨false, 7⟩, 3, 1, 2, 0, 0, false, false, false, 0, false, 0⟩),
     .ok (.fneg ⟨⟨false, 7⟩, 3, 1, 2, 0, 0, false, false, false, 0, false, 0⟩),
     .ok (.fcmp ⟨⟨false, 7⟩, 0, 1, 2, 3, 0, false, false, false, 0, false, 2⟩),
     .ok (.fclass ⟨⟨false, 7⟩, 3, 1, 2, 0, 0, false, false, false, 0, false, 0⟩),
     .ok (.fround ⟨⟨false, 7⟩, 1, 2, 4, 0, 0, false, false, false, 3, false, 0⟩),
     .ok (.fscale ⟨⟨false, 7⟩, 0, 2, 2, 5, 0, false, false, false, 0, false, 0⟩)] := by
  decide +kernel

theorem decode_words_flt1 :
    [decode 0x5007010200001000 0x0000000000000000,
     decode 0x5107010200001000 0x0000000000000000,
     decode 0x5207010200001000 0x0000000000000000,
     decode 0x5307010200001000 0x0000000000000000,
     decode 0x5407010200001000 0x0000000000000000,
     decode 0x5507010200001000 0x0000000000000000,
     decode 0x5607010200001000 0x0000000000000000,
     decode 0x5707010200001000 0x0000000000000000,
     decode 0x5847010200000600 0x0000000000000000,
     decode 0x5947010203E00600 0x0000000000000000,
     decode 0x5A27010203000000 0x0000000000000000,
     decode 0x5B27010203000000 0x0000000000000000,
     decode 0x5C37010203040400 0x0000000000000000,
     decode 0x5D37010203040400 0x0000000000000000] =
    [.ok (.frcp ⟨⟨false, 7⟩, 0, 1, 2, 0, 0, false, false, false, 4, false, 0⟩),
     .ok (.frsq ⟨⟨false, 7⟩, 0, 1, 2, 0, 0, false, false, false, 4, false, 0⟩),
     .ok (.fsqrt ⟨⟨false, 7⟩, 0, 1, 2, 0, 0, false, false, false, 4, false, 0⟩),
     .ok (.fexp2 ⟨⟨false, 7⟩, 0, 1, 2, 0, 0, false, false, false, 4, false, 0⟩),
     .ok (.flog2 ⟨⟨false, 7⟩, 0, 1, 2, 0, 0, false, false, false, 4, false, 0⟩),
     .ok (.fsin ⟨⟨false, 7⟩, 0, 1, 2, 0, 0, false, false, false, 4, false, 0⟩),
     .ok (.fcos ⟨⟨false, 7⟩, 0, 1, 2, 0, 0, false, false, false, 4, false, 0⟩),
     .ok (.ftanh ⟨⟨false, 7⟩, 0, 1, 2, 0, 0, false, false, false, 4, false, 0⟩),
     .ok (.cvt ⟨⟨false, 7⟩, 4, 1, 2, 0, 0, false, false, false, 1, true, 0⟩),
     .ok (.fpk ⟨⟨false, 7⟩, 4, 1, 2, 3, 224, false, false, false, 1, true, 0⟩),
     .ok (.hadd2 ⟨⟨false, 7⟩, 2, 1, 2, 3, 0, false, false, false, 0, false, 0⟩),
     .ok (.hmul2 ⟨⟨false, 7⟩, 2, 1, 2, 3, 0, false, false, false, 0, false, 0⟩),
     .ok (.hfma2 ⟨⟨false, 7⟩, 3, 1, 2, 3, 4, false, false, false, 1, false, 0⟩),
     .ok (.fdot2 ⟨⟨false, 7⟩, 3, 1, 2, 3, 4, false, false, false, 1, false, 0⟩)] := by
  decide +kernel

theorem decode_words_flt2 :
    [decode 0x5E47040203000000 0x0000000000000000] =
    [.ok (.qmx ⟨⟨false, 7⟩, 4, 4, 2, 3, 0, false, false, false, 0, false, 0⟩)] := by
  decide +kernel

theorem decode_words_mtx0 :
    [decode 0x7001000783800000 0x0000000000000000,
     decode 0x7107020000000000 0x0000000000000000,
     decode 0x720702A000000000 0x0000000000000000,
     decode 0x7307010000000003 0x0000000000000000,
     decode 0x7407084024000002 0x0000000000000000,
     decode 0x7507020024200002 0x0000000000000000,
     decode 0x7607016010000003 0x0000000000000000,
     decode 0x770700E000800004 0x0000000000000000,
     decode 0x7807060000030002 0x0000000000000000,
     decode 0x7907000003220000 0x0000000000000000] =
    [.ok (.mma ⟨⟨false, 1⟩, 0, 0, 0, 1, 224, 224, false, false, false, 0⟩),
     .ok (.mzero ⟨⟨false, 7⟩, 0, 2, 0, 0, 0, 0, false, false, false, 0⟩),
     .ok (.mld ⟨⟨false, 7⟩, 0, 2, 5, 0, 0, 0, false, false, false, 0⟩),
     .ok (.mst ⟨⟨false, 7⟩, 0, 1, 0, 0, 0, 0, false, false, false, 3⟩),
     .ok (.mrd ⟨⟨false, 7⟩, 0, 8, 2, 0, 9, 0, false, false, false, 2⟩),
     .ok (.mwr ⟨⟨false, 7⟩, 0, 2, 0, 0, 9, 8, false, false, false, 2⟩),
     .ok (.mscl ⟨⟨false, 7⟩, 0, 1, 3, 0, 4, 0, false, false, false, 3⟩),
     .ok (.mtd ⟨⟨false, 7⟩, 0, 0, 224, 128, false, 0, false, 4⟩),
     .ok (.mfd ⟨⟨false, 7⟩, 0, 6, 0, 3, false, 0, false, 2⟩),
     .ok (.mfmt ⟨⟨false, 7⟩, 0, 0, 0, 802, false, 0, false, 0⟩)] := by
  decide +kernel

theorem decode_words_mem0 :
    [decode 0x9047010B13800005 0x0000000000000000,
     decode 0x9147020407804000 0x0000000000000000,
     decode 0x92C7060C0B800000 0x0000000000000000,
     decode 0x9367080F83800020 0x0000000000000000,
     decode 0x94170004080C0000 0x0000000000000000,
     decode 0x9507040804140800 0x0000000000000000,
     decode 0x964704080414000B 0x0000000000000000,
     decode 0x9707000000000016 0x0000000000000000,
     decode 0x9807010783800010 0x0000000000000000,
     decode 0x9907010B83A00008 0x0000000000000000,
     decode 0x9A07000300000000 0x0000000000000000,
     decode 0x9B07C00383040000 0x0000000000000000,
     decode 0x9C07000300000000 0x0000000000000000,
     decode 0x9D070004080C0000 0x0000000000000000] =
    [.ok (.ld ⟨⟨false, 7⟩, 4, 1, 2, 196, 224, 0, false, false, false, 1, 1⟩),
     .ok (.st ⟨⟨false, 7⟩, 4, 2, 1, 1, 224, 64, false, false, false, 0, 0⟩),
     .ok (.ldw ⟨⟨false, 7⟩, 12, 6, 3, 2, 224, 0, false, false, false, 0, 0⟩),
     .ok (.stf ⟨⟨false, 7⟩, 6, 8, 3, 224, 224, 0, false, false, true, 0, 0⟩),
     .ok (.pref ⟨⟨false, 7⟩, 1, 0, 1, 2, 3, 0, false, false, false, 0, 0⟩),
     .ok (.atom ⟨⟨false, 7⟩, 0, 4, 2, 1, 5, 8, false, false, false, 0, 0⟩),
     .ok (.cas ⟨⟨false, 7⟩, 4, 4, 2, 1, 5, 0, false, false, false, 2, 3⟩),
     .ok (.fence ⟨⟨false, 7⟩, 0, 0, 0, 0, 0, 0, false, false, false, 5, 2⟩),
     .ok (.promote ⟨⟨false, 7⟩, 0, 1, 1, 224, 224, 0, false, false, false, 4, 0⟩),
     .ok (.waitc ⟨⟨false, 7⟩, 0, 1, 2, 224, 232, 0, false, false, false, 2, 0⟩),
     .ok (.bandj ⟨⟨false, 7⟩, 0, 0, 0, 192, 0, 0, false, false, false, 0, 0⟩),
     .ok (.bandl ⟨⟨false, 7⟩, 0, 192, 0, 224, 193, 0, false, false, false, 0, 0⟩),
     .ok (.bandx ⟨⟨false, 7⟩, 0, 0, 0, 192, 0, 0, false, false, false, 0, 0⟩),
     .ok (.wbr ⟨⟨false, 7⟩, 0, 0, 1, 2, 3, 0, false, false, false, 0, 0⟩)] := by
  decide +kernel

theorem decode_words_mem1 :
    [decode 0x9E070004080C0000 0x0000000000000000,
     decode 0x9F07C10303000000 0x0000000000000000,
     decode 0xA007000000000300 0x0000000000000000,
     decode 0xA107021400000300 0x0000000000000000] =
    [.ok (.invr ⟨⟨false, 7⟩, 0, 0, 1, 2, 3, 0, false, false, false, 0, 0⟩),
     .ok (.mapset ⟨⟨false, 7⟩, 0, 193, 0, 192, 192, 0, false, false, false, 0, 0⟩),
     .ok (.mapflush ⟨⟨false, 7⟩, 0, 0, 0, 0, 0, 3, false, false, false, 0, 0⟩),
     .ok (.hld ⟨⟨false, 7⟩, 0, 2, 5, 0, 0, 3, false, false, false, 0, 0⟩)] := by
  decide +kernel

theorem decode_words_eng_sys0 :
    [decode 0xC00701C020030000 0x0000000000000000,
     decode 0xC10301C80CC90004 0x0000000000000000,
     decode 0xC207C4E800000000 0x0000000000000000,
     decode 0xC30700E000030000 0x0000000000000000,
     decode 0xC40700C600010000 0x0000000000000000,
     decode 0xC807C20300000000 0x0000000000000000,
     decode 0xC90700002C500000 0x0000000000000000,
     decode 0xCA07060000000000 0x0000000000000000,
     decode 0xCB07000000000000 0x0000000000000000,
     decode 0xCC0700000C300000 0x0000000000000000,
     decode 0xCD07020000000000 0x0000000000000000,
     decode 0xCE07000000000000 0x0000000000000000,
     decode 0xCF0700801C400000 0x0000000000000000] =
    [.ok (.push ⟨⟨false, 7⟩, 0, 1, 192, 8195, false, 0, false, 0⟩),
     .ok (.tstream ⟨⟨false, 3⟩, 0, 1, 200, 12, 201, false, false, false, 0, false, 4⟩),
     .ok (.fetcht ⟨⟨false, 7⟩, 0, 196, 232, 0, 0, false, false, false, 0, false, 0⟩),
     .ok (.bar ⟨⟨false, 7⟩, 0, 0, 224, 3, false, 0, false, 0⟩),
     .ok (.barb ⟨⟨false, 7⟩, 0, 0, 198, 1, false, 0, false, 0⟩),
     .ok (.mfs ⟨⟨false, 7⟩, 0, 194, 48, 0, false, 0⟩),
     .ok (.mts ⟨⟨false, 7⟩, 0, 0, 2, 197, false, 0⟩),
     .ok (.getc ⟨⟨false, 7⟩, 0, 6, 0, 0, false, 0⟩),
     .ok (.yield ⟨⟨false, 7⟩, 0, 0, 0, 0, false, 0⟩),
     .ok (.sleep ⟨⟨false, 7⟩, 0, 0, 0, 195, false, 0⟩),
     .ok (.xacq ⟨⟨false, 7⟩, 0, 2, 0, 0, false, 0⟩),
     .ok (.xrel ⟨⟨false, 7⟩, 0, 0, 0, 0, false, 0⟩),
     .ok (.inject ⟨⟨false, 7⟩, 0, 0, 2049, 196, false, 0⟩)] := by
  decide +kernel

theorem decode_words_ctl0 :
    [decode 0xD00700FFFFFA0000 0x0000000000000000,
     decode 0xD107001000800002 0x0A00107FFFC00000,
     decode 0xD2070800000D0000 0x0000000000000000,
     decode 0xD307000000000880 0x0000000000000000,
     decode 0xD407000000020300 0x0000000000000000,
     decode 0xD50700000000E100 0x0000000000000000,
     decode 0xD602000000000600 0x0000000000000000,
     decode 0xD707000000000000 0x0000000000000000,
     decode 0xD807000000050000 0x0000000000000000,
     decode 0xD907000000000801 0x0000000000000000] =
    [.ok (.bra ⟨⟨false, 7⟩, 0, 0, 16777210, 0, false, 0⟩),
     .ok (.brx ⟨⟨false, 7⟩, 0, 0, 65544, 0, 2, 0, 655376, 524284, 0⟩),
     .ok (.call ⟨⟨false, 7⟩, 0, 8, 13, 0, false, 0⟩),
     .ok (.ret ⟨⟨false, 7⟩, 0, 0, 0, 8, true, 0⟩),
     .ok (.jmpi ⟨⟨false, 7⟩, 0, 0, 2, 3, false, 0⟩),
     .ok (.rejoin ⟨⟨false, 7⟩, 0, 0, 0, 225, false, 0⟩),
     .ok (.kill ⟨⟨false, 2⟩, 0, 0, 0, 6, false, 0⟩),
     .ok (.exit ⟨⟨false, 7⟩, 0, 0, 0, 0, false, 0⟩),
     .ok (.trap ⟨⟨false, 7⟩, 0, 0, 5, 0, false, 0⟩),
     .ok (.rett ⟨⟨false, 7⟩, 0, 0, 0, 8, false, 1⟩)] := by
  decide +kernel

end Sys2Proof
end

