-- ==== Sys2Proof/Machine/State.lean ====
section
/-!
DEFINITION. The state of one Haliskain package as plain data: groups, cohorts, cores, clusters, dies, engines, queues,
interfaces, partitions, Hearth, membership and memory, with the model's own schedule and free-value counter; the fault
and refusal reasons; and State.reset, the cold start before power good (26, R418). Which rule names each field is
listed in INVENTORY.md; docstrings cite it. Everything keyed (registers, scratchpad, memory) is a sparse map in one
canonical form: keys strictly rising, no entry equal to what an absent key reads as.
-/
namespace Sys2Proof.Machine

/-- A sparse map from a number. -/
abbrev SMap (α : Type) := List (Nat × α)

/-- Bytes by address; an absent address reads zero (R418 step 4 for memory, R238 for a scratchpad). -/
abbrev Memory := List Host.Cell

/-! ## Groups -/

/-- A rejoin token (R125): the address of the `rejoin` word, or of the region header waited at (R228), and the mask. -/
structure Token where
  addr : DWord
  mask : Mask
  deriving DecidableEq, Repr

/-- One lane of a group (Table 0.4). `hdr` is the header of the clause that `pc` lies in; `resume…` is what `rett`
returns to (R206 step 3). -/
structure Lane where
  pc : DWord
  hdr : DWord
  resumePc : DWord
  resumeHdr : DWord
  tok : Option Token
  preds : BitVec 7
  parked : Bool
  deriving DecidableEq, Repr

/-- A tile descriptor (Table 9.1). -/
structure Desc where
  ew : BitVec 3
  rows : BitVec 10
  cols : BitVec 13
  base : BitVec 21
  stride : BitVec 21
  sbase : BitVec 21
  sstride : BitVec 16
  deriving DecidableEq, Repr

/-- What a group waits for after a clause (R96, R204, R211). -/
inductive Wait where
  | none
  /-- `counted`: its own arrival has been counted (R204). -/
  | bar (id : Nat) (lanes : Mask) (counted : Bool)
  | barb (id : Nat) (lanes : Mask) (counted : Bool)
  /-- Cycles of CYC still to pass, counted from the CYC value given. -/
  | sleep (cycles start : Nat)
  | yield
  /-- `xrel` until the fills to the extended registers have landed (R212). -/
  | xrel
  /-- Two waits at once: two words of one clause, or both issue sets. -/
  | both (a b : Wait)
  deriving DecidableEq, Repr

/-- The latest grant of a `fetcht`: the in-flight run (R203), with its destination. -/
structure Grant where
  first : Nat
  count : Nat
  dst : Nat
  deriving DecidableEq, Repr

/-- The part of a group that a checked clause buffers and a context frame holds (Tables 3.1, 3.7, 18.4). -/
structure Regs where
  lanes : Vector Lane 16
  /-- v0 to v191: register n of lane i at key 16 n + i. The extended part is the pair's set while `xlast` is set. -/
  v : SMap Word
  w : SMap Word
  /-- Empty lanes of each v register, and empty w registers (R51). -/
  ev : SMap Mask
  ew : BitVec 32
  live : Mask
  fpcr : Word
  fpsr : Word
  mfr : Word
  tcause : Word
  tskid : Word
  tpc : DWord
  taddr : DWord
  tvec : DWord
  rpc : DWord
  racc : Word
  /-- The accumulator mask captured at region entry, and the entry mask (R229). -/
  regMask : BitVec 8
  entryMask : Mask
  inReg : Bool
  inTrap : Bool
  handler : Mask
  retted : Mask
  xheld : Bool
  /-- The pair's extended contents are kept with this group (the model's placement of R55's one set). -/
  xlast : Bool
  desc : Vector Desc 8
  /-- a0 to a7: element (i, j) of tile n at key 1,024 n + 64 i + j. -/
  acc : SMap Word
  shadow : SMap Word
  grant : Option Grant
  wait : Wait
  /-- The wait that a trap handler interrupted; it goes on after the return. -/
  outer : Wait
  /-- Trap 0x20 held with its INFO, trap 0x38 held with its INFO (R208). -/
  held20 : Option Nat
  held38 : Option Nat
  /-- Registers and accumulator words written inside the current region, by the keys of `Group.poison` (R387). -/
  written : SMap Bool
  deriving DecidableEq, Repr

/-- The kinds of poison (R385). -/
inductive Poison where
  | uncorrectable
  | integrity
  deriving DecidableEq, Repr

/-- An outstanding result (R51): `regs` consecutive registers from `dst` in each lane listed, with their values. A w
destination is listed once. -/
structure Fill where
  id : Nat
  dst : Nat
  regs : Nat
  vals : List (Nat × List Word)
  inRegion : Bool
  /-- A poisoned source unit: its kind and PA (0 when it is no memory), R387. -/
  poison : Option (Poison × Nat)
  /-- Lanes that issue no further word until it lands (R131). -/
  holds : Mask
  deriving DecidableEq, Repr

/-- A memory word in the load-store unit, or in a replay slot (R172, R177, R190, Table 18.5). `addr`, `data` and `cmp`
give the lanes still to be performed. -/
structure Access where
  id : Nat
  opc : BitVec 8
  var : BitVec 4
  ord : BitVec 2
  scope : BitVec 3
  hnd : Nat
  space : Nat
  policy : Nat
  dst : Nat
  size : Nat
  addr : List (Nat × Nat)
  data : List (Nat × BitVec 128)
  cmp : List (Nat × DWord)
  /-- Lanes for which the release actions have been performed (R177); for a `waitc`, lanes that have read the counter (R180). -/
  released : Mask
  /-- It holds a replay-slot reservation (R190). -/
  resv : Bool
  /-- A "home unavailable" reply was received; it waits for its retry (R415). -/
  unavailable : Bool
  /-- Entered a quiesced die and is held at its requester port (R359). -/
  quiesced : Bool
  lanes : Mask
  pc : DWord
  hdr : DWord
  /-- Words issued by the group before this one (R338). -/
  issuedAt : Nat
  inRegion : Bool
  /-- The register results are discarded (R53, R231). -/
  noFill : Bool
  /-- "Resolved" answers that it has had, by the page of their record (R336). -/
  resolved : SMap Nat
  /-- A load of a checked clause that has been sent and waits behind an operation of the clause that is sent at its commit (R106). -/
  behind : Bool
  /-- The order in which ports have held it (R359). -/
  heldAt : Nat := 0
  deriving DecidableEq, Repr

/-- A replay slot of the core, held by the group (R190). -/
structure Slot where
  idx : Nat
  acc : Access
  /-- The fault records it waits on; none when it only stands behind an older slot (R191). -/
  recs : List Nat
  /-- Set once a refusal waits to be delivered (R337): the trap code and, for 0x12, the engine. -/
  refused : Option (Nat × Nat)
  /-- It stood behind a refused slot: it is reissued after the return of that trap. -/
  held : Bool
  /-- The order in which slots were made (Table 18.3). -/
  made : Nat := 0
  deriving DecidableEq, Repr

/-- What a word sends when it is not checked, and what a checked clause sends at its commit (R106, Table 11.1), with the
operands captured at issue. -/
inductive SendOp where
  /-- A word of Table 10.1 that the load-store unit accepts. -/
  | mem (a : Access)
  /-- `mst`: rows of bytes by scratchpad offset (R165). -/
  | mst (rows : List (Nat × List Byte))
  | bandj (band : Nat)
  | bandl (band va n : Nat) (hdr pc : DWord) (issuedAt : Nat)
  | bandx (band : Nat)
  /-- `push`: destination predicate, active lanes, selector, the sixteen words. -/
  | push (pd : Nat) (lanes : Mask) (sel : Nat) (cmd : List Word)
  /-- `tstream` of one lane: record bytes as words, coordinates, completion offset. -/
  | tstream (pd lane : Nat) (record coords : List Word) (coff : Nat)
  | fetcht (n dst : Nat)
  | bar (id count : Nat) (lanes : Mask)
  | barb (id count : Nat) (lanes : Mask)
  | xacq (pd : Nat) (lanes : Mask)
  | xrel
  | inject (n : Nat) (v : DWord)
  deriving DecidableEq, Repr

/-- What a parked or stopped word waits for (R100, R106): the lanes that stand at it; registers, each in a lane; a tile
that is busy, with whether the word is an `mma`; and scratchpad bytes, with whether it reads them (R163). -/
structure Park where
  lanes : Mask
  regs : List (Nat × Nat)
  tile : Option (Nat × Bool)
  bytes : List (Nat × Nat)
  read : Bool
  deriving DecidableEq, Repr

/-- An `mts` write that a trap in the middle of its clause has brought into effect for the handler: register, operand, and the
register's values before and after (R29, R209; notes/assumptions/43.md). -/
structure EarlyWrite where
  n : Nat
  value : DWord
  before : DWord
  after : DWord
  deriving DecidableEq, Repr

/-- Effects that begin when a clause ends and that its issue set carries over a parking: `mts` writes (R209), and the
wait of `bar`, `barb`, `sleep` or `yield` (R204, R211); and the writes that a trap has brought into effect. -/
structure Late where
  lanes : Mask
  hdr : DWord
  sysWrites : List (Nat × DWord)
  after : Wait
  early : List EarlyWrite
  deriving DecidableEq, Repr

/-- A running issue set (R98, R99): header, its fields, the body words, and the next word. -/
structure Issue where
  hdr : DWord
  cls : Nat
  rx : Bool
  words : List DWord
  idx : Nat
  lanes : Mask
  sysWrites : List (Nat × DWord)
  after : Wait
  /-- The present word waits in its slot (R106, R177, R190). -/
  waiting : Bool
  /-- The present word of a checked clause has been stopped in its slot (R106). -/
  held : Bool
  /-- What the present word waits for, while `held`. -/
  why : Option Park
  /-- Lanes that a `kill` of the other issue set removed in this cycle: they leave after the word that issues in it (R128). -/
  dying : Mask
  /-- The clause's own `bra` with DISP24 = 0 was taken: an iteration (R101). -/
  loops : Bool
  /-- The last word has issued; a checked clause waits for its comparison (R106). -/
  ended : Bool
  /-- The copies of a checked word differ: nothing of the clause goes on until it is discarded (R107). -/
  differs : Bool
  deriving DecidableEq, Repr

/-- What an imprecise trap without a replay slot brings (R184, R244): its lanes, TPC and TADDR, the words that the group had issued
before its word, and the registers that become full, as first and count. -/
structure Imprecise where
  lanes : Mask
  pc : DWord
  va : DWord
  issuedAt : Nat
  full : Option (Nat × Nat)
  deriving DecidableEq, Repr

/-- A trap that waits for its group (R206). One without a word of its own (0x20, 0x38) is taken by every live lane. -/
structure Posted where
  code : Nat
  info : Nat
  word : Option Imprecise
  deriving DecidableEq, Repr

/-- A trap at a word of the P1 set while the P2 set still issues its word of the same cycle: it is taken after that word (R128,
Table 11.8). -/
structure DueTrap where
  code : Nat
  info : Nat
  lanes : Mask
  tpc : DWord
  hdr : DWord
  deriving DecidableEq, Repr

/-- The spin detector (R101, R102). `sectors`: what each of the latest iterations loaded from, the present one first. -/
structure Spin where
  count : Nat
  changed : Bool
  header : DWord
  sectors : List (List Nat)
  lowered : Bool
  loweredAt : Nat
  deriving DecidableEq, Repr

/-- A group of a cohort, resident or saved. -/
structure Group where
  gid : Nat
  gidx : Nat
  age : Nat
  r : Regs
  /-- Under checked execution: the state before the clause now issuing, and its operations not yet sent (R106). -/
  ck : Option Regs
  unsent : List SendOp
  /-- Operations of committed clauses that a `bandx` at their head holds back until it takes effect (R182, R276). -/
  sending : List SendOp := []
  /-- The poison marks before the checked clause (R106). -/
  ckPoison : SMap Bool
  replaying : Bool
  late : List Late
  /-- What the parked lanes wait for (R100). -/
  parks : List Park
  run1 : Option Issue
  run2 : Option Issue
  /-- The P1 set has issued its word of the present cycle: the P2 set is next (R99). -/
  p2next : Bool
  /-- What the P1 set's word leaves to the end of its cycle: a trap to be taken, and MFR's new value (R128, R154). -/
  due : Option DueTrap
  mfrNext : Option Word
  fills : List Fill
  accs : List Access
  slots : List Slot
  /-- Tile operations in flight as (operation, tile) (R104). -/
  tileOps : List (Nat × Nat)
  /-- Poisoned registers (key 16 n + lane) and accumulator words of the primary slots (key 2^16 + 1,024 n + 64 i + j) and of the
  shadow slots (2^17 + the same), each with whether the error arose in a shadow slot (R166, R386). -/
  poison : SMap Bool
  /-- Of the same keys, those that the injector has struck (R392). -/
  injected : SMap Bool := []
  /-- Asynchronous and imprecise traps posted and not yet taken (R184, R206, R244, R313, R406). -/
  posted : List Posted
  spin : Spin
  issued : Nat
  /-- Words issued before the checked clause that runs: a discarded clause's words are not counted (R338). -/
  issuedCk : Nat
  /-- In a frame: headers whose fetch waited at a fault's service when it was saved (R340). -/
  awaits : List DWord := []
  /-- The group has retired (R127). -/
  retired : Bool
  /-- A stop for eviction, saving, parking or cooperative pre-emption: not eligible (R96, R314). -/
  stopped : Bool
  deriving DecidableEq, Repr

/-! ## Cohorts and frames -/

/-- A barrier: arrivals, phase, and the target given by the first arrival (0: the live count) (R204). -/
structure Barrier where
  arrivals : Nat
  phase : Bool
  target : Nat
  deriving DecidableEq, Repr

/-- A first-touch fill under way (R241): its sector, and the bytes once it has read them, with the offsets of poisoned halves. It
is performed when it starts (R267), or once its page translates. -/
structure Filling where
  sec : Nat
  data : Option (List Byte)
  bad : List (Nat × Poison)
  deriving DecidableEq, Repr

/-- A map entry (R240). Sectors not listed in `filled` are unfilled; `dirty` gives the dirty bytes by scratch offset. -/
structure MapEntry where
  bound : Bool
  va : Nat
  s : Nat
  n : Nat
  policy : Nat
  readOnly : Bool
  filled : List Nat
  dirty : List Nat
  hnd : Nat
  /-- First-touch fills that have started (R241). -/
  filling : List Filling
  deriving DecidableEq, Repr

/-- How a cohort is leaving its core (18). -/
inductive Phase where
  | resident
  /-- Leaving by a light save: its dirty mapped sectors, whose write-backs were accepted before the identifier given (R252), go first
  (R242). -/
  | flushing (since : Nat)
  /-- Spilling for a class G record; the frame is written when the acknowledgements arrive (R306). -/
  | evicting
  /-- Being written to a frame of the given KIND (R315, R318). -/
  | saving (kind : Nat)
  /-- Accepted; the core writes back and invalidates the L1 ways that it needs, and those of the block's other cores theirs (R216,
  R237). Then the cohort starts, or its frame is read. -/
  | arriving (frame : Option Nat)
  /-- Its frame is being read (R312). -/
  | restoring (frame : Nat)
  /-- All groups retired; waits for R217. Its write-backs were accepted before the identifier given (R252). -/
  | draining (since : Nat)
  /-- In a frame. -/
  | saved
  deriving DecidableEq, Repr

/-- Its state lies in a frame. -/
def Phase.away : Phase → Bool
  | .restoring _ | .saved => true
  | _ => false

/-- A deferred band fill (R284), the group and the word that asked, and whether a `bandx` waits for it (R182). -/
structure Deferred where
  band : Nat
  n : Nat
  va : Nat
  gid : Nat
  pc : DWord
  leave : Bool
  issuedAt : Nat := 0
  deriving DecidableEq, Repr

/-- A cohort: one bind record's worth of a launch on one core (R214, R299). -/
structure Cohort where
  ref : CRef
  bid : Nat
  core : Nat
  /-- Its entry of the slot table (R299). -/
  slot : Nat
  regb : Nat
  scrb : Nat
  gidx : Nat
  accb : Nat
  blk : Nat
  groups : List Group
  scratch : Memory
  /-- Empty granules: key is the granule number; absent means full (R239). -/
  granEmpty : SMap Bool
  /-- Poisoned 4-byte units: key is the offset / 4 (R386). -/
  scrPoison : SMap (Option Poison)
  maps : Vector MapEntry 8
  bars : Vector Barrier 16
  bbars : Vector Barrier 4
  /-- The command whose child holds the reserved child slot (R202). -/
  child : Option Nat
  phase : Phase
  /-- Cycles left to a cooperative or TRS handler; none when no request is in progress (R313). -/
  budget : Option Nat
  /-- Vacated under TRS: groups return their runs (R317). -/
  spatial : Bool
  saves : Nat
  benr : BitVec 64
  deferred : List Deferred
  /-- GSTAT.CLASS and GSTAT.CHKD, set from the bind record (R302). -/
  classH : Bool
  checked : Bool
  deriving DecidableEq, Repr

/-- A range-lock entry (R251): space 0 GLOBAL (virtual), 1 the scratchpad of one cohort. -/
structure Lock where
  idx : Nat
  space : Nat
  cohort : CRef
  vif : Nat
  lo : Nat
  hi : Nat
  cmd : Nat
  deriving DecidableEq, Repr

/-- A context frame in the attic (Table 18.3); the areas are kept as data (notes/assumptions/5.md). -/
structure Frame where
  id : Nat
  /-- The die whose attic holds it (R309). -/
  die : Nat
  kind : Nat
  g : Nat
  b : Nat
  x : Nat
  acc : Nat
  scr : Nat
  fbytes : Nat
  /-- The groups' records and the areas; FLAGS, CID, BID, BENR, SAVES, MAP and the barriers lie in it. FLAGS.REDIR is set while a
  redirected fill of it is outstanding (R307). -/
  cohort : Cohort
  /-- Pending commands of the cohort at the save, in enqueue order, and the range-lock entries that they held. -/
  cmds : List Nat
  locks : List Lock
  /-- Replay slots and deferred fills at the save, and sectors with a dirty mask. -/
  nslot : Nat
  ndef : Nat
  masks : Nat
  /-- Dirty mapped bytes as (VA, byte), still to be stored to global memory (R311). -/
  mapDirty : List (Nat × Byte)
  /-- Its physical address, and the key domain that it is encrypted under (R299, R309). -/
  pa : Nat := 0
  kdom : Nat := 0
  /-- The commands as they were pushed, those that have completed since included (NCMD). -/
  cmdBytes : List Byte := []
  /-- A reserved byte of it is not zero (R320). -/
  reserved : Bool := false
  deriving DecidableEq, Repr

/-! ## Cores, clusters, dies -/

/-- A byte of a cache line: value, the writer's VA when dirty, the core that wrote it and its context (R237, R252). -/
structure CByte where
  val : Byte
  dirty : Option Nat
  core : Nat
  vif : Nat
  /-- Stored under the no-RDC policy: it is written back to its home (R250). -/
  direct : Bool := false
  deriving DecidableEq, Repr

/-- A 128-byte line of an L1 or an RDC: PA / 128, in an L1 the stripe that is its way (R237), key domain, class, partition, cache
policy (R250), in an RDC the cores that have written dirty bytes of it (Table 10.4), valid bytes by offset. -/
structure CacheLine where
  line : Nat
  way : Nat
  kdom : Nat
  cls : Bool
  part : Nat
  policy : Nat
  writers : List Nat
  bytes : SMap CByte
  /-- M of its page's hypervisor leaf: its write-backs are counted (R345). -/
  movable : Bool := false
  deriving DecidableEq, Repr

/-- A TLB entry joining both stages (R325). -/
structure TlbEntry where
  vif : Nat
  va : Nat
  size : Nat
  ipa : Nat
  pa : Nat
  /-- [0] R, [1] W, [2] A, [3] F. -/
  perm : BitVec 4
  /-- The leaf's D has been set (R328). -/
  dset : Bool
  /-- M of the hypervisor leaf (R345). -/
  movable : Bool
  s1gen : BitVec 16
  s2gen : BitVec 16
  deriving DecidableEq, Repr

/-- A clause in a slot's buffer: launch context, header address, header and body. -/
structure Clause where
  slot : Nat
  vif : Nat
  pc : DWord
  hdr : DWord
  words : List DWord
  /-- The check failed twice (R61). -/
  bad : Bool
  deriving DecidableEq, Repr

/-- A clause fetch outstanding: `again` after a first CRC mismatch (R61); `stuck` while its page is under service. -/
structure Fetch where
  slot : Nat
  lid : Nat
  pc : DWord
  again : Bool
  stuck : Bool
  deriving DecidableEq, Repr

/-- A core's class G reserve (R303). -/
structure Reserve where
  stripes : List Nat
  gidx : List Nat
  slots : List Nat
  accPairs : List Nat
  deriving DecidableEq, Repr

/-- What an evicted cohort still holds while the rest of its spill goes on (R306). -/
structure Spill where
  stripes : List Nat
  gidx : List Nat
  accPairs : List Nat
  slots : List Nat
  deriving DecidableEq, Repr

/-- One core (Table 1.2). -/
structure Core where
  no : Nat
  l1 : List CacheLine
  locks : List Lock
  tlb : List TlbEntry
  clauses : List Clause
  fetches : List Fetch
  admission : Nat
  reserve : Reserve
  /-- Class G records held while class H cohorts are evicted (R305, R308). -/
  held : List BindRec
  /-- Spills that go on in the background (R306). -/
  spills : List Spill
  suspect : Bool
  withdrawn : Bool
  /-- Lines that the core has written at their homes since it last wrote all of its dirty lines back: a `promote` of one must
  find its earlier writes at home (R265; the model's own). -/
  ahead : List Nat
  deriving DecidableEq, Repr

/-- A range of linear tile indices [lo, hi) of a launch at a dispenser (R219). -/
structure TileRange where
  lid : Nat
  lo : Nat
  hi : Nat
  deriving DecidableEq, Repr

/-- A `fetcht` request waiting at a dispenser (R203). -/
structure TileReq where
  g : GRef
  n : Nat
  dst : Nat
  deriving DecidableEq, Repr

/-- A steal in progress (R220, R221): position in the victim order, and what the last victim answered. -/
inductive StealState where
  | asking
  | shipped (tiles : List (Nat × Nat))
  | empty
  | wait
  deriving DecidableEq, Repr

structure Steal where
  lid : Nat
  victim : Nat
  st : StealState
  deriving DecidableEq, Repr

/-- One cluster. `setting` and `claim` count tenths of a gigahertz above 2.0 in steps of 2: 0, 2, 4 (R416). -/
structure Cluster where
  no : Nat
  cyc : Nat
  ranges : List TileRange
  waiting : List TileReq
  steals : List Steal
  tlb : List TlbEntry
  permits : Nat
  setting : Nat
  claim : Nat
  /-- One 2.0 interval of a pair has ended. -/
  half : Bool
  deriving DecidableEq, Repr

/-- A key of a hold: VA and length (R275). -/
structure BandKey where
  va : Nat
  n : Nat
  deriving DecidableEq, Repr

/-- An ask of a core on a band (R183, R279): `arrived` at the home slice, then `joined` to a hold or being filled. -/
structure BandAsk where
  core : Nat
  g : GRef
  key : BandKey
  arrived : Bool
  /-- Words accepted before it have lower identifiers: it follows their acquires and fences (R268). -/
  after : Nat
  hdr : DWord
  pc : DWord
  /-- Words issued by the group before it (R338). -/
  issuedAt : Nat
  deriving DecidableEq, Repr

/-- An open hold (R279). -/
structure Hold where
  key : BandKey
  wait : BitVec 96
  askers : BitVec 96
  deriving DecidableEq, Repr

/-- Entry b of a die's band table (R275, Table 15.4). -/
structure Band where
  no : Nat
  lid : Nat
  classH : Bool
  maxm : Nat
  soff : Nat
  hold : Nat
  members : BitVec 96
  openHold : Option Hold
  lastKey : Option BandKey
  served : BitVec 96
  asks : List BandAsk
  /-- Cores that leave once their fills have landed (R182). -/
  leaving : BitVec 96
  mism : Nat
  expr : Nat
  late : Nat
  flt : Bool
  deriving DecidableEq, Repr

/-- A band or individual fill in flight to the cores named (R281). `deferred`: made for a restore (R285). -/
structure BandFill where
  id : Nat
  band : Nat
  key : BandKey
  targets : BitVec 96
  data : Option (List Byte)
  /-- Offsets of the poisoned sectors of the data (R386). -/
  poison : List (Nat × Poison)
  deferred : Bool
  recId : Nat
  deriving DecidableEq, Repr

/-- A placement counter entry (R345): its home slice, 64 KiB page, reads and writes per die, total from other packages. -/
structure Counter where
  slice : Nat
  page : Nat
  home : Nat
  reads : Vector Nat 4
  writes : Vector Nat 4
  other : Nat
  deriving DecidableEq, Repr

/-- One compute die. -/
structure Die where
  no : Nat
  bands : List Band
  bandFills : List BandFill
  counters : List Counter
  /-- Replica table: 64 KiB pages (R347). -/
  replicas : List Nat
  hun : Nat
  wrcnt : Nat
  wrstep : Nat
  /-- A reblock in progress on the die (R359). -/
  reblock : Option ReblockDef
  rdc : List CacheLine
  /-- Bytes of its attic (R309). -/
  attic : Nat
  /-- Where the attic begins in the die's addresses. -/
  atticAt : Nat := 0
  deriving DecidableEq, Repr

/-- A stack and its controller (R362, R391, R394). -/
structure Stack where
  no : Nat
  gb : Int
  hb : Int
  gref : Nat
  href : Nat
  patrol : Nat
  /-- Corrected errors per sector in the present patrol pass (R391). -/
  corrected : SMap Nat
  spared : List Nat
  deriving DecidableEq, Repr

/-- A Rafter port's allowances (R364). -/
structure Port where
  no : Nat
  gb : Int
  hb : Int
  gal : Nat
  hal : Nat
  deriving DecidableEq, Repr

/-- A line present at its home L2 (R179, R250, R375): key domain, dirty mark and its class, sync-scope (0 none), slice, way, and
whether it was allocated as the next victim (Table 13.5). -/
structure L2Line where
  line : Nat
  kdom : Nat
  dirty : Bool
  cls : Bool
  sync : Nat
  slice : Nat
  way : Nat
  stream : Bool
  deriving DecidableEq, Repr


/-- A stored sector: domain that wrote it (none: as zeroed at bring-up), poison. -/
structure Sector where
  no : Nat
  kdom : Option Nat
  poison : Option Poison
  injected : Bool
  deriving DecidableEq, Repr

/-! ## Launches, queues, interfaces -/

/-- A band declaration of a launch (Table 15.1). -/
structure BandDecl where
  band : Nat
  maxm : Nat
  soff : Nat
  hold : Nat
  deriving DecidableEq, Repr

/-- Where a launch stands. -/
inductive LaunchPhase where
  /-- Taken; waits for earlier launches of the queue under SER (R294). -/
  | waiting
  | running
  /-- Complete or ended; its completion entry may still wait for room (R295). -/
  | over
  deriving DecidableEq, Repr

/-- A launch of this package (R296, R297): copied record, handle table and band block. -/
structure Launch where
  lid : Nat
  qid : Nat
  vif : Nat
  part : Nat
  kdom : Nat
  classH : Bool
  idx : Nat
  tag : Nat
  entry : DWord
  handles : List (BitVec 256)
  /-- Indices that the firmware shadow of its handle table marks as SYS, with WIN (R249). -/
  sysMarks : List (Nat × Nat)
  bands : List BandDecl
  tilesX : Nat
  tilesY : Nat
  tilesZ : Nat
  blk : Nat
  cores : Nat
  grp : Nat
  breg : Nat
  xreg : Nat
  scr : Nat
  acc : Nat
  chk : Bool
  trs : Bool
  ser : Bool
  budget : Nat
  /-- The launch command that started it, with its parent launch (R199). -/
  parent : Option Nat
  parentLid : Option Nat
  phase : LaunchPhase
  /-- The share of the index space is placed at the first bind record (R219). -/
  placed : Bool
  /-- Cohorts bound so far, and retired so far. -/
  bound : Nat
  retired : Nat
  /-- Cores on which it took trap 0x31 (R384). -/
  mismatchCores : List Nat
  /-- Cores granted to it in each package, by package number; none listed: this package alone (R219). -/
  grants : List (Nat × Nat)
  /-- Cohorts still being vacated by a spatial request (R316). -/
  spatial : List CRef
  /-- CRING and CLOG as the kick that made its record available read them (R293). -/
  cring : Nat
  clog : Nat
  /-- Values of `cid` that held records had taken and gave back when they were refused (R216). -/
  freeCids : List Nat := []
  deriving DecidableEq, Repr

/-- A completion entry waiting to be written (Table 17.3). -/
structure Completion where
  /-- The completion ring of its record (R293). -/
  cring : Nat
  clog : Nat
  idx : Nat
  stat : Nat
  code : Nat
  left : Nat
  tag : Nat
  tpc : DWord
  taddr : DWord
  deriving DecidableEq, Repr

/-- A queue with its firmware shadow and the device's own indices (R290 to R295). -/
structure Queue where
  qid : Nat
  vif : Nat
  slot : Nat
  qcb : Nat
  shadow : List Byte
  disabled : Bool
  head : Nat
  tail : Nat
  ctail : Nat
  ring : Nat
  rlog : Nat
  cring : Nat
  clog : Nat
  chead : Nat
  quotaUsed : Nat
  /-- Kicks that have reached the queue and wait for its QCB, each with whether it is ignored with DIS set (R293, R368). -/
  kicks : List (DWord × Bool)
  /-- The fault record that the queue reader waits on (R297). -/
  waitRec : Option Nat
  /-- Faults that were refused: on a record or its tables, on the QCB for a kick, and on the completion ring or the QCB for an entry
  (R297; notes/assumptions/27.md). -/
  refusedRead : Bool
  refusedKick : Bool
  refusedEntry : Bool
  refusedHead : Bool
  /-- The ring fields are to be read from the QCB before they are used: the queue has come by migration (R370, R371). -/
  reread : Bool
  /-- STATUS has been zeroed since the queue's creation (Table 17.2). -/
  cleared : Bool
  compl : List Completion
  /-- The bound MSI-X vector (R367). -/
  vector : Nat
  deriving DecidableEq, Repr

/-- A frame of a context's pool (R351): IPA, saved entry, and the page it holds when in use. -/
structure PoolFrame where
  ipa : Nat
  saved : Option DWord
  page : Option Nat
  pinned : Bool
  /-- Its write-back is unfinished. -/
  writing : Bool
  tries : Nat
  deriving DecidableEq, Repr

/-- The frame pool of a context (R351, R354). -/
structure Pool where
  list : List Nat
  bad : Nat
  free : List PoolFrame
  used : List PoolFrame
  /-- The sweep hand of each engine. -/
  hands : SMap Nat
  deriving DecidableEq, Repr

/-- TDISP states (Table 22.2). -/
inductive Tdisp where
  | unlocked
  | locked
  | run
  | error
  deriving DecidableEq, Repr

/-- Migration states (Table 22.3). -/
inductive Mig where
  | running
  | precopy
  | stopping
  | stopped
  | resuming
  deriving DecidableEq, Repr

/-- A migration chunk (R371): section, offset in it, data. -/
structure Chunk where
  sec : Nat
  off : Nat
  data : List Byte
  deriving DecidableEq, Repr

/-- A virtual interface with its context (R321, R329, R334, R351, R367 to R372). -/
structure Vif where
  no : Nat
  part : Nat
  kdom : Nat
  groot : Nat
  hroot : Nat
  s1gen : BitVec 16
  s2gen : BitVec 16
  tdisp : Tdisp
  mig : Mig
  frbase : Nat
  frlog : Nat
  ftail : Nat
  fhead : Nat
  hbase : Nat
  hlog : Nat
  htail : Nat
  hhead : Nat
  flistReg : Nat
  fnum : Nat
  flow : Nat
  pool : Pool
  msix : Memory
  /-- SYS marks of the firmware shadow: handle table, index, WIN (R249). -/
  sysWins : List (Nat × Nat × Nat)
  /-- Kicks recorded in stopping, as (slot, value) (R370). -/
  heldKicks : List (Nat × DWord)
  window : Memory
  /-- Chunks still to be delivered, or taken in so far (R371). -/
  chunks : List Chunk
  migNext : Nat
  migFull : Bool
  migEnd : Bool
  migRef : Bool
  migBadc : Bool
  migMiss : Bool
  /-- Created as the destination of a migration (Table 22.3). -/
  dest : Bool
  /-- A STOP_INTERFACE waits until nothing references what its scrub clears (R369, R393). -/
  unlocking : Bool
  /-- The bound MSI-X vector of the guest fault ring (R367). -/
  faultVector : Nat
  /-- IPA that firmware names for the receipt of its unlocking (R396). -/
  receipt : Nat := 0
  /-- MSI-X: enable, function mask, and the vectors whose message is pending (R367). -/
  msixOn : Bool := false
  msixMask : Bool := false
  msixPending : List Nat := []
  /-- Configuration space (R367). -/
  config : Memory := []
  deriving DecidableEq, Repr

/-! ## Translation, faults, engines -/

/-- What the reader of a queue waits for: its QCB for a kick, a record with its tables, or the completion ring for an
entry. -/
inductive QueueUse where
  | kick
  | record
  | entry
  /-- Its QCB, to write HEAD. -/
  | head
  deriving DecidableEq, Repr

/-- Who waits for a walk or a fault answer. -/
inductive Waiter where
  | access (g : GRef) (acc : Nat)
  /-- A clause fetch of a launch in a slot, by its header's address, and the VA that it reads. -/
  | fetch (core slot lid : Nat) (pc : DWord) (va : Nat)
  | command (cmd : Nat)
  /-- A band fill, and the lowest address of its range in the page. -/
  | bandFill (die fill va : Nat)
  | mapFill (c : CRef) (entry sector : Nat)
  /-- A map write-back, and its dirty sector's VA (R244). -/
  | mapWriteback (c : CRef) (va : Nat)
  | queue (qid : Nat) (use : QueueUse)
  /-- A device access in the name of an interface: the DONE word of an invalidation, a frame list, a receipt. -/
  | device (vif : Nat)
  deriving DecidableEq, Repr

/-- A walk requested or running (R326): page VA, the bits of Table 19.7 ACC, the generations noted at its start. -/
structure Walk where
  id : Nat
  vif : Nat
  die : Nat
  core : Option Nat
  /-- The 64 KiB page, and the VA that the first asker asked for. -/
  va : Nat
  askedVa : Nat
  /-- [0] read, [1] write, [2] atomic, [3] fetch, [4] engine, [5] band fill, [6] table read, [7] map unit. -/
  acc : BitVec 8
  agent : Nat
  classH : Bool
  lid : Nat
  cid : Nat
  gid : Nat
  /-- Who waits, with the ACC bits of each one's own access. -/
  waiters : List (BitVec 8 × Waiter)
  started : Bool
  s1gen : BitVec 16
  s2gen : BitVec 16
  /-- Waits for room in the access-log buffer (R377). -/
  logging : Bool
  deriving DecidableEq, Repr

/-- An open fault record (R334 to R337, Table 19.7), or a storage service record (R352). -/
structure FaultRec where
  id : Nat
  vif : Nat
  kind : Nat
  /-- 64 KiB page number of the VA (KIND 1, 2, 5) or IPA (KIND 3, 4). -/
  page : Nat
  va : Nat
  /-- Faulting IPA (KIND 3, 4); PA of the storage entry that was walked (KIND 5). -/
  ipa : Nat
  acc : BitVec 8
  agent : Nat
  classH : Bool
  level : Nat
  slot : Nat
  gid : Nat
  lid : Nat
  cid : Nat
  lanes : Mask
  pte : DWord
  nlost : Nat
  s2gen : BitVec 16
  /-- SEQ once written to its ring. -/
  seq : Option Nat
  waiters : List Waiter
  /-- KIND 5: engine, storage entry, frame taken, reads tried. -/
  engine : Nat
  frame : Option Nat
  tries : Nat
  /-- The frame was rescued; the D that its leaf takes (R352 step 6). -/
  rescued : Option Bool
  /-- Its answer, from the write of FRESP until the device has acted on it: whether it is refused (R336). -/
  answered : Option Bool := none
  deriving DecidableEq, Repr

/-- A larder slot (R341, R342): key, domain, bytes by offset. -/
structure Larder where
  vif : Nat
  page : Nat
  kdom : Nat
  recId : Nat
  bytes : List (Nat × Byte)
  deriving DecidableEq, Repr

/-- An invalidation in progress (R330). `unread`: the IPA of a descriptor that is still to be read (R331). -/
structure Inval where
  id : Nat
  d : InvDesc
  unread : Option DWord := none
  deriving DecidableEq, Repr

/-- State of a collective on this member (R398, R405, R425). -/
structure Coll where
  view : Nat
  members : BitVec 288
  /-- Members of the view that the command was pushed under (R405). -/
  pushed : Nat
  finals : List (Nat × List Word)
  sources : List (Nat × List Word)
  /-- Chunks that this member has added its contribution to. -/
  added : List Nat
  /-- Elements of the own source that lie in poisoned units (R386). -/
  bad : List Nat
  sent : Bool
  /-- Stopped by an ACCEPT (R403). -/
  stopped : Bool
  /-- Every chunk survives: those that this member lacks are fetched (R405). -/
  fetching : Bool
  /-- Re-run under a new view: its result is re-weighted (R405). -/
  reweigh : Bool
  deriving DecidableEq, Repr

/-- Where a command stands. -/
inductive Stage where
  | queued
  | started
  /-- Its work is over with this status word; completion follows (R197). -/
  | done (status : Word)
  deriving DecidableEq, Repr

/-- A command of an engine (Tables 11.3 to 11.7). `words` is the 64-byte command; for `tstream` the shape record, with
`coords` and `coff` captured at issue. -/
structure Cmd where
  id : Nat
  eng : EngineId
  classH : Bool
  owner : GRef
  core : Nat
  vif : Nat
  part : Nat
  kdom : Nat
  words : List Word
  coords : List Word
  coff : Nat
  /-- The access that carries the release of its `push` or `tstream`; it starts after it (R195). 0: none. -/
  gate : Nat
  stage : Stage
  coll : Option Coll
  /-- Uses the cohort's reserved child slot (R202). -/
  reserved : Bool
  child : Option Nat
  /-- Waits on a fault record. -/
  waiting : Bool
  /-- It has passed validation and started its data accesses (R197, R198). -/
  ran : Bool
  /-- Its completion record cannot be reached: the writes to it are dropped (R198). -/
  lost : Bool
  /-- Settled at a view installation: the view, and the groups that waited on its counter then (R406). -/
  notify : Option (Nat × List GRef)
  /-- Its child has completed and counts against neither QUOTA nor the cohort's slot any more (R298). -/
  freed : Bool
  deriving DecidableEq, Repr

/-- What is sent to a drive: an explicit command, the page read of a storage fault's record, or the write-back of a frame (R348, R352,
R354). -/
inductive DriveWork where
  | cmd (id : Nat)
  | read (rec : Nat)
  | write (vif ipa : Nat)
  deriving DecidableEq, Repr

/-- A drive command with its class and its blocks (R348, R349); a flush has none. -/
structure DriveIo where
  work : DriveWork
  classH : Bool
  nsid : Nat
  lba : Nat
  n : Nat
  deriving DecidableEq, Repr

/-- The engine queues of one engine (R195). Depth 64 unless its partition sets one. A storage engine has two paging queues besides, and
commands outstanding at its drive, in order of submission (R348). -/
structure Engine where
  eng : EngineId
  queueG : List Nat
  queueH : List Nat
  pageG : List DriveIo := []
  pageH : List DriveIo := []
  drive : List DriveIo := []
  deriving DecidableEq, Repr

/-- A block of a drive: 4,096 bytes, and the domain that wrote it with its keys then (R348, R349). -/
structure Block where
  engine : Nat
  nsid : Nat
  lba : Nat
  kdom : Nat
  key : Nat
  bytes : List Byte
  deriving DecidableEq, Repr

/-! ## Partitions, keys, Hearth, membership -/

/-- A watched range (Table 22.5). -/
structure Watch where
  lo : DWord
  hi : DWord
  deriving DecidableEq, Repr

/-- A log record of Table 22.6, or one of the pair of Table 24.3a, as its 32 bytes. -/
abbrev LogRec := List Byte

/-- The injector of a test partition (Table 11.10, R392): generator state, RATE, TGT, SITE. -/
structure Injector where
  gen : DWord
  rate : Word
  tgt : BitVec 8
  site : Option Word
  deriving DecidableEq, Repr

/-- A partition (Table 21.1, R356, R365, R376). -/
structure Partition where
  no : Nat
  formed : Bool
  clusters : List Nat
  hbms : List Nat
  slices : List (Nat × Nat)
  rdcWays : List (Nat × Nat)
  engines : List Nat
  ports : List Nat
  ranges : List (Nat × Nat)
  test : Bool
  depth : Nat
  /-- Depths that firmware has set for the queue of one engine and class (R195). -/
  depths : List (EngineId × Bool × Nat)
  nsi : List (Nat × Nat × Nat × Nat)
  swapw : Nat
  rgw : Nat
  watch : Vector Watch 32
  log : List LogRec
  /-- PA page of the last record written (R376). -/
  logPage : Option Nat
  /-- Records waiting for room (R377, R390). -/
  logWait : List (List LogRec)
  logReader : Nat
  inj : Injector
  /-- Switch routes, as pairs of packages whose switch ports they join (Table 21.1). -/
  routes : List (Nat × Nat) := []
  /-- It has been reset, and the scrub of its units is still to be made (R393): nothing of them is bound until its receipt is written. -/
  unscrubbed : Bool := false
  deriving DecidableEq, Repr

/-- A key domain (R373): whether its keys are loaded, and a handle of them. -/
structure KeyDomain where
  no : Nat
  loaded : Bool
  key : Nat
  scrubbed : Bool
  deriving DecidableEq, Repr

/-- An error record (Table 24.3). `seen`: firmware has read it. -/
structure ErrRec where
  seq : Nat
  etype : Nat
  code : Nat
  src : Nat
  action : Nat
  tunv : Bool
  inj : Bool
  die : Nat
  unit : Nat
  pa : Nat
  va : Nat
  lid : Nat
  /-- The partition that it is about, if one: PART is 0 without. -/
  part : Option Nat
  kdom : Nat
  gid : Nat
  pc : DWord
  count : Nat
  seen : Bool
  deriving DecidableEq, Repr

/-- Hearth (24, 26). `step` is the bring-up step of R418, 0 before power good; `halted` gives the order number at
which an image failed (R410). -/
structure Hearth where
  step : Nat
  epoch : Nat
  count : Nat
  errlog : List ErrRec
  measures : List (BitVec 512)
  unlocked : Nat
  halted : Option Nat
  released : List Processor
  heard : List Processor
  deriving DecidableEq, Repr

/-- The serial flash (R409, R411): replay-protected counter, images by order. -/
structure Flash where
  counter : Nat
  authentic : Bool
  images : List (Nat × List Byte)
  deriving DecidableEq, Repr

/-- The agreement that this package leads (R403, R408). -/
structure Agreement where
  view : Nat
  members : BitVec 288
  accepted : BitVec 288
  maps : List (Nat × BitVec 288)
  joiner : Option Nat
  deriving DecidableEq, Repr

/-- A membership group on this package (R397 to R408). -/
structure MGroup where
  no : Nat
  defined : BitVec 288
  view : Nat
  members : BitVec 288
  suspects : BitVec 288
  /-- View numbers for which a PROPOSE was accepted (R403). -/
  accepted : List Nat
  leading : Option Agreement
  follows : Nat
  /-- The group's commands are stopped since an ACCEPT (R403). -/
  stopped : Bool
  suspt : Nat
  /-- Joiners waiting for the leader's next agreement (R408). -/
  joining : List Nat
  /-- A join was proposed: no command starts, and this PROPOSE is answered when the started ones have completed. -/
  pausing : Option ViewPacket
  /-- Data packets of the present view that no started command has taken yet. -/
  held : List CollPacket
  /-- Groups that have had trap 0x20 for the present view (R406). -/
  told : List GRef
  deriving DecidableEq, Repr

/-! ## The outside -/

/-- What leaves the package. -/
inductive Message where
  /-- The message of an MSI-X vector, for a queue's completion or fault ring (R295, R334, R367): address and data of its entry. -/
  | interrupt (vif vector addr data : Nat)
  /-- A view packet, by TYPE of Table 25.1, to a package. -/
  | view (type dest : Nat) (p : ViewPacket)
  | coll (dest : Nat) (p : CollPacket)
  | abortColl (dest : Nat) (p : AbortPacket)
  /-- An error reply for a packet of a partition (R365). -/
  | errorReply (part : Nat)
  /-- A "home unavailable" reply to a requester outside (R415). -/
  | homeUnavailable (pa : Nat)
  /-- Data returned to the companion or another package. -/
  | data (pa : Nat) (bytes : List Byte)
  /-- The bytes that a read of a register returns (R7). -/
  | register (r : RegName) (bytes : List Byte)
  /-- A store to a device window (R170). -/
  | sysWrite (win offset : Nat) (bytes : List Byte)
  /-- A page verdict for the pager (R347): page, 0 move or 1 replicate, die. -/
  | pager (page verdict die : Nat)
  /-- A scrub receipt or log trailer written (R396). -/
  | receipt (ipa : Nat) (bytes : List Byte)
  /-- A refused bind record, to the scheduling core (R301). -/
  | bindRefused (core : Nat)
  /-- An error to the firmware command that asked for a change (R368). -/
  | refusedChange (vif : Nat)
  /-- The bring-up stopped at this order number (R410). -/
  | bringUpStopped (order : Nat)
  /-- A migrated interface has stopped, or a launch was failed to its interface with both causes (R208). -/
  | faultReport (vif : Nat) (tcause : Word) (tpc : DWord) (first : Word)
  deriving DecidableEq, Repr

/-- A packet of a partition that waits for its class's allowance at a port (R364): 256-byte flits left, and the packet. -/
structure Outgoing where
  part : Nat
  classH : Bool
  flits : Nat
  msg : Message
  deriving DecidableEq, Repr

/-- A 2.4 GHz slot: its cluster, the class of the claim, and whether the arbiter has revoked it (R417). -/
structure BoostSlot where
  cluster : Nat
  classH : Bool
  revoked : Bool
  deriving DecidableEq, Repr

/-- Which thing moves next (the model's schedule, notes/assumptions/3.md). -/
inductive Choice where
  /-- The next word of a running issue set: `second` for the P2 set. -/
  | word (g : GRef) (second : Bool)
  /-- The pending device event at this position. -/
  | pending (n : Nat)
  /-- The next input. -/
  | input
  /-- A vote in a slot of a core (R98). -/
  | vote (core slot : Nat)
  deriving DecidableEq, Repr

/-- The issue that a word executes for: group, and whether it is the P2 set. -/
structure IssueRef where
  g : GRef
  second : Bool
  deriving DecidableEq, Repr

/-- The state of the package. -/
structure State where
  pkg : Nat
  mem : Memory
  sectors : List Sector
  l2 : List L2Line
  drives : List Block
  launches : List Launch
  cohorts : List Cohort
  frames : List Frame
  cores : List Core
  clusters : List Cluster
  dies : List Die
  hbms : List Stack
  ports : List Port
  queues : List Queue
  vifs : List Vif
  walks : List Walk
  recs : List FaultRec
  invs : List Inval
  larder : List Larder
  larderSlots : Nat
  engines : List Engine
  cmds : List Cmd
  parts : List Partition
  kdoms : List KeyDomain
  hearth : Hearth
  flash : Flash
  mgroups : List MGroup
  /-- Holders of the sixteen 2.4 GHz slots, most recently granted first (R417). -/
  boostSlots : List BoostSlot
  boostWaiting : List Nat
  /-- Clusters by their latest grant, most recent first. -/
  boostGranted : List Nat
  /-- Partitions in reset whose packets routers still hold (R365). -/
  drains : List Nat
  /-- Packets of the collective engines that wait for an allowance (R364). -/
  outq : List Outgoing
  /-- Free-value counter, next identifier (the model's own). -/
  fresh : Nat
  nextId : Nat
  cur : Option IssueRef
  /-- Votes and timers since the last retry (the model's own). -/
  turn : Nat
  sched : List Choice
  /-- Uncorrectable errors of SRAM that have arisen and that the next votes bring to light (R385). -/
  sram : List SramError
  inputs : List Instr
  pend : List Instr
  out : List Message
  deriving DecidableEq, Repr

/-! ## Reasons to stop -/

/-- Why the machine stops with a fault. -/
inductive Fault where
  /-- Raised by `step` alone: the schedule names a running issue set whose clause has no word left. A clause ends when
  its last word issues (R99), so no state that the machine reaches does this. Safe: the hardware has no such state. -/
  | noWordLeft
  deriving DecidableEq, Repr

/-- Why an instruction is refused. -/
inductive Refusal where
  /-- Raised by `exec` for an instruction that the model gives no meaning. Safe. -/
  | notModelled (mnemonic : String)
  deriving DecidableEq, Repr

/-! ## Reset -/

/-- A lane before any group start. -/
def Lane.start (entry : DWord) : Lane :=
  { pc := entry, hdr := entry, resumePc := 0, resumeHdr := 0, tok := none, preds := 0, parked := false }

/-- An invalid descriptor: all fields zero (Table 9.1). -/
def Desc.zero : Desc := ⟨0, 0, 0, 0, 0, 0, 0⟩

/-- Group start (Table 3.1, R29, Tables 3.8 to 3.10): every register zero and full, every lane live at ENTRY. -/
def Regs.start (entry : DWord) (first : Bool) : Regs :=
  { lanes := Vector.replicate 16 (Lane.start entry), v := [], w := [], ev := [], ew := 0, live := 0xFFFF, fpcr := 0,
    fpsr := 0, mfr := 0, tcause := 0, tskid := 0, tpc := 0, taddr := 0, tvec := 0, rpc := 0, racc := 0, regMask := 0,
    entryMask := 0, inReg := false, inTrap := false, handler := 0, retted := 0, xheld := false, xlast := first,
    desc := Vector.replicate 8 Desc.zero, acc := [], shadow := [], grant := none, wait := .none, outer := .none, held20 := none,
    held38 := none, written := [] }

/-- A spin detector that has counted nothing. -/
def Spin.zero : Spin := ⟨0, false, 0, [], false, 0⟩

/-- A group at group start with its index and age. -/
def Group.start (gid gidx age : Nat) (entry : DWord) : Group :=
  { gid := gid, gidx := gidx, age := age, r := Regs.start entry (gid % 2 == 0), ck := none, unsent := [],
    ckPoison := [], replaying := false, late := [], parks := [], run1 := none, run2 := none, p2next := false,
    due := none, mfrNext := none, fills := [], accs := [], slots := [], tileOps := [], poison := [],
    posted := [], spin := Spin.zero, issued := 0, issuedCk := 0, retired := false, stopped := false }

/-- An unbound map entry. -/
def MapEntry.unbound : MapEntry := ⟨false, 0, 0, 0, 0, false, [], [], 0, []⟩

/-- A barrier with no arrival. -/
def Barrier.zero : Barrier := ⟨0, false, 0⟩

/-- A core that holds nothing. -/
def Core.fresh (no : Nat) : Core :=
  { no := no, l1 := [], locks := [], tlb := [], clauses := [], fetches := [], admission := 0,
    reserve := ⟨[], [], [], []⟩, held := [], spills := [], suspect := false, withdrawn := false,
    ahead := [] }

/-- A cluster at reset: CYC 0 (Table 3.9), 64 permits at 2.0 GHz (R416). -/
def Cluster.fresh (no : Nat) : Cluster :=
  { no := no, cyc := 0, ranges := [], waiting := [], steals := [], tlb := [], permits := 64, setting := 0, claim := 0,
    half := false }

/-- A die with empty tables (Table 26.3 at cold start), and an attic of 2 MiB for each core (notes/assumptions/6.md). -/
def Die.fresh (no : Nat) : Die :=
  { no := no, bands := [], bandFills := [], counters := [], replicas := [], hun := 0, wrcnt := 0, wrstep := 0,
    reblock := none, rdc := [], attic := 201326592 }

/-- A stack at reset: GREF and HREF 8,000 (R362), buckets full (notes/assumptions/6.md). -/
def Stack.fresh (no : Nat) : Stack :=
  { no := no, gb := 8000, hb := 8000, gref := 8000, href := 8000, patrol := 0, corrected := [], spared := [] }

/-- A port at reset (notes/assumptions/6.md: the spec gives no reset allowance). -/
def Port.fresh (no : Nat) : Port := { no := no, gb := 400, hb := 400, gal := 400, hal := 400 }

/-- An injector that injects nothing (Table 11.10). -/
def Injector.zero : Injector := ⟨0, 0, 0, none⟩

/-- A partition that has not been formed (R356, R365). -/
def Partition.unformed (no : Nat) : Partition :=
  { no := no, formed := false, clusters := [], hbms := [], slices := [], rdcWays := [], engines := [], ports := [],
    ranges := [], test := false, depth := 64, depths := [], nsi := [], swapw := 16384, rgw := 4, watch := Vector.replicate 32 ⟨0, 0⟩,
    log := [], logPage := none, logWait := [], logReader := 0, inj := Injector.zero }

/-- Hearth before power good. -/
def Hearth.off : Hearth :=
  { step := 0, epoch := 0, count := 0, errlog := [], measures := [], unlocked := 0, halted := none, released := [],
    heard := [] }

/-- The package at reset: no power-good yet, no work, memory zero (R418). -/
def State.reset : State :=
  { pkg := 0, mem := [], sectors := [], l2 := [], drives := [], launches := [], cohorts := [], frames := [],
    cores := [], clusters := [], dies := [], hbms := [], ports := [], queues := [], vifs := [], walks := [],
    recs := [], invs := [], larder := [], larderSlots := 1024, engines := [], cmds := [], parts := [], kdoms := [],
    hearth := Hearth.off, flash := { counter := 0, authentic := true, images := [] }, mgroups := [], boostSlots := [],
    boostWaiting := [], boostGranted := [], drains := [], outq := [], fresh := 0, nextId := 1, cur := none, turn := 0, sched := [], sram := [], inputs := [], pend := [],
    out := [] }

end Sys2Proof.Machine
end

