-- ==== Sys2Proof/Machine/Bits.lean ====
section
/-!
DEFINITION. Helpers that every operation uses: sign extension and wrapping (R69), masks of lanes, sparse maps and bytes
in their canonical form (R3, R418), fields of little-endian records, the clause check CRC-16 (R60), and updates of list
entries by key.
-/
namespace Sys2Proof.Machine

/-! ## Numbers (R69) -/

/-- SExt(x, n). -/
def sextNat (x n : Nat) : Int :=
  let y := x % 2 ^ n
  if 2 * y < 2 ^ n then (y : Int) else (y : Int) - (2 : Int) ^ n

/-- Wrap(x, n) as a number. -/
def wrapNat (x : Int) (n : Nat) : Nat := (x % (2 : Int) ^ n).toNat

/-- SatS(x, n). -/
def satS (x : Int) (n : Nat) : Int := min (max x (-((2 : Int) ^ (n - 1)))) ((2 : Int) ^ (n - 1) - 1)

/-- SatZ(x, n). -/
def satZ (x : Int) (n : Nat) : Int := min (max x 0) ((2 : Int) ^ n - 1)

/-- Bits [hi:lo] of a number. -/
def bitsOf (x hi lo : Nat) : Nat := x / 2 ^ lo % 2 ^ (hi + 1 - lo)

/-- Bit k of a number. -/
def bitOf (x k : Nat) : Bool := x.testBit k

/-- A number as a 32-bit word. -/
def w32 (x : Nat) : Word := BitVec.ofNat 32 x

/-- A number as a 64-bit word. -/
def w64 (x : Nat) : DWord := BitVec.ofNat 64 x

/-- The smaller multiple of `a` at or below `x`. -/
def alignDown (x a : Nat) : Nat := x / a * a

/-- Rounded up to a multiple. -/
def alignUp (x a : Nat) : Nat := (x + a - 1) / a * a

/-- Addresses are taken modulo 2^57 (R123, R321). -/
def va57 (x : Int) : DWord := w64 (wrapNat x 57)

/-! ## Lanes and masks -/

/-- The sixteen lane numbers in ascending order. -/
def laneNumbers : List Nat := List.range 16

/-- The lanes of a mask in ascending order. -/
def maskLanes (m : Mask) : List Nat := laneNumbers.filter (fun i => m.getLsbD i)

/-- The mask of the lanes that satisfy a test. -/
def maskWhere (p : Nat → Bool) : Mask :=
  BitVec.ofNat 16 ((laneNumbers.filter p).foldl (fun acc i => acc + 2 ^ i) 0)

/-- The mask of a list of lanes. -/
def maskOf (ls : List Nat) : Mask := maskWhere (fun i => ls.contains i)

/-- FirstActive() over a mask (R69). -/
def firstLane (m : Mask) : Option Nat := laneNumbers.find? (fun i => m.getLsbD i)

/-! ## Sparse maps in canonical form -/

/-- The value at a key, where an absent key reads `d`. -/
def SMap.get {α : Type} (m : SMap α) (d : α) (k : Nat) : α :=
  match m with
  | [] => d
  | (j, v) :: rest => if j = k then v else SMap.get rest d k

/-- Insert or replace an entry, keys rising. -/
def SMap.ins {α : Type} (m : SMap α) (k : Nat) (v : α) : SMap α :=
  match m with
  | [] => [(k, v)]
  | (j, u) :: rest =>
    if k < j then (k, v) :: (j, u) :: rest else if k = j then (k, v) :: rest else (j, u) :: SMap.ins rest k v

/-- Write a value, keeping keys rising and no entry equal to `d`. -/
def SMap.set {α : Type} [DecidableEq α] (m : SMap α) (d : α) (k : Nat) (v : α) : SMap α :=
  if v = d then m.filter (fun p => p.1 != k) else SMap.ins m k v

/-- The entry at a key, where an absent key has none. -/
def SMap.find? {α : Type} (m : SMap α) (k : Nat) : Option α :=
  match m with
  | [] => none
  | (j, v) :: rest => if j = k then some v else SMap.find? rest k

/-- Keys rise strictly from above `lo`, and no entry equals `d`. -/
def SMap.wfFrom {α : Type} [DecidableEq α] (d : α) : Option Nat → SMap α → Bool
  | _, [] => true
  | lo, (k, v) :: rest => (lo.all (fun l => l < k)) && v != d && SMap.wfFrom d (some k) rest

/-- The canonical form of a memory: addresses rising, no zero byte listed. -/
def Memory.wf (m : Memory) : Bool := SMap.wfFrom (0 : Byte) none m

/-- The byte at an address; one that nothing has written reads zero (R418). -/
def Memory.byte (m : Memory) (a : Nat) : Byte := SMap.get m 0 a

/-- Store one byte. -/
def Memory.put (m : Memory) (a : Nat) (b : Byte) : Memory := SMap.set m 0 a b

/-- n bytes from an address. -/
def Memory.bytes (m : Memory) (a n : Nat) : List Byte := (List.range n).map (fun k => m.byte (a + k))

/-- Store bytes at rising addresses. -/
def Memory.putBytes (m : Memory) (a : Nat) (bs : List Byte) : Memory :=
  match bs with
  | [] => m
  | b :: rest => Memory.putBytes (m.put a b) (a + 1) rest

/-! ## Little-endian values (R3) -/

/-- The number that bytes hold, the first byte lowest. -/
def leNat (bs : List Byte) : Nat := bs.foldr (fun b acc => b.toNat + 256 * acc) 0

/-- n bytes of a number, lowest first. -/
def leBytes (x n : Nat) : List Byte := (List.range n).map (fun k => BitVec.ofNat 8 (x / 256 ^ k))

/-- A field of `n` bytes at an offset of a record. -/
def fieldLE (bs : List Byte) (off n : Nat) : Nat := leNat ((bs.drop off).take n)

/-- Exactly n bytes of a list. -/
def exactly (n : Nat) (bs : List Byte) : List Byte := (List.range n).map (fun k => bs.getD k 0)

/-- The number at an address of memory. -/
def Memory.nat (m : Memory) (a n : Nat) : Nat := leNat (m.bytes a n)

/-- Store a number of n bytes. -/
def Memory.putNat (m : Memory) (a n x : Nat) : Memory := m.putBytes a (leBytes x n)

/-- Whether every byte is zero (reserved fields, R9). -/
def zeroBytes (bs : List Byte) (off n : Nat) : Bool := ((bs.drop off).take n).all (· == 0)

/-! ## The clause check (R60) -/

/-- One bit of CRC-16, most significant bit first. -/
def crcStep (crc : Nat) (bit : Bool) : Nat :=
  let top := (crc.testBit 15) != bit
  let sh := crc * 2 % 65536
  if top then sh ^^^ 0x1021 else sh

/-- One byte, most significant bit first. -/
def crcByte (crc : Nat) (b : Byte) : Nat :=
  [7, 6, 5, 4, 3, 2, 1, 0].foldl (fun c k => crcStep c (b.getLsbD k)) crc

/-- CRC-16 with polynomial 0x1021 and initial value 0xFFFF. -/
def crc16 (bs : List Byte) : Nat := bs.foldl crcByte 0xFFFF

/-- CHK of a clause body. -/
def clauseCheck (words : List DWord) : Nat := crc16 (words.flatMap bytesOfWord)

/-! ## Lists kept by key -/

/-- Change the entries that satisfy a test. -/
def updateWhere {α : Type} (p : α → Bool) (f : α → α) (l : List α) : List α := l.map (fun x => if p x then f x else x)

/-- Remove the first entry equal to a value. -/
def removeFirst {α : Type} [DecidableEq α] (x : α) : List α → List α
  | [] => []
  | y :: rest => if y = x then rest else y :: removeFirst x rest

/-- Insert a number in rising order, once. -/
def insertNat (n : Nat) : List Nat → List Nat
  | [] => [n]
  | m :: rest => if n < m then n :: m :: rest else if n = m then m :: rest else m :: insertNat n rest

/-- The smallest number of a list, if any. -/
def minNat? : List Nat → Option Nat
  | [] => none
  | n :: rest => some (match minNat? rest with
    | none => n
    | some m => min n m)

/-- Ranges [a, a+n) and [b, b+m) meet. -/
def rangesMeet (a n b m : Nat) : Bool := a < b + m && b < a + n && 0 < n && 0 < m

end Sys2Proof.Machine
end

