-- ==== Sys2Proof/Machine/Float.lean ====
section
/-!
DEFINITION. Number formats and rounding (02, R25 to R40): decoding a pattern to an exact value, rounding an exact value
once, sums and products of values, and the conversions. Exact values are dyadic: a sign, a natural number and a power
of two. Flags are numbers in FPSR bit order (Table 2.3). Modes are FPCR.RM codes: 0 RNE, 1 RTZ, 2 RUP, 3 RDN.
-/
namespace Sys2Proof.Machine

/-! ## Formats (Table 2.1) -/

/-- How a format departs from IEEE 754 patterns (R26). -/
inductive FSpecial where
  | ieee
  | e4m3
  | e2m1
  deriving DecidableEq, Repr

/-- A floating-point format: exponent and fraction widths and bias. -/
structure FFmt where
  ebits : Nat
  mbits : Nat
  bias : Nat
  special : FSpecial
  deriving DecidableEq, Repr

def fmtF64 : FFmt := ⟨11, 52, 1023, .ieee⟩
def fmtF32 : FFmt := ⟨8, 23, 127, .ieee⟩
def fmtF16 : FFmt := ⟨5, 10, 15, .ieee⟩
def fmtBF16 : FFmt := ⟨8, 7, 127, .ieee⟩
def fmtE4M3 : FFmt := ⟨4, 3, 7, .e4m3⟩
def fmtE5M2 : FFmt := ⟨5, 2, 15, .ieee⟩
def fmtE2M1 : FFmt := ⟨2, 1, 1, .e2m1⟩

/-- The format of a type code below 7 (Table 5.2). -/
def fmtOfCode (code : Nat) : FFmt :=
  match code with
  | 0 => fmtF32
  | 1 => fmtF64
  | 2 => fmtF16
  | 3 => fmtBF16
  | 4 => fmtE4M3
  | 5 => fmtE5M2
  | _ => fmtE2M1

/-- Position of the sign bit. -/
def FFmt.signBit (f : FFmt) : Nat := f.ebits + f.mbits

/-- Exponent of the smallest normal. -/
def FFmt.emin (f : FFmt) : Int := 1 - (f.bias : Int)

/-- The formats that flush to zero applies to (R35): FP64, FP32, FP16 and BF16. -/
def FFmt.ftz (f : FFmt) : Bool := f == fmtF64 || f == fmtF32 || f == fmtF16 || f == fmtBF16

/-- Significand of the largest finite value. -/
def FFmt.maxSig (f : FFmt) : Nat :=
  match f.special with
  | .e4m3 => 14
  | _ => 2 ^ (f.mbits + 1) - 1

/-- Exponent of the last place of the largest finite value. -/
def FFmt.maxQ (f : FFmt) : Int :=
  match f.special with
  | .ieee => (f.bias : Int) - f.mbits
  | .e4m3 => 5
  | .e2m1 => 1

/-- The pattern of the largest finite value without its sign. -/
def FFmt.maxPat (f : FFmt) : Nat :=
  match f.special with
  | .ieee => (2 ^ f.ebits - 2) * 2 ^ f.mbits + (2 ^ f.mbits - 1)
  | .e4m3 => 0x7E
  | .e2m1 => 0x7

/-- The pattern of infinity without its sign (IEEE formats). -/
def FFmt.infPat (f : FFmt) : Nat := (2 ^ f.ebits - 1) * 2 ^ f.mbits

/-- The canonical NaN of Table 2.5; E2M1 delivers +0. -/
def FFmt.nanPat (f : FFmt) : Nat :=
  match f.special with
  | .ieee => f.infPat + 2 ^ (f.mbits - 1)
  | .e4m3 => 0x7F
  | .e2m1 => 0

/-- A magnitude pattern with a sign. -/
def FFmt.signed (f : FFmt) (neg : Bool) (p : Nat) : Nat := if neg then p + 2 ^ f.signBit else p

/-! ## Flags (Table 2.3) -/

def flagIV : Nat := 1
def flagDZ : Nat := 2
def flagOF : Nat := 4
def flagUF : Nat := 8
def flagIX : Nat := 16

/-- A flag when a condition holds. -/
def flagIf (b : Bool) (f : Nat) : Nat := if b then f else 0

/-! ## Exact values -/

/-- What a pattern stands for (R26). `num neg m e` is (-1)^neg m 2^e. -/
inductive FVal where
  | nan (signalling : Bool)
  | inf (neg : Bool)
  | num (neg : Bool) (m : Nat) (e : Int)
  deriving DecidableEq, Repr

/-- Decode a pattern; `ftz` takes a subnormal as a zero of its sign (R35). -/
def FFmt.decode (f : FFmt) (ftz : Bool) (p : Nat) : FVal :=
  let neg := p.testBit f.signBit
  let ef := p / 2 ^ f.mbits % 2 ^ f.ebits
  let fr := p % 2 ^ f.mbits
  let ieee := f.special == .ieee
  if ieee && ef == 2 ^ f.ebits - 1 then
    if fr == 0 then .inf neg else .nan (fr < 2 ^ (f.mbits - 1))
  else if f.special == .e4m3 && ef == 15 && fr == 7 then .nan false
  else if ef == 0 then
    if ftz && f.ftz then .num neg 0 0 else .num neg fr (f.emin - f.mbits)
  else .num neg (2 ^ f.mbits + fr) ((ef : Int) - f.bias - f.mbits)

/-- Is the value a NaN. -/
def FVal.isNan : FVal → Bool
  | .nan _ => true
  | _ => false

/-- Is it a signalling NaN. -/
def FVal.isSnan : FVal → Bool
  | .nan s => s
  | _ => false

/-- Is it an infinity. -/
def FVal.isInf : FVal → Bool
  | .inf _ => true
  | _ => false

/-- Is it a zero. -/
def FVal.isZero : FVal → Bool
  | .num _ m _ => m == 0
  | _ => false

/-- Its sign. -/
def FVal.neg : FVal → Bool
  | .nan _ => false
  | .inf n => n
  | .num n _ _ => n

/-- Sign inverted. -/
def FVal.flip : FVal → FVal
  | .nan s => .nan s
  | .inf n => .inf (!n)
  | .num n m e => .num (!n) m e

/-- A signed multiple of 2^e. -/
def FVal.ofInt (x : Int) (e : Int) : FVal := .num (x < 0) x.natAbs e

/-! ## Rounding (R33 to R35) -/

/-- m 2^sh rounded to an integer, and whether it was inexact. -/
def roundShift (mode : Nat) (neg : Bool) (m : Nat) (sh : Int) : Nat × Bool :=
  if 0 ≤ sh then (m * 2 ^ sh.toNat, false)
  else
    let k := (-sh).toNat
    let q := m / 2 ^ k
    let r := m % 2 ^ k
    let half := 2 ^ (k - 1)
    let up := match mode with
      | 0 => decide (half < r) || (r == half && q % 2 == 1)
      | 1 => false
      | 2 => r != 0 && !neg
      | _ => r != 0 && neg
    (if up then q + 1 else q, r != 0)

/-- A pattern with the flags that producing it raised. -/
structure FRes where
  pat : Nat
  flags : Nat
  deriving DecidableEq, Repr

/-- The outcome of overflow (Table 2.4, R34). -/
def FFmt.overflow (f : FFmt) (mode : Nat) (sat neg : Bool) : Nat :=
  let away := mode == 0 || (mode == 2 && !neg) || (mode == 3 && neg)
  f.signed neg (if sat || !away then f.maxPat else
    match f.special with
    | .ieee => f.infPat
    | .e4m3 => 0x7F
    | .e2m1 => f.maxPat)

/-- RoundFP of a nonzero value m 2^e (R69): one rounding, with the flags of R30. -/
def FFmt.roundNonzero (f : FFmt) (mode : Nat) (sat ftz neg : Bool) (m : Nat) (e : Int) : FRes :=
  let lead := e + (Nat.log2 m : Int)
  -- rounded with an unbounded exponent range
  let qu := lead - f.mbits
  let (su, _) := roundShift mode neg m (e - qu)
  let tiny := decide (lead < f.emin) && !(lead == f.emin - 1 && su == 2 ^ (f.mbits + 1))
  let q := max qu (f.emin - f.mbits)
  let (sig, inexact) := roundShift mode neg m (e - q)
  if decide (f.maxQ < q) || (q == f.maxQ && decide (f.maxSig < sig)) then
    ⟨f.overflow mode sat neg, flagOF + flagIX⟩
  else if ftz && f.ftz && sig != 0 && decide (sig < 2 ^ f.mbits) then
    ⟨f.signed neg 0, flagUF + flagIX⟩
  else
    -- a carry out of the significand raises the exponent field by itself
    let pat := if sig < 2 ^ f.mbits then sig
      else ((q - (f.emin - f.mbits)).toNat + 1) * 2 ^ f.mbits + (sig - 2 ^ f.mbits)
    ⟨f.signed neg pat, flagIf inexact flagIX + flagIf (tiny && inexact) flagUF⟩

/-- RoundFP of an exact number; a zero keeps the sign given. -/
def FFmt.round (f : FFmt) (mode : Nat) (sat ftz neg : Bool) (m : Nat) (e : Int) : FRes :=
  if m = 0 then ⟨f.signed neg 0, 0⟩ else f.roundNonzero mode sat ftz neg m e

/-- The canonical NaN, with IV when asked for; E2M1 delivers +0 and always raises IV (R36). -/
def FFmt.deliverNan (f : FFmt) (iv : Bool) : FRes := ⟨f.nanPat, flagIf (iv || f == fmtE2M1) flagIV⟩

/-- An infinity delivered to a format (R34, R39). -/
def FFmt.deliverInf (f : FFmt) (sat neg : Bool) : FRes :=
  match f.special with
  | .ieee => ⟨f.signed neg f.infPat, 0⟩
  | .e4m3 => if sat then ⟨f.signed neg f.maxPat, 0⟩ else ⟨0x7F, flagIV⟩
  | .e2m1 => ⟨f.signed neg f.maxPat, flagIf (!sat) flagIV⟩

/-- A value delivered to a format, rounded once; a NaN is quiet or signalling (R36, R38, R39). -/
def FFmt.deliver (f : FFmt) (mode : Nat) (sat ftz : Bool) : FVal → FRes
  | .nan s => f.deliverNan s
  | .inf n => f.deliverInf sat n
  | .num n m e => f.round mode sat ftz n m e

/-! ## Sums and products (R132, R134, R145) -/

/-- a × b exactly; the Bool says ∞ × 0. -/
def FVal.mul (a b : FVal) : FVal × Bool :=
  match a, b with
  | .nan s, y => (.nan (s || y.isSnan), y.isInf && false)
  | x, .nan s => (.nan (s || x.isSnan), false)
  | .inf n, y => if y.isZero then (.nan false, true) else (.inf (n != y.neg), false)
  | x, .inf n => if x.isZero then (.nan false, true) else (.inf (n != x.neg), false)
  | .num n m e, .num n' m' e' => (.num (n != n') (m * m') (e + e'), false)

/-- The exact sum of finite terms as an integer multiple of 2^e. -/
def exactSum (terms : List FVal) : Int × Int :=
  let lo := terms.foldl (fun acc t => match t with
    | .num _ m e => if m = 0 then acc else (match acc with
      | none => some e
      | some a => some (min a e))
    | _ => acc) (none : Option Int)
  match lo with
  | none => (0, 0)
  | some e0 =>
    (terms.foldl (fun acc t => match t with
      | .num n m e => if m = 0 then acc
        else acc + (if n then -((m * 2 ^ (e - e0).toNat : Nat) : Int) else ((m * 2 ^ (e - e0).toNat : Nat) : Int))
      | _ => acc) 0, e0)

/-- Whether the sign of an exact zero sum is negative (R132). -/
def zeroSumNeg (mode : Nat) (terms : List FVal) : Bool :=
  if terms.all (fun t => t.isZero && t.neg) then true
  else if terms.all (fun t => t.isZero && !t.neg) then false
  else mode == 3

/-- Infinite terms of both signs. -/
def mixedInf (terms : List FVal) : Bool :=
  terms.any (fun t => t.isInf && t.neg) && terms.any (fun t => t.isInf && !t.neg)

/-- A sum of terms rounded once to a format. `invalid` says that a product was ∞ × 0. -/
def FFmt.sum (f : FFmt) (mode : Nat) (sat ftz invalid : Bool) (terms : List FVal) : FRes :=
  if invalid || mixedInf terms || terms.any FVal.isNan then
    f.deliverNan (invalid || mixedInf terms || terms.any FVal.isSnan)
  else
    match terms.find? FVal.isInf with
    | some t => f.deliverInf sat t.neg
    | none =>
      let (x, e) := exactSum terms
      if x = 0 then ⟨f.signed (zeroSumNeg mode terms) 0, 0⟩
      else f.roundNonzero mode sat ftz (x < 0) x.natAbs e

/-- A product rounded once. -/
def FFmt.product (f : FFmt) (mode : Nat) (sat ftz : Bool) (a b : FVal) : FRes :=
  match a.mul b with
  | (_, true) => f.deliverNan true
  | (v, false) => f.deliver mode sat ftz v

/-! ## Order (R136, R138) -/

/-- Numeric order of two values that are not NaN: -1, 0 or 1. -/
def FVal.compare (a b : FVal) : Int :=
  match a, b with
  | .inf n, .inf n' => if n = n' then 0 else if n then -1 else 1
  | .inf n, _ => if n then -1 else 1
  | _, .inf n => if n then 1 else -1
  | x, y =>
    let (d, _) := exactSum [x, y.flip]
    if d < 0 then -1 else if d = 0 then 0 else 1

/-- Below, with −0 below +0. -/
def FVal.below (a b : FVal) : Bool :=
  let c := a.compare b
  c < 0 || (c == 0 && a.isZero && b.isZero && a.neg && !b.neg)

/-! ## Conversions (R38 to R40) -/

/-- Width of an integer type code 8 to 15. -/
def intWidth (code : Nat) : Nat := 8 * 2 ^ ((code - 8) / 2)

/-- Is the integer type code signed. -/
def intSigned (code : Nat) : Bool := code % 2 == 0

/-- The value of an integer pattern of a type code. -/
def intOfPattern (code p : Nat) : Int :=
  if intSigned code then sextNat p (intWidth code) else ((p % 2 ^ intWidth code : Nat) : Int)

/-- An integer result as it stands in a register or pair: signed types sign-extended to 32 bits (R141). -/
def intToPattern (code : Nat) (x : Int) : Nat :=
  let n := intWidth code
  let low := wrapNat x n
  if n < 32 && intSigned code then wrapNat (sextNat low n) 32 else low

/-- Clamp to the range of an integer type. -/
def intClamp (code : Nat) (x : Int) : Int :=
  if intSigned code then satS x (intWidth code) else satZ x (intWidth code)

/-- Floating point to integer (R40). -/
def floatToInt (code mode : Nat) (v : FVal) : FRes :=
  match v with
  | .nan _ => ⟨intToPattern code 0, flagIV⟩
  | .inf n => ⟨intToPattern code (intClamp code (if n then -(2 ^ 70 : Int) else 2 ^ 70)), flagIV⟩
  | .num n m e =>
    let (r, inexact) := roundShift mode n m e
    let x : Int := if n then -(r : Int) else r
    let y := intClamp code x
    if x = y then ⟨intToPattern code y, flagIf inexact flagIX⟩ else ⟨intToPattern code y, flagIV⟩

/-- Floating point to E8M0 (R39). -/
def floatToE8M0 (v : FVal) : FRes :=
  match v with
  | .num _ m e =>
    if m = 0 then ⟨0xFF, flagIV⟩
    else
      let lead := e + (Nat.log2 m : Int)
      let c := min (max lead (-127)) 127
      ⟨(c + 127).toNat, flagIf (m != 2 ^ Nat.log2 m || c != lead) flagIX⟩
  | _ => ⟨0xFF, flagIV⟩

/-- The value of an E8M0 pattern (R26). -/
def e8m0Value (p : Nat) : FVal := if p % 256 = 255 then .nan false else .num false 1 ((p % 256 : Nat) - 127)

/-- `cvt` of one lane (R141, R142): destination and source type codes of Table 5.2. Between integer types SAT clamps to a narrower type
(R40); to a type of the same width it has no effect (DESIGN CHOICE, notes/assumptions/20.md). A subnormal result is flushed under FTZ as
R35 says, also from a format whose conversion Table 2.7 calls exact (DESIGN CHOICE, notes/assumptions/43.md). -/
def convert (dst src mode : Nat) (sat ftz : Bool) (p : Nat) : FRes :=
  if 8 ≤ src ∧ 8 ≤ dst then
    let x := intOfPattern src p
    let y := if sat && intWidth dst < intWidth src then intClamp dst x else x
    ⟨intToPattern dst y, 0⟩
  else
    let v := if 8 ≤ src then FVal.ofInt (intOfPattern src p) 0
      else if src = 7 then e8m0Value p
      else (fmtOfCode src).decode ftz p
    if 8 ≤ dst then floatToInt dst mode v
    else if dst = 7 then floatToE8M0 v
    else (fmtOfCode dst).deliver mode sat ftz v

/-! ## Roots and quotients -/

/-- Bits of the integer square root of x, from bit k down, structurally. -/
def isqrtFrom : Nat → Nat → Nat → Nat
  | 0, _, r => r
  | k + 1, x, r =>
    let t := r + 2 ^ k
    if t * t ≤ x then isqrtFrom k x t else isqrtFrom k x r

/-- The integer square root. -/
def isqrt (x : Nat) : Nat := isqrtFrom (Nat.log2 x / 2 + 1) x 0

/-- A truncated significand with a sticky bit appended: it rounds as the exact value does. -/
def sticky (q : Nat) (inexact : Bool) : Nat := 2 * q + (if inexact then 1 else 0)

/-- 1/(m 2^e) as a dyadic that rounds like it, for 24-bit results. -/
def recipDyadic (m : Nat) (e : Int) : Nat × Int :=
  let k := Nat.log2 m + 40
  (sticky (2 ^ k / m) (2 ^ k % m != 0), -(k : Int) - e - 1)

/-- The square root of m 2^e as a dyadic that rounds like it. -/
def sqrtDyadic (m : Nat) (e : Int) : Nat × Int :=
  -- an even exponent, and at least forty result bits
  let sh : Nat := if (e - 80) % 2 = 0 then 80 else 81
  let x := m * 2 ^ sh
  let r := isqrt x
  (sticky r (r * r != x), (e - sh) / 2 - 1)

/-- 1/sqrt(m 2^e) as a dyadic that rounds like it. -/
def rsqrtDyadic (m : Nat) (e : Int) : Nat × Int :=
  -- 1/sqrt(m 2^e) = sqrt(2^k / m) 2^(-(k + e)/2) with k + e even
  let k0 := 2 * Nat.log2 m + 80
  let k : Nat := if ((k0 : Int) + e) % 2 = 0 then k0 else k0 + 1
  let q := 2 ^ k / m
  let r := isqrt q
  (sticky r (r * r * m != 2 ^ k), (-((k : Int) + e)) / 2 - 1)

end Sys2Proof.Machine
end

