-- ==== Sys2Proof/Config.lean ====
section
/-!
DEFINITION. What the spec leaves open, or names without defining: free values without a body, and the published
cryptographic standards as uninterpreted functions. No proof can evaluate any of them, so a claim that uses one holds
for every value of it (notes/assumptions/2.md, 4.md).
-/
namespace Sys2Proof.Config

/-- A free number: which of several allowed outcomes occurs, or how many cycles pass. Applied to a counter of the
state, a fresh one each time (notes/assumptions/2.md). -/
opaque freeNat : Nat → Nat

/-- A free byte: contents that the spec calls unpredictable or does not state (R170, R198). -/
opaque freeByte : Nat → Byte

/-- SHA3-512 of a byte string (R396, R409), a published standard. -/
opaque sha3 : List Byte → BitVec 512

/-- The 4,627-byte ML-DSA-87 signature under Hearth's device key (R396). -/
opaque signature : BitVec 512 → List Byte

/-- Whether an image's ML-DSA-87 signature verifies against the key in ROM (R409). -/
opaque imageVerifies : List Byte → Bool

/-- KMAC256 under the migration key of an interface, L = 64 (R371). -/
opaque migrationTag : Nat → List Byte → DWord

/-- What a block reads as when it is decrypted under other keys than it was written under (R349): domain and keys of the write, domain
and keys of the read, byte address on the drive, stored byte. -/
opaque wrongKey : Nat × Nat → Nat × Nat → Nat → Byte → Byte

/-- The 32-byte KEYID of Hearth's public key (R396). -/
opaque keyId : List Byte

end Sys2Proof.Config
end

