-- ==== Sys2Proof/Machine/Ops.lean ====
section
/-!
DEFINITION. The named operations over the state: looking things up and changing them by name, register and predicate
access (R47 to R55, R66), the group-visible status registers (Tables 3.8 to 3.10), ending a launch (R208, R298, R198),
error records (R389, R390), taking a trap (Table 11.8, R206, R208) and returning from one (R207), rejoin evaluation
(R125, R126), restartable regions (R229, R231), and the end of a clause.
-/
namespace Sys2Proof.Machine

/-! ## Looking things up -/

/-- The cohort of a group. -/
def GRefCohort (g : GRef) : CRef := ⟨g.lid, g.cid⟩

/-- A cohort by name: on a core, else in a context frame, where its issued words go on (R307). -/
def State.cohort? (s : State) (r : CRef) : Option Cohort :=
  (s.cohorts.find? (fun c => c.ref == r)).or ((s.frames.find? (fun f => f.cohort.ref == r)).map (fun f => f.cohort))

/-- Every cohort once: those on cores, then those in frames. -/
def State.allCohorts (s : State) : List Cohort :=
  s.cohorts ++ ((s.frames.map (fun f => f.cohort)).filter (fun c => !s.cohorts.any (fun k => k.ref == c.ref)))

def State.launch? (s : State) (lid : Nat) : Option Launch := s.launches.find? (fun l => l.lid == lid)
def State.core? (s : State) (no : Nat) : Option Core := s.cores.find? (fun c => c.no == no)
def State.cluster? (s : State) (no : Nat) : Option Cluster := s.clusters.find? (fun c => c.no == no)
def State.die? (s : State) (no : Nat) : Option Die := s.dies.find? (fun d => d.no == no)
def State.queue? (s : State) (qid : Nat) : Option Queue := s.queues.find? (fun q => q.qid == qid)
def State.vif? (s : State) (no : Nat) : Option Vif := s.vifs.find? (fun v => v.no == no)
def State.part? (s : State) (no : Nat) : Option Partition := s.parts.find? (fun p => p.no == no)
def State.cmd? (s : State) (id : Nat) : Option Cmd := s.cmds.find? (fun c => c.id == id)
def State.mgroup? (s : State) (no : Nat) : Option MGroup := s.mgroups.find? (fun m => m.no == no)
def Cohort.group? (c : Cohort) (gid : Nat) : Option Group := c.groups.find? (fun g => g.gid == gid)

def State.group? (s : State) (g : GRef) : Option Group :=
  match s.cohort? (GRefCohort g) with
  | none => none
  | some c => c.group? g.gid

/-! ## Changing things by name -/

def State.modCohort (s : State) (r : CRef) (f : Cohort → Cohort) : State :=
  { s with cohorts := updateWhere (fun c => c.ref == r) f s.cohorts
           frames := updateWhere (fun (x : Frame) => x.cohort.ref == r) (fun x => { x with cohort := f x.cohort }) s.frames }
/-- Change a cohort on its core alone: a frame that it is being restored from stays as it is (R308). -/
def State.modSeated (s : State) (r : CRef) (f : Cohort → Cohort) : State :=
  { s with cohorts := updateWhere (fun c => c.ref == r) f s.cohorts }
def Cohort.modGroup (c : Cohort) (gid : Nat) (f : Group → Group) : Cohort :=
  { c with groups := updateWhere (fun g => g.gid == gid) f c.groups }
def State.modGroup (s : State) (g : GRef) (f : Group → Group) : State :=
  s.modCohort (GRefCohort g) (fun c => c.modGroup g.gid f)
def State.modRegs (s : State) (g : GRef) (f : Regs → Regs) : State :=
  s.modGroup g (fun x => { x with r := f x.r })
def State.modLaunch (s : State) (lid : Nat) (f : Launch → Launch) : State :=
  { s with launches := updateWhere (fun l => l.lid == lid) f s.launches }
def State.modCore (s : State) (no : Nat) (f : Core → Core) : State :=
  { s with cores := updateWhere (fun c => c.no == no) f s.cores }
def State.modCluster (s : State) (no : Nat) (f : Cluster → Cluster) : State :=
  { s with clusters := updateWhere (fun c => c.no == no) f s.clusters }
def State.modDie (s : State) (no : Nat) (f : Die → Die) : State :=
  { s with dies := updateWhere (fun d => d.no == no) f s.dies }
def State.modQueue (s : State) (qid : Nat) (f : Queue → Queue) : State :=
  { s with queues := updateWhere (fun q => q.qid == qid) f s.queues }
def State.modVif (s : State) (no : Nat) (f : Vif → Vif) : State :=
  { s with vifs := updateWhere (fun v => v.no == no) f s.vifs }
def State.modPart (s : State) (no : Nat) (f : Partition → Partition) : State :=
  { s with parts := updateWhere (fun p => p.no == no) f s.parts }
def State.modCmd (s : State) (id : Nat) (f : Cmd → Cmd) : State :=
  { s with cmds := updateWhere (fun c => c.id == id) f s.cmds }
def State.modMGroup (s : State) (no : Nat) (f : MGroup → MGroup) : State :=
  { s with mgroups := updateWhere (fun m => m.no == no) f s.mgroups }

/-- Put a device event among the pending ones, once. -/
def State.post (s : State) (i : Instr) : State :=
  if s.pend.contains i then s else { s with pend := s.pend ++ [i] }

/-- Send a message out of the package. -/
def State.send (s : State) (m : Message) : State := { s with out := s.out ++ [m] }

/-- The message of an MSI-X vector, while the function and the entry are unmasked (R367). -/
def Vif.message? (v : Vif) (vector : Nat) : Option Message :=
  if v.msixOn && !v.msixMask && !((v.msix.nat (16 * vector + 12) 4).testBit 0) then
    some (.interrupt v.no vector (v.msix.nat (16 * vector) 8) (v.msix.nat (16 * vector + 8) 4))
  else none

/-- Signal a vector of an interface: its message leaves, or is pending (PRESUMED, as PCIe MSI-X; notes/assumptions/48.md). -/
def State.signal (s : State) (vif vector : Nat) : State :=
  match s.vif? vif with
  | none => s
  | some v =>
    match v.message? vector with
    | some m => s.send m
    | none => s.modVif vif (fun v => { v with msixPending := insertNat vector v.msixPending })

/-- Pending messages that are masked no more leave. -/
def State.flushMsix (s : State) (vif : Nat) : State :=
  match s.vif? vif with
  | none => s
  | some v =>
    let s := s.modVif vif (fun v => { v with msixPending := v.msixPending.filter (fun k => (v.message? k).isNone) })
    (v.msixPending.filterMap v.message?).foldl State.send s

/-- A free number below n (at least 1), for what the spec leaves open (notes/assumptions/2.md). -/
def State.freeBelow (s : State) (n : Nat) : Nat := Config.freeNat s.fresh % (max n 1)

/-- The free-value counter moves on. -/
def State.tick (s : State) : State := { s with fresh := s.fresh + 1 }

/-! ## Places -/

/-- The cluster of a core. -/
def clusterOf (core : Nat) : Nat := core / 12

/-- The compute die of a core. -/
def dieOf (core : Nat) : Nat := core / 96

/-! ## Registers (R47 to R55, R66) -/

/-- Key of register n in lane i. -/
def vKey (n lane : Nat) : Nat := 16 * n + lane

/-- Contents of the register that an encoding 0x00 to 0xDF names. -/
def Regs.read (r : Regs) (n lane : Nat) : Word :=
  if n < 0xC0 then SMap.get r.v 0 (vKey n lane) else SMap.get r.w 0 (n - 0xC0)

/-- Key of a 4-byte unit of register state in the poison marks (R386). -/
def unitKey (n lane : Nat) : Nat := if n < 0xC0 then vKey n lane else 16 * n

/-- A unit is written: inside a region the unit is noted (R387). -/
def Regs.note (r : Regs) (k : Nat) : Regs := if r.inReg then { r with written := SMap.set r.written false k true } else r

/-- Write it, without regard to full and empty. -/
def Regs.write (r : Regs) (n lane : Nat) (x : Word) : Regs :=
  let r := r.note (unitKey n lane)
  if n < 0xC0 then { r with v := SMap.set r.v 0 (vKey n lane) x }
  else { r with w := SMap.set r.w 0 (n - 0xC0) x }

/-- IsEmpty(r, lane). -/
def Regs.isEmpty (r : Regs) (n lane : Nat) : Bool :=
  if n < 0xC0 then (SMap.get r.ev (0 : Mask) n).getLsbD lane else r.ew.getLsbD (n - 0xC0)

/-- MarkEmpty and MarkFull over a set of lanes; a w register has one bit. -/
def Regs.setEmpty (r : Regs) (n : Nat) (lanes : Mask) (e : Bool) : Regs :=
  if n < 0xC0 then
    let old := SMap.get r.ev (0 : Mask) n
    { r with ev := SMap.set r.ev (0 : Mask) n (if e then old ||| lanes else old &&& ~~~lanes) }
  else if lanes = 0 then r
  else
    let b : BitVec 32 := 1#32 <<< (n - 0xC0)
    { r with ew := if e then r.ew ||| b else r.ew &&& ~~~b }

/-- Mark n consecutive registers. -/
def Regs.setEmptyN (r : Regs) (dst n : Nat) (lanes : Mask) (e : Bool) : Regs :=
  (List.range n).foldl (fun r k => r.setEmpty (dst + k) lanes e) r

/-- Predicate pn of a lane; p7 reads 1 (Table 3.1). -/
def Regs.pred (r : Regs) (n lane : Nat) : Bool :=
  if n = 7 then true else ((r.lanes.toList.getD lane (Lane.start 0)).preds).getLsbD n

/-- Change one lane. -/
def Regs.modLane (r : Regs) (lane : Nat) (f : Lane → Lane) : Regs :=
  { r with lanes := r.lanes.mapIdx (fun i l => if i = lane then f l else l) }

/-- Change the lanes of a mask. -/
def Regs.modLanes (r : Regs) (m : Mask) (f : Nat → Lane → Lane) : Regs :=
  { r with lanes := r.lanes.mapIdx (fun i l => if m.getLsbD i then f i l else l) }

/-- Lane i. -/
def Regs.lane (r : Regs) (i : Nat) : Lane := r.lanes.toList.getD i (Lane.start 0)

/-- Write a predicate; a write to p7 is discarded. -/
def Regs.setPred (r : Regs) (n lane : Nat) (b : Bool) : Regs :=
  if n = 7 then r
  else r.modLane lane (fun l =>
    { l with preds := if b then l.preds ||| (1#7 <<< n) else l.preds &&& ~~~(1#7 <<< n) })

/-- CheckReg (R50): the cause that register n takes, if any. `breg` and `xreg` are the declared counts. -/
def Regs.checkReg (r : Regs) (breg xreg n : Nat) : Option Nat :=
  if n < 0xC0 then
    if (breg ≤ n ∧ n < 128) ∨ 128 + xreg ≤ n then some 0x05
    else if 128 ≤ n ∧ r.xheld = false then some 0x1A
    else none
  else none

/-! ## Accumulators (R147, R164) -/

/-- Key of element (i, j) of tile n. -/
def accKey (n i j : Nat) : Nat := 1024 * n + 64 * i + j

/-- Whether operations on tile n act on its shadow. -/
def Regs.shadowed (r : Regs) (n : Nat) : Bool := r.inReg && r.regMask.getLsbD n

/-- Element (i, j) of tile n as a program sees it. -/
def Regs.accRead (r : Regs) (n i j : Nat) : Word :=
  if r.shadowed n then SMap.get r.shadow 0 (accKey n i j) else SMap.get r.acc 0 (accKey n i j)

def Regs.accWrite (r : Regs) (n i j : Nat) (x : Word) : Regs :=
  let r := r.note (2 ^ 16 + accKey n i j)
  if r.shadowed n then { r with shadow := SMap.set r.shadow 0 (accKey n i j) x }
  else { r with acc := SMap.set r.acc 0 (accKey n i j) x }

/-- The entries of the tiles in a mask. -/
def accOf (m : SMap Word) (mask : BitVec 8) : SMap Word := m.filter (fun (k, _) => mask.getLsbD (k / 1024))

/-- Copy the masked tiles to the shadows. -/
def Regs.takeShadows (r : Regs) : Regs := { r with shadow := accOf r.acc r.regMask }

/-- Commit the shadows (R164): the masked tiles take the shadows' values. -/
def Regs.commitShadows (r : Regs) : Regs :=
  let keep := r.acc.filter (fun (k, _) => !r.regMask.getLsbD (k / 1024))
  { r with acc := (accOf r.shadow r.regMask).foldr (fun (k, v) m => SMap.set m 0 k v) keep, shadow := [] }

/-- Key of an accumulator word in the poison marks: of the slot that the program sees (R166, R386). -/
def Regs.accUnit (r : Regs) (n i j : Nat) : Nat := (if r.shadowed n then 2 ^ 17 else 2 ^ 16) + accKey n i j

/-- Where a poisoned unit of a group comes from: it is an error inside the current region (R387), and the injector made it (R392). -/
structure Origin where
  ours : Bool
  inj : Bool
  deriving DecidableEq, Repr

/-- Poison marks after the masked tiles have been copied to their shadows: poison travels with the copy (R386). -/
def copyMarks (m : SMap Bool) (mask : BitVec 8) : SMap Bool :=
  let kept := m.filter (fun p => p.1 < 2 ^ 17)
  let tiles := kept.filter (fun p => 2 ^ 16 ≤ p.1 && mask.getLsbD ((p.1 - 2 ^ 16) / 1024))
  kept ++ tiles.map (fun p => (p.1 + 2 ^ 16, false))

/-- Poison marks after the shadows have become the primaries. -/
def commitMarks (m : SMap Bool) (mask : BitVec 8) : SMap Bool :=
  let kept := m.filter (fun p => p.1 < 2 ^ 16 || (p.1 < 2 ^ 17 && !mask.getLsbD ((p.1 - 2 ^ 16) / 1024)))
  (m.filter (fun p => 2 ^ 17 ≤ p.1)).foldl (fun k p => SMap.ins k (p.1 - 2 ^ 16) false) kept

/-! ## Status registers (Tables 3.8 to 3.10) -/

/-- GSTAT. -/
def gstat (l : Launch) (c : Cohort) (g : Group) : Nat :=
  (if c.classH then 2 ^ 31 else 0) + (if c.checked then 2 ^ 30 else 0) + (if g.r.inReg then 2 ^ 29 else 0) +
    (if g.r.inTrap then 2 ^ 28 else 0) + (g.gid % 256) * 65536 + (l.breg % 256) * 256

/-- TCAUSE from its fields. -/
def tcauseOf (code info : Nat) (lanes : Mask) : Word := w32 (lanes.toNat * 65536 + info % 256 * 256 + code % 256)

/-- The handler address, TVEC.ENTRY × 8. -/
def Regs.handlerPc (r : Regs) : DWord := r.tvec &&& ~~~7#64

/-- The partner's gid in a pair of groups (R55). -/
def partnerGid (gid : Nat) : Nat := if gid % 2 = 0 then gid + 1 else gid - 1

/-! ## Error records (R389, R390) -/

/-- An error record with every field zero. -/
def ErrRec.zero : ErrRec :=
  { seq := 0, etype := 0, code := 0, src := 0, action := 0, tunv := false, inj := false, die := 0, unit := 0, pa := 0,
    va := 0, lid := 0, part := none, kdom := 0, gid := 0xFFFF, pc := 0, count := 1, seen := false }

/-- The 64 bytes of a record (Table 24.3). -/
def ErrRec.toBytes (e : ErrRec) : List Byte :=
  leBytes e.seq 8 ++ leBytes e.etype 1 ++ leBytes e.code 1 ++ leBytes e.src 1 ++ leBytes e.action 1 ++
    leBytes ((if e.tunv then 1 else 0) + (if e.inj then 2 else 0)) 1 ++ leBytes e.die 1 ++ leBytes e.unit 2 ++ leBytes e.pa 8 ++
    leBytes e.va 8 ++ leBytes e.lid 4 ++ leBytes (e.part.getD 0) 1 ++ leBytes e.kdom 1 ++ leBytes e.gid 2 ++ leBytes e.pc.toNat 8 ++
    leBytes e.count 4 ++ leBytes 0 12

/-- The two records of Table 24.3a. -/
def ErrRec.logPair (e : ErrRec) : List LogRec :=
  [leBytes e.seq 8 ++ leBytes 0xFE 1 ++ leBytes e.etype 1 ++ leBytes e.action 1 ++ leBytes e.code 1 ++
     leBytes e.lid 4 ++ leBytes e.va 8 ++ leBytes e.pa 8,
   leBytes e.seq 8 ++ leBytes 0xFF 1 ++ leBytes e.src 1 ++
     leBytes ((if e.tunv then 1 else 0) + (if e.inj then 2 else 0)) 1 ++ leBytes e.die 1 ++ leBytes e.count 4 ++
     leBytes e.pc.toNat 8 ++ leBytes e.unit 2 ++ leBytes e.gid 2 ++ leBytes e.kdom 1 ++ leBytes 0 3]

/-- Append records to a partition's access-log buffer of 32,768 records, or make them wait for room together (R377). -/
def Partition.appendLog (p : Partition) (rs : List LogRec) : Partition :=
  if p.logWait.isEmpty ∧ p.log.length + rs.length ≤ 32768 then { p with log := p.log ++ rs }
  else { p with logWait := p.logWait ++ [rs] }

/-- A full log of 4,096 records loses its oldest corrected-error record, or else the oldest that firmware has read; with neither it
keeps all and takes one more (R389; DESIGN CHOICE, notes/assumptions/43.md). -/
def makeRoom (log : List ErrRec) : List ErrRec :=
  if log.length < 4096 then log
  else
    match (log.find? (fun e => e.etype == 1)).or (log.find? (fun e => e.seen)) with
    | some e => removeFirst e log
    | none => log

/-- The next Hearth sequence number (R411: epoch in [63:40], count in [39:0]). -/
def Hearth.seq (h : Hearth) : Nat := h.epoch * 2 ^ 40 + h.count % 2 ^ 40

/-- Write an error record, and copy one that is about a partition to its buffer (R389). -/
def State.logError (s : State) (e : ErrRec) : State :=
  let e := { e with seq := s.hearth.seq }
  let s := { s with hearth := { s.hearth with count := s.hearth.count + 1, errlog := makeRoom s.hearth.errlog ++ [e] } }
  match e.part with
  | some part => if s.parts.any (fun p => p.no == part) then s.modPart part (fun p => p.appendLog e.logPair) else s
  | none => s

/-! ## Ending a launch (R198, R208, R298) -/

/-- The root of a launch's tree, following parents at most n times. -/
def State.rootLid (s : State) : Nat → Nat → Nat
  | 0, lid => lid
  | n + 1, lid =>
    match s.launch? lid with
    | some l => (match l.parentLid with
      | some p => s.rootLid n p
      | none => lid)
    | none => lid

/-- Whether a launch lies in the tree of a root. -/
def State.inTree (s : State) (root lid : Nat) : Bool := s.rootLid s.launches.length lid == root

/-- Unstarted tiles of a launch in every dispenser of the package, tiles in transit included (R218). -/
def State.tilesLeft (s : State) (lid : Nat) : Nat :=
  s.clusters.foldl (fun n c =>
    n + (c.ranges.foldl (fun m t => if t.lid = lid then m + (t.hi - t.lo) else m) 0) +
      (c.steals.foldl (fun m st => match st.st with
        | .shipped rs => if st.lid = lid then rs.foldl (fun m t => m + (t.2 - t.1)) m else m
        | _ => m) 0)) 0

/-- The clusters that a dispenser asks for tiles, in order (R220). -/
def victims (cluster : Nat) : List Nat :=
  let d := cluster / 8
  let c := cluster % 8
  (List.range 7).map (fun k => 8 * d + (c + k + 1) % 8) ++
    [(d + 1) % 4, (d + 3) % 4, (d + 2) % 4].flatMap (fun e => (List.range 8).map (fun k => 8 * e + k))

/-- Unstarted tiles of a launch at a cluster's dispenser; a shipped range belongs to it until the thief adopts it (R221). -/
def State.clusterTiles (s : State) (cluster lid : Nat) : Nat :=
  let own := ((s.cluster? cluster).map (fun k => (k.ranges.filter (fun t => t.lid == lid)).foldl (fun n t => n + (t.hi - t.lo)) 0)).getD 0
  s.clusters.foldl (fun n k => k.steals.foldl (fun n st => match st.st with
    | .shipped rs => if st.lid = lid ∧ (victims k.no)[st.victim]? = some cluster then rs.foldl (fun m t => m + (t.2 - t.1)) n else n
    | _ => n) n) own

/-- The tiles [lo, hi) of its index space that a launch has in a package (R219): in proportion to the cores granted in each, what is left
over going one each to the packages from the lowest number on. -/
def Launch.share (l : Launch) (pkg : Nat) : Nat × Nat :=
  let tiles := l.tilesX * l.tilesY * l.tilesZ
  if l.grants.isEmpty then (0, tiles)
  else
    let all := (l.grants.map (fun p => p.2)).foldl (· + ·) 0
    let order := ((l.grants.map (fun p => p.1)).foldl (fun ps p => insertNat p ps) []).map (fun p =>
      ((l.grants.filter (fun g => g.1 == p)).map (fun g => g.2)).foldl (· + ·) 0 * tiles / max all 1)
    let over_ := tiles - order.foldl (· + ·) 0
    let pkgs := (l.grants.map (fun p => p.1)).foldl (fun ps p => insertNat p ps) []
    let sizes := (List.range order.length).map (fun k => order.getD k 0 + (if k < over_ then 1 else 0))
    match pkgs.findIdx? (fun p => p == pkg) with
    | none => (0, 0)
    | some k => ((sizes.take k).foldl (· + ·) 0, (sizes.take (k + 1)).foldl (· + ·) 0)

/-- The page that a record is kept by, VA and IPA pages told apart (R335, R336). -/
def FaultRec.pageKey (r : FaultRec) : Nat := 2 * r.page + (if r.kind = 3 ∨ r.kind = 4 then 1 else 0)

/-- Tiles of a launch that have not been started in this package: all of its share before its first bind record (R219, R295). -/
def State.unstarted (s : State) (l : Launch) : Nat :=
  if l.placed then s.tilesLeft l.lid else (l.share s.pkg).2 - (l.share s.pkg).1

/-- Put a completion entry in its queue's list (R295). -/
def State.complete (s : State) (l : Launch) (stat code : Nat) (tpc taddr : DWord) : State :=
  let e : Completion := { cring := l.cring, clog := l.clog, idx := l.idx, stat := stat, code := code, left := s.unstarted l, tag := l.tag,
                          tpc := tpc, taddr := taddr }
  (s.modQueue l.qid (fun q => { q with compl := q.compl ++ [e] })).post (.completionEntryWrite l.qid)

/-- End a command with a status word (R197, R198). -/
def State.endCmd (s : State) (id : Nat) (status : Nat) : State :=
  let drop (e : Engine) : Engine := { e with queueG := e.queueG.filter (fun i => i != id), queueH := e.queueH.filter (fun i => i != id) }
  ({ s with engines := s.engines.map drop }.modCmd id (fun c => match c.stage with
    | .done _ => c
    | _ => { c with stage := .done (w32 status), waiting := false })).post (.commandCompletion id)

/-- A band entry as it stands unallocated (R274). -/
def Band.release (lids : Nat → Bool) (bs : List Band) : List Band := bs.filter (fun b => !lids b.lid)

/-- Stop every launch of a tree and report one completion entry for the root. -/
def State.endTree (s : State) (root stat code : Nat) (tpc taddr : DWord) : State :=
  let dead : Nat → Bool := fun lid => s.inTree root lid
  let s : State := match s.launch? root with
    | some l => if l.phase = LaunchPhase.over then s else s.complete l stat code tpc taddr
    | none => s
  let cmds := (s.cmds.filter (fun c => dead c.owner.lid)).map (fun c => c.id)
  let s : State := cmds.foldl (fun s id => s.endCmd id 5) s
  { s with
    launches := updateWhere (fun l => dead l.lid) (fun l => { l with phase := .over }) s.launches
    cohorts := s.cohorts.filter (fun c => !dead c.ref.lid)
    frames := s.frames.filter (fun f => !dead f.cohort.ref.lid)
    clusters := s.clusters.map (fun c => { c with
      ranges := c.ranges.filter (fun t => !dead t.lid)
      waiting := c.waiting.filter (fun t => !dead t.g.lid)
      steals := c.steals.filter (fun t => !dead t.lid) })
    dies := s.dies.map (fun d => { d with bands := Band.release dead d.bands })
    cores := s.cores.map (fun c => { c with fetches := c.fetches.filter (fun f => !dead f.lid) }) }

/-- A launch fails to its virtual interface (R208, R298): the whole tree stops, with the child's cause. -/
def State.failLaunch (s : State) (lid code : Nat) (tpc taddr : DWord) (tcause first : Word) : State :=
  match s.launch? lid with
  | none => s
  | some l =>
    if l.phase = LaunchPhase.over then s
    else
      let root := s.rootLid s.launches.length lid
      -- a root that has completed already reports the failure of its child as well (R298)
      let s := match s.launch? root with
        | some r => if r.phase = LaunchPhase.over then s.complete r 2 code tpc taddr else s
        | none => s
      (s.endTree root 2 code tpc taddr).send (.faultReport l.vif tcause tpc first)

/-! ## Clause words -/

/-- Address of the word that an issue executes next. -/
def Issue.wordPc (i : Issue) : DWord := i.hdr + w64 (8 * (i.idx + 1))

/-- Words of the instruction that an issue executes next: two for `brx` (R56). -/
def Issue.size (i : Issue) : Nat := if wordOpc (i.words.getD i.idx 0) = 0xD1 then 2 else 1

/-- It is the last of its clause. -/
def Issue.isLast (i : Issue) : Bool := i.idx + i.size ≥ i.words.length

/-- The fall-through header F (07, Control transfer). -/
def Issue.fall (i : Issue) : DWord := i.hdr + w64 (8 * (i.words.length + 1))

/-- Where lanes stand after the word: at the next word, or at F. -/
def Issue.nextPc (i : Issue) : DWord := if i.isLast then i.fall else i.hdr + w64 (8 * (i.idx + i.size + 1))

/-- The issue set of a group. -/
def Group.issue? (g : Group) (second : Bool) : Option Issue := if second then g.run2 else g.run1

def Group.setIssue (g : Group) (second : Bool) (i : Option Issue) : Group :=
  if second then { g with run2 := i } else { g with run1 := i }

/-- A running issue set that has a word to issue and does not wait. -/
def Issue.ready (i : Issue) : Bool := !i.ended && !i.waiting

/-- The lanes of the P2 set that still issue a word in the cycle in which the P1 set issued its word (R99, R128). -/
def Group.sameCycle (g : Group) (second : Bool) : Mask :=
  match g.run2 with
  | some i => if !second && g.p2next && i.ready then i.lanes else 0
  | none => 0

/-- MFR takes what the P1 set's `mfmt` gives it, at the end of the cycle (R154). -/
def Group.takeMfr (g : Group) : Group :=
  match g.mfrNext with
  | some v => { g with r := { g.r with mfr := v }, mfrNext := none }
  | none => g

/-- Header bits (Table 3.2). -/
def hdrTag (h : DWord) : Nat := (h >>> 60).toNat
def hdrClass (h : DWord) : Nat := bitsOf h.toNat 59 57
def hdrCount (h : DWord) : Nat := bitsOf h.toNat 56 53
def hdrRE (h : DWord) : Bool := h.getLsbD 52
def hdrRX (h : DWord) : Bool := h.getLsbD 51

/-- The clause of a slot's buffer at an address. -/
def State.clause? (s : State) (core slot vif : Nat) (pc : DWord) : Option Clause :=
  match s.core? core with
  | none => none
  | some c => c.clauses.find? (fun k => k.slot == slot && k.vif == vif && k.pc == pc)

/-! ## Clause checks (R57, R59) -/

/-- A wait field: its register, if valid. -/
def hdrWaits (h : DWord) : List Nat :=
  (if bitOf h.toNat 40 then [bitsOf h.toNat 49 41] else []) ++ (if bitOf h.toNat 30 then [bitsOf h.toNat 39 31] else [])

/-- A wait field breaks R59. -/
def hdrWaitBad (h : DWord) : Bool :=
  (hdrWaits h).any (fun n => 224 ≤ n) || (!(bitOf h.toNat 40) && bitsOf h.toNat 49 41 != 0) ||
    (!(bitOf h.toNat 30) && bitsOf h.toNat 39 31 != 0)

/-- Major opcodes of the instructions of a body, each with the number of words after it; the second word of `brx` is none. -/
def bodyOpcodes : List DWord → List (Nat × Nat)
  | [] => []
  | [w] => [((wordOpc w).toNat, 0)]
  | w :: x :: rest =>
    if wordOpc w == 0xD1 then ((wordOpc w).toNat, rest.length + 1) :: bodyOpcodes rest
    else ((wordOpc w).toNat, rest.length + 1) :: bodyOpcodes (x :: rest)

/-- The class that an opcode may stand in (Table 3.4, R90); 7 for a control instruction, 8 for none. -/
def opcodeClass (opc : Nat) : Nat :=
  if opc < 0x40 then 0 else if opc < 0x70 then 1 else if opc < 0x90 then 2 else if opc < 0xC0 then 3
  else if opc < 0xC8 then 4 else if opc < 0xD0 then 5 else if opc < 0xE0 then 7 else 8

/-- The INFO of trap 0x02 that a body raises (Table 3.3). -/
def bodyFault (cls : Nat) (words : List DWord) : Option Nat :=
  let ops := bodyOpcodes words
  -- words after a control instruction; its second word is part of a `brx`
  let after (o : Nat × Nat) : Nat := if o.1 = 0xD1 then o.2 - 1 else o.2
  if ops.any (fun o => opcodeClass o.1 != cls && opcodeClass o.1 != 7) then some 0x02
  else if cls = 6 ∧ words.length = 0 then some 0x02
  else if ops.any (fun o => opcodeClass o.1 == 7 && 0 < after o) then some 0x03
  else if ops.any (fun o => o.1 == 0xD1 && o.2 == 0) then some 0x06
  else none

/-- The trap that a fetched clause raises at its header, in the order of Table 5.6. -/
def Clause.fault (k : Clause) : Option (Nat × Nat) :=
  if hdrTag k.hdr ≠ 0xF then some (0x02, 0x01)
  else if hdrClass k.hdr = 7 ∨ bitOf k.hdr.toNat 50 ∨ bitsOf k.hdr.toNat 29 16 ≠ 0 then some (0x02, 0x04)
  else if hdrWaitBad k.hdr then some (0x02, 0x05)
  else if k.bad then some (0x03, 0)
  else (bodyFault (hdrClass k.hdr) k.words).map (fun i => (0x02, i))

/-- The trap of a wait register beyond the bound or not held (R50). WA is checked wholly before WB: the order between the
holding of WA and the bound of WB is the model's (DESIGN CHOICE, notes/assumptions/43.md). -/
def waitTrap (l : Launch) (r : Regs) (h : DWord) : Option (Nat × Nat) :=
  (hdrWaits h).findSome? (fun n => (r.checkReg l.breg l.xreg n).map (fun c => (c, n)))

/-! ## Memory words -/

def opLd : BitVec 8 := 0x90
def opSt : BitVec 8 := 0x91
def opLdw : BitVec 8 := 0x92
def opStf : BitVec 8 := 0x93
def opAtom : BitVec 8 := 0x95
def opCas : BitVec 8 := 0x96
def opFence : BitVec 8 := 0x97
def opPromote : BitVec 8 := 0x98
def opWaitc : BitVec 8 := 0x99
def opWbr : BitVec 8 := 0x9D
def opInvr : BitVec 8 := 0x9E
def opMapset : BitVec 8 := 0x9F
def opMapflush : BitVec 8 := 0xA0
def opPush : BitVec 8 := 0xC0
def opTstream : BitVec 8 := 0xC1
def opBar : BitVec 8 := 0xC3
def opBarb : BitVec 8 := 0xC4

/-- No register destination. -/
def noDst : Nat := 256

/-- The registers that an access leaves empty. -/
def Access.regs (a : Access) : Nat :=
  if a.opc == opAtom || a.opc == opCas then a.size / 4 else if a.opc == opLd || a.opc == opLdw then max 1 (a.size / 4)
  else 1

/-! ## Regions (R229, R231, R164) -/

/-- At the issue of an RE clause. -/
def Regs.enterRegion (r : Regs) (hdr : DWord) : Regs :=
  let r := if r.inReg then { r.commitShadows with inReg := false } else r
  ({ r with rpc := hdr, regMask := r.racc.setWidth 8, entryMask := r.live, inReg := true, written := [] }).takeShadows

/-- At the retirement of an RX clause, and when the last live lane exits inside a region. -/
def Regs.exitRegion (r : Regs) : Regs := if r.inReg then { r.commitShadows with inReg := false, written := [] } else r

/-- A group leaves its region: what it issued there is no longer of the current region (R192, R231). -/
def Group.leaveRegion (x : Group) : Group :=
  if x.r.inReg then
    { x with r := x.r.exitRegion
             poison := commitMarks x.poison x.r.regMask
             injected := commitMarks x.injected x.r.regMask
             fills := x.fills.map (fun f => { f with inRegion := false })
             accs := x.accs.map (fun a => { a with inRegion := false })
             slots := x.slots.map (fun t => { t with acc := { t.acc with inRegion := false } }) }
  else x

/-- A group enters a region: one that is open ends first (R164, R227). -/
def Group.enterRegion (x : Group) (hdr : DWord) : Group :=
  let x := x.leaveRegion
  let r := x.r.enterRegion hdr
  { x with r := r, poison := copyMarks x.poison r.regMask, injected := copyMarks x.injected r.regMask }

/-- Words whose results are discarded with an attempt: fills of the region, and the results of accesses of the region,
which are still performed (R97, R231). -/
def Group.dropRegionFills (g : Group) : Group :=
  let gone := g.fills.filter (fun f => f.inRegion)
  let goneA := (g.accs.filter (fun a => a.inRegion)) ++
    ((g.slots.filter (fun t => t.acc.inRegion)).map (fun t => t.acc))
  let r := gone.foldl (fun r f => r.setEmptyN f.dst f.regs (maskOf (f.vals.map (fun p => p.1))) false) g.r
  let r := goneA.foldl (fun r a => if a.noFill || a.dst ≥ 256 then r else r.setEmptyN a.dst a.regs a.lanes false) r
  { g with r := r, fills := g.fills.filter (fun f => !f.inRegion),
           accs := g.accs.map (fun a => if a.inRegion then { a with noFill := true } else a),
           slots := g.slots.filter (fun t => !t.acc.inRegion) }

/-- Traps held while the group was in its handler (R208). -/
def Regs.heldTraps (r : Regs) : List Posted :=
  r.held20.toList.map (fun i => ⟨0x20, i, none⟩) ++ r.held38.toList.map (fun i => ⟨0x38, i, none⟩)

/-- Poison marks of before a checked clause that its buffered writes have cleared stand again (R106). -/
def Group.poisonBack (g : Group) : SMap Bool := g.ckPoison.foldl (fun m p => SMap.ins m p.1 p.2) g.poison

/-- Register n of a lane still has a result on its way: a fill, an access, or a replay slot. -/
def Group.awaitsResult (g : Group) (n lane : Nat) : Bool :=
  let covers (a : Access) : Bool := !a.noFill && a.dst ≤ n && n < a.dst + a.regs && a.lanes.getLsbD lane
  g.fills.any (fun f => f.dst ≤ n && n < f.dst + f.regs && f.vals.any (fun p => p.1 == lane)) || g.accs.any covers ||
    g.slots.any (fun t => covers t.acc)

/-- Lanes that live again at a restart: their registers whose results were discarded while they were out of the live set (R53) are full
again. A register that is empty without a result of the group's own is one of a `fetcht`, and waits on. -/
def Group.revive (g : Group) (lanes : Mask) : Group :=
  let lost (n : Nat) (m : Mask) : Mask := maskWhere (fun i => m.getLsbD i && lanes.getLsbD i && !g.awaitsResult n i)
  let fetched (n : Nat) (m : Mask) : Bool := laneNumbers.any (fun i => m.getLsbD i && !lanes.getLsbD i && !g.awaitsResult n i)
  let ev := (g.r.ev.map (fun p => (p.1, if fetched p.1 p.2 then p.2 else p.2 &&& ~~~lost p.1 p.2))).filter (fun p => p.2 != 0)
  { g with r := { g.r with ev := ev } }

/-- Restart of a group's region at RPC (Table 12.4). -/
def Group.restart (g : Group) : Group :=
  -- an uncommitted checked clause is discarded with the attempt
  let g := match g.ck with
    | some r => { g with r := r, ck := none, unsent := [], poison := g.poisonBack, sending := [] }
    | none => { g.takeMfr with sending := [] }
  let g := g.dropRegionFills
  -- the handler's state is dropped: traps held for its return can be taken (R208)
  let g := if g.r.inTrap then
      { g with posted := g.posted ++ g.r.heldTraps }
    else g
  let g := g.revive (g.r.entryMask &&& ~~~g.r.live)
  let r := { g.r.takeShadows with held20 := none, held38 := none, written := [], live := g.r.entryMask, inTrap := false, handler := 0, retted := 0, wait := .none,
                                  outer := .none }
  { g with
    r := r.modLanes r.entryMask (fun _ l => { l with pc := r.rpc, hdr := r.rpc, tok := none, parked := false })
    run1 := none, run2 := none, late := [], parks := [], p2next := false, due := none, ckPoison := [], replaying := false,
    retired := false,
    poison := copyMarks g.poison r.regMask
    injected := copyMarks g.injected r.regMask }

/-- Give lanes of the issue set the place after this word: within the clause, or at a header. -/
def Regs.placeLanes (r : Regs) (lanes : Mask) (hdr : DWord) (pc : Nat → DWord) (atHeader : Bool) : Regs :=
  r.modLanes lanes (fun i l => { l with pc := pc i, hdr := if atHeader then pc i else hdr })

/-- A result of the clause now buffered: its register was not waiting when the clause began. -/
def sentInClause (r0 : Regs) (dst : Nat) (lanes : List Nat) : Bool :=
  dst < noDst && lanes.all (fun i => !r0.isEmpty dst i)

/-- Discard the buffered writes and unsent operations of a checked clause, and the fills of loads that it has sent (R106). -/
def Group.discardClause (x : Group) : Group :=
  match x.ck with
  | none => x
  | some r0 =>
    let mine (a : Access) : Bool := sentInClause r0 a.dst (a.addr.map (fun p => p.1))
    { x with r := r0, ck := none, unsent := [], issued := x.issuedCk, poison := x.poisonBack, ckPoison := []
             fills := x.fills.filter (fun f => !sentInClause r0 f.dst (f.vals.map (fun p => p.1)))
             accs := x.accs.map (fun a => { a with noFill := a.noFill || mine a, behind := false })
             slots := x.slots.map (fun t => { t with acc := { t.acc with noFill := t.acc.noFill || mine t.acc, behind := false } }) }

/-- Lanes leave the live set; their tokens go. -/
def Regs.removeLanes (r : Regs) (m : Mask) : Regs :=
  ({ r with live := r.live &&& ~~~m }).modLanes m (fun _ l => { l with tok := none, parked := false })

/-- The write of one system register by `mts` (R209, Tables 2.2, 2.3, 3.9). `v` is the operand. -/
def Regs.writeSys (r : Regs) (n : Nat) (v : DWord) : Regs :=
  match n with
  | 0x001 =>
    -- only inside a handler; a lane is only ever removed, as if by `exit`
    r.removeLanes (r.live &&& ~~~(v.setWidth 16))
  | 0x002 => { r with fpcr := v.setWidth 32 &&& 0x1F7#32 }
  | 0x003 => { r with fpsr := r.fpsr &&& ~~~(v.setWidth 32) }
  | 0x014 => { r with tvec := v &&& ~~~7#64 }
  | 0x019 => { r with racc := v.setWidth 32 &&& 0xFF#32 }
  | _ => r

/-- A system register that `mts` writes. -/
def Regs.sys (r : Regs) (n : Nat) : DWord :=
  match n with
  | 0x002 => r.fpcr.setWidth 64
  | 0x003 => r.fpsr.setWidth 64
  | 0x014 => r.tvec
  | 0x019 => r.racc.setWidth 64
  | _ => 0

/-- Give it back a value that it has had. -/
def Regs.putSys (r : Regs) (n : Nat) (v : DWord) : Regs :=
  match n with
  | 0x002 => { r with fpcr := v.setWidth 32 }
  | 0x003 => { r with fpsr := v.setWidth 32 }
  | 0x014 => { r with tvec := v }
  | 0x019 => { r with racc := v.setWidth 32 }
  | _ => r

/-- Keep the effects of an issue set that begin at the clause's end, while the set is not issuing. -/
def Group.shelve (x : Group) (second : Bool) : Group :=
  match x.issue? second with
  | none => x
  | some i =>
    let x := { x with r := if i.dying = 0 then x.r else x.r.removeLanes i.dying }
    let x := if i.sysWrites.isEmpty ∧ i.after = Wait.none then x
      else { x with late := x.late ++ [⟨i.lanes, i.hdr, i.sysWrites, i.after, []⟩] }
    x.setIssue second none

/-- A trap begins: the `mts` writes of clauses that it interrupts take effect, for they are seen by the words of later clauses, the
handler's among them; the rest of each clause will not see them (R29, R209; notes/assumptions/43.md). -/
def Group.hasten (x : Group) : Group :=
  let write (acc : Regs × List EarlyWrite) (p : Nat × DWord) : Regs × List EarlyWrite :=
    let r := acc.1.writeSys p.1 p.2
    (r, acc.2 ++ [⟨p.1, p.2, acc.1.sys p.1, r.sys p.1⟩])
  x.late.foldl (fun y e =>
    -- a write of GMASK belongs to a handler, which no trap interrupts
    let (r, early) := (e.sysWrites.filter (fun p => p.1 != 1)).foldl write (y.r, [])
    { y with r := r, late := y.late ++ [{ e with sysWrites := e.sysWrites.filter (fun p => p.1 == 1), early := e.early ++ early }] })
    { x with late := [] }

/-- A write brought forward is pending again as its clause goes on, unless the handler has changed the register since. -/
def Regs.callBack (r : Regs) (es : List EarlyWrite) : Regs × List (Nat × DWord) :=
  es.foldr (fun e acc => if acc.1.sys e.n = e.after then (acc.1.putSys e.n e.before, (e.n, e.value) :: acc.2) else acc) (r, [])

/-- Both issue sets end at a trap (R206). -/
def Group.trapShelve (x : Group) : Group := ((x.takeMfr.shelve false).shelve true).hasten

/-- A group stops issuing (R97, R307): the lanes of its issue sets stand at their next words; a checked clause is discarded and
its lanes stand at its header. Lanes that were to trap at the end of the cycle stand at their word. -/
def Group.halt (x : Group) : Group :=
  match x.ck, x.run1 with
  | some _, some i =>
    let y := x.discardClause
    ({ y with replaying := false, r := y.r.placeLanes i.lanes i.hdr (fun _ => i.hdr) true }).setIssue false none
  | _, _ =>
    let x := match x.due with
      | some d => { x with due := none, r := x.r.modLanes d.lanes (fun _ l => { l with pc := d.tpc, hdr := d.hdr }) }
      | none => x
    (x.takeMfr.shelve false).shelve true

/-! ## Rejoin (R125) -/

/-- A lane waits at a rejoin: it holds a token for the address it stands at. -/
def Lane.waiting (l : Lane) : Bool :=
  match l.tok with
  | some t => t.addr == l.pc
  | none => false

/-- The largest set of waiting lanes at X whose masks are satisfied within the set, by removing lanes n times. -/
def Regs.satisfied (r : Regs) : Nat → Mask → Mask
  | 0, S => S
  | n + 1, S =>
    let next := maskWhere (fun i => S.getLsbD i &&
      (match (r.lane i).tok with
       | some t => (t.mask &&& r.live &&& ~~~S) == 0
       | none => false))
    r.satisfied n next

/-- Waiting live lanes at an address. -/
def Regs.waitersAt (r : Regs) (x : DWord) : Mask :=
  maskWhere (fun i => r.live.getLsbD i && (r.lane i).waiting && ((r.lane i).pc == x))

/-- One evaluation for an address: the released lanes go to the fall-through of the rejoin, X + 8. -/
def Regs.evalRejoinAt (r : Regs) (x : DWord) : Regs :=
  let S := r.satisfied 16 (r.waitersAt x)
  r.modLanes S (fun _ l => { l with tok := none, pc := x + 8, hdr := x + 8 })

/-- The addresses at which lanes wait, without repeats. -/
def Regs.tokenAddrs (r : Regs) : List DWord :=
  ((maskLanes r.live).filterMap (fun i => if (r.lane i).waiting then some (r.lane i).pc else none)).eraseDups

/-- Evaluate every rejoin address. -/
def Regs.evalRejoin (r : Regs) : Regs := r.tokenAddrs.foldl (fun r x => r.evalRejoinAt x) r

/-! ## Waits (R96, R204, R211) -/

/-- Two waits together. -/
def Wait.join (a b : Wait) : Wait := if a = .none then b else if b = .none then a else .both a b

/-- A wait without the parts that satisfy a test. -/
def Wait.drop (p : Wait → Bool) : Wait → Wait
  | .both a b => (a.drop p).join (b.drop p)
  | w => if p w then .none else w

/-- Some part of a wait satisfies a test. -/
def Wait.has (p : Wait → Bool) : Wait → Bool
  | .both a b => a.has p || b.has p
  | w => p w

def Wait.isSleep : Wait → Bool
  | .sleep _ _ => true
  | _ => false

/-! ## The extended set (R212) -/

/-- A fill to an extended register of a live lane is outstanding. -/
def Regs.extBusy (r : Regs) : Bool := r.ev.any (fun p => 128 ≤ p.1 && (p.2 &&& r.live) != 0)

/-- An `xrel` that waited is done once the extended registers are full. -/
def Regs.settleXrel (r : Regs) : Regs :=
  if r.wait.has (fun w => w == .xrel) && !r.extBusy then
    { r with xheld := false, wait := r.wait.drop (fun w => w == .xrel) }
  else r

/-! ## Taking a trap (Table 11.8, R206, R208) -/

/-- Asynchronous causes. -/
def asyncCause (code : Nat) : Bool := code == 0x20 || code == 0x38

/-- Imprecise causes. -/
def impreciseCause (code : Nat) : Bool := code == 0x10 || code == 0x11 || code == 0x12

/-- Steps 2 to 4 of Table 11.8 for a group with a handler. Resume PCs are the lanes' present PCs: the caller has left a
trapping lane at the PC that its cause names. -/
def Regs.enterTrap (r : Regs) (code info : Nat) (lanes : Mask) (tpc taddr : DWord) (tskid : Word) : Regs :=
  let lanes := if code = 0x18 ∨ asyncCause code then r.live else lanes
  let handler := lanes &&& r.live
  let r := { r with tcause := tcauseOf code info lanes, tpc := tpc, taddr := taddr,
                    tskid := if impreciseCause code then tskid else r.tskid,
                    inTrap := true, handler := handler, retted := 0,
                    outer := if asyncCause code then r.wait.drop Wait.isSleep else r.wait,
                    wait := .none }
  let entry := r.handlerPc
  (r.modLanes r.live (fun _ l => { l with resumePc := l.pc, resumeHdr := l.hdr })).modLanes handler
    (fun _ l => { l with pc := entry, hdr := entry, parked := false })

/-- Start a forced save of a cohort with a frame of KIND (R315): every group stops issuing. -/
def State.startSave (s : State) (c : CRef) (kind : Nat) : State :=
  (s.modCohort c (fun x =>
    match x.phase with
    | .resident => { x with phase := .saving kind, budget := none,
                            groups := x.groups.map (fun g => { (g.halt) with stopped := true }) }
    | _ => x)).post (.saveComplete c)

/-- A group takes a trap: it enters its handler, or its launch fails, or its cohort is saved, or the trap is held. Its
issue sets have ended. -/
def State.takeTrap (s : State) (g : GRef) (code info : Nat) (lanes : Mask) (tpc taddr : DWord) (tskid : Word) : State :=
  match s.group? g with
  | none => s
  | some x =>
    if x.r.inTrap then
      if code = 0x20 then s.modRegs g (fun r => { r with held20 := some info })
      else if code = 0x38 then s.modRegs g (fun r => { r with held38 := some info })
      else s.failLaunch g.lid code tpc taddr (tcauseOf code info lanes) x.r.tcause
    else if x.r.handlerPc = 0 then
      if code = 0x38 then s.startSave (GRefCohort g) 2
      else s.failLaunch g.lid code tpc taddr
        (tcauseOf code info (if code = 0x18 ∨ asyncCause code then x.r.live else lanes)) 0
    else s.modGroup g (fun y => { y with r := y.r.enterTrap code info lanes tpc taddr tskid })

/-! ## Returning from a trap (R207) -/

/-- The return, once every handler lane has executed `rett` or left the live set. The resume PCs of the lanes already
hold what `rett` gave them; a lane whose resume PC changed has lost its token there. -/
def Regs.returnTrap (r : Regs) : Regs :=
  let back := r.handler &&& r.live
  ({ (r.modLanes back (fun _ l => { l with pc := l.resumePc, hdr := l.resumeHdr, parked := false })) with
      inTrap := false, handler := 0, retted := 0, wait := r.wait.join r.outer, outer := .none }).evalRejoin

/-- Whether the return is due. -/
def Regs.returnDue (r : Regs) : Bool := r.inTrap && (r.handler &&& r.live &&& ~~~r.retted) == 0

/-! ## Rejoin deadlock (R126, R228) -/

/-- Whether a lane stands at the header of a present RE or RX clause and waits there for other live lanes (R228). A clause
that raises a trap at its header (Table 5.6, steps 1 to 7) holds no lane. -/
def State.regionWait (s : State) (core : Nat) (l : Launch) (g : Group) (i : Nat) : Bool :=
  let k := g.r.lane i
  match s.clause? core (g.gidx % 4) l.vif k.pc with
  | none => false
  | some c => (hdrRE c.hdr || hdrRX c.hdr) && k.pc == k.hdr && c.fault.isNone && (waitTrap l g.r c.hdr).isNone &&
      (maskLanes g.r.live).any (fun j => (g.r.lane j).pc != k.pc)

/-- The lowest address of a list. -/
def lowestPc : List DWord → DWord
  | [] => 0
  | [x] => x
  | x :: rest => let y := lowestPc rest; if x.toNat ≤ y.toNat then x else y

/-- Trap 0x18 when every live lane waits at a rejoin or a region header and none can proceed; inside a handler it fails the
launch like any precise trap there (R208). -/
def State.checkDeadlock (s : State) (g : GRef) : State :=
  match s.cohort? (GRefCohort g), s.launch? g.lid with
  | some c, some l =>
    match c.group? g.gid with
    | none => s
    | some x =>
      if x.r.live != 0 && x.run1.isNone && x.run2.isNone && x.due.isNone && x.r.evalRejoin == x.r &&
          (maskLanes x.r.live).all (fun i => (x.r.lane i).waiting || s.regionWait c.core l x i) then
        s.takeTrap g 0x18 0 x.r.live (lowestPc ((maskLanes x.r.live).map (fun i => (x.r.lane i).pc))) 0 0
      else s
  | _, _ => s

/-! ## Barriers (R204) -/

/-- The live groups of a cohort. -/
def Cohort.liveGroups (c : Cohort) : Nat := (c.groups.filter (fun g => !g.retired)).length

/-- The cohorts of a block, resident or saved. -/
def State.blockCohorts (s : State) (lid bid : Nat) : List Cohort :=
  s.allCohorts.filter (fun c => c.ref.lid == lid && c.bid == bid)

/-- Change every wait of a group: begun, interrupted by a trap, or still to begin. -/
def Group.modWaits (g : Group) (f : Wait → Wait) : Group :=
  { g with r := { g.r with wait := f g.r.wait, outer := f g.r.outer },
           late := g.late.map (fun t => { t with after := f t.after }),
           run1 := g.run1.map (fun i => { i with after := f i.after }),
           run2 := g.run2.map (fun i => { i with after := f i.after }) }

/-- End the `bar` or `barb` waits of a group on one barrier whose arrivals have been counted: an arrival that is still to come counts
toward the next phase. -/
def Group.endBarrier (block : Bool) (id : Nat) (g : Group) : Group :=
  g.modWaits (fun w => w.drop (fun w => match w with
    | .bar k _ counted => !block && k == id && counted
    | .barb k _ counted => block && k == id && counted
    | _ => false))

/-- The arrival of the issue set `lanes` has been counted. -/
def Wait.arrived (block : Bool) (id : Nat) (lanes : Mask) : Wait → Wait
  | .both a b => .both (a.arrived block id lanes) (b.arrived block id lanes)
  | .bar k m counted => .bar k m (counted || (!block && k == id && m == lanes))
  | .barb k m counted => .barb k m (counted || (block && k == id && m == lanes))
  | w => w

/-- Entry k of a vector of barriers, changed. -/
def Barrier.modAt {n : Nat} (v : Vector Barrier n) (k : Nat) (f : Barrier → Barrier) : Vector Barrier n :=
  v.mapIdx (fun i b => if i = k then f b else b)

/-- Complete a cohort barrier if its arrivals have reached the target. -/
def Cohort.settleBar (c : Cohort) (id : Nat) : Cohort :=
  match c.bars.toList[id]? with
  | none => c
  | some b =>
    let t := if b.target = 0 then c.liveGroups else b.target
    if 0 < b.arrivals ∧ t ≤ b.arrivals then
      { c with bars := Barrier.modAt c.bars id (fun b => ⟨0, !b.phase, 0⟩),
               groups := c.groups.map (Group.endBarrier false id) }
    else c

/-- The block barriers are held by the cohort of lowest `cid` of the block (Table 18.3). -/
def State.blockHolder (s : State) (lid bid : Nat) : Option CRef :=
  match minNat? ((s.blockCohorts lid bid).map (fun c => c.ref.cid)) with
  | some cid => some ⟨lid, cid⟩
  | none => none

/-! ## The spin detector (R101, R102) -/

/-- A lowered group returns to normal, and its count restarts. -/
def Spin.restart (_ : Spin) : Spin := Spin.zero

/-- A write changed a value: the count restarts, the iteration is a changed one, and a lowered group is released. -/
def Group.noteChange (g : Group) (changed : Bool) : Group :=
  if changed then { g with spin := if g.spin.lowered then g.spin.restart else { g.spin with count := 0, changed := true } } else g

/-- An iteration is over: it counts if it was unchanged, and the sectors of the four before the next are kept. -/
def Spin.iterate (p : Spin) (hdr : DWord) : Spin :=
  let n := if p.changed then 0 else if p.header = hdr then p.count + 1 else 1
  { p with count := n, changed := false, header := hdr, sectors := [] :: p.sectors.take 4 }

/-- Count an iteration of a group; the fourth unchanged one lowers it. -/
def State.spinIterate (s : State) (g : GRef) (hdr : DWord) : State :=
  let s := s.modGroup g (fun y => { y with spin := y.spin.iterate hdr })
  match s.group? g with
  | some y => if 4 ≤ y.spin.count && !y.spin.lowered then s.post (.spinDetectLower g) else s
  | none => s

/-! ## The end of a clause -/

/-- After a change to the live set or an arrival: evaluate rejoins, end the region with the last lane (R127), return from a
handler when due, start retirement. Traps held or refused meanwhile are taken at the return (R208, R337). -/
def State.settleGroup (s : State) (g : GRef) : State :=
  -- within a pre-emption budget, the return from the 0x38 handler parks the group (R314)
  let parks : Bool := (((s.cohort? (GRefCohort g)).map (fun c => c.budget.isSome)).getD false)
  let parked (x : Group) : Bool := parks && x.r.returnDue && x.r.live != 0 && x.r.tcause.toNat % 256 == 0x38
  let parkDue : Bool := ((s.group? g).map parked).getD false
  let back (x : Group) : Group :=
    if x.r.returnDue && x.r.live != 0 then
      { x with r := { x.r.returnTrap with held20 := none, held38 := none }
               stopped := x.stopped || parked x
               posted := x.posted ++ x.r.heldTraps
               slots := x.slots.map (fun t => { t with held := false }) }
    else x
  let s := s.modGroup g (fun x =>
    let x := { x with r := x.r.evalRejoin.settleXrel }
    back (if x.r.live = 0 then x.leaveRegion else x))
  match s.group? g with
  | none => s
  | some x =>
    if x.r.live = 0 then s.post (.groupRetire g)
    else
      let s := if parkDue then s.post (.saveComplete (GRefCohort g)) else s
      let s := if !x.r.inTrap && (!x.posted.isEmpty || x.slots.any (fun t => t.refused.isSome)) then
          s.post (.asyncTrapDelivery g)
        else s
      s.checkDeadlock g

/-- What begins when a clause of an issue set ends (R99): its `mts` writes take effect, the region ends under RX, its waits begin. -/
def Group.endEffects (x : Group) (i : Issue) : Group :=
  let x := { x with r := i.sysWrites.foldl (fun (r : Regs) (p : Nat × DWord) => r.writeSys p.1 p.2) x.r }
  let x := if i.rx then x.leaveRegion else x
  { x with r := { x.r with wait := x.r.wait.join i.after } }

/-- An issue set's clause has retired (R99): its `mts` writes take effect, the region ends under RX, its waits begin.
Under checked execution this is the commit (R106). -/
def State.retireClause (s : State) (g : GRef) (second : Bool) : State :=
  match s.group? g with
  | none => s
  | some x =>
    match x.issue? second with
    | none => s
    | some i =>
      let s := s.modGroup g (fun x => ({ x.endEffects i with ck := none, replaying := false }).setIssue second none)
      (if i.loops then s.spinIterate g i.hdr else s).settleGroup g

end Sys2Proof.Machine
end

