-- ==== Sys2Proof/Machine/Home.lean ====
section
/-!
DEFINITION. Memory at its home and the caches in front of it: physical addresses (Table 19.3), home availability (R415),
quiesce (R359), the home L2 with its ways (R245, R250, R361), tokens and port allowances (R362 to R364), stored sectors with
key domain and poison (R374, R375, R385, R386), writes performed at home (R258) and what they bring about (R102, R180, R345,
R347), the L1 (R237), the RDC (R246), write-backs and their holding by range locks (R252), and the release and acquire actions
of Table 10.4.
-/
namespace Sys2Proof.Machine

/-! ## Physical addresses (Table 19.3) -/

def paRgn (pa : Nat) : Nat := bitsOf pa 51 50
def paPkg (pa : Nat) : Nat := bitsOf pa 49 41
def paOff (pa : Nat) : Nat := pa % 2 ^ 41
/-- Home compute die, PA[40:39] (R245). -/
def paDie (pa : Nat) : Nat := bitsOf pa 40 39
/-- Stack 8d + k, OFF[40:36]. -/
def paStack (pa : Nat) : Nat := bitsOf pa 40 36

/-- Whether a partition owns n bytes from a PA (R357): its stacks in this package, and its listed ranges. -/
def Partition.owns (p : Partition) (pkg pa n : Nat) : Bool :=
  (paPkg pa == pkg && paRgn pa == 0 && p.hbms.contains (paStack pa) && p.hbms.contains (paStack (pa + n - 1))) ||
    p.ranges.any (fun (b, len) => b ≤ pa && pa + n ≤ b + len)

/-- The partition that owns an address of this package. -/
def State.ownerOf (s : State) (pa : Nat) : Option Partition := s.parts.find? (fun p => p.formed && p.owns s.pkg pa 1)

/-! ## TLBs (R325) -/

/-- Permissions an access needs: [0] R, [1] W, [2] A, [3] F (R324). -/
def needRead : BitVec 4 := 1
def needWrite : BitVec 4 := 2
def needAtomic : BitVec 4 := 7
def needFetch : BitVec 4 := 8

def TlbEntry.covers (t : TlbEntry) (vif va : Nat) (need : BitVec 4) : Bool :=
  t.vif == vif && t.va ≤ va && va < t.va + t.size && t.perm &&& need == need && (!need.getLsbD 1 || t.dset)

/-- The core's TLB, then its cluster's. -/
def State.tlb? (s : State) (core vif va : Nat) (need : BitVec 4) : Option TlbEntry :=
  match (s.core? core).bind (fun c => c.tlb.find? (fun t => t.covers vif va need)) with
  | some t => some t
  | none => (s.cluster? (clusterOf core)).bind (fun c => c.tlb.find? (fun t => t.covers vif va need))

/-- The PA that an entry gives. -/
def TlbEntry.paOf (t : TlbEntry) (va : Nat) : Nat := t.pa + (va - t.va)

/-- Translate through the TLBs. -/
def State.translate (s : State) (core vif va : Nat) (need : BitVec 4) : Option Nat :=
  (s.tlb? core vif va need).map (fun t => t.paOf va)

/-- Homed in this package. -/
def State.local (s : State) (pa : Nat) : Bool := paPkg pa == s.pkg

/-- Who makes a request: context, partition, key domain, class, core (for cache actions), cache policy (R250). -/
structure Req where
  vif : Nat
  part : Nat
  kdom : Nat
  classH : Bool
  core : Nat
  policy : Nat := 0
  /-- M of the hypervisor leaf that it came through (R345). -/
  movable : Bool := false
  /-- What it pays at a regulator or a port (R362 to R364): 0 a request, which waits and spends; 1 a reply, which does neither; 2 a
  write-back that makes room, which is sent at once and charged. -/
  pay : Nat := 0
  deriving DecidableEq, Repr

/-- Homed on the die of the requester's core (R16, R246). -/
def State.homeHere (s : State) (q : Req) (pa : Nat) : Bool := s.local pa && paDie pa == dieOf q.core

/-- The request of a cohort. -/
def Launch.req (l : Launch) (c : Cohort) : Req :=
  { vif := l.vif, part := l.part, kdom := l.kdom, classH := c.classH, core := c.core }

/-- A die is between steps 2 and 8 of a warm reset (R415, R421). -/
def State.dieAway (s : State) (die : Nat) : Bool :=
  match s.die? die with
  | some d => 2 ≤ d.wrstep && d.wrstep < 8
  | none => false

/-- The home die of a local address is in a warm reset (R415). -/
def State.homeUnavailable (s : State) (pa : Nat) : Bool := s.local pa && s.dieAway (paDie pa)

/-- No switch route of the partition joins this package to another: the switch drops its packets (Table 21.1, R356). -/
def State.unrouted (s : State) (part pkg : Nat) : Bool :=
  pkg != s.pkg && ((s.part? part).map (fun p => !(p.routes.contains (s.pkg, pkg) || p.routes.contains (pkg, s.pkg)))).getD false

/-- The request gets no further for now: a reblock of the die holds it (R359), or a switch drops it for want of a route (R356). -/
def State.quiesced (s : State) (q : Req) (pa : Nat) : Bool :=
  s.unrouted q.part (paPkg pa) || s.local pa && (match s.die? (paDie pa) with
    | some d => (match d.reblock with
      | some b => b.losing == q.part || b.gaining == q.part
      | none => false)
    | none => false)

/-- A partition injects no packet from its reset until it is formed again (R365). -/
def State.silenced (s : State) (part : Nat) : Bool := s.drains.contains part || ((s.part? part).map (fun p => !p.formed)).getD false

/-- Count a "home unavailable" reply (Table 26.3). -/
def State.countUnavailable (s : State) (pa : Nat) : State :=
  s.modDie (paDie pa) (fun d => { d with hun := (d.hun + 1) % 2 ^ 32 })

/-! ## Tokens and allowances (R362 to R364) -/

def State.l2Line? (s : State) (pa : Nat) : Option L2Line := s.l2.find? (fun l => l.line == pa / 128)

/-- Sync-scope of a line, 0 when none. -/
def State.syncScope (s : State) (pa : Nat) : Nat := ((s.l2Line? pa).map (fun l => l.sync)).getD 0

/-- A class G access to an address that a test names waits in a load-store unit, or a class G command works (R362, R364). -/
def State.classGQueued (s : State) (there : Nat → Bool) : Bool :=
  s.cmds.any (fun k => !k.classH && k.stage == .started && !k.waiting) ||
    s.cohorts.any (fun c => !c.classH && (match s.launch? c.ref.lid with
      | none => false
      | some l => c.groups.any (fun g => g.accs.any (fun a => a.space == 0 && a.addr.any (fun p =>
          ((s.translate c.core l.vif p.2 0).map there).getD false)))))

/-- A bucket from which a request may go: one with a token, or that of class H in an idle cycle. -/
def Req.mayGo (q : Req) (gb hb : Int) (gQueued : Bool) : Bool :=
  q.pay != 0 || (if q.classH then 1 ≤ hb || !gQueued else 1 ≤ gb)

/-- The buckets after it: a class H request in an idle cycle spends nothing, a write-back that makes room may leave its bucket below
zero (R363). -/
def Req.spend (q : Req) (b : Int × Int) : Int × Int :=
  if q.pay == 1 then b
  else if q.classH then (if 1 ≤ b.2 || q.pay == 2 then (b.1, b.2 - 1) else b)
  else (b.1 - 1, b.2)

/-- A request to another package may leave by a port. -/
def Port.free (s : State) (q : Req) (p : Port) : Bool := q.mayGo p.gb p.hb (s.classGQueued (fun pa => !s.local pa))

/-- The port that a request to another package takes: the first free one of its partition's (notes/assumptions/28.md). -/
def State.portFor (s : State) (q : Req) : Option Port :=
  s.ports.find? (fun p => (((s.part? q.part).map (fun x => x.ports.contains p.no)).getD false) && p.free s q)

/-- Some port of a request's partition is free, or it has none. -/
def State.hasAllowance (s : State) (q : Req) : Bool :=
  (((s.part? q.part).map (fun x => x.ports.isEmpty)).getD true) || (s.portFor q).isSome

/-- A flit of a request leaves the package. -/
def State.spendAllowance (s : State) (q : Req) : State :=
  match s.portFor q with
  | none => s
  | some p =>
    let b := q.spend (p.gb, p.hb)
    { s with ports := updateWhere (fun x => x.no == p.no) (fun x => { x with gb := b.1, hb := b.2 }) s.ports }

/-- Post the refills that a request without an allowance waits for. -/
def State.awaitPorts (s : State) (q : Req) : State :=
  (((s.part? q.part).map (fun p => p.ports)).getD []).foldl (fun s k => s.post (.rafterAllowanceRefill k)) s

/-- Flits of a packet leave while the allowance lasts; those left. -/
def State.sendFlits (s : State) (q : Req) : Nat → State × Nat
  | 0 => (s, 0)
  | n + 1 => if s.hasAllowance q then (s.spendAllowance q).sendFlits q n else (s, n + 1)

/-- Waiting packets leave in order, those of each partition and class for themselves (R364). -/
def State.flushOut (s : State) : State :=
  s.outq.foldl (fun s o =>
    let q : Req := { vif := 0, part := o.part, kdom := 0, classH := o.classH, core := 0 }
    let wait (s : State) (n : Nat) : State := { s.awaitPorts q with outq := s.outq ++ [{ o with flits := n }] }
    if s.outq.any (fun x => x.part == o.part && x.classH == o.classH) then wait s o.flits
    else
      match s.sendFlits q o.flits with
      | (s, 0) => s.send o.msg
      | (s, n) => wait s n) { s with outq := [] }

/-- The package that a packet goes to. -/
def Message.dest : Message → Option Nat
  | .coll d _ | .abortColl d _ => some d
  | _ => none

/-- What comes of a packet at the switch: it goes on, or is dropped for want of a route and answered with an error reply (Table 21.1). -/
def State.switched (s : State) (part : Nat) (m : Message) : Message :=
  if (m.dest.map (s.unrouted part)).getD false then .errorReply part else m

/-- Send a packet of n bytes: a partition in reset injects none (R365). -/
def State.sendPacket (s : State) (part : Nat) (classH : Bool) (bytes : Nat) (m : Message) : State :=
  if s.silenced part then s
  else ({ s with outq := s.outq ++ [⟨part, classH, (bytes + 255) / 256, s.switched part m⟩] } : State).flushOut

/-- Whether the stack of an absent line has a token for the request, or needs none (R362); for a line of another package,
whether a port has the allowance (R364). -/
def State.hasToken (s : State) (q : Req) (pa : Nat) : Bool :=
  if !s.local pa then s.hasAllowance q
  else if paRgn pa != 0 || (s.l2Line? pa).isSome then true
  else
    match s.hbms.find? (fun k => k.no == paStack pa) with
    | none => true
    | some k => q.mayGo k.gb k.hb (s.classGQueued (fun a => s.local a && paRgn a == 0 && paStack a == k.no))

/-- Charge the stack of an address for a request. -/
def State.charge (s : State) (q : Req) (pa : Nat) : State :=
  if !s.local pa || paRgn pa != 0 then s
  else
    let pay (k : Stack) : Stack :=
      let b := q.spend (k.gb, k.hb)
      { k with gb := b.1, hb := b.2 }
    { s with hbms := updateWhere (fun k => k.no == paStack pa) pay s.hbms }

/-- Spend the token of a line that is absent. -/
def State.spendToken (s : State) (q : Req) (pa : Nat) : State := if (s.l2Line? pa).isSome then s else s.charge q pa

/-- A dirty line that leaves its slice is charged to the class that dirtied it (R363). -/
def State.chargeVictim (s : State) (l : L2Line) : State :=
  if l.dirty then s.charge { vif := 0, part := 0, kdom := l.kdom, classH := l.cls, core := 0, pay := 2 } (128 * l.line) else s

/-- Lines leave their slices: their sync-scopes clear (R179). -/
def State.dropL2 (s : State) (p : L2Line → Bool) : State :=
  let s := (s.l2.filter p).foldl State.chargeVictim s
  { s with l2 := s.l2.filter (fun l => !p l) }

/-! ## The home L2 (R245, R250, R358, R361) -/

/-- The slice of an address by the hash of R358, among n slices. -/
def sliceHash (pa n : Nat) : Nat :=
  (bitsOf pa 12 7 ^^^ bitsOf pa 18 13 ^^^ bitsOf pa 24 19 ^^^ bitsOf pa 30 25 ^^^ bitsOf pa 36 31 ^^^ bitsOf pa 38 37) %
    max n 1

/-- The slices of a partition on a die in rising order (R358). -/
def Partition.slicesOn (p : Partition) (die : Nat) : List Nat :=
  ((p.slices.filter (fun x => x.1 == die)).map (fun x => x.2)).foldl (fun l x => insertNat x l) []

/-- The partition whose slices an address goes to: the owner of its stack (R358), else the requester's. -/
def State.slicePart (s : State) (part pa : Nat) : Option Partition := (s.ownerOf pa).or (s.part? part)

/-- The home slice of an address. -/
def State.homeSlice (s : State) (part pa : Nat) : Nat :=
  match s.slicePart part pa with
  | some p =>
    let l := p.slicesOn (paDie pa)
    l.getD (sliceHash pa l.length) 0
  | none => 0

/-- The ways of a slice that a request may allocate in: class H none of the RGW first ones, G-persist only those (R250, R361). -/
def State.l2Ways (s : State) (q : Req) (pa : Nat) : List Nat :=
  let g := ((s.slicePart q.part pa).map (fun p => p.rgw)).getD 4
  (List.range 16).filter (fun w => if q.classH then g ≤ w else q.policy != 3 || w < g)

/-- A position among n that an implementation leaves open (notes/assumptions/44.md). -/
def State.pick (s : State) (n : Nat) : Nat := s.freeBelow n

/-- Lines of the set that an address falls in: 5 MiB in 16 ways are 2,560 sets (Table 1.1; notes/assumptions/44.md). -/
def State.l2Set (s : State) (q : Req) (pa : Nat) : List L2Line :=
  let slice := s.homeSlice q.part pa
  s.l2.filter (fun l => s.local (128 * l.line) && paDie (128 * l.line) == paDie pa && l.slice == slice && l.line % 2560 == pa / 128 % 2560)

/-- A line takes a way of its home slice: a free one, else that of a line of streaming policy, else any that the class may
allocate in. A line of another package stands in that package's L2, whose capacity is not modelled (notes/assumptions/44.md). -/
def State.l2Alloc (s : State) (q : Req) (pa : Nat) : State :=
  let line (way : Nat) : L2Line :=
    { line := pa / 128, kdom := q.kdom, dirty := false, cls := q.classH, sync := 0, slice := s.homeSlice q.part pa, way := way,
      stream := q.policy == 1 }
  if (s.l2Line? pa).isSome then s
  else if !s.local pa then { s with l2 := s.l2 ++ [line 0] }
  else
    let set := s.l2Set q pa
    let ways := s.l2Ways q pa
    match ways.find? (fun w => !set.any (fun l => l.way == w)) with
    | some w => { s with l2 := s.l2 ++ [line w] }
    | none =>
      let cand := set.filter (fun l => ways.contains l.way)
      match (cand.find? (fun l => l.stream)).or (cand[s.pick cand.length]?) with
      | none => s
      | some v =>
        let s := s.chargeVictim v
        { s with fresh := s.fresh + 1, l2 := s.l2.filter (fun l => l.line != v.line) ++ [line v.way] }

/-- A line of another key domain leaves its slice; its dirty bytes are in memory already (R375). -/
def State.l2Domain (s : State) (q : Req) (pa : Nat) : State :=
  match s.l2Line? pa with
  | some l => if l.kdom = q.kdom then s else s.dropL2 (fun l => l.line == pa / 128)
  | none => s

/-- The line's mark, changed, once the line is present under the domain of the request. -/
def State.modL2 (s : State) (pa : Nat) (q : Req) (f : L2Line → L2Line) : State :=
  let s := (s.l2Domain q pa).l2Alloc q pa
  { s with l2 := updateWhere (fun l => l.line == pa / 128) f s.l2 }

/-! ## Stored sectors -/

def State.sector? (s : State) (pa : Nat) : Option Sector := s.sectors.find? (fun x => x.no == pa / 64)

/-- The injector has struck the sector (R392). -/
def State.injectedAt (s : State) (pa : Nat) : Bool := ((s.sector? pa).map (fun x => x.injected)).getD false

def State.modSector (s : State) (pa : Nat) (f : Sector → Sector) : State :=
  if s.sectors.any (fun x => x.no == pa / 64) then
    { s with sectors := updateWhere (fun x => x.no == pa / 64) f s.sectors }
  else { s with sectors := s.sectors ++ [f { no := pa / 64, kdom := none, poison := none, injected := false }] }

def Die.rdcLine? (d : Die) (pa : Nat) : Option CacheLine := d.rdc.find? (fun l => l.line == pa / 128)

/-- Every byte of the sector of an address is dirty in an RDC of the package, which holds the only valid copy (R246): it has been
written whole (R386). -/
def State.rdcCovers (s : State) (pa : Nat) : Bool :=
  s.dies.any (fun d => (d.rdcLine? pa).any (fun l =>
    decide (64 ≤ (l.bytes.filter (fun p => p.2.dirty.isSome && p.1 / 64 == pa % 128 / 64)).length)))

/-- The poison that a request of a key domain meets in the sector of an address: its mark, or a failed tag (R375). -/
def State.poisonAt (s : State) (kdom pa : Nat) : Option Poison :=
  if s.rdcCovers pa then none
  else match s.sector? pa with
  | none => none
  | some x =>
    match x.poison with
    | some p => some p
    | none =>
      match x.kdom with
      | none => none
      | some k => if k = kdom then none else some .integrity

/-- The first poison over n bytes, with its PA. -/
def State.poisonIn (s : State) (kdom pa n : Nat) : Option (Poison × Nat) :=
  (List.range ((pa % 64 + n + 63) / 64)).findSome? (fun k =>
    let a := alignDown pa 64 + 64 * k
    (s.poisonAt kdom a).map (fun p => (p, a)))

/-- First bytes of the 128-byte lines that n bytes at an address touch. -/
def linesOf (pa n : Nat) : List Nat := (List.range ((pa % 128 + n + 127) / 128)).map (fun k => alignDown pa 128 + 128 * k)

/-! ## Effects of a write performed at home -/

/-- Groups lowered by the spin detector that loaded from a written sector return to normal (R102). -/
def State.spinTouch (s : State) (line : Nat) : State :=
  { s with cohorts := s.cohorts.map (fun c => { c with groups := c.groups.map (fun g =>
      if g.spin.lowered && g.spin.sectors.flatten.contains line then { g with spin := g.spin.restart } else g) }) }

/-- Each `waitc` of GLOBAL memory reads its counter again (R180). -/
def State.wakeWaitc (s : State) : State :=
  s.cohorts.foldl (fun s c => c.groups.foldl (fun s g =>
    g.accs.foldl (fun s a =>
      if a.opc == 0x99 && a.space == 0 then s.post (.waitcReread ⟨c.ref.lid, c.ref.cid, g.gid⟩ a.id) else s) s) s) s

/-- A write at a page's home drops its replicas in the package (R347). -/
def State.dropReplicas (s : State) (pa : Nat) : State :=
  { s with dies := s.dies.map (fun d => { d with replicas := d.replicas.filter (fun p => p != pa / 65536) }) }

/-- A write has become readable in the package: lowered groups, replicas and counters that wait notice it. -/
def State.noticed (s : State) (pas : List Nat) : State :=
  (pas.foldl (fun s a => (s.spinTouch (a / 128)).dropReplicas a) s).wakeWaitc

/-- A write of bytes at rising addresses at their home: memory, sector marks (R374, R386), L2 marks, replicas, waiters. It spends a
token for each line that is absent (R362). -/
def State.homeWrite (s : State) (q : Req) (pa : Nat) (bs : List Byte) : State :=
  if bs.isEmpty then s
  else
    let whole (a : Nat) : Bool := pa ≤ a && a + 64 ≤ pa + bs.length
    let s := (List.range ((pa % 64 + bs.length + 63) / 64)).foldl (fun s k =>
      let a := alignDown pa 64 + 64 * k
      let bad := s.poisonAt q.kdom a
      s.modSector a (fun x => { x with kdom := some q.kdom, injected := x.injected && !whole a,
                                       poison := if whole a then none else bad })) s
    let s := (linesOf pa bs.length).foldl (fun s a =>
      (s.spendToken q a).modL2 a q (fun l => { l with dirty := true, cls := q.classH })) s
    ({ s with mem := s.mem.putBytes pa bs } : State).noticed (linesOf pa bs.length)

/-! ## Placement counters (R345, R346) -/

/-- Distance between dies (R346). -/
def dieDistance (a b : Nat) : Nat := if a % 4 = b % 4 then 0 else if (a + 2) % 4 = b % 4 then 2 else 1

/-- Accesses that an entry has counted. -/
def Counter.total (c : Counter) : Nat := c.other + c.reads.toList.foldl (· + ·) 0 + c.writes.toList.foldl (· + ·) 0

/-- Count an access by die k (none: another package) to a page marked M, at its home slice. -/
def State.countAccess (s : State) (q : Req) (from? : Option Nat) (pa : Nat) (write : Bool) : State :=
  if !q.movable || !s.local pa then s
  else
    let home := paDie pa
    let page := pa / 65536
    match s.die? home with
    | none => s
    | some d =>
      let slice := s.homeSlice q.part pa
      let hit (c : Counter) : Bool := c.page == page && c.slice == slice
      let present := d.counters.any hit
      if !present && from? == some home then s
      else
        let fresh : Counter := { slice := slice, page := page, home := home, reads := Vector.replicate 4 0,
                                 writes := Vector.replicate 4 0, other := 0 }
        -- 512 pages a slice; the least recently used entry leaves first
        let full := decide (512 ≤ (d.counters.filter (fun c => c.slice == slice)).length)
        let list := if present then d.counters
          else (match if full then d.counters.find? (fun c => c.slice == slice) else none with
            | some old => removeFirst old d.counters
            | none => d.counters) ++ [fresh]
        let bump (c : Counter) : Counter :=
          match from? with
          | none => { c with other := c.other + 1 }
          | some k =>
            if write then { c with writes := c.writes.mapIdx (fun i n => if i = k then n + 1 else n) }
            else { c with reads := c.reads.mapIdx (fun i n => if i = k then n + 1 else n) }
        let touched := (list.filter hit).map bump
        let list := list.filter (fun c => !hit c) ++ touched
        let s := s.modDie home (fun d => { d with counters := list })
        if touched.any (fun c => 4096 ≤ c.total) then s.post (.placementCountThreshold page) else s

/-! ## Range locks (R251, R252) -/

/-- A byte written at a virtual address of a context is locked in a core's table by an entry older than `before`
(0: any). -/
def Core.lockedByte (c : Core) (vif va before : Nat) : Bool :=
  c.locks.any (fun k => k.space == 0 && k.vif == vif && k.lo ≤ va && va ≤ k.hi && (before == 0 || k.cmd < before))

/-- The lowest entry that n bytes at a lie in. -/
def Core.lockIndex (c : Core) (space : Nat) (cohort : CRef) (vif a n : Nat) : Option Nat :=
  minNat? ((c.locks.filter (fun k => k.space == space && (if space == 0 then k.vif == vif else k.cohort == cohort) &&
    rangesMeet k.lo (k.hi + 1 - k.lo) a n)).map (fun k => k.idx))

/-! ## L1 (R237) -/

/-- Store bytes taken by the registers and scratchpads of the residents of a core (R225, R236). -/
def footprint (g b x : Nat) : Nat := g * (64 * b + 128) + (g + 1) / 2 * (512 * ((x + 7) / 8))

/-- The stripes that hold any register or scratchpad byte of the residents of a core. -/
def State.usedStripes (s : State) (core : Nat) : List Nat :=
  (List.range 32).filter (fun k => s.cohorts.any (fun c => c.core == core && (match s.launch? c.ref.lid with
    | some l => rangesMeet (65536 * k) 65536 c.regb (footprint l.grp l.breg l.xreg) ||
        rangesMeet (65536 * k) 65536 c.scrb l.scr
    | none => false)) || ((s.core? core).map (fun c => c.spills.any (fun x => x.stripes.contains k))).getD false)

/-- The stripes that are ways of a core's L1 (R236, R237); R236 leaves at least one. -/
def State.l1Ways (s : State) (core : Nat) : List Nat :=
  let used := s.usedStripes core
  let ways := (List.range 32).filter (fun k => !used.contains k)
  if ways.isEmpty then [31] else ways

def Core.l1Line? (c : Core) (pa : Nat) : Option CacheLine := c.l1.find? (fun l => l.line == pa / 128)

/-- Dirty bytes of a line, each with its PA. -/
def CacheLine.dirtyBytes (l : CacheLine) : List (Nat × CByte) :=
  (l.bytes.filter (fun p => p.2.dirty.isSome)).map (fun p => (128 * l.line + p.1, p.2))

/-- The line with every byte clean. -/
def CacheLine.clean (l : CacheLine) : CacheLine :=
  { l with bytes := l.bytes.map (fun (o, b) => (o, { b with dirty := none })), writers := [] }

/-- The line without its clean bytes. -/
def CacheLine.dirtyOnly (l : CacheLine) : CacheLine :=
  { l with bytes := l.bytes.filter (fun (_, b) => b.dirty.isSome) }

/-- A line that holds no byte. -/
def CacheLine.empty (q : Req) (pa : Nat) : CacheLine :=
  { line := pa / 128, way := 0, kdom := q.kdom, cls := q.classH, part := q.part, policy := q.policy, writers := [], bytes := [],
    movable := q.movable }

/-- It holds n bytes at an offset. -/
def CacheLine.holds (l : CacheLine) (o n : Nat) : Bool := (List.range n).all (fun k => (SMap.find? l.bytes (o + k)).isSome)

/-- A store of a request dirties the line: its class and policy are the line's (R250, R363). -/
def CacheLine.dirtied (l : CacheLine) (q : Req) : CacheLine :=
  { l with cls := q.classH, policy := q.policy, movable := l.movable || q.movable }

/-- Bytes at rising addresses as runs of consecutive ones. -/
def byteRuns (l : List (Nat × CByte)) : List (Nat × List Byte) :=
  l.foldr (fun p rs => match rs with
    | (a, bs) :: rest => if p.1 + 1 = a then (p.1, p.2.val :: bs) :: rest else (p.1, [p.2.val]) :: rs
    | [] => [(p.1, [p.2.val])]) []

/-- The request that a line's own contents are written back under: its key domain, class and policy (R250, R363, R375). -/
def CacheLine.req (l : CacheLine) (q : Req) : Req :=
  { q with kdom := l.kdom, classH := l.cls, part := l.part, policy := l.policy, movable := l.movable }

/-- Whether a write-back of bytes for a core is held (R252): each was written at a virtual address of its own context. -/
def State.heldBack (s : State) (q : Req) (before : Nat) (bytes : List (Nat × CByte)) : Bool :=
  match s.core? q.core with
  | none => false
  | some c => bytes.any (fun (_, b) => match b.dirty with
    | some va => c.lockedByte b.vif va before
    | none => false)

/-! ## RDC (R246) -/

def State.rdcLine? (s : State) (die pa : Nat) : Option CacheLine := (s.die? die).bind (fun d => d.rdcLine? pa)

/-- A line leaves the RDCs that a test names. -/
def State.rdcDrop (s : State) (pa : Nat) (from? : Nat → Bool) : State :=
  { s with dies := s.dies.map (fun d => if from? d.no then { d with rdc := d.rdc.filter (fun l => l.line != pa / 128) } else d) }

/-- The byte of a dirty copy in some RDC of the package: the only valid one (R246). -/
def State.rdcDirtyByte? (s : State) (pa : Nat) : Option Byte :=
  s.dies.findSome? (fun d => (d.rdcLine? pa).bind (fun l => (SMap.find? l.bytes (pa % 128)).bind (fun b =>
    if b.dirty.isSome then some b.val else none)))

/-- A byte as its home gives it: forwarded from a dirty RDC copy of the package, else from memory. -/
def State.homeByte (s : State) (pa : Nat) : Byte := (s.rdcDirtyByte? pa).getD (s.mem.byte pa)

/-- Bytes at home, as a request reads them. -/
def State.homeBytes (s : State) (pa n : Nat) : List Byte := (List.range n).map (fun k => s.homeByte (pa + k))

/-- A write-back of a line leaves for its home: it is counted there as a write of its die (R345), and one to another package spends
an allowance (R364). -/
def State.backHome (s : State) (w : Req) (die pa : Nat) : State :=
  if s.local pa then s.countAccess w (some die) pa true else s.spendAllowance w

/-- Write a die's dirty RDC line back to its home; it stays, clean. -/
def State.cleanRdcLine (s : State) (q : Req) (die : Nat) (l : CacheLine) : State :=
  if l.dirtyBytes.isEmpty then s
  else
    let w := l.req q
    let s := (byteRuns l.dirtyBytes).foldl (fun s r => s.homeWrite w r.1 r.2) (s.backHome w die (128 * l.line))
    s.modDie die (fun d => { d with rdc := updateWhere (fun x => x.line == l.line) CacheLine.clean d.rdc })

/-- RDC copies of a line under another key domain are written back and dropped (R375). -/
def State.rdcDomain (s : State) (q : Req) (pa : Nat) : State :=
  s.dies.foldl (fun s d => match s.rdcLine? d.no pa with
    | some l => if l.kdom = q.kdom then s else (s.cleanRdcLine q d.no l).rdcDrop pa (fun k => k == d.no)
    | none => s) s

/-- A request reaches its home and leaves the line in the L2 under its domain. A line of another domain is written back and dropped
first (R375); the contents of a dropped line are in memory already. -/
def State.homeTouch (s : State) (q : Req) (pa : Nat) : State :=
  (((s.rdcDomain q pa).l2Domain q pa).spendToken q pa).modL2 pa q id

/-- Every RDC copy of a line leaves, a dirty one through its home: what a write performed there does first (R246). For a line
of another package the package's RDCs are kept coherent in the same way (Table 10.4; DEDUCED, notes/assumptions/45.md). -/
def State.recall (s : State) (q : Req) (pa : Nat) : State :=
  (s.dies.foldl (fun s d => match s.rdcLine? d.no pa with
    | some l => s.cleanRdcLine q d.no l
    | none => s) s).rdcDrop pa (fun _ => true)

/-- A write performed at home (R258), with the RDC copies gone. The L1 copies of the line stay. -/
def State.homeStore (s : State) (q : Req) (pa : Nat) (bs : List Byte) : State :=
  ((linesOf pa bs.length).foldl (fun s a => s.recall q a) s).homeWrite q pa bs

/-- Room in a die's RDC for a line of a partition, which owns whole ways of 16,384 lines (Table 21.1): a streaming line of the
full set leaves, else any (notes/assumptions/44.md), a dirty one through its home. -/
def State.rdcRoom (s : State) (q : Req) (die pa : Nat) : State :=
  match s.die? die with
  | none => s
  | some d =>
    let own := ((s.part? q.part).map (fun p => (p.rdcWays.filter (fun w => w.1 == die)).length)).getD 0
    let set := d.rdc.filter (fun l => l.part == q.part && l.line % 16384 == pa / 128 % 16384 && l.line != pa / 128)
    if set.length < (if own = 0 then 16 else own) then s
    else
      -- a line whose home is held by a reblock stays while another can leave (R359)
      let open_ := set.filter (fun l => !(s.quiesced (l.req q) (128 * l.line)) || l.dirtyBytes.isEmpty)
      let set := if open_.isEmpty then set else open_
      match (set.find? (fun l => l.policy == 1)).or (set[s.pick set.length]?) with
      | none => s
      | some v => ({ s.cleanRdcLine { q with pay := 2 } die v with fresh := s.fresh + 1 }).rdcDrop (128 * v.line) (fun k => k == die)

/-- Change a die's copy of a line, allocating it. -/
def State.modRdc (s : State) (q : Req) (die pa : Nat) (f : CacheLine → CacheLine) : State :=
  if (s.rdcLine? die pa).isSome then
    s.modDie die (fun d => { d with rdc := updateWhere (fun l => l.line == pa / 128) f d.rdc })
  else (s.rdcRoom q die pa).modDie die (fun d => { d with rdc := d.rdc ++ [f (CacheLine.empty q pa)] })

/-- One clean byte of a copy. -/
def State.rdcPut (s : State) (q : Req) (die pa : Nat) (b : Byte) : State :=
  s.modRdc q die pa (fun l => { l with bytes := SMap.ins l.bytes (pa % 128) { val := b, dirty := none, core := q.core, vif := q.vif } })

/-- A dirty copy in another RDC of the package comes to a die, with its writers; the other copies leave. -/
def State.rdcTake (s : State) (q : Req) (die pa : Nat) : State :=
  let other := (s.dies.filter (fun d => d.no != die)).filterMap (fun d => d.rdcLine? pa)
  let dirty := other.filter (fun l => !l.dirtyBytes.isEmpty)
  let s := s.rdcDrop pa (fun k => k != die)
  dirty.foldl (fun s o => s.modRdc q die pa (fun l =>
    { l with bytes := (o.bytes.filter (fun p => p.2.dirty.isSome)).foldl (fun m p => SMap.ins m p.1 p.2) l.bytes
             writers := l.writers ++ o.writers })) s

/-- A dirty byte of a line homed elsewhere: the RDC then holds the only valid copy in the package (R246). -/
def State.rdcStore (s : State) (q : Req) (die pa : Nat) (b : CByte) : State :=
  ((s.rdcDomain q pa).rdcTake q die pa).modRdc q die pa (fun l =>
    { l.dirtied q with bytes := SMap.ins l.bytes (pa % 128) { b with direct := false }, writers := insertNat b.core l.writers })

/-- A page that the die of the requester holds a replica of: a read goes to the replica and leaves the die's RDC alone (R347). -/
def State.replicaHit (s : State) (q : Req) (pa : Nat) : Bool :=
  s.local pa && !s.homeHere q pa && ((s.die? (dieOf q.core)).map (fun d => d.replicas.contains (pa / 65536))).getD false

/-- The bytes of a line beyond the L1 (Table 13.5): the die's RDC copy of a line homed elsewhere, else its home. -/
def State.beyondL1 (s : State) (q : Req) (pa : Nat) : Byte :=
  if s.homeHere q pa || q.policy == 2 then s.homeByte pa
  else
    match (s.rdcLine? (dieOf q.core) pa).bind (fun l => SMap.find? l.bytes (pa % 128)) with
    | some b => b.val
    | none => s.homeByte pa

/-- A line homed elsewhere is brought into the die's RDC unless the policy is no-RDC (Table 13.5). A line that lacks bytes is read
whole, under the dirty ones (R271). A poisoned sector leaves no clean copy (R385). -/
def State.rdcFetch (s : State) (q : Req) (pa : Nat) : State :=
  let die := dieOf q.core
  let line := alignDown pa 128
  let s := s.rdcDomain q pa
  if s.homeHere q pa || q.policy == 2 || s.replicaHit q pa || (s.rdcLine? die line).any (fun l => l.holds 0 128) then s
  else
    let s := s.modDie die (fun d => { d with rdc := updateWhere (fun l => l.line == line / 128) CacheLine.dirtyOnly d.rdc })
    (List.range 128).foldl (fun s k =>
      if ((s.rdcLine? die line).bind (fun l => SMap.find? l.bytes k)).isSome || (s.poisonAt q.kdom (line + k)).isSome then s
      else s.rdcPut q die (line + k) (s.homeByte (line + k))) s

/-! ## Write-backs and the L1 -/

/-- A core has written a line back apart from its other dirty lines (R265). -/
def State.markAhead (s : State) (core line : Nat) : State := s.modCore core (fun c => { c with ahead := insertNat line c.ahead })

/-- Write every dirty byte of a core's L1 line back and make it clean: to its home, or into the die's RDC for a line homed elsewhere
(Table 10.4). No-RDC bytes (R250) and `deep` write-backs go to the home. -/
def State.cleanL1Line (s : State) (q : Req) (deep : Bool) (l : CacheLine) : State :=
  let w := l.req q
  let die := dieOf q.core
  let pa := 128 * l.line
  let (far, near) := l.dirtyBytes.partition (fun p => deep || p.2.direct || s.homeHere w pa)
  if l.dirtyBytes.isEmpty then s
  else
    let s := s.markAhead q.core l.line
    let s := if far.isEmpty then s else (byteRuns far).foldl (fun s r => s.homeStore w r.1 r.2) (s.backHome w die pa)
    let s := near.foldl (fun s p => s.rdcStore w die p.1 p.2) s
    let s := if near.isEmpty || !s.local pa then s else s.noticed [pa]
    s.modCore q.core (fun c => { c with l1 := updateWhere (fun x => x.line == l.line) CacheLine.clean c.l1 })

/-- Drop a core's L1 line. -/
def State.dropL1 (s : State) (core line : Nat) : State :=
  s.modCore core (fun c => { c with l1 := c.l1.filter (fun l => l.line != line) })

/-- A line leaves a core's L1, its dirty bytes written back. -/
def State.evictL1 (s : State) (q : Req) (l : CacheLine) : State :=
  (s.cleanL1Line q false l).dropL1 q.core l.line

/-- A way of a core's L1 that holds no line of a line's set. -/
def State.l1FreeWay (s : State) (c : Core) (pa : Nat) : Option Nat :=
  (s.l1Ways c.no).find? (fun w => !(c.l1.any (fun l => l.line % 512 == pa / 128 % 512 && l.way == w)))

/-- Room for a line in its set: a streaming line of the full set leaves, else any (notes/assumptions/44.md). -/
def State.l1Room (s : State) (q : Req) (pa : Nat) : State :=
  match s.core? q.core with
  | none => s
  | some c =>
    let ways := s.l1Ways q.core
    let set := c.l1.filter (fun l => l.line % 512 == pa / 128 % 512 && ways.contains l.way)
    if c.l1.any (fun l => l.line == pa / 128) || (s.l1FreeWay c pa).isSome then s
    else
      -- a line whose home is held by a reblock stays while another can leave (R359)
      let open_ := set.filter (fun l => !(s.quiesced (l.req q) (128 * l.line)) || l.dirtyBytes.isEmpty)
      let set := if open_.isEmpty then set else open_
      match (set.find? (fun l => l.policy == 1)).or (set[s.pick set.length]?) with
      | none => s
      | some v => ({ s with fresh := s.fresh + 1 }).evictL1 { q with pay := 2 } v

/-- A line of another key domain leaves the L1: written back if dirty, then dropped (R375). -/
def State.l1Domain (s : State) (q : Req) (pa : Nat) : State :=
  match (s.core? q.core).bind (fun c => c.l1Line? pa) with
  | some l => if l.kdom = q.kdom then s else s.evictL1 { q with pay := 2 } l
  | none => s

/-- Put one byte into a core's L1. A store's line takes the class and the policy of the store. -/
def State.l1Put (s : State) (q : Req) (pa : Nat) (cell : CByte) : State :=
  s.modCore q.core (fun c =>
    let put (l : CacheLine) : CacheLine :=
      { (if cell.dirty.isSome then l.dirtied q else l) with bytes := SMap.ins l.bytes (pa % 128) cell }
    if c.l1.any (fun l => l.line == pa / 128) then
      { c with l1 := updateWhere (fun l => l.line == pa / 128) put c.l1 }
    else { c with l1 := c.l1 ++ [put { CacheLine.empty q pa with way := (s.l1FreeWay c pa).getD 31 }] })

/-- The L1 of the core holds n bytes at an address for the key domain of the request. -/
def State.l1Has (s : State) (q : Req) (pa n : Nat) : Bool :=
  ((s.core? q.core).bind (fun c => c.l1Line? pa)).any (fun l => l.kdom == q.kdom && l.holds (pa % 128) n)

/-- Fetch the line of n bytes into the L1, unless it holds them: the line is read whole and merged under its dirty bytes (Table 10.4,
R271). -/
def State.l1Fetch (s : State) (q : Req) (pa n : Nat) : State :=
  if s.l1Has q pa n then s
  else
    let s := (s.l1Domain q pa).l1Room q pa
    let line := alignDown pa 128
    let s := s.modCore q.core (fun c => { c with l1 := updateWhere (fun l => l.line == line / 128) CacheLine.dirtyOnly c.l1 })
    let s := if s.homeHere q pa then s.homeTouch q pa else s.rdcFetch q pa
    (List.range 128).foldl (fun s k =>
      match ((s.core? q.core).bind (fun c => c.l1Line? line)).bind (fun l => SMap.find? l.bytes k) with
      | some _ => s
      | none =>
        -- a poisoned sector is delivered poisoned and leaves no clean copy (R385)
        if (s.poisonAt q.kdom (line + k)).isSome then s
        else s.l1Put q (line + k) { val := s.beyondL1 q (line + k), dirty := none, core := q.core, vif := q.vif }) s

/-- The byte a core reads at an address, its L1 holding the line. -/
def State.l1Byte (s : State) (q : Req) (pa : Nat) : Byte :=
  match ((s.core? q.core).bind (fun c => c.l1Line? pa)).bind (fun l => SMap.find? l.bytes (pa % 128)) with
  | some b => b.val
  | none => s.beyondL1 q pa

/-- A plain store: dirty bytes in the L1, with the VA of each (R252). -/
def State.l1Store (s : State) (q : Req) (pa va : Nat) (bs : List Byte) : State :=
  let s := ((s.l1Domain q pa).l1Room q pa).spinTouch (pa / 128)
  (List.range bs.length).foldl (fun s k =>
    s.l1Put q (pa + k) { val := bs.getD k 0, dirty := some (va + k), core := q.core, vif := q.vif, direct := q.policy == 2 }) s

/-- A core's own copies of the lines of a range leave its L1, dirty bytes through a write-back: its lanes read the home again after a
write by an agent of the core's `.core` instance (R255, R271). Dirty bytes in a locked range stay: their write-back is held (R252). -/
def State.evictRange (s : State) (q : Req) (pa n : Nat) : State :=
  (linesOf pa n).foldl (fun s a => match s.core? q.core with
    | none => s
    | some c =>
      match c.l1Line? a with
      | none => s
      | some l =>
        let locked (p : Nat × CByte) : Bool := p.2.dirty.any (fun va => c.lockedByte p.2.vif va 0)
        let s := s.evictL1 { q with pay := 2 } { l with bytes := l.bytes.filter (fun p => !locked p) }
        let kept := l.bytes.filter locked
        if kept.isEmpty then s else s.modCore q.core (fun c => { c with l1 := c.l1 ++ [{ l with bytes := kept }] })) s

/-- A write of a core's map unit or copy engine, performed at its home (R258). -/
def State.agentStore (s : State) (q : Req) (pa : Nat) (bs : List Byte) : State := (s.evictRange q pa bs.length).homeStore q pa bs

/-! ## Actions by scope (Table 10.4) -/

/-- Dirty RDC lines of other packages that a core wrote, with their dies. -/
def State.rdcDirty (s : State) (q : Req) : List (Nat × CacheLine) :=
  s.dies.flatMap (fun d => (d.rdc.filter (fun l =>
    !l.dirtyBytes.isEmpty && !s.local (128 * l.line) && l.writers.contains q.core)).map (fun l => (d.no, l)))

/-- The lines that a group's saved stores dirtied are the new core's as well: its releases carry them (R261, R270). -/
def State.rdcAdopt (s : State) (old new : Nat) : State :=
  let adopt (l : CacheLine) : CacheLine :=
    if l.writers.contains old && !l.dirtyBytes.isEmpty then { l with writers := insertNat new l.writers } else l
  if old = new then s else { s with dies := s.dies.map (fun (d : Die) => { d with rdc := d.rdc.map adopt }) }

/-- Whether the release actions of a scope are held by a range lock older than `before`. -/
def State.releaseHeld (s : State) (q : Req) (scope before : Nat) : Bool :=
  2 ≤ scope && ((match s.core? q.core with
    | none => false
    | some c => c.l1.any (fun l => s.heldBack q before l.dirtyBytes)) ||
    (5 ≤ scope && (s.rdcDirty q).any (fun l => s.heldBack q before l.2.dirtyBytes)))

/-- Write back every dirty line of a core's L1. -/
def State.cleanL1 (s : State) (q : Req) : State :=
  match s.core? q.core with
  | none => s
  | some c => (c.l1.foldl (fun s l => s.cleanL1Line q false l) s).modCore q.core (fun c => { c with ahead := [] })

/-- The release actions of a scope. -/
def State.releaseActions (s : State) (q : Req) (scope : Nat) : State :=
  if scope < 2 then s
  else
    let s := s.cleanL1 q
    if scope < 5 then s else (s.rdcDirty q).foldl (fun s l => s.cleanRdcLine q l.1 l.2) s

/-- The acquire actions of a scope. At `.pod` and `.sys` the clean bytes of the die's copies of other packages' lines go; what
becomes of dirty ones is not said, and they stay (DESIGN CHOICE, notes/assumptions/43.md). -/
def State.acquireActions (s : State) (core scope : Nat) : State :=
  let cut (ls : List CacheLine) : List CacheLine := (ls.map CacheLine.dirtyOnly).filter (fun l => !l.bytes.isEmpty)
  if scope < 2 then s
  else
    let s := s.modCore core (fun c => { c with l1 := cut c.l1 })
    if scope < 5 then s
    else
      let here (l : CacheLine) : Bool := s.local (128 * l.line)
      s.modDie (dieOf core) (fun d => { d with rdc := d.rdc.filter here ++ cut (d.rdc.filter (fun l => !here l)) })

/-- The core's own dirty copies of a line: in its L1, and in an RDC for a line of another package. -/
def State.ownDirty (s : State) (q : Req) (pa : Nat) : List (Nat × CByte) :=
  (((s.core? q.core).bind (fun c => c.l1Line? pa)).map CacheLine.dirtyBytes).getD [] ++
    s.dies.flatMap (fun d => ((d.rdcLine? pa).map CacheLine.dirtyBytes).getD [])

/-- Write back and drop the core's own copy of a line before an operation at home (R175, R180): what the RDC holds is older
than what the L1 holds. -/
def State.expel (s : State) (q : Req) (pa : Nat) : State :=
  let s := s.recall q pa
  match (s.core? q.core).bind (fun c => c.l1Line? pa) with
  | some l => (s.cleanL1Line q true l).dropL1 q.core l.line
  | none => s

/-- Whether that write-back is held. -/
def State.expelHeld (s : State) (q : Req) (pa before : Nat) : Bool := s.heldBack q before (s.ownDirty q pa)

end Sys2Proof.Machine
end

