-- ==== Sys2Proof/Machine/Translate.lean ====
section
/-!
DEFINITION. Translation (19): table entries (Table 19.2) and their malformed cases (R322, R357), the two stages and a
nested walk as a function of memory (R321, R324, R333), storage entries (R350), the TLBs (R325), and asking for a walk
(R326).
-/
namespace Sys2Proof.Machine

/-! ## Entries -/

def pteV (e : Nat) : Bool := e.testBit 0
def pteL (e : Nat) : Bool := e.testBit 1
def pteAF (e : Nat) : Bool := e.testBit 6
def pteD (e : Nat) : Bool := e.testBit 7
def pteS (e : Nat) : Bool := e.testBit 63
def pteM (e : Nat) : Bool := e.testBit 62
/-- Output address [51:8]. -/
def pteOA (e : Nat) : Nat := bitsOf e 51 8 * 256
/-- R, W, A, F as a mask [0] R, [1] W, [2] A, [3] F. -/
def ptePerm (e : Nat) : BitVec 4 := BitVec.ofNat 4 (bitsOf e 5 2)

/-- Page size of a leaf at a level (Table 19.1). -/
def leafSize (level : Nat) : Nat := if level = 2 then 2 ^ 30 else if level = 1 then 2 ^ 21 else 2 ^ 16

/-- The level of a leaf of a size. -/
def leafLevel (size : Nat) : Nat := if size = 2 ^ 30 then 2 else if size = 2 ^ 21 then 1 else 0

/-- Index of an address at a level. -/
def levelIndex (guest : Bool) (level a : Nat) : Nat :=
  match level with
  | 4 => if guest then bitsOf a 56 48 else bitsOf a 51 48
  | 3 => bitsOf a 47 39
  | 2 => bitsOf a 38 30
  | 1 => bitsOf a 29 21
  | _ => bitsOf a 20 16

/-- A PA that Table 19.3 reserves, or that only SYS may name (notes/assumptions/8.md). -/
def paReserved (pa : Nat) : Bool := 2 ≤ paRgn pa || 288 ≤ paPkg pa

/-- A valid entry that is malformed (R322): it counts as V = 0. `leafOk`: the output of a leaf of this size is allowed. -/
def pteMalformed (e level : Nat) (reserved : Nat → Bool) (leafOk : Nat → Nat → Bool) : Bool :=
  let leaf := pteL e
  bitsOf e 61 52 != 0 || (leaf && 3 ≤ level) || (!leaf && level == 0) ||
    (if leaf then pteOA e % leafSize level != 0 || reserved (pteOA e) || !leafOk (pteOA e) (leafSize level)
     else reserved (pteOA e) || (2 ≤ level && pteOA e % 4096 != 0))

/-! ## Walks -/

/-- The hypervisor stage's answer for an IPA. -/
inductive Hyp where
  | ok (pa size entryPa entry : Nat) (perm : BitVec 4)
  | fault (level entry : Nat)
  /-- A table read met a home that is unavailable or held (R415, R359). -/
  | retry (pa : Nat)
  deriving DecidableEq, Repr

/-- What a context's walks read with. -/
structure WalkEnv where
  groot : Nat
  hroot : Nat
  part : Partition
  req : Req
  deriving DecidableEq, Repr

/-- The hypervisor stage from a table at a level down (n levels left). -/
def State.hypFrom (s : State) (w : WalkEnv) (ipa : Nat) : Nat → Nat → Nat → Hyp
  | 0, level, _ => .fault level 0
  | n + 1, level, table =>
    let ea := table + 8 * levelIndex false level ipa
    if s.homeUnavailable ea || s.quiesced w.req ea then .retry ea
    else
      let e := leNat (s.homeBytes ea 8)
      if !pteV e || pteMalformed e level paReserved (fun pa n => w.part.owns s.pkg pa n) then .fault level e
      else if pteL e then
        .ok (pteOA e + ipa % leafSize level) (leafSize level) ea e (ptePerm e)
      else s.hypFrom w ipa n (level - 1) (pteOA e)

/-- The hypervisor stage. -/
def State.hypWalk (s : State) (w : WalkEnv) (ipa : Nat) : Hyp := s.hypFrom w ipa 5 4 w.hroot

/-- The guest stage's answer for a VA: the leaf's IPA, or where it stopped. -/
inductive Guest where
  | ok (ipa size entryPa entry : Nat) (perm : BitVec 4)
  /-- KIND 1: level and entry. -/
  | fault (level entry : Nat)
  | storage (entry entryPa : Nat)
  /-- A table read stopped at the hypervisor stage: KIND 3 or 4, with the IPA read. -/
  | table (kind level entry ipa : Nat)
  | retry (pa : Nat)
  deriving DecidableEq, Repr

/-- Well-formedness of a storage entry (R350). -/
def storageOk (p : Partition) (e : Nat) : Bool :=
  let nsi := bitsOf e 62 60
  let eng := bitsOf e 59 56
  let pbn := bitsOf e 55 20
  bitsOf e 19 6 == 0 && pteL e && p.engines.contains eng &&
    p.nsi.any (fun (g, k, _, cap) => g == eng && k == nsi && 16 * pbn + 16 ≤ cap)

/-- The guest stage from a table (an IPA) at a level down. -/
def State.guestFrom (s : State) (w : WalkEnv) (va : Nat) : Nat → Nat → Nat → Guest
  | 0, level, _ => .fault level 0
  | n + 1, level, table =>
    let ia := table + 8 * levelIndex true level va
    match s.hypWalk w ia with
    | .retry pa => .retry pa
    | .fault l e => .table 3 l e ia
    | .ok ea size _ he perm =>
      if !perm.getLsbD 0 then .table 4 (leafLevel size) he ia
      else if s.homeUnavailable ea || s.quiesced w.req ea then .retry ea
      else
        let e := leNat (s.homeBytes ea 8)
        if !pteV e then
          if level == 0 && pteS e && storageOk w.part e then .storage e ea else .fault level e
        else if pteMalformed e level (fun _ => false) (fun _ _ => true) then .fault level e
        else if pteL e then
          .ok (pteOA e + va % leafSize level) (leafSize level) ea e (ptePerm e)
        else s.guestFrom w va n (level - 1) (pteOA e)

/-- A whole nested walk for an access that needs the permissions in `need` (R324, R333). -/
inductive WalkResult where
  /-- Final addresses, page size, effective permission, both leaves with their places, M. -/
  | ok (ipa pa size : Nat) (perm : BitVec 4) (gEntryPa gEntry hEntryPa hEntry : Nat)
  /-- KIND, level, entry, faulting IPA, whether it was a table read. -/
  | fault (kind level entry ipa : Nat) (table : Bool)
  | storage (entry entryPa : Nat)
  | retry (pa : Nat)
  deriving DecidableEq, Repr

def State.walkTables (s : State) (w : WalkEnv) (va : Nat) (need : BitVec 4) : WalkResult :=
  match s.guestFrom w va 5 4 w.groot with
  | .retry pa => .retry pa
  | .fault l e => .fault 1 l e 0 false
  | .storage e ea => .storage e ea
  | .table k l e ipa => .fault k l e ipa true
  | .ok ipa gsize gea ge gperm =>
    if gperm &&& need != need then .fault 2 (leafLevel gsize) ge 0 false
    else
      match s.hypWalk w ipa with
      | .retry pa => .retry pa
      | .fault l e => .fault 3 l e ipa false
      | .ok pa hsize hea he hperm =>
        if hperm &&& need != need then .fault 4 (leafLevel hsize) he ipa false
        else .ok ipa pa (min gsize hsize) (gperm &&& hperm) gea ge hea he

/-- Places of the entries that a walk of the hypervisor stage reads. -/
def State.hypReads (s : State) (w : WalkEnv) (ipa : Nat) : Nat → Nat → Nat → List Nat
  | 0, _, _ => []
  | n + 1, level, table =>
    let ea := table + 8 * levelIndex false level ipa
    let e := leNat (s.homeBytes ea 8)
    if s.homeUnavailable ea || s.quiesced w.req ea || !pteV e || pteMalformed e level paReserved (fun pa n => w.part.owns s.pkg pa n) ||
        pteL e then [ea]
    else ea :: s.hypReads w ipa n (level - 1) (pteOA e)

/-- Places of the entries that a nested walk reads (R326). -/
def State.guestReads (s : State) (w : WalkEnv) (va : Nat) : Nat → Nat → Nat → List Nat
  | 0, _, _ => []
  | n + 1, level, table =>
    let ia := table + 8 * levelIndex true level va
    let hyp := s.hypReads w ia 5 4 w.hroot
    match s.hypWalk w ia with
    | .ok ea _ _ _ perm =>
      let e := leNat (s.homeBytes ea 8)
      if !perm.getLsbD 0 then hyp
      else if s.homeUnavailable ea || s.quiesced w.req ea || !pteV e || pteMalformed e level (fun _ => false) (fun _ _ => true) then
        hyp ++ [ea]
      else if pteL e then hyp ++ ea :: s.hypReads w (pteOA e + va % leafSize level) 5 4 w.hroot
      else hyp ++ ea :: s.guestReads w va n (level - 1) (pteOA e)
    | _ => hyp

/-- First bytes of the lines that a walk reads, each once. -/
def State.walkLines (s : State) (w : WalkEnv) (va : Nat) : List Nat :=
  ((s.guestReads w va 5 4 w.groot).map (fun a => alignDown a 128)).eraseDups

/-- The walk environment of an interface. -/
def State.walkEnv? (s : State) (vif : Nat) : Option WalkEnv :=
  match s.vif? vif with
  | none => none
  | some v =>
    match s.part? v.part with
    | none => none
    | some p => some { groot := v.groot, hroot := v.hroot, part := p,
                       req := { vif := vif, part := v.part, kdom := v.kdom, classH := false, core := 96 * 4 } }

/-! ## TLBs (R325) -/

/-- A TLB of n entries takes one more: entries of the same page leave, then the oldest. -/
def tlbInstall (n : Nat) (l : List TlbEntry) (t : TlbEntry) : List TlbEntry :=
  let l := l.filter (fun u => !(u.vif == t.vif && rangesMeet u.va u.size t.va t.size))
  (if l.length < n then l else l.drop 1) ++ [t]

/-- Ask for a walk, or join an unfinished one for the same context and 64 KiB page (R326). -/
def State.requestWalk (s : State) (vif die : Nat) (core : Option Nat) (va : Nat) (acc : BitVec 8) (agent : Nat)
    (classH : Bool) (lid cid gid : Nat) (w : Waiter) : State :=
  match s.walks.find? (fun k => k.vif == vif && k.va == va / 65536) with
  | some k =>
    let join (x : Walk) : Walk := if x.waiters.contains (acc, w) then x else { x with waiters := x.waiters ++ [(acc, w)] }
    { s with walks := updateWhere (fun x => x.id == k.id) join s.walks }
  | none =>
    let id := s.nextId
    let k : Walk := { id := id, vif := vif, die := die, core := core, va := va / 65536, askedVa := va, acc := acc, agent := agent,
                      classH := classH, lid := lid, cid := cid, gid := gid, waiters := [(acc, w)], started := false,
                      s1gen := 0, s2gen := 0, logging := false }
    ({ s with nextId := id + 1, walks := s.walks ++ [k] }).post (.walkStart id)

/-- AF set, and D for a write (R328). -/
def usedEntry (e : Nat) (write : Bool) : Nat :=
  let e := if pteAF e then e else e + 2 ^ 6
  if write && !pteD e then e + 2 ^ 7 else e

/-- Write a table entry at its home. -/
def State.putEntry (s : State) (q : Req) (pa e : Nat) : State := s.homeStore q pa (leBytes e 8)

/-- A leaf has been used: AF, and D for a write, are set where they are not (R328). -/
def State.useLeaf (s : State) (q : Req) (pa e : Nat) (write : Bool) : State :=
  if usedEntry e write = e then s else s.putEntry q pa (usedEntry e write)

/-- Bits of ACC (Table 19.7). -/
def accRead : BitVec 8 := 1
def accWrite : BitVec 8 := 2
def accAtomic : BitVec 8 := 4
def accFetch : BitVec 8 := 8
def accEngine : BitVec 8 := 16
def accBand : BitVec 8 := 32
def accTable : BitVec 8 := 64
def accMap : BitVec 8 := 128

/-- The permissions that a walk for these ACC bits needs. -/
def needOfAcc (acc : BitVec 8) : BitVec 4 :=
  if acc.getLsbD 2 then needAtomic else if acc.getLsbD 3 then needFetch
  else if acc.getLsbD 1 then needWrite else needRead

end Sys2Proof.Machine
end

