-- ==== Sys2Proof/Machine/Lsu.lean ====
section
/-!
DEFINITION. The load-store unit: order among a lane's accesses (R172, R177, R178, R191), replay-slot reservation (R190),
values and fills (R171, R175, R180, Table 10.3), and the scratchpad with its granules and mapped sectors (R238 to R241).
-/
namespace Sys2Proof.Machine

/-! ## What an access is -/

/-- The word has an address in each lane. -/
def Access.addressed (a : Access) : Bool :=
  a.opc == opLd || a.opc == opSt || a.opc == opLdw || a.opc == opStf || a.opc == opAtom || a.opc == opCas ||
    a.opc == opPromote || a.opc == opWaitc

/-- `.acq` or an acquire by nature (Table 14.2). -/
def Access.acquires (a : Access) : Bool :=
  a.opc == opPromote || a.opc == opWaitc ||
    (a.ord.getLsbD 0 && (a.opc == opLd || a.opc == opLdw || a.opc == opAtom || a.opc == opCas || a.opc == opFence))

/-- `.rel` or a release by nature. -/
def Access.releases (a : Access) : Bool :=
  a.opc == opPromote || a.opc == opPush || a.opc == opTstream || a.opc == opBar || a.opc == opBarb ||
    (a.ord.getLsbD 1 && (a.opc == opSt || a.opc == opStf || a.opc == opAtom || a.opc == opCas || a.opc == opFence))

/-- Writes memory or is an atomic (R178). -/
def Access.writes (a : Access) : Bool :=
  a.opc == opSt || a.opc == opStf || a.opc == opAtom || a.opc == opCas || a.opc == opPromote || a.opc == opPush ||
    a.opc == opTstream || (a.opc == opLdw && a.var.getLsbD 3)

/-- Map words (R243). -/
def Access.mapWord (a : Access) : Bool := a.opc == opMapset || a.opc == opMapflush

/-- The byte range of a lane: address and length (R186 takes the sectors that overlap). -/
def Access.range (a : Access) (i : Nat) : Option (Nat × Nat) :=
  match a.addr.find? (fun p => p.1 == i) with
  | none => none
  | some (_, va) =>
    if a.opc == opWbr || a.opc == opInvr then
      let n := ((a.data.find? (fun p => p.1 == i)).map (fun p => p.2.toNat)).getD 0
      some (alignDown va 128, alignUp (va + n) 128 - alignDown va 128)
    else some (va, a.size)

/-- A word whose lanes are performed together: a map word, and what carries the release of a `push`, `tstream` or barrier. -/
def Access.whole (a : Access) : Bool :=
  a.mapWord || a.opc == opPush || a.opc == opTstream || a.opc == opBar || a.opc == opBarb

/-- Lanes of the access that are still to be performed. -/
def Access.left (a : Access) : Mask :=
  if a.addressed || a.opc == opWbr || a.opc == opInvr then maskOf (a.addr.map (fun p => p.1)) else a.lanes

/-- The page of an address translates; its PA whatever the permission. -/
def State.aliasPa (s : State) (l : Launch) (c : Cohort) (va : Nat) : Option Nat := s.translate c.core l.vif va 0

/-- Two ranges of a lane or of two lanes have a byte in common: the addresses meet, or two GLOBAL addresses that may lie at one physical
place meet there (R172, R254, R256). `unknown`: what counts while a page does not translate. -/
def State.bytesMeet (s : State) (l : Launch) (c : Cohort) (space x n y m : Nat) (unknown : Bool) : Bool :=
  rangesMeet x n y m || (space == 0 && rangesMeet (x % 65536) n (y % 65536) m && (match s.aliasPa l c x, s.aliasPa l c y with
    | some p, some q => rangesMeet p n q m
    | _, _ => unknown))

/-- A lane touches one byte by both accesses. A page that does not translate yet may be any place, but that of a replay slot is then
known by its virtual address alone (R191). -/
def State.sameBytes (s : State) (l : Launch) (c : Cohort) (a b : Access) (slot : Bool) (i : Nat) : Bool :=
  a.space == b.space && (match a.range i, b.range i with
    | some (x, n), some (y, m) => if a.addressed && b.addressed then s.bytesMeet l c a.space x n y m (!slot) else rangesMeet x n y m
    | _, _ => false)

/-- An older access of the group holds lane i of this one (R172, R177, R178, R191). SYS accesses of a lane keep program order
(R170). A `mapset` or `mapflush` writes back what was written: a releasing fence orders it as it does a store (R243, R260). -/
def State.laneHeld (s : State) (l : Launch) (c : Cohort) (a b : Access) (slot : Bool) (i : Nat) : Bool :=
  b.left.getLsbD i && (b.acquires || a.releases || a.opc == opFence ||
    (b.opc == opFence && b.ord.getLsbD 1 && (a.writes || a.mapWord)) || (a.space == 3 && b.space == 3) || s.sameBytes l c a b slot i)

/-- An access of a group is older: its word issued earlier. A load of a checked clause may have been sent before a store that stands
earlier in it (R106). -/
def Access.after (a b : Access) : Bool := b.issuedAt < a.issuedAt || (b.issuedAt == a.issuedAt && b.id < a.id)

/-- Map words and scratchpad accesses of a cohort keep acceptance order (R243). A map word waits for no access that may itself wait for
another thread: an `ldw` or a `waitc` (R174, R180; notes/assumptions/43.md). -/
def Access.mapHeldBy (a b : Access) : Bool :=
  b.id < a.id && ((a.mapWord && (b.mapWord || (b.space == 1 && b.addressed && b.opc != opLdw && b.opc != opWaitc &&
    (a.opc == opMapset || b.writes)))) || (a.space == 1 && b.mapWord))

/-- All accesses of a group not yet performed, those in replay slots among them. -/
def Group.pendingAccs (g : Group) : List Access := g.accs ++ g.slots.map (fun t => t.acc)

/-- Two lanes of an access touch one byte. -/
def State.lanesMeet (s : State) (l : Launch) (c : Cohort) (a : Access) (i j : Nat) : Bool :=
  match a.range i, a.range j with
  | some (x, n), some (y, m) => if a.addressed then s.bytesMeet l c a.space x n y m true else rangesMeet x n y m
  | _, _ => false

/-- The lanes among `ok` that can go before those that cannot: lanes that touch one byte are served in ascending order (R172, R256). -/
def State.inLaneOrder (s : State) (l : Launch) (c : Cohort) (a : Access) (ok : Mask) : Mask :=
  let wait := a.left &&& ~~~ok
  (maskLanes ok).foldl (fun (acc : Mask × Mask) i =>
    if (maskLanes acc.2).any (fun j => j < i && s.lanesMeet l c a i j) then (acc.1, acc.2 ||| maskOf [i])
    else (acc.1 ||| maskOf [i], acc.2)) (0, wait) |>.1

/-- Lanes of an access that nothing older holds: ordering is a lane's own (R177), but the lanes of a `whole` word go together. -/
def State.freeLanes (s : State) (l : Launch) (c : Cohort) (g : Group) (a : Access) : Mask :=
  let held (i : Nat) : Bool := g.accs.any (fun b => a.after b && s.laneHeld l c a b false i) ||
    g.slots.any (fun t => a.after t.acc && s.laneHeld l c a t.acc true i)
  if a.behind || c.groups.any (fun h => h.pendingAccs.any (fun b => a.mapHeldBy b)) then 0
  else
    let ok := maskWhere (fun i => a.left.getLsbD i && !held i)
    if a.whole && ok != a.left then 0 else s.inLaneOrder l c a ok

/-- The access waits for an older one in every lane. -/
def State.accessHeld (s : State) (l : Launch) (c : Cohort) (g : Group) (a : Access) : Bool := s.freeLanes l c g a == 0

/-! ## Values (R171, Table 10.3) -/

/-- Registers that a load of a type fills. -/
def loadedWords (var : BitVec 4) (bs : List Byte) : List Word :=
  let x := leNat bs
  match var.toNat % 8 with
  | 0 | 2 | 4 => [w32 x]
  | 1 => [w32 (wrapNat (sextNat x 8) 32)]
  | 3 => [w32 (wrapNat (sextNat x 16) 32)]
  | 5 => [w32 x, w32 (x / 2 ^ 32)]
  | _ => [w32 x, w32 (x / 2 ^ 32), w32 (x / 2 ^ 64), w32 (x / 2 ^ 96)]

/-- The bytes that a VAR of Table 5.4 moves. -/
def memSize (var : BitVec 4) : Nat :=
  match var.toNat % 8 with
  | 0 | 1 => 1
  | 2 | 3 => 2
  | 4 => 4
  | 5 => 8
  | _ => 16

/-- One BF16 or FP32 sum of an atomic: RNE, no FTZ, no flags (R175). -/
def atomSum (f : FFmt) (a b : Nat) : Nat := (f.sum 0 false false false [f.decode false a, f.decode false b]).pat

/-- Op(VAR) (Table 10.3). -/
def atomOp (var : BitVec 4) (old a : Nat) : Nat :=
  let s (x : Nat) : Int := sextNat x 32
  match var.toNat with
  | 0x0 => (old + a) % 2 ^ 32
  | 0x1 => if s old ≤ s a then old else a
  | 0x2 => if s old ≤ s a then a else old
  | 0x3 => min old a
  | 0x4 => max old a
  | 0x5 => old &&& a
  | 0x6 => old ||| a
  | 0x7 => old ^^^ a
  | 0x8 => a
  | 0x9 => atomSum fmtF32 old a
  | 0xA => atomSum fmtBF16 (old % 65536) (a % 65536) + 65536 * atomSum fmtBF16 (old / 65536) (a / 65536 % 65536)
  | 0xB => (old + a) % 2 ^ 64
  | _ => a

/-- Size of an `atom` access. -/
def atomSize (var : BitVec 4) : Nat := if var == 0xB || var == 0xC then 8 else 4

/-- The counter test of `waitc` (R180). -/
def counterReached (c t : Nat) : Bool := 0 ≤ sextNat (wrapNat ((c : Int) - t) 32) 32

/-- Operand of a lane. -/
def Access.dataOf (a : Access) (i : Nat) : Nat := ((a.data.find? (fun p => p.1 == i)).map (fun p => p.2.toNat)).getD 0

/-- Compare value of a lane. -/
def Access.cmpOf (a : Access) (i : Nat) : Nat := ((a.cmp.find? (fun p => p.1 == i)).map (fun p => p.2.toNat)).getD 0

/-! ## Fills -/

/-- Make an outstanding result for n registers from `dst` (R51): values by lane. A w register takes the value of the
first active lane alone (R65). `holds`: lanes that issue nothing until it lands (R131). -/
def State.addFillHeld (s : State) (g : GRef) (dst n : Nat) (lanes : Mask) (vals : List (Nat × List Word)) (inRegion : Bool)
    (poison : Option (Poison × Nat)) (holds : Mask) : State :=
  let vals := if dst < 0xC0 then vals else vals.filter (fun p => firstLane lanes == some p.1)
  if vals.isEmpty then s
  else
    let id := s.nextId
    let f : Fill := { id := id, dst := dst, regs := n, vals := vals, inRegion := inRegion, poison := poison, holds := holds }
    ({ s with nextId := id + 1 }.modGroup g (fun x => { x with fills := x.fills ++ [f] })).post (.registerFill g id)

/-- An outstanding result that holds no lane. -/
def State.addFill (s : State) (g : GRef) (dst n : Nat) (lanes : Mask) (vals : List (Nat × List Word)) (inRegion : Bool)
    (poison : Option (Poison × Nat)) : State := s.addFillHeld g dst n lanes vals inRegion poison 0

/-- Fill the lanes of an access that have completed. -/
def State.fillAccess (s : State) (g : GRef) (a : Access) (vals : List (Nat × List Word)) (p : Option (Poison × Nat)) :
    State :=
  if a.noFill || noDst ≤ a.dst then s else s.addFill g a.dst a.regs a.lanes vals a.inRegion p

/-- Remove lanes of an access that have been performed; with none left the access is gone. -/
def Access.without (a : Access) (done : List Nat) : Access :=
  { a with addr := a.addr.filter (fun p => !done.contains p.1), lanes := if a.opc == opFence then a.lanes &&& ~~~maskOf done else a.lanes }

/-- Record that lanes of an access have been performed. -/
def State.accDone (s : State) (g : GRef) (id : Nat) (done : List Nat) : State :=
  let cut (a : Access) : Access := if a.id = id then a.without done else a
  let keep (a : Access) : Bool := a.id != id || a.left != 0
  s.modGroup g (fun x => { x with accs := (x.accs.map cut).filter keep })

/-! ## Scratchpad and granules (R238, R239) -/

def granuleFull (c : Cohort) (k : Nat) : Bool := !(SMap.get c.granEmpty false k)

/-- Granules that n bytes at a touch. -/
def granulesOf (a n : Nat) : List Nat := (List.range ((a % 16 + n + 15) / 16)).map (fun k => a / 16 + k)

def Cohort.setGranules (c : Cohort) (a n : Nat) (full : Bool) : Cohort :=
  { c with granEmpty := (granulesOf a n).foldl (fun m k => SMap.set m false k (!full)) c.granEmpty }

/-- 4-byte units of the scratchpad with poison marks (R386). -/
def Cohort.scrPoisoned (c : Cohort) (a n : Nat) : Option Poison :=
  (List.range ((a % 4 + n + 3) / 4)).findSome? (fun k => SMap.get c.scrPoison none (a / 4 + k))

/-- Mark or clear the poison of the units that n bytes cover wholly (a partial write leaves the mark). -/
def Cohort.setScrPoison (c : Cohort) (a n : Nat) (p : Option Poison) : Cohort :=
  let mark (m : SMap (Option Poison)) (k : Nat) : SMap (Option Poison) :=
    let u := a / 4 + k
    if p.isSome then SMap.set m none u p
    else if a ≤ 4 * u ∧ 4 * u + 4 ≤ a + n then SMap.set m none u none else m
  { c with scrPoison := (List.range ((a % 4 + n + 3) / 4)).foldl mark c.scrPoison }

/-- The map entry whose region holds an offset (R240). -/
def Cohort.mapAt (c : Cohort) (o : Nat) : Option Nat :=
  (List.range 8).find? (fun k => match c.maps.toList[k]? with
    | some m => m.bound && m.s ≤ o && o < m.s + m.n
    | none => false)

def Cohort.mapEntry (c : Cohort) (k : Nat) : MapEntry := c.maps.toList.getD k MapEntry.unbound

def Cohort.modMap (c : Cohort) (k : Nat) (f : MapEntry → MapEntry) : Cohort :=
  { c with maps := c.maps.mapIdx (fun i m => if i = k then f m else m) }

/-- Unfilled mapped sectors that n bytes at an offset touch, as (entry, sector offset). -/
def Cohort.unfilled (c : Cohort) (o n : Nat) : List (Nat × Nat) :=
  ((List.range ((o % 128 + n + 127) / 128)).filterMap (fun k =>
    let sec := alignDown o 128 + 128 * k
    match c.mapAt (max sec o) with
    | some e => if (c.mapEntry e).filled.contains sec then none else some (e, sec)
    | none => none))

end Sys2Proof.Machine
end

