-- ==== Sys2Proof/Machine/Operands.lean ====
section
/-!
DEFINITION. The context of the word that executes, its operand forms, and the checks of steps 10 to 14 of Table 5.6:
encoding, privilege, region, register bound and holding, empty sources and outstanding destinations (R50, R52, R53,
R58, R66, R92, R94), and the poison check of R387.
-/
namespace Sys2Proof.Machine

/-! ## The word's context -/

/-- Everything that the word at hand executes in: which issue set, its launch, cohort, group and issue. -/
structure Ctx where
  ref : IssueRef
  l : Launch
  c : Cohort
  g : Group
  i : Issue
  deriving DecidableEq, Repr

/-- The context of the issue that now executes, if there is one. -/
def State.ctx? (s : State) : Option Ctx :=
  match s.cur with
  | none => none
  | some ref =>
    match s.cohort? (GRefCohort ref.g), s.launch? ref.g.lid with
    | some c, some l =>
      match c.group? ref.g.gid with
      | none => none
      | some g =>
        match g.issue? ref.second with
        | none => none
        | some i => some { ref := ref, l := l, c := c, g := g, i := i }
    | _, _ => none

/-- Guard(lane) (R69). -/
def guardHolds (gd : Guard) (r : Regs) (lane : Nat) : Bool := r.pred gd.gp.toNat lane != gd.gi

/-- The active lanes of a word (R58): in the issue set, live, guard true. -/
def Ctx.active (x : Ctx) (gd : Guard) : Mask :=
  maskWhere (fun i => x.i.lanes.getLsbD i && x.g.r.live.getLsbD i && guardHolds gd x.g.r i)

/-! ## Specials (Table 3.6a) -/

/-- The 32-bit value of a special in a lane. -/
def Ctx.special (x : Ctx) (n lane : Nat) : Nat :=
  match n with
  | 0xE0 => 0
  | 0xE1 => 0xFFFFFFFF
  | 0xE2 => lane
  | 0xE3 => lane % 4
  | 0xE4 => x.g.gid % 2 ^ 32
  | 0xE5 => x.c.ref.cid % 2 ^ 32
  | 0xE6 => x.c.bid % 2 ^ 32
  | 0xE8 => 1
  | 0xE9 => 2
  | 0xEA => 3
  | 0xEB => 4
  | 0xEC => 8
  | 0xED => 16
  | 0xEE => 32
  | 0xEF => 64
  | 0xF0 => 0x3F000000
  | 0xF1 => 0x3F800000
  | 0xF2 => 0x40000000
  | 0xF3 => 0x40800000
  | 0xF4 => 0xBF000000
  | 0xF5 => 0xBF800000
  | 0xF6 => 0xC0000000
  | 0xF7 => 0xC0800000
  | _ => 0

/-! ## Operand forms -/

/-- A source operand: n consecutive registers from a field, or a special; a predicate; or an accumulator tile. -/
inductive SrcOp where
  | reg (enc : Nat) (policy : Bool) (n : Nat)
  | pred (enc : Nat)
  | tile (n : Nat)
  deriving DecidableEq, Repr

/-- A destination operand. -/
inductive DstOp where
  | reg (enc : Nat) (n : Nat)
  | pred (enc : Nat)
  | tile (n : Nat)
  deriving DecidableEq, Repr

/-- A 32-bit source field with its policy bit. -/
def src (f : BitVec 8) (e : Bool) : SrcOp := .reg f.toNat e 1

/-- A pair. -/
def srcPair (f : BitVec 8) (e : Bool) : SrcOp := .reg f.toNat e 2

/-- A destination of n registers. -/
def dst (f : BitVec 8) (n : Nat) : DstOp := .reg f.toNat n

/-- The value of a field in a lane as a number of 32 n bits, low register first; a special is zero-extended, but for
`ones` (R66). -/
def Ctx.value (x : Ctx) (enc n lane : Nat) : Nat :=
  if 0xE0 ≤ enc then
    if enc = 0xE1 then 2 ^ (32 * n) - 1 else x.special enc lane
  else (List.range n).foldl (fun acc k => acc + (x.g.r.read (enc + k) lane).toNat * 2 ^ (32 * k)) 0

/-- The value of a 32-bit source field. -/
def Ctx.val (x : Ctx) (f : BitVec 8) (lane : Nat) : Nat := x.value f.toNat 1 lane

/-- The value of a source field of n registers. -/
def Ctx.valN (x : Ctx) (f : BitVec 8) (n lane : Nat) : Nat := x.value f.toNat n lane

/-- A uniform source, read once for the issue. -/
def Ctx.uniform (x : Ctx) (f : BitVec 8) : Nat := x.value f.toNat 1 0

/-- A uniform pair. -/
def Ctx.uniformPair (x : Ctx) (f : BitVec 8) : DWord := w64 (x.value f.toNat 2 0)

/-- The predicate that a field names. -/
def Ctx.predVal (x : Ctx) (f : BitVec 8) (lane : Nat) : Bool := x.g.r.pred f.toNat lane

/-! ## Checks -/

/-- One lane's trap at a word. -/
structure LaneTrap where
  lane : Nat
  code : Nat
  info : Nat
  deriving DecidableEq, Repr

/-- The registers of an operand. -/
def regsOf (enc n : Nat) : List Nat := if enc < 0xE0 then (List.range n).map (fun k => enc + k) else []

/-- Bound, then holding, of one operand (R50): a pair fails if either half does (R48). Its INFO is the field's encoding also where
the upper half alone fails (DESIGN CHOICE, notes/assumptions/43.md). -/
def Ctx.operandBound (x : Ctx) (enc n : Nat) : Option (Nat × Nat) :=
  let cs := (regsOf enc n).filterMap (fun r => x.g.r.checkReg x.l.breg x.l.xreg r)
  match minNat? cs with
  | some code => some (code, enc)
  | none => none

/-- Step 13: operand by operand in field order, destinations last. -/
def Ctx.bounds (x : Ctx) (ss : List SrcOp) (ds : List DstOp) : Option (Nat × Nat) :=
  -- a tile beyond the declared count (R148)
  let tile (n : Nat) : Option (Nat × Nat) := if x.l.acc ≤ n then some (0x05, 0xF0 + n) else none
  let ops := (ss.filterMap (fun o => match o with
      | .reg e _ n => x.operandBound e n
      | .tile n => tile n
      | .pred _ => none)) ++
    (ds.filterMap (fun o => match o with
      | .reg e n => x.operandBound e n
      | .tile n => tile n
      | .pred _ => none))
  ops.head?

/-- An unsent operation of the checked clause will write register n of a lane (R106): a w register has no lanes. -/
def SendOp.writes (n lane : Nat) : SendOp → Bool
  | .mem a => a.dst < noDst && !a.noFill && a.dst ≤ n && n < a.dst + a.regs && (0xC0 ≤ n || a.lanes.getLsbD lane)
  | .fetcht _ d => d ≤ n && n < d + 4
  | _ => false

/-- An unsent operation will write predicate n of a lane. -/
def SendOp.writesPred (n lane : Nat) : SendOp → Bool
  | .push p lanes _ _ => p == n && lanes.getLsbD lane
  | .tstream p l _ _ _ => p == n && l == lane
  | .xacq p lanes => p == n && lanes.getLsbD lane
  | _ => false

/-- Operations that the group has issued and not yet sent: behind a `bandx`, and of its present clause. -/
def Group.queued (g : Group) : List SendOp := g.sending ++ g.unsent

/-- A result of the present clause for register n of a lane that waits for the commit (R106), be it of a load that has been sent and stands
behind an operation that waits for it. -/
def Group.unsentResult (g : Group) (n lane : Nat) : Bool :=
  let behind (a : Access) : Bool := a.behind && SendOp.writes n lane (.mem a)
  g.queued.any (SendOp.writes n lane) || g.accs.any behind || g.slots.any (fun t => behind t.acc)

/-- An outstanding result for a register in a lane: a register is empty just while one is (R51), and under checked execution one may
wait for the commit. -/
def Group.outstanding (g : Group) (n lane : Nat) : Bool := g.r.isEmpty n lane || g.unsentResult n lane

/-- How one source stands in one lane: 0 full, 1 wait, 2 trap 0x06 with its field (R52, R106). -/
def Ctx.sourceState (x : Ctx) (lane : Nat) : SrcOp → Nat × Nat
  | .reg enc policy n =>
    let rs := regsOf enc n
    if rs.any (fun r => x.g.unsentResult r lane) then (2, enc)
    else if rs.any (fun r => x.g.r.isEmpty r lane) then (if policy then (2, enc) else (1, enc))
    else (0, enc)
  | .pred enc => if x.g.queued.any (SendOp.writesPred enc lane) then (2, enc) else (0, enc)
  | .tile n => (0, 0xF0 + n)

/-- The first source of a lane that is not full. -/
def Ctx.firstEmpty (x : Ctx) (ss : List SrcOp) (lane : Nat) : Nat × Nat :=
  match (ss.map (x.sourceState lane)).find? (fun p => p.1 != 0) with
  | some p => p
  | none => (0, 0)

/-- Policy-0 sources that are empty, each in a lane (R52). -/
def Ctx.awaited (x : Ctx) (act : Mask) (ss : List SrcOp) : List (Nat × Nat) :=
  (maskLanes act).flatMap (fun i => ss.flatMap (fun o => match o with
    | .reg enc _ n => if (x.sourceState i o).1 == 1 then ((regsOf enc n).filter (fun r => x.g.r.isEmpty r i)).map (fun r => (r, i)) else []
    | _ => []))

/-- Destination registers with an outstanding result in a lane that writes (R53); a w register is written for the first active lane
alone (R65). -/
def Ctx.dstAwaited (x : Ctx) (act lanes : Mask) (ds : List DstOp) : List (Nat × Nat) :=
  ds.flatMap (fun d => match d with
    | .reg enc n => (regsOf enc n).flatMap (fun r =>
        ((maskLanes lanes).filter (fun i => (r < 0xC0 || firstLane act == some i) && x.g.outstanding r i)).map (fun i => (r, i)))
    | _ => [])

/-- Whether an operation on a tile must wait for the interlock (R104, R161). `mma` may follow earlier `mma` words on its tile. Odd
numbers mark `mma`. -/
def Group.tileBusy (g : Group) (tile : Nat) (mma : Bool) : Bool := g.tileOps.any (fun p => p.2 == tile && !(mma && p.1 % 2 == 1))

/-- Whether poison at a unit is an error inside the current region (R387): the unit was written there, or the error arose in a shadow
slot (R166). -/
def Group.poisonOurs (g : Group) (p : Nat × Bool) : Bool :=
  let key := if 2 ^ 17 ≤ p.1 then p.1 - 2 ^ 16 else p.1
  g.r.inReg && (p.2 || SMap.get g.r.written false key)

/-- Where a poison mark comes from. -/
def Group.originOf (g : Group) (p : Nat × Bool) : Origin := ⟨g.poisonOurs p, (SMap.find? g.injected p.1).isSome⟩

/-- Poison at a unit of the group, with where it comes from. -/
def Group.poisonAt (g : Group) (key : Nat) : Option Origin := (SMap.find? g.poison key).map (fun b => g.originOf (key, b))

/-- A poisoned source register or accumulator row of an active lane, with where it comes from. -/
def Ctx.poisonedSource (x : Ctx) (act : Mask) (ss : List SrcOp) : Option Origin :=
  ss.findSome? (fun o => match o with
    | .reg enc _ n => (regsOf enc n).findSome? (fun r => (maskLanes act).findSome? (fun i => x.g.poisonAt (unitKey r i)))
    | .tile n => (List.find? (fun (p : Nat × Bool) => (maskLanes act).any (fun i => x.g.r.accUnit n i 0 ≤ p.1 && p.1 ≤ x.g.r.accUnit n i 63))
        x.g.poison).map x.g.originOf
    | .pred _ => none)

/-- The issue set issues nothing for the moment: a lane of it waits for a result under policy of R131, or its copies differ (R107). -/
def Ctx.waits (x : Ctx) : Bool := x.i.differs || x.g.fills.any (fun f => (f.holds &&& x.i.lanes &&& x.g.r.live) != 0)

/-- What steps 10 to 14 decide. -/
inductive Verdict where
  /-- No active lane: the word is skipped unchecked (R92). -/
  | skip
  /-- Every active lane traps with this code and INFO. -/
  | trap (code info : Nat)
  /-- The word parks (R100). -/
  | park (why : Park)
  /-- A poisoned unit would be consumed (R387). -/
  | poison (from_ : Origin)
  /-- These lanes go on; those listed trap. -/
  | go (lanes : Mask) (traps : List LaneTrap)
  deriving DecidableEq, Repr

/-- What a word is, for the checks. `tile`: the accumulator tile that it reads or writes, with whether it is an `mma` (R104). `quiet`: it
traps at no step after the tenth, and a lane that would takes no part (R185). -/
structure WordSpec where
  i : Instr
  guard : Guard
  srcs : List SrcOp
  dsts : List DstOp
  priv : Bool
  region : Option Nat
  tile : Option (Nat × Bool)
  quiet : Bool := false

/-- Steps 10 to 14 of Table 5.6. `region`: the INFO of trap 0x19 when the word is illegal in a region. -/
def Ctx.check (x : Ctx) (w : WordSpec) : Verdict :=
  let act := x.active w.guard
  if act = 0 then .skip
  else
    match w.i.encInfo with
    | some info => .trap 0x01 info
    | none =>
      if w.priv then .trap 0x04 0
      else if x.g.r.inReg && w.region.isSome then .trap 0x19 (w.region.getD 0)
      else
        match x.bounds w.srcs w.dsts with
        | some (code, info) => if w.quiet then .go 0 [] else .trap code info
        | none =>
          let st := (maskLanes act).map (fun i => (i, x.firstEmpty w.srcs i))
          let empty := st.filter (fun p => p.2.1 == 2)
          let ts := if w.quiet then [] else empty.map (fun p => LaneTrap.mk p.1 0x06 p.2.2)
          let lanes := act &&& ~~~maskOf (empty.map (fun p => p.1))
          let late := x.dstAwaited act lanes w.dsts
          let held := (w.tile.map (fun p => x.g.tileBusy p.1 p.2)).getD false
          if st.any (fun p => p.2.1 == 1) || !late.isEmpty || held then
            .park ⟨x.i.lanes, x.awaited act w.srcs ++ late, if held then w.tile else none, [], false⟩
          else
            match x.poisonedSource lanes w.srcs with
            | some b => .poison b
            | none => .go lanes ts

/-! ## Writing results -/

/-- Write consecutive registers of a lane. -/
def Regs.writeFrom (r : Regs) (d lane : Nat) : List Word → Regs
  | [] => r
  | v :: rest => (r.write d lane v).writeFrom (d + 1) lane rest

/-- Write n registers of one lane (WriteDst, R65): a w register only from the first active lane. A unit that is wholly
written loses its poison mark (R386). -/
def Group.put (g : Group) (act : Mask) (d lane : Nat) (vals : List Word) : Group :=
  if 0xC0 ≤ d ∧ firstLane act ≠ some lane then g
  else
    { g with r := g.r.writeFrom d lane vals,
             poison := g.poison.filter (fun p => !((List.range vals.length).any (fun k => p.1 == unitKey (d + k) lane))) }

/-- The words of a number, low first. -/
def wordsOf (x n : Nat) : List Word := (List.range n).map (fun k => w32 (x / 2 ^ (32 * k)))

/-- Whether any register, w register or predicate differs (R101). -/
def regsChanged (a b : Regs) : Bool :=
  a.v != b.v || a.w != b.w || (a.lanes.toList.map (fun l => l.preds)) != (b.lanes.toList.map (fun l => l.preds))

end Sys2Proof.Machine
end

