-- ==== Sys2Proof/Machine/Access.lean ====
section
/-!
DEFINITION. Performing accesses: at home (R172, R175, R179, R180, R186, R258, R375), first-touch fills as they start (R241, R267),
in the core's store (R170 to R176, R180, R239 to R243), the map unit's write-backs (R242, R252), replay slots with their
reservations (R190, R191), the order in which a core's accesses reach one home slice (R172), and the drain that performs
whatever has become ready.
-/
namespace Sys2Proof.Machine

/-! ## Lists of results -/

/-- Words that wait in their slots may be tried again (R177, R190, R212). A parked word becomes eligible when what it waits for has
come (R100), which `Cohort.parkOver` reads off. -/
def Group.unpark (x : Group) : Group :=
  { x with run1 := x.run1.map (fun i => { i with waiting := false })
           run2 := x.run2.map (fun i => { i with waiting := false }) }

/-- Poison of a register unit in the place of a memory address: where it comes from (R387, R392). -/
def regPoison (o : Origin) : Nat := 2 ^ 60 + (if o.ours then 1 else 0) + (if o.inj then 2 else 0)

/-- What one lane of an access did: its result registers and the poison it met. -/
structure LaneResult where
  lane : Nat
  vals : List Word
  poison : Option (Poison × Nat)
  deriving DecidableEq, Repr

/-- Fill the results of lanes, poisoned lanes apart, and mark the lanes performed. -/
def State.finishLanes (s : State) (g : GRef) (a : Access) (rs : List LaneResult) : State :=
  if rs.isEmpty then s
  else
    let clean := (rs.filter (fun r => r.poison.isNone)).map (fun r => (r.lane, r.vals))
    let s := s.fillAccess g a clean none
    let s := (rs.filter (fun r => r.poison.isSome)).foldl
      (fun s r => s.fillAccess g a [(r.lane, r.vals)] r.poison) s
    -- words parked behind the access may go on (R162)
    (s.accDone g a.id (rs.map (fun r => r.lane))).modGroup g Group.unpark

/-! ## The spin detector's sectors (R102) -/

/-- Key of a scratchpad sector in the detector's list. -/
def scrSector (o : Nat) : Nat := 2 ^ 52 + o / 128

/-- The group loaded from a sector. The sectors of its last four iterations and of the present one are kept; a fifth distinct one
releases a lowered group. -/
def Group.watchSector (x : Group) (k : Nat) : Group :=
  let p := x.spin
  let p := { p with sectors := (match p.sectors with
    | [] => [[k]]
    | l :: rest => (insertNat k l) :: rest) }
  { x with spin := if p.lowered && 4 < p.sectors.flatten.eraseDups.length then p.restart else p }

/-- A write to scratchpad sectors of a cohort. -/
def Cohort.spinScr (c : Cohort) (o n : Nat) : Cohort :=
  let hit (x : Group) : Bool := x.spin.lowered && (List.range ((o % 128 + n + 127) / 128)).any (fun k =>
    x.spin.sectors.flatten.contains (scrSector (o + 128 * k)))
  { c with groups := c.groups.map (fun x => if hit x then { x with spin := x.spin.restart } else x) }

/-! ## GLOBAL accesses at home -/

/-- The permission a word needs (Table 10.1). -/
def Access.need (a : Access) : BitVec 4 :=
  if a.opc == opAtom || a.opc == opCas || a.opc == opPromote then needAtomic
  else if a.opc == opSt || a.opc == opStf then needWrite else needRead

/-- ACC bits of its walk (Table 19.7). -/
def Access.accBits (a : Access) : BitVec 8 :=
  if a.opc == opAtom || a.opc == opCas || a.opc == opPromote then accAtomic
  else if a.opc == opSt || a.opc == opStf then accWrite else accRead

/-- May hold a replay slot (Table 10.5). -/
def Access.slotable (a : Access) : Bool :=
  a.opc == opLd || a.opc == opSt || a.opc == opAtom || a.opc == opCas || a.opc == opPromote || a.opc == opWaitc ||
    a.opc == opStf

/-- Keep only the lanes of a mask. -/
def Access.onlyIn (a : Access) (m : Mask) : Access := { a with addr := a.addr.filter (fun p => m.getLsbD p.1) }

/-- The request of an access. -/
def Access.req (a : Access) (l : Launch) (c : Cohort) : Req := { l.req c with policy := a.policy }

/-- A lane's translation: the entry and the PA. -/
def State.lanePa (s : State) (l : Launch) (c : Cohort) (a : Access) (va : Nat) : Option (TlbEntry × Nat) :=
  (s.tlb? c.core l.vif va a.need).map (fun t => (t, t.paOf va))

/-- Lanes of a GLOBAL access without a translation. -/
def State.untranslated (s : State) (l : Launch) (c : Cohort) (a : Access) : List (Nat × Nat) :=
  if a.space ≠ 0 ∨ !a.addressed then []
  else a.addr.filter (fun p => (s.lanePa l c a p.2).isNone)

/-- The scope an access acts at: its own, or the sync-scope of its line (R179). -/
def State.effScope (s : State) (a : Access) (pas : List Nat) : Nat :=
  pas.foldl (fun m pa => max m (s.syncScope pa)) a.scope.toNat

/-- The PAs of a GLOBAL access. -/
def State.accPas (s : State) (l : Launch) (c : Cohort) (a : Access) : List Nat :=
  if a.space = 0 ∧ a.addressed then a.addr.filterMap (fun p => (s.lanePa l c a p.2).map (fun t => t.2)) else []

/-- Poison that a read through the L1 meets: of the sectors that the L1 does not hold. -/
def State.l1Poison (s : State) (q : Req) (pa n : Nat) : Option (Poison × Nat) :=
  let held (k : Nat) : Bool :=
    ((((s.core? q.core).bind (fun c => c.l1Line? (pa + k))).bind
      (fun l => if l.kdom = q.kdom then SMap.find? l.bytes ((pa + k) % 128) else none)).isSome)
  (List.range n).findSome? (fun k => if held k then none
    else (s.poisonAt q.kdom (pa + k)).map (fun p => (p, alignDown (pa + k) 64)))

/-! ### The injector's eligible events (R392) -/

/-- One step of the 64-bit xorshift. -/
def xorshift (x : DWord) : DWord :=
  let x := x ^^^ (x <<< 13)
  let x := x ^^^ (x >>> 7)
  x ^^^ (x <<< 17)

/-- A write of an injector register, by its number (Table 11.10). A seed of zero would stop the generator (R392). -/
def Injector.write (j : Injector) (n : Nat) (v : DWord) : Injector :=
  match n with
  | 0x800 => { j with gen := if v = 0 then 0x9E3779B97F4A7C15 else v }
  | 0x801 => { j with rate := v.setWidth 32 }
  | 0x802 => { j with tgt := v.setWidth 8 }
  | 0x803 => { j with site := some (v.setWidth 32) }
  | _ => j

/-- Whether a target's next access is injected, and the injector after it. `unit`: the slice or stack of the access. -/
def Injector.event (j : Injector) (target unit : Nat) : Injector × Bool :=
  match j.site with
  | some w =>
    if w.toNat % 8 = target ∧ bitsOf w.toNat 15 8 = unit then ({ j with site := none }, true)
    else if j.tgt.getLsbD target then
      let g := xorshift j.gen
      ({ j with gen := g }, decide ((g >>> 32).toNat < j.rate.toNat))
    else (j, false)
  | none =>
    if j.tgt.getLsbD target then
      let g := xorshift j.gen
      ({ j with gen := g }, decide ((g >>> 32).toNat < j.rate.toNat))
    else (j, false)

/-- An eligible event of a test partition at an injector target. Positions of the flipped bits take one more step. -/
def State.injectEvent (s : State) (part target unit : Nat) : State × Bool :=
  match s.part? part with
  | none => (s, false)
  | some p =>
    if !p.test then (s, false)
    else
      let (j, hit) := p.inj.event target unit
      let j := if hit && target < 5 then { j with gen := xorshift j.gen } else j
      (s.modPart part (fun p => { p with inj := j }), hit)

/-- An access to memory at home is an eligible event for the L2 [2], the HBM4 [4] when the line is absent, and the tag
[6]: two flipped bits poison the sector, a flipped tag bit marks it integrity (R385). A clean L2 copy is refetched. -/
def State.injectHome (s : State) (q : Req) (pa : Nat) : State :=
  let clean := ((s.l2Line? pa).map (fun l => !l.dirty)).getD true
  let absent := (s.l2Line? pa).isNone
  let mark (s : State) (p : Poison) : State :=
    s.modSector pa (fun x => { x with poison := some p, injected := true })
  let (s, h2) := s.injectEvent q.part 2 (s.homeSlice q.part pa)
  let s := if h2 then
      (if clean then s.logError { ErrRec.zero with etype := 3, action := 2, src := 4, inj := true, pa := alignDown pa 64,
                                                    part := q.part, kdom := q.kdom, die := paDie pa }
       else mark s .uncorrectable)
    else s
  let (s, h4) := if absent then s.injectEvent q.part 4 (paStack pa) else (s, false)
  let s := if h4 then mark s .uncorrectable else s
  let (s, h6) := if absent then s.injectEvent q.part 6 (paStack pa) else (s, false)
  if h6 then mark s .integrity else s

/-- An access that finds a line in the die's RDC is an eligible event for the RDC [3]. A clean copy is dropped and refetched; in a
dirty one the sector is poisoned. -/
def State.injectRdc (s : State) (q : Req) (pa : Nat) : State :=
  match s.rdcLine? (dieOf q.core) pa with
  | none => s
  | some l =>
    let (s, hit) := s.injectEvent q.part 3 0
    if !hit then s
    else if l.dirtyBytes.isEmpty then
      (s.modDie (dieOf q.core) (fun d => { d with rdc := d.rdc.filter (fun x => x.line != l.line) })).logError
        { ErrRec.zero with etype := 3, action := 2, src := 5, inj := true, pa := alignDown pa 64, part := q.part, kdom := q.kdom,
                           die := dieOf q.core }
    else s.modSector pa (fun x => { x with poison := some .uncorrectable, injected := true })

/-- A request that leaves for another package is an eligible event for the Rafter packets [7], whose corrupted flit the link
retries; it spends its class's allowance (R364). -/
def State.injectRemote (s : State) (q : Req) (pa : Nat) : State :=
  ((s.injectEvent q.part 7 0).1.spendAllowance q).injectRdc q pa

/-- Post the refills that lines without a token or an allowance wait for. -/
def State.awaitTokens (s : State) (q : Req) (pas : List Nat) : State :=
  (pas.filter (fun pa => !s.hasToken q pa)).foldl (fun s pa =>
    if s.local pa then s.post (.regulatorRefill (paStack pa))
    else s.awaitPorts q) s

/-! ### One lane -/

/-- The die's RDC answers a read of a line homed elsewhere (Table 13.5). -/
def State.rdcHit (s : State) (q : Req) (pa : Nat) : Bool :=
  !s.homeHere q pa && q.policy != 2 && (s.rdcLine? (dieOf q.core) pa).any (fun l => l.kdom == q.kdom && l.holds 0 128)

/-- Reach the home of a line, the RDC copy or a replica: placement counters, token or allowance, injection, L2 (R345, R347, R362,
R364, R375, R392). -/
def State.reachHome (s : State) (q : Req) (pa : Nat) (write : Bool) : State :=
  if !write && s.rdcHit q pa then s.injectRdc q pa
  else if !write && s.replicaHit q pa then s
  else if s.local pa then ((s.injectHome q pa).countAccess q (some (dieOf q.core)) pa write).homeTouch q pa
  else (s.rdcDomain q pa).injectRemote q pa

/-- A read of n bytes needs no token: the L1, the die's RDC or a replica gives it. -/
def State.cached (s : State) (q : Req) (pa n : Nat) : Bool := s.l1Has q pa n || s.rdcHit q pa || s.replicaHit q pa

/-- Perform a load of one lane through the L1. -/
def State.globalLoad (s : State) (q : Req) (pa n : Nat) : State × List Byte × Option (Poison × Nat) :=
  let s := if s.l1Has q pa n then s else s.reachHome q pa false
  let bad := s.l1Poison q pa n
  let s := s.l1Fetch q pa n
  (s, (List.range n).map (fun k => s.l1Byte q (pa + k)), bad)

/-- A store with `.rel` at `.clu` or wider is performed at home (R258): the core's own copy takes the bytes as well. -/
def State.globalStoreHome (s : State) (q : Req) (pa : Nat) (bs : List Byte) : State :=
  let s := (s.l1Domain q pa).reachHome q pa true
  let s := if ((s.core? q.core).bind (fun c => c.l1Line? pa)).isSome then
      (List.range bs.length).foldl (fun s k =>
        s.l1Put q (pa + k) { val := bs.getD k 0, dirty := none, core := q.core, vif := q.vif }) s
    else s
  s.homeStore q pa bs

/-! ## First-touch fills as they start (R241, R267) -/

/-- Poisoned 64-byte halves of a sector that the core reads. -/
def State.fillPoison (s : State) (q : Req) (pa : Nat) : List (Nat × Poison) :=
  [0, 64].filterMap (fun k => (s.l1Poison q (pa + k) 64).map (fun p => (k, p.1)))

/-- The request of a fill: the entry's policy. -/
def MapEntry.req (m : MapEntry) (l : Launch) (c : Cohort) : Req := { l.req c with policy := m.policy }

/-- A fill has read its 128 bytes through the L1, as a plain load. -/
def State.readSector (s : State) (r : CRef) (q : Req) (t : TlbEntry) (e sec pa : Nat) : State :=
  let q := { q with movable := t.movable }
  let bad := s.fillPoison q pa
  let s := if s.l1Has q pa 128 then s else s.reachHome q pa false
  let s := s.l1Fetch q pa 128
  let bs := (List.range 128).map (fun k => s.l1Byte q (pa + k))
  let took (f : Filling) : Filling := { f with data := some bs, bad := bad }
  s.modCohort r (fun c => c.modMap e (fun m => { m with filling := updateWhere (fun f => f.sec == sec) took m.filling }))

/-- A fill is started: it is performed at once where its page translates and nothing holds it. -/
def State.startFill (s : State) (r : CRef) (e sec : Nat) : State :=
  match s.cohort? r, s.launch? r.lid with
  | some c, some l =>
    let m := c.mapEntry e
    if m.filling.any (fun f => f.sec == sec) then s
    else
      let s := (s.modCohort r (fun c => c.modMap e (fun m => { m with filling := m.filling ++ [⟨sec, none, []⟩] }))).post
        (.firstTouchFillDone r e sec)
      let va := m.va + (sec - m.s)
      let q := m.req l c
      match s.tlb? c.core l.vif va needRead with
      | none => s
      | some t =>
        let pa := t.paOf va
        if s.homeUnavailable pa || s.quiesced q pa || s.silenced l.part || (!s.cached q pa 128 && !s.hasToken q pa) ||
            !(s.fillPoison q pa).isEmpty then s
        else s.readSector r q t e sec pa
  | _, _ => s

/-- Start the first-touch fills of sectors, once each. -/
def State.startFills (s : State) (r : CRef) (secs : List (Nat × Nat)) : State :=
  secs.foldl (fun s p => s.startFill r p.1 p.2) s

/-! ## The core's store -/

/-- Write scratchpad bytes: dirty bits of mapped sectors (R241), poison (R386), and the full bits when asked. -/
def Cohort.scrWrite (c : Cohort) (o : Nat) (bs : List Byte) (full : Bool) : Cohort :=
  let n := bs.length
  let c := { c with scratch := c.scratch.putBytes o bs }
  let c := (c.setScrPoison o n none).spinScr o n
  let mark (c : Cohort) (k : Nat) : Cohort :=
    match c.mapAt (o + k) with
    | some e => c.modMap e (fun m => { m with dirty := insertNat (o + k) m.dirty })
    | none => c
  let c := (List.range n).foldl mark c
  if full then c.setGranules o n true else c

/-- Filled mapped sectors with no dirty byte that hold a poisoned unit of the range: clean copies (R387). -/
def Cohort.cleanPoisoned (c : Cohort) (o n : Nat) : List (Nat × Nat) :=
  (List.range ((o % 128 + n + 127) / 128)).filterMap (fun k =>
    let sec := alignDown o 128 + 128 * k
    match c.mapAt (max sec o) with
    | some e =>
      let m := c.mapEntry e
      if m.filled.contains sec && !(m.dirty.any (fun d => d / 128 == sec / 128)) && (c.scrPoisoned sec 128).isSome then some (e, sec)
      else none
    | none => none)

/-- Drop clean copies, which are then filled again. -/
def Cohort.dropCopies (c : Cohort) (l : List (Nat × Nat)) : Cohort :=
  l.foldl (fun c (e, sec) =>
    (c.modMap e (fun m => { m with filled := m.filled.filter (fun x => x != sec) })).setScrPoison sec 128 none) c

/-- n free bytes. -/
def State.freeBytes (s : State) (n : Nat) : List Byte := (List.range n).map (fun k => Config.freeByte (s.fresh + k))

/-- The bytes that an access of n bytes at offset o reads: those beyond the S bytes of the scratchpad are free values
(notes/assumptions/23.md). -/
def State.scratchBytes (s : State) (c : Cohort) (scr o n : Nat) : List Byte :=
  c.scratch.bytes o (min n (scr - o)) ++ s.freeBytes (n - min n (scr - o))

/-- Whether a lane of a scratchpad access, which reads `old`, can be performed now. -/
def Cohort.scratchReady (c : Cohort) (a : Access) (i o : Nat) (old : List Byte) : Bool :=
  (c.unfilled o a.size).isEmpty &&
    (a.opc != opLdw || granuleFull c (o / 16)) &&
    (a.opc != opWaitc || counterReached (leNat (old.take 4)) (a.dataOf i))

/-- What an access writes over `old`, if anything. -/
def Access.newBytes (a : Access) (i : Nat) (old : List Byte) : Option (List Byte) :=
  if a.opc == opSt || a.opc == opStf then some (leBytes (a.dataOf i) a.size)
  else if a.opc == opAtom then some (leBytes (atomOp a.var (leNat old) (a.dataOf i)) a.size)
  else if a.opc == opCas then
    (if leNat old = a.cmpOf i % 2 ^ (8 * a.size) then some (leBytes (a.dataOf i) a.size) else none)
  else none

/-- What an access returns. -/
def Access.result (a : Access) (old : List Byte) : List Word :=
  if a.opc == opSt || a.opc == opStf then []
  else if a.opc == opLd || a.opc == opLdw then loadedWords a.var old
  else (List.range (a.size / 4)).map (fun k => w32 (leNat old / 2 ^ (32 * k)))

/-- Perform one lane of a scratchpad access, which reads `old`, in a scratchpad of `scr` bytes. -/
def Cohort.scratchLane (c : Cohort) (a : Access) (i o : Nat) (old : List Byte) (scr : Nat) : Cohort × LaneResult :=
  let bad := if a.opc == opSt || a.opc == opStf then none else c.scrPoisoned o a.size
  let res : LaneResult := { lane := i, vals := a.result old, poison := bad.map (fun k => (k, 0)) }
  let c := match a.newBytes i old with
    | some bs => c.scrWrite o (bs.take (scr - o)) (a.opc == opStf)
    | none => c
  let c := if a.opc == opLdw && a.var.getLsbD 3 then c.setGranules o 1 false else c
  (c, res)

/-- A mapped sector whose home is not known to be poisoned: a clean copy of it can be filled again (R387). -/
def State.refillable (s : State) (lid : Nat) (c : Cohort) (x : Nat × Nat) : Bool :=
  match s.launch? lid with
  | none => false
  | some l =>
    let m := c.mapEntry x.1
    match s.translate c.core l.vif (m.va + (x.2 - m.s)) needRead with
    | some pa => (s.poisonIn l.kdom pa 128).isNone
    | none => true

/-- Perform the lanes of a scratchpad access that are ready, in ascending order (R172). Lanes at unfilled sectors start
their fills and wait. -/
def State.performScratch (s : State) (g : GRef) (a : Access) (lanes : Mask) : State :=
  let r := GRefCohort g
  let scr := ((s.launch? g.lid).map (fun l => l.scr)).getD 0
  let go (acc : State × List LaneResult) (p : Nat × Nat) : State × List LaneResult :=
    match acc.1.cohort? r with
    | none => acc
    | some c =>
      let old := acc.1.scratchBytes c scr p.2 a.size
      let stale := (c.cleanPoisoned p.2 a.size).filter (acc.1.refillable g.lid c)
      if !stale.isEmpty then ((acc.1.modCohort r (fun c => c.dropCopies stale)).startFills r stale, acc.2)
      else
        let miss := c.unfilled p.2 a.size
        if !miss.isEmpty then (acc.1.startFills r miss, acc.2)
        else if c.scratchReady a p.1 p.2 old then
          let (c', res) := c.scratchLane a p.1 p.2 old scr
          let s := ({ acc.1 with fresh := acc.1.fresh + (p.2 + a.size - scr) } : State).modCohort r (fun _ => c')
          (s.modGroup g (fun x => if a.opc == opLd || a.opc == opLdw then x.watchSector (scrSector p.2) else x), acc.2 ++ [res])
        else acc
  let (s, rs) := (a.onlyIn lanes).addr.foldl go (s, [])
  s.finishLanes g a rs

/-! ## REG and SYS spaces (R170) -/

/-- The registers that a REG access reaches. -/
def regSpan (ea size : Nat) : List Nat := (List.range (max 1 (size / 4))).map (fun k => ea / 4 + k)

/-- Perform the lanes of a REG access whose registers are not waiting on a fill. -/
def State.performReg (s : State) (g : GRef) (a : Access) (lanes : Mask) : State :=
  let go (acc : State × List LaneResult) (p : Nat × Nat) : State × List LaneResult :=
    match acc.1.group? g with
    | none => acc
    | some x =>
      let span := regSpan p.2 a.size
      if span.any (fun r => x.r.isEmpty r p.1) then acc
      else
        let bytes := ((span.map (fun r => leBytes (x.r.read r p.1).toNat 4)).flatten.drop (p.2 % 4)).take a.size
        if a.opc == opLd then
          let bad := span.findSome? (fun r => x.poisonAt (unitKey r p.1))
          (acc.1, acc.2 ++ [{ lane := p.1, vals := loadedWords a.var bytes,
                              poison := bad.map (fun o => (.uncorrectable, regPoison o)) }])
        else
          let old := leNat (span.map (fun r => leBytes (x.r.read r p.1).toNat 4)).flatten
          let sh := 8 * (p.2 % 4)
          let m := 2 ^ (8 * a.size)
          let new := old - old / 2 ^ sh % m * 2 ^ sh + a.dataOf p.1 % m * 2 ^ sh
          let put (x : Group) : Group :=
            let r := (List.range span.length).foldl (fun r k =>
              r.write (p.2 / 4 + k) p.1 (w32 (new / 2 ^ (32 * k)))) x.r
            let whole (k : Nat) : Bool := 4 ≤ a.size && span.any (fun n => k == 16 * n + p.1)
            ({ x with r := r, poison := x.poison.filter (fun q => !whole q.1) }).noteChange (regsChanged x.r r)
          (acc.1.modGroup g put, acc.2 ++ [{ lane := p.1, vals := [], poison := none }])
  let (s, rs) := (a.onlyIn lanes).addr.foldl go (s, [])
  s.finishLanes g a rs

/-- Perform a SYS access: a read returns what the device gives, which the spec does not state; a store goes to the
device. `win` is the window number. -/
def State.performSys (s : State) (g : GRef) (a : Access) (win : Nat) (lanes : Mask) : State :=
  let go (acc : State × List LaneResult) (p : Nat × Nat) : State × List LaneResult :=
    if a.opc == opLd then
      ({ acc.1 with fresh := acc.1.fresh + a.size },
        acc.2 ++ [{ lane := p.1, vals := loadedWords a.var (acc.1.freeBytes a.size), poison := none }])
    else
      (acc.1.send (.sysWrite win p.2 (leBytes (a.dataOf p.1) a.size)),
        acc.2 ++ [{ lane := p.1, vals := [], poison := none }])
  let (s, rs) := (a.onlyIn lanes).addr.foldl go (s, [])
  s.finishLanes g a rs

/-! ## Map write-backs (R242, R187, R188) -/

/-- Write back the dirty bytes of an entry, sector by sector, as plain stores (R243). A sector whose page has no
translation asks for a walk; one with a byte locked by a command older than `before` is held (R252). -/
def State.mapWriteback (s : State) (l : Launch) (c : Cohort) (e before : Nat) (gid : Nat) : State :=
  let m := c.mapEntry e
  let q := m.req l c
  let secs := (m.dirty.map (fun o => alignDown o 128)).eraseDups
  secs.foldl (fun s sec =>
    let ds := m.dirty.filter (fun o => o / 128 == sec / 128)
    let va (o : Nat) : Nat := m.va + (o - m.s)
    let locked := ((s.core? c.core).map (fun k => ds.any (fun o => k.lockedByte l.vif (va o) before))).getD false
    if locked then s
    else
      match s.tlb? c.core l.vif (va sec) needWrite with
      | none =>
        s.requestWalk l.vif (dieOf c.core) (some c.core) (va sec) (accWrite ||| accMap) c.core c.classH c.ref.lid
          c.ref.cid gid (.mapWriteback c.ref (va sec))
      | some t =>
        let pa := t.paOf (va sec)
        let q := { q with movable := t.movable }
        if s.homeUnavailable pa || s.quiesced q pa || s.silenced l.part then s
        else if !s.hasToken q pa then s.awaitTokens q [pa]
        else
          let s := ds.foldl (fun s o => s.agentStore q (pa + (o - sec)) [c.scratch.byte o]) (s.reachHome q pa true)
          s.modCohort c.ref (fun c => c.modMap e (fun m => { m with dirty := m.dirty.filter (fun o => !ds.contains o) }))) s

/-- Whether an entry has no dirty byte left. -/
def State.mapClean (s : State) (r : CRef) (e : Nat) : Bool :=
  ((s.cohort? r).map (fun c => (c.mapEntry e).dirty.isEmpty)).getD true

/-- The binding that a `mapset` makes: `size` holds the entry number, `addr` the address, `data` the offset, `cmp` the
length, `noFill` whether the handle lacks write permission. -/
def Access.binding (a : Access) : MapEntry :=
  match a.addr with
  | [] => MapEntry.unbound
  | (i, va) :: _ =>
    if a.cmpOf i = 0 then MapEntry.unbound
    else { bound := true, va := va, s := a.dataOf i, n := a.cmpOf i, policy := a.policy, readOnly := a.noFill, filled := [],
           dirty := [], hnd := a.hnd, filling := [] }

/-- Perform a map word: the entry's dirty bytes go first. -/
def State.performMap (s : State) (g : GRef) (a : Access) : State :=
  let r := GRefCohort g
  match s.cohort? r, s.launch? g.lid with
  | some c, some l =>
    let e := a.size
    let bound := (c.mapEntry e).bound
    let s := if bound then s.mapWriteback l c e a.id g.gid else s
    if bound && !s.mapClean r e then s
    else
      let s := if a.opc == opMapset then s.modCohort r (fun c => c.modMap e (fun _ => a.binding)) else s
      s.modGroup g (fun x => { x with accs := x.accs.filter (fun b => b.id != a.id) })
  | _, _ => s

/-- `promote` step 3: every core whose L1 holds the line writes back all of its dirty lines and drops the line; so does one that has
written the line at its home ahead of them (R265). -/
def State.promoteFlush (s : State) (q : Req) (pa : Nat) : State :=
  s.cores.foldl (fun s c =>
    if (c.l1Line? pa).isSome || c.ahead.contains (pa / 128) then
      let qc := { q with core := c.no }
      (s.cleanL1 qc).dropL1 c.no (pa / 128)
    else s) s

/-- Perform one lane at its place. `scope` is the effective scope; a store of a cohort that has left its core, whose save was a release,
goes to its home (`home`, R259, R270). -/
def State.globalLane (s : State) (q : Req) (a : Access) (i pa va scope : Nat) (home : Bool) : State × Option LaneResult :=
  if a.opc == opLd then
    let (s, bs, bad) := s.globalLoad q pa a.size
    (s, some { lane := i, vals := loadedWords a.var bs, poison := bad })
  else if a.opc == opSt || a.opc == opStf then
    let bs := leBytes (a.dataOf i) a.size
    let s := if home || (a.ord.getLsbD 1 && 2 ≤ scope) then s.globalStoreHome q pa bs else s.l1Store q pa va bs
    (s, some { lane := i, vals := [], poison := none })
  else
    let s := (s.expel q pa).reachHome q pa (a.opc != opWaitc)
    let s := if a.opc == opPromote then
        (s.modL2 pa q (fun l => { l with sync := max l.sync a.scope.toNat })).promoteFlush q pa
      else s
    let old := s.homeBytes pa a.size
    let bad := s.poisonIn q.kdom pa a.size
    if a.opc == opWaitc && bad.isNone && !counterReached (leNat old) (a.dataOf i) then (s, none)
    else
      -- a poisoned location is not combined: the lane meets the poison
      let s := match bad, a.newBytes i old with
        | none, some bs => (if scope < 2 then s.markAhead q.core (pa / 128) else s).homeStore q pa bs
        | _, _ => s
      (s, some { lane := i, vals := a.result old, poison := bad })

/-- Why a GLOBAL access cannot be performed now. -/
inductive HomeBlock where
  | none
  | unavailable (pa : Nat)
  | quiesced
  | held
  | token
  deriving DecidableEq, Repr

/-- The first block among its locations: reset homes, reblock, silence, held write-backs, tokens (R415, R359, R365, R252,
R362). -/
def State.blockOf (s : State) (l : Launch) (c : Cohort) (a : Access) : HomeBlock :=
  let q := a.req l c
  let pas := s.accPas l c a
  match pas.find? (fun pa => s.homeUnavailable pa) with
  | some pa => .unavailable pa
  | none =>
    if pas.any (fun pa => s.quiesced q pa) || s.silenced l.part then .quiesced
    else if (a.opc == opAtom || a.opc == opCas || a.opc == opPromote || a.opc == opWaitc) &&
        pas.any (fun pa => s.expelHeld q pa a.id) then .held
    else if pas.any (fun pa => !(a.opc == opLd && s.cached q pa a.size) && !(a.opc == opSt) && !s.hasToken q pa) then .token
    else .none

/-- Lanes of a set whose release actions an access still owes (R177). -/
def State.owesRelease (s : State) (l : Launch) (c : Cohort) (a : Access) (lanes : Mask) : Mask :=
  if a.releases && 2 ≤ s.effScope a (s.accPas l c a) then lanes &&& ~~~a.released else 0

/-- Lanes of an access are marked in `released`. -/
def State.markReleased (s : State) (g : GRef) (id : Nat) (m : Mask) : State :=
  s.modGroup g (fun x => { x with accs := updateWhere (fun b => b.id == id) (fun b => { b with released := b.released ||| m }) x.accs })

/-- Perform lanes of an access at home (HOME_SLICE_REQUEST, WAITC_REREAD) in ascending order, then the acquire. -/
def State.performGlobal (s : State) (g : GRef) (l : Launch) (c : Cohort) (a : Access) (lanes : Mask) : State :=
  let q := a.req l c
  let scope := s.effScope a (s.accPas l c a)
  let go (acc : State × List LaneResult) (p : Nat × Nat) : State × List LaneResult :=
    match acc.1.lanePa l c a p.2 with
    | none => acc
    | some (t, pa) =>
      let (s, r) := acc.1.globalLane { q with movable := t.movable } a p.1 pa p.2 scope c.phase.away
      let s := if a.opc == opLd then s.modGroup g (fun x => x.watchSector (pa / 128)) else s
      (s, acc.2 ++ r.toList)
  let (s, rs) := (a.onlyIn lanes).addr.foldl go (s, [])
  let s := if a.acquires && !rs.isEmpty then s.acquireActions c.core scope else s
  (if a.opc == opWaitc then s.markReleased g a.id lanes else s).finishLanes g a rs

/-! ### `wbr` and `invr` (R186) -/

/-- The sectors of a lane. -/
def Access.sectorsOf (a : Access) (i va : Nat) : List Nat :=
  let n := a.dataOf i
  if n = 0 then [] else (List.range ((va % 128 + n + 127) / 128)).map (fun k => alignDown va 128 + 128 * k)

/-- The PA of a resident page, by a walk that records nothing. A page whose leaves lack R is passed over like one that is not resident
(DESIGN CHOICE, notes/assumptions/43.md). -/
def State.residentPa (s : State) (vif va : Nat) : Option Nat :=
  match s.walkEnv? vif with
  | none => none
  | some w => match s.walkTables w va needRead with
    | .ok _ pa _ _ _ _ _ _ => some pa
    | _ => none

/-- Write back one sector, and under `invr` drop the copies: what the L1 holds goes into the RDC copy first, if there is one, and
the RDC copy goes home. -/
def State.sectorBack (s : State) (q : Req) (drop : Bool) (pa : Nat) : State :=
  let die := dieOf q.core
  let deep := (s.rdcLine? die pa).isNone
  let s := match (s.core? q.core).bind (fun c => c.l1Line? pa) with
    | some l =>
      let s := s.cleanL1Line q deep l
      if drop then s.dropL1 q.core l.line else s
    | none => s
  let s := match s.rdcLine? die pa with
    | some l =>
      let s := s.cleanRdcLine q die l
      if drop then s.rdcDrop pa (fun k => k == die) else s
    | none => s
  { s with l2 := updateWhere (fun l => l.line == pa / 128) (fun l => { l with dirty := false }) s.l2 }

/-- Perform lanes of a `wbr` or `invr`, unless a write-back of them is held, or their home cannot take it (R252, R359, R415). -/
def State.performRange (s : State) (g : GRef) (l : Launch) (c : Cohort) (a : Access) (lanes : Mask) : State :=
  let q := l.req c
  let pas := ((a.onlyIn lanes).addr.flatMap (fun p => a.sectorsOf p.1 p.2)).filterMap (fun va => s.residentPa l.vif va)
  if pas.any (fun pa => s.heldBack q a.id (s.ownDirty q pa) || s.homeUnavailable pa || s.quiesced q pa) then s
  else (pas.foldl (fun s pa => s.sectorBack q (a.opc == opInvr) pa) s).accDone g a.id (maskLanes lanes)

/-! ## Replay slots behind older ones (R191) -/

/-- The lanes of an access that overlap an older slot. -/
def Access.lanesBehind (a : Access) (slots : List Slot) : List Nat :=
  (a.addr.filter (fun p => slots.any (fun t =>
    t.acc.id < a.id && t.acc.space == a.space && (match a.range p.1, t.acc.range p.1 with
      | some (x, n), some (y, m) => rangesMeet x n y m
      | _, _ => false)))).map (fun p => p.1)

/-- Keep only the lanes given. -/
def Access.only (a : Access) (ls : List Nat) : Access := { a with addr := a.addr.filter (fun p => ls.contains p.1) }

/-- Put lanes of an access into a replay slot that waits on the records given (none: behind an older slot). A word has one
slot: lanes that fault later join it (R190). `idx`: a free slot number of the core; `made`: its place in the order of making. -/
def Group.placeSlot (x : Group) (a : Access) (ls : List Nat) (recs : List Nat) (idx made : Nat) : Group :=
  if ls.isEmpty then x
  else
    let rest := a.without ls
    let join (t : Slot) : Slot :=
      let all := t.acc.addr ++ (a.only ls).addr
      { t with acc := { t.acc with addr := laneNumbers.filterMap (fun i => all.find? (fun p => p.1 == i)) }, recs := t.recs ++ recs.filter (fun r => !t.recs.contains r) }
    { x with
      slots := if x.slots.any (fun t => t.acc.id == a.id) then updateWhere (fun t => t.acc.id == a.id) join x.slots
               else x.slots ++ [{ idx := idx, acc := a.only ls, recs := recs, refused := none, held := false, made := made }]
      accs := if rest.addr.isEmpty then x.accs.filter (fun b => b.id != a.id)
              else updateWhere (fun b => b.id == a.id) (fun _ => rest) x.accs }

/-- Slots of a core that are not in use, lowest first. -/
def State.freeSlots (s : State) (core : Nat) : List Nat :=
  let used := (s.cohorts.filter (fun c => c.core == core)).flatMap (fun c => c.groups.flatMap (fun g => g.slots.map (fun t => t.idx)))
  (List.range 32).filter (fun k => !used.contains k)

/-- Lanes of an access on a 64 KiB page. -/
def Access.lanesOn (a : Access) (page : Nat) : List Nat := (a.addr.filter (fun p => p.2 / 65536 == page)).map (fun p => p.1)

/-- The trap that a refusal of a KIND delivers (Table 19.6). -/
def refusalCode (kind : Nat) : Nat := if kind = 2 ∨ kind = 4 then 0x11 else if kind = 5 then 0x12 else 0x10

/-- The slots of a group that hold the lanes given wait on a record. An access that has been answered "resolved" sixteen times
is refused (R336). -/
def State.slotAccess (s : State) (g : GRef) (a : Access) (ls : List Nat) (id kind engine : Nat) : State :=
  match s.cohort? (GRefCohort g) with
  | none => s
  | some c =>
    if ls.isEmpty then s
    else
    let s := ({ s with nextId := s.nextId + 1 } : State).modGroup g (fun x => x.placeSlot a ls [id] ((s.freeSlots c.core).headD 0) s.nextId)
    let answers := ((s.recs.find? (fun r => r.id == id)).map (fun r => SMap.get a.resolved 0 r.pageKey)).getD 0
    if answers < 16 then s
    else (s.modGroup g (fun x => { x with
      slots := updateWhere (fun t => t.acc.id == a.id) (fun t => { t with refused := some (refusalCode kind, engine) }) x.slots })).post
        (.asyncTrapDelivery g)

/-- The accesses of a cohort to a sector whose fill has met a fault take replay slots (R244). -/
def State.slotSector (s : State) (r : CRef) (sec id kind engine : Nat) : State :=
  match s.cohort? r with
  | none => s
  | some c => c.groups.foldl (fun s g =>
      (g.accs.filter (fun a => a.space == 1 && a.slotable)).foldl (fun s a =>
        s.slotAccess ⟨r.lid, r.cid, g.gid⟩ a ((a.addr.filter (fun p => rangesMeet p.2 a.size sec 128)).map (fun p => p.1)) id kind engine) s) s

/-- Those that arrive while such a fault is open (R244). -/
def State.slotFilling (s : State) (r : CRef) : State :=
  s.recs.foldl (fun s k => k.waiters.foldl (fun s w => match w with
    | .mapFill c _ sec => if c == r then s.slotSector r sec k.id k.kind k.engine else s
    | _ => s) s) s

/-- Replay slots of a group in use: those placed, and the reservations of words without one. -/
def Group.slotsUsed (x : Group) : Nat :=
  x.slots.length + (x.accs.filter (fun a => a.resv && !x.slots.any (fun t => t.acc.id == a.id))).length

/-- Replay slots in use on a core: all, and those of class H. -/
def State.slotsUsed (s : State) (core : Nat) : Nat × Nat :=
  (s.cohorts.filter (fun c => c.core == core)).foldl (fun n c =>
    let k := (c.groups.map Group.slotsUsed).foldl (· + ·) 0
    (n.1 + k, if c.classH then n.2 + k else n.2)) (0, 0)

/-- n slots that the class may take are free (R304: a core has 32; class H holds at most 24). -/
def State.slotsFree (s : State) (c : Cohort) (n : Nat) : Bool :=
  let (all, h) := s.slotsUsed c.core
  all + n ≤ 32 && (!c.classH || h + n ≤ 24)

/-- A slot that the class may take is free. -/
def State.slotFree (s : State) (c : Cohort) : Bool := s.slotsFree c 1

/-- Place every access that stands behind a slot, in GLOBAL or in a mapped region. -/
def State.slotBehind (s : State) (g : GRef) : State :=
  match s.group? g, s.cohort? (GRefCohort g) with
  | some x, some c =>
    if x.slots.isEmpty then s
    else (x.accs.filter (fun a => a.slotable && a.space < 2)).foldl (fun s a =>
      -- one that has given its reservation back waits for a slot, or for the older one (R190)
      if a.resv || x.slots.any (fun t => t.acc.id == a.id) || s.slotFree c then
        ({ s with nextId := s.nextId + 1 } : State).modGroup g (fun x =>
          x.placeSlot a (a.lanesBehind x.slots) [] ((s.freeSlots c.core).headD 0) s.nextId)
      else s) s
  | _, _ => s

/-- Slots at the front that wait for nothing are reissued in order. -/
def Group.reissue (x : Group) : Nat → Group
  | 0 => x
  | n + 1 =>
    match x.slots with
    | t :: rest =>
      if t.recs.isEmpty && t.refused.isNone && !t.held then ({ x with slots := rest, accs := x.accs ++ [t.acc] }).reissue n
      else x
    | [] => x

/-! ## Draining -/

/-- An access that the core itself performs: scratchpad, REG, SYS, map words, and a fence that only acquires. -/
def Access.isLocal (a : Access) : Bool :=
  a.mapWord || (a.addressed && a.space != 0) || (a.opc == opFence && !a.ord.getLsbD 1)

/-- WIN that the firmware shadow gives a SYS index of a launch's handle table (R249). -/
def Launch.sysWin (l : Launch) (hnd : Nat) : Option Nat := (l.sysMarks.find? (fun p => p.1 == hnd)).map (fun p => p.2)

/-- Perform the lanes of a local access that nothing holds. -/
def State.performLocal (s : State) (g : GRef) (l : Launch) (c : Cohort) (a : Access) (lanes : Mask) : State :=
  if a.mapWord then s.performMap g a
  else if a.opc == opFence then (s.acquireActions c.core a.scope.toNat).accDone g a.id (maskLanes lanes)
  else
    let lanes := s.inLaneOrder l c a (lanes &&& ~~~(s.owesRelease l c a lanes))
    let before := a.addr.length
    let s := match a.space with
      | 1 => s.performScratch g a lanes
      | 2 => s.performReg g a lanes
      | _ => s.performSys g a ((l.sysWin a.hnd).getD 0) lanes
    let after := ((s.group? g).bind (fun x => (x.accs.find? (fun b => b.id == a.id)).map (fun b => b.addr.length))).getD 0
    if a.acquires && after != before then s.acquireActions c.core a.scope.toNat else s

/-- Local accesses of a cohort with their groups, in acceptance order. -/
def Cohort.localAccs (c : Cohort) : List (Nat × Access) :=
  let all := c.groups.flatMap (fun g => (g.accs.filter Access.isLocal).map (fun a => (g.gid, a)))
  (all.map (fun p => p.2.id)).foldl (fun l id => insertNat id l) [] |>.filterMap
    (fun id => all.find? (fun p => p.2.id == id))

/-- Lanes of local accesses still to be performed. -/
def Cohort.localLeft (c : Cohort) : Nat := (c.localAccs.map (fun p => (maskLanes p.2.left).length + 1)).foldl (· + ·) 0

/-- Try one local access, and say whether something of it was performed. -/
def State.tryLocal (s : State) (r : CRef) (gid id : Nat) : State × Bool :=
  match s.cohort? r, s.launch? r.lid with
  | some c, some l =>
    match (c.group? gid).bind (fun x => (x.accs.find? (fun b => b.id == id)).map (fun a => (x, a))) with
    | none => (s, false)
    | some (x, a) =>
      let lanes := s.freeLanes l c x a
      if lanes = 0 then (s, false)
      else
        let s' := s.performLocal ⟨r.lid, r.cid, gid⟩ l c a lanes
        (s', decide (((s'.cohort? r).map Cohort.localLeft).getD 0 < c.localLeft))
  | _, _ => (s, false)

/-- A local access that goes on in a frame (R307): it waits for no sector and makes no binding. -/
def Cohort.framed (c : Cohort) (a : Access) : Bool :=
  a.addressed && !a.mapWord &&
    !(a.space == 1 && a.addr.any (fun p => (List.range a.size).any (fun k => (c.mapAt (p.2 + k)).isSome)))

/-- Perform the oldest local access of a cohort that can be: whatever it makes ready is taken in acceptance order again (R173). In a
frame those go on that can end there. -/
def State.drainOnce (s : State) (r : CRef) : State :=
  match s.cohort? r with
  | none => s
  | some c =>
    let ls := if c.phase.away then c.localAccs.filter (fun p => c.framed p.2) else c.localAccs
    (ls.foldl (fun (acc : State × Bool) p => if acc.2 then acc else acc.1.tryLocal r p.1 p.2.id) (s, false)).1

/-- Drain until nothing moves. -/
def State.drain (s : State) (r : CRef) : Nat → State
  | 0 => s
  | n + 1 =>
    match s.cohort? r with
    | none => s
    | some c =>
      if c.localLeft = 0 then s
      else
        let s' := s.drainOnce r
        if ((s'.cohort? r).map Cohort.localLeft).getD 0 = c.localLeft then s' else s'.drain r n

/-- Lanes of an access that can go to its home now: nothing holds them, every page translates, and no release is owed. -/
def State.homeLanes (s : State) (l : Launch) (c : Cohort) (x : Group) (a : Access) : Mask :=
  let free := s.freeLanes l c x a
  if a.opc == opWbr || a.opc == opInvr then free
  else if !a.addressed || a.space != 0 || !(s.untranslated l c a).isEmpty || a.unavailable || a.quiesced then 0
  else s.inLaneOrder l c a (free &&& ~~~(s.owesRelease l c a free)) &&& (if a.opc == opWaitc then ~~~a.released else 0xFFFF)

/-- The home slices that an access goes to: die and slice here, or another package. -/
def State.homesOf (s : State) (l : Launch) (c : Cohort) (a : Access) : List (Nat × Nat) :=
  ((s.accPas l c a).map (fun pa => if s.local pa then (paDie pa, s.homeSlice l.part pa) else (2 ^ 9 + paPkg pa, 0))).eraseDups

/-- An older access of the core is on its way to one of the same home slices: acceptance order is the order in which they reach it
(R172). -/
def State.behindHome (s : State) (l : Launch) (c : Cohort) (a : Access) : Bool :=
  let mine := s.homesOf l c a
  (s.cohorts.filter (fun k => k.core == c.core)).any (fun k => match s.launch? k.ref.lid with
    | none => false
    | some m => k.groups.any (fun y => y.accs.any (fun b => b.id < a.id && b.space == 0 && s.homeLanes m k y b != 0 &&
        (s.homesOf m k b).any (fun h => mine.contains h))))

/-- An access at home, or a word that only releases, that can move now: its event. -/
def State.eventOf (s : State) (l : Launch) (c : Cohort) (x : Group) (a : Access) : Option Instr :=
  let g : GRef := ⟨c.ref.lid, c.ref.cid, x.gid⟩
  let free := s.freeLanes l c x a
  if free = 0 then none
  else if a.opc != opWbr && a.opc != opInvr && !a.addressed then some (.releaseActionsDone g a.id)
  else if s.homeLanes l c x a != 0 then (if s.behindHome l c a then none else some (.homeSliceRequest (.access g a.id)))
  else if a.addressed && (s.untranslated l c a).isEmpty && !a.unavailable && !a.quiesced && s.owesRelease l c a free != 0 then
    some (.releaseActionsDone g a.id)
  else none

/-! ## Replay-slot reservations (R190) -/

/-- What an access waits for that may fault: translations, or first-touch fills. -/
def State.mayFault (s : State) (l : Launch) (c : Cohort) (a : Access) : Bool :=
  a.slotable && ((a.space == 0 && !(s.untranslated l c a).isEmpty) ||
    (a.space == 1 && a.addr.any (fun p => !(c.unfilled p.2 a.size).isEmpty)))

/-- The operations that a checked clause has buffered can all be accepted now: those that may fault find their slots. -/
def State.commitFits (s : State) (c : Cohort) (x : Group) : Bool :=
  let needs (a : Access) : Bool := a.slotable && (a.space == 0 || (a.space == 1 && a.addr.any (fun p =>
    (List.range a.size).any (fun k => (c.mapAt (p.2 + k)).isSome))))
  let n := (x.unsent.filter (fun u => match u with
    | .mem a => needs a
    | _ => false)).length
  n == 0 || s.slotsFree c n

/-- An access keeps its reservation while it may fault and gives it back afterwards; one that has lost its translation since takes
one again when there is one. -/
def State.keepSlot (s : State) (l : Launch) (c : Cohort) (g : GRef) (a : Access) : State :=
  let need := s.mayFault l c a
  let has := need && (a.resv || s.slotFree c)
  if has == a.resv then s
  else s.modGroup g (fun x => { x with accs := updateWhere (fun b => b.id == a.id) (fun b => { b with resv := has }) x.accs })

/-- Ask for the walks that an access lacks; one that could not be held in a slot waits with it. -/
def State.askWalks (s : State) (l : Launch) (c : Cohort) (x : Group) (a : Access) : State :=
  if a.space ≠ 0 ∨ !a.addressed ∨ (a.slotable && !a.resv && !x.slots.any (fun t => t.acc.id == a.id)) then s
  else (s.untranslated l c a).foldl (fun s p =>
    s.requestWalk l.vif (dieOf c.core) (some c.core) p.2 a.accBits c.core c.classH c.ref.lid c.ref.cid x.gid
      (.access ⟨c.ref.lid, c.ref.cid, x.gid⟩ a.id)) s

/-- Each access of a cohort that may fault holds a reservation. -/
def State.keepSlots (s : State) (r : CRef) : State :=
  match s.cohort? r, s.launch? r.lid with
  | some c, some l => c.groups.foldl (fun s x => x.accs.foldl (fun s a =>
      match s.cohort? r with
      | some c => s.keepSlot l c ⟨r.lid, r.cid, x.gid⟩ a
      | none => s) s) s
  | _, _ => s

/-- Ask for walks and post events for the accesses of one cohort that the core does not perform itself. -/
def State.wakeCohort (s : State) (r : CRef) : State :=
  match s.cohort? r, s.launch? r.lid with
  | some c, some l =>
    c.groups.foldl (fun s x =>
      (x.accs.filter (fun a => !a.isLocal || a.releases)).foldl (fun s a =>
        let s := s.askWalks l c x a
        match s.eventOf l c x a with
        | some e => s.post e
        | none => s) s) s
  | _, _ => s

/-- An ask that waits for an earlier acquire or fence of its group (R268). -/
def State.askHeld (s : State) (k : BandAsk) : Bool :=
  match s.group? k.g with
  | none => false
  | some x => x.pendingAccs.any (fun a => a.id < k.after && (a.acquires || a.opc == opFence))

/-- Asks of a cohort that nothing holds any more are sent. -/
def State.sendAsks (s : State) (r : CRef) : State :=
  s.dies.foldl (fun s d => d.bands.foldl (fun s b => b.asks.foldl (fun s k =>
    if GRefCohort k.g == r && !k.arrived && !s.askHeld k then s.post (.bandAskArrival d.no b.no k.core) else s) s) s) s

/-- Everything of a cohort that has become ready moves: slots are reissued, local accesses are performed, events are
posted. -/
def State.wakeOne (s : State) (r : CRef) : State :=
  match s.cohort? r with
  | none => s
  | some c =>
    let s := s.sendAsks r
    if c.groups.all (fun x => x.accs.isEmpty && x.slots.isEmpty) then s
    -- the issued accesses of a cohort in a frame go on, into the frame (R307); its slots wait for the restore (R192)
    else if c.phase.away then ((if c.phase == .saved then s.drain r (c.localLeft + 1) else s).keepSlots r).wakeCohort r
    else
      let s := s.modCohort r (fun c => { c with groups := c.groups.map (fun x => x.reissue x.slots.length) })
      let s := (c.groups.foldl (fun s x => s.slotBehind ⟨r.lid, r.cid, x.gid⟩) s).slotFilling r
      match s.cohort? r with
      | none => s
      | some c => ((s.drain r (c.localLeft + 1)).keepSlots r).wakeCohort r

/-- The same for every cohort. -/
def State.wake (s : State) : State := (s.allCohorts.map (fun c => c.ref)).foldl (fun s r => s.wakeOne r) s

/-- Accept a word of Table 10.1 (R172): it takes the next place in acceptance order. -/
def State.accept (s : State) (g : GRef) (a : Access) : State :=
  let a := { a with id := s.nextId, resv := a.slotable }
  let s := { s with nextId := s.nextId + 1 }.modGroup g (fun x => { x with accs := x.accs ++ [a] })
  s.wakeOne (GRefCohort g)

/-! ## What later words of the cohort see -/

/-- A cohort with the bindings that the `mapset` words accepted so far, in acceptance order, and those buffered will leave (R187, R243). -/
def Ctx.planned (x : Ctx) : Cohort :=
  let bind (c : Cohort) (a : Access) : Cohort := if a.opc == opMapset then c.modMap a.size (fun _ => a.binding) else c
  let unsent := x.g.queued.filterMap (fun u => match u with
    | .mem a => some a
    | _ => none)
  let sent := x.c.groups.flatMap (fun g => g.accs.filter (fun a => a.opc == opMapset))
  let order := (sent.map (fun a => a.id)).foldl (fun l id => insertNat id l) []
  (order.filterMap (fun id => sent.find? (fun a => a.id == id)) ++ unsent).foldl bind x.c

/-- Some byte of a range lies in a region that is bound read-only. -/
def Ctx.readOnly (x : Ctx) (ea n : Nat) : Bool :=
  (List.range n).any (fun k => match x.planned.mapAt (ea + k) with
    | some e => (x.planned.mapEntry e).readOnly
    | none => false)

/-- The handle of the first read-only region that a range meets (R187): a `mst` there has no handle of its own, and INFO is that of the
`mapset` (DESIGN CHOICE, notes/assumptions/43.md). -/
def Ctx.readOnlyHandle (x : Ctx) (o n : Nat) : Option Nat :=
  (List.range n).findSome? (fun k => (x.planned.mapAt (o + k)).bind (fun e =>
    let m := x.planned.mapEntry e
    if m.readOnly then some m.hnd else none))

/-- Accesses of the group that a matrix access follows: scratchpad accesses not yet performed, acquires, a fence that orders a store
after it (R178), map words. -/
def Cohort.mtxHeld (c : Cohort) (g : Group) (lanes : Mask) : Bool :=
  g.pendingAccs.any (fun a => (a.space == 1 && a.addressed) ||
    ((a.acquires || (a.opc == opFence && a.ord.getLsbD 1)) && (a.left &&& lanes) != 0)) ||
    c.groups.any (fun h => h.pendingAccs.any Access.mapWord)

end Sys2Proof.Machine
end

