-- ==== Sys2Proof/Machine/Handle.lean ====
section
/-!
DEFINITION. Handle table entries (Table 13.4, R248, R249), the address checks of R169, and engine ranges (R197).
-/
namespace Sys2Proof.Machine

/-- A handle entry as the device honours it. `bound` is false for an entry that counts as unbound. -/
structure Handle where
  bound : Bool
  base : Nat
  limit : Nat
  space : Nat
  policy : Nat
  r : Bool
  w : Bool
  a : Bool
  e : Bool
  win : Nat
  deriving DecidableEq, Repr

/-- An entry of a launch's copied table. A SYS entry needs the firmware's mark, which gives its window. -/
def Launch.handle (l : Launch) (k : Nat) : Handle :=
  let x := (l.handles.getD k 0).toNat
  let base := bitsOf x 63 0
  let limit := bitsOf x 127 64
  let space := bitsOf x 129 128
  let mark := l.sysWin k
  let ok := bitsOf x 255 208 = 0 ∧ bitsOf x 191 136 = 0 ∧ base < 2 ^ 57 ∧ limit ≤ 2 ^ 57 ∧
    (space ≠ 3 ∨ mark.isSome) ∧ bitsOf x 135 132 ≠ 0
  { bound := decide ok, base := base, limit := limit, space := space,
    policy := if l.classH ∧ bitsOf x 131 130 = 3 then 0 else bitsOf x 131 130,
    r := bitOf x 132, w := bitOf x 133, a := bitOf x 134, e := bitOf x 135, win := mark.getD 0 }

/-- Permissions of a word: a set of R, W, A, E that must all be present. -/
structure Perms where
  r : Bool
  w : Bool
  a : Bool
  e : Bool
  deriving DecidableEq, Repr

def permRead : Perms := ⟨true, false, false, false⟩
def permWrite : Perms := ⟨false, true, false, false⟩
def permAtomic : Perms := ⟨false, false, true, false⟩

/-- The entry carries the permissions. -/
def Handle.allows (h : Handle) (p : Perms) : Bool :=
  h.bound && (!p.r || h.r) && (!p.w || h.w) && (!p.a || h.a) && (!p.e || h.e)

/-- The checks of R169 in its order for an access of n bytes at offset o, but for the range locks: the cause and INFO, or none. An entry
that counts as unbound lacks every permission (R248; DEDUCED, notes/assumptions/22.md). -/
def Handle.check (h : Handle) (hnd : Nat) (o : Int) (n a scratch : Nat) (p : Perms) (spaces : List Nat) : Option (Nat × Nat) :=
  if o < 0 ∨ h.limit < o + n then some (0x09, hnd)
  else if h.space = 1 ∧ (scratch : Int) < o + n then some (0x09, hnd)
  else if !h.allows p || !spaces.contains h.space then some (0x0A, hnd)
  else if ((h.base : Int) + o) % a ≠ 0 then some (0x0C, hnd)
  else none

/-- The lowest entry of the core's range-lock table that an access lies in (R169, R251). -/
def State.lockHit (s : State) (l : Launch) (c : Cohort) (space ea n : Nat) : Option Nat :=
  if 2 ≤ space then none
  else (s.core? c.core).bind (fun k => k.lockIndex space c.ref l.vif ea n)

/-- All checks of R169. -/
def State.addrTrap (s : State) (l : Launch) (c : Cohort) (h : Handle) (hnd : Nat) (o : Int) (n a : Nat) (p : Perms)
    (spaces : List Nat) (locks : Bool) : Option (Nat × Nat) :=
  match h.check hnd o n a l.scr p spaces with
  | some t => some t
  | none =>
    if locks then (s.lockHit l c h.space (h.base + o.toNat) n).map (fun k => (0x0B, k)) else none

/-! ## Engine ranges (R197) -/

/-- A range of a command: the handle, the first byte's address in its space, and its length. -/
structure Range where
  space : Nat
  lo : Nat
  len : Nat
  policy : Nat
  deriving DecidableEq, Repr

/-- A range of SCRATCH that a device unit uses lies within the scratchpad (DEDUCED, notes/assumptions/23.md). -/
def Handle.inScratch (h : Handle) (off n scratch : Nat) : Bool := h.space != 1 || decide (h.base + off + n ≤ scratch)

/-- A handle for an engine: accepted space, engine permission and the direction's, and n bytes at off within the limit. -/
def Launch.engineRange (l : Launch) (hnd off n : Nat) (write : Bool) (spaces : List Nat) : Option Range :=
  let h := l.handle hnd
  if 64 ≤ hnd then none
  else if h.allows ⟨!write, write, false, true⟩ && spaces.contains h.space && off + n ≤ h.limit &&
      h.inScratch off n l.scr then
    some { space := h.space, lo := h.base + off, len := n, policy := h.policy }
  else none

end Sys2Proof.Machine
end

