-- ==== Sys2Proof/Machine/Bands.lean ====
section
/-!
DEFINITION. Watched ranges and the access log (R376, R377). Bands (15): the band table of a die, asks and holds (R275 to R280), fills (R281, R282), leaving (R278, R284)
and the status word (R286); and how an agent of a die, other than a core, translates (R281, chapter 19).
-/
namespace Sys2Proof.Machine

/-! ## Translation by agents without a TLB of their own -/

/-- The PA of an agent's access, once the leaves allow it and carry AF (and D for a write): else a walk is needed (R325,
R328), which waits on the record of a page that holds larder bytes (R342). -/
def State.agentPa (s : State) (vif va : Nat) (need : BitVec 4) : Option Nat :=
  if s.larder.any (fun l => l.vif == vif && l.page == va / 65536) then none
  else match s.walkEnv? vif with
  | none => none
  | some w =>
    match s.walkTables w va need with
    | .ok _ pa _ _ _ ge _ he =>
      if pteAF ge && pteAF he && (!need.getLsbD 1 || (pteD ge && pteD he)) then some pa else none
    | _ => none

/-- The pages of n bytes from a VA, by their first byte within the range. -/
def pagesOf (va n : Nat) : List Nat :=
  (List.range ((va % 65536 + n + 65535) / 65536)).map (fun k => if k = 0 then va else alignDown va 65536 + 65536 * k)

/-- PAs of every page of a range, if each translates. -/
def State.agentPages (s : State) (vif va n : Nat) (need : BitVec 4) : Option (List (Nat × Nat × Nat)) :=
  (pagesOf va n).mapM (fun p =>
    let last := min (va + n) (alignDown p 65536 + 65536)
    (s.agentPa vif p need).map (fun pa => (p, pa, last - p)))

/-- A request made on a die rather than by a core; die 4 stands for the I/O dies, which have no RDC. -/
def agentReq (die vif part kdom : Nat) (classH : Bool) : Req :=
  { vif := vif, part := part, kdom := kdom, classH := classH, core := 96 * die }

/-- Bytes of a range as an agent of a die reads them: home memory, or the die's RDC copy of a line homed elsewhere. -/
def State.agentBytes (s : State) (q : Req) (ps : List (Nat × Nat × Nat)) : List Byte :=
  ps.flatMap (fun (_, pa, n) => (List.range n).map (fun k => s.beyondL1 q (pa + k)))

/-- Every line of some pages has a token or an allowance, or is read from the RDC (R362, R364, notes/assumptions/28.md). -/
def State.agentReady (s : State) (q : Req) (ps : List (Nat × Nat × Nat)) (write : Bool) : Bool :=
  (ps.flatMap (fun p => linesOf p.2.1 p.2.2)).all (fun a => (!write && (s.rdcHit q a || s.replicaHit q a)) || s.hasToken q a)

/-- An agent of a die reaches the homes of a range's lines; a read brings lines homed elsewhere into the die's RDC. -/
def State.agentReach (s : State) (q : Req) (pa n : Nat) (write : Bool) : State :=
  (linesOf pa n).foldl (fun s a =>
    let s := s.reachHome q a write
    if write then s else s.rdcFetch q a) s

/-! ## Device accesses by IPA -/

/-- A device access in the name of an interface. -/
def Vif.req (v : Vif) : Req := agentReq 4 v.no v.part v.kdom false

/-- Memory that a device access reaches, and the hypervisor leaf with its place that it goes through. -/
structure DevPart where
  pa : Nat
  n : Nat
  leaf : Option (Nat × Nat)
  deriving DecidableEq, Repr

/-- The memory that n bytes at an IPA of a context stand for, page by page, if the hypervisor stage maps them with a permission. -/
def State.ipaParts (s : State) (v : Vif) (ipa n : Nat) (need : BitVec 4) : Option (List DevPart) :=
  (pagesOf ipa n).foldr (fun p acc =>
    match acc, (s.walkEnv? v.no).map (fun e => s.hypWalk e p) with
    | some ps, some (.ok pa _ ha he perm) =>
      if perm &&& need == need then some (⟨pa, min (ipa + n) (alignDown p 65536 + 65536) - p, some (ha, he)⟩ :: ps) else none
    | _, _ => none) (some [])

/-- A device reaches memory: none while something holds it, in a state that waits for tokens (R359, R362, R365, R415). The leaves get AF,
and D for a write (R328). -/
def State.reachParts (s : State) (v : Vif) (parts : Option (List DevPart)) (write : Bool) : State × Option (List DevPart) :=
  match parts with
  | none => (s, none)
  | some ps =>
    let lines := ps.flatMap (fun p => linesOf p.pa p.n)
    if s.silenced v.part || ps.any (fun p => s.homeUnavailable p.pa || s.quiesced v.req p.pa) then (s, none)
    else if !lines.all (s.hasToken v.req) then (s.awaitTokens v.req lines, none)
    else
      let use (s : State) (p : DevPart) : State :=
        match p.leaf with
        | some (ha, he) => (s.useLeaf v.req ha he write).agentReach { v.req with movable := pteM he } p.pa p.n write
        | none => s.agentReach v.req p.pa p.n write
      (ps.foldl use s, some ps)

/-- A device reaches n bytes at an IPA. -/
def State.ipaReach (s : State) (v : Vif) (ipa n : Nat) (write : Bool) : State × Option (List DevPart) :=
  s.reachParts v (s.ipaParts v ipa n (if write then needWrite else needRead)) write

/-- The bytes at the places that a device has reached. -/
def State.devBytes (s : State) (ps : List DevPart) : List Byte := ps.flatMap (fun p => s.homeBytes p.pa p.n)

/-- Write bytes at the places that a device has reached. -/
def State.devStore (s : State) (v : Vif) (ps : List DevPart) (bs : List Byte) : State :=
  (ps.foldl (fun (acc : State × List Byte) p => (acc.1.homeStore v.req p.pa (acc.2.take p.n), acc.2.drop p.n)) (s, bs)).1

/-- Write bytes at an IPA; none while that cannot be reached. -/
def State.ipaPut (s : State) (v : Vif) (ipa : Nat) (bs : List Byte) : Option State :=
  match s.ipaReach v ipa bs.length true with
  | (s, some ps) => some (s.devStore v ps bs)
  | (_, none) => none

/-- Offsets in a range of the sectors that are poisoned for a key domain. -/
def State.agentPoison (s : State) (kdom va : Nat) (ps : List (Nat × Nat × Nat)) : List (Nat × Poison) :=
  ps.flatMap (fun (p, pa, n) => (List.range ((n + 63) / 64)).filterMap (fun k =>
    (s.poisonAt kdom (pa + 64 * k)).map (fun q => (p + 64 * k - va, q))))

/-! ## Access log (R376, R377) -/

def Watch.value (w : Watch) : Nat := w.hi.toNat * 2 ^ 64 + w.lo.toNat

/-- A watched range logs an access of these kinds to n bytes from a PA. -/
def Watch.logs (w : Watch) (pa n : Nat) (kinds : BitVec 4) : Bool :=
  let pages := bitsOf w.value 87 52
  let base := bitsOf w.value 51 16
  rangesMeet (base * 65536) (pages * 65536) pa n && (BitVec.ofNat 4 (w.value % 16) &&& kinds) != 0

/-- Numbers of the ranges that log it. -/
def Partition.hits (p : Partition) (pa n : Nat) (kinds : BitVec 4) : List Nat :=
  (List.range 32).filter (fun i => (p.watch.toList.getD i ⟨0, 0⟩).logs pa n kinds)

/-- A record of Table 22.6. -/
def logBytes (seq rng : Nat) (acc : BitVec 8) (agent vif lid va pa : Nat) : LogRec :=
  leBytes seq 8 ++ leBytes rng 1 ++ leBytes acc.toNat 1 ++ leBytes agent 1 ++ leBytes vif 1 ++ leBytes lid 4 ++
    leBytes (alignDown va 65536) 8 ++ leBytes (alignDown pa 65536) 8

/-- The buffer has room for k records. -/
def Partition.roomFor (p : Partition) (k : Nat) : Bool := p.logWait.isEmpty && p.log.length + k ≤ 32768

/-- Whether a partition's buffer has room for k records. -/
def State.logRoom (s : State) (part k : Nat) : Bool := ((s.part? part).map (fun p => p.roomFor k)).getD true

/-- Write one record for each range hit. -/
def State.logAccess (s : State) (part : Nat) (hits : List Nat) (acc : BitVec 8) (agent vif lid va pa : Nat) : State :=
  hits.foldl (fun s i =>
    ({ s with hearth := { s.hearth with count := s.hearth.count + 1 } }).modPart part (fun p =>
      { p with log := p.log ++ [logBytes s.hearth.seq i acc agent vif lid va pa], logPage := some (pa / 65536) })) s

/-- The effective permission of a page that translates. -/
def State.pagePerm (s : State) (vif va : Nat) (need : BitVec 4) : BitVec 4 :=
  match (s.walkEnv? vif).map (fun w => s.walkTables w va need) with
  | some (.ok _ _ _ perm _ _ _ _) => perm
  | _ => 0

/-- The records that an agent's translations of pages write, or none while the buffer lacks room (R376, R377). -/
def State.logPages (s : State) (part vif lid agent : Nat) (acc : BitVec 8) (need : BitVec 4) (ps : List (Nat × Nat × Nat)) :
    Option State :=
  match s.part? part with
  | none => some s
  | some p =>
    let hits := (ps.map (fun x => (x.1, x.2.1, p.hits (alignDown x.2.1 65536) 65536 (s.pagePerm vif x.1 need)))).filter
      (fun x => !x.2.2.isEmpty)
    if !(s.logRoom part ((hits.map (fun x => x.2.2.length)).foldl (· + ·) 0)) then none
    else some (hits.foldl (fun s x => s.logAccess part x.2.2 acc agent vif lid x.1 x.2.1) s)

/-! ## The band table -/

/-- Bit of a core in its die's maps (R275). -/
def coreBit (core : Nat) : BitVec 96 := 1#96 <<< (core % 96)

def State.modBand (s : State) (die no : Nat) (f : Band → Band) : State :=
  s.modDie die (fun d => { d with bands := updateWhere (fun b => b.no == no) f d.bands })

def State.band? (s : State) (die no : Nat) : Option Band :=
  (s.die? die).bind (fun d => d.bands.find? (fun b => b.no == no))

/-- Bits set. -/
def bits96 (m : BitVec 96) : Nat := ((List.range 96).filter (fun i => m.getLsbD i)).length

/-- Cores of a die's mask. -/
def coresOf (die : Nat) (m : BitVec 96) : List Nat :=
  ((List.range 96).filter (fun i => m.getLsbD i)).map (fun i => 96 * die + i)

/-- The cohort that a band's launch has on a core, resident or being restored. -/
def State.bandCohort (s : State) (lid core : Nat) : Option Cohort :=
  s.cohorts.find? (fun c => c.ref.lid == lid && c.core == core)

/-- Saturating counters of Table 15.4. -/
def sat127 (n : Nat) : Nat := min (n + 1) 127

/-- M of the hypervisor leaf of a page (R345). -/
def State.leafMovable (s : State) (vif va : Nat) : Bool :=
  match (s.walkEnv? vif).map (fun w => s.walkTables w va 0) with
  | some (.ok _ _ _ _ _ _ _ he) => pteM he
  | _ => false

/-- A fill of the same band and key was made before and has not read yet: a late member reads after it (R268). -/
def State.bandFillBehind (s : State) (die : Nat) (f : BandFill) : Bool :=
  ((s.die? die).map (fun d => d.bandFills.any (fun x => x.id < f.id && x.band == f.band && x.key == f.key && x.data.isNone))).getD false

/-- Read the range of a fill, when every page translates (R281); otherwise walks are asked for. The read is charged to the band's
class. -/
def State.readFill (s : State) (die id : Nat) : State :=
  match (s.die? die).bind (fun d => d.bandFills.find? (fun f => f.id == id)) with
  | none => s
  | some f =>
    if f.data.isSome then s
    else
      match (s.band? die f.band).bind (fun b => s.launch? b.lid) with
      | none => s
      | some l =>
        match s.agentPages l.vif f.key.va f.key.n needRead with
        | some ps =>
          let q := agentReq die l.vif l.part l.kdom l.classH
          if s.bandFillBehind die f || ps.any (fun p => s.homeUnavailable p.2.1 || s.quiesced q p.2.1) then s
          else if !s.agentReady q ps false then s.awaitTokens q (ps.flatMap (fun p => linesOf p.2.1 p.2.2))
          else
            match s.logPages l.part l.vif l.lid 5 (accRead ||| accBand) needRead ps with
            | none => s
            | some s =>
              let s := ps.foldl (fun s p => s.agentReach { q with movable := s.leafMovable l.vif p.1 } p.2.1 p.2.2 false) s
              let set (x : BandFill) : BandFill :=
                { x with data := some (s.agentBytes q ps), poison := s.agentPoison l.kdom f.key.va ps }
              let s := s.modDie die (fun d => { d with bandFills := updateWhere (fun x => x.id == id) set d.bandFills })
              -- those that waited for it to read go on
              (((s.die? die).map (fun d => d.bandFills)).getD []).foldl (fun s x =>
                if x.id == id || x.data.isNone then s.post (.bandFillLand die x.id) else s) s
        | none =>
          ((pagesOf f.key.va f.key.n).filter (fun p => (s.agentPa l.vif p needRead).isNone)).foldl (fun s p =>
            s.requestWalk l.vif die none p (accRead ||| accBand) f.band l.classH l.lid 0xFFFFFFFF 0xFFFF
              (.bandFill die id p)) s

/-- Make a fill for the cores of a mask (R280, R281). -/
def State.makeFill (s : State) (die band : Nat) (key : BandKey) (targets : BitVec 96) (deferred : Bool) : State :=
  let id := s.nextId
  let f : BandFill := { id := id, band := band, key := key, targets := targets, data := none, poison := [],
                        deferred := deferred, recId := 0 }
  ({ s with nextId := id + 1 }.modDie die (fun d => { d with bandFills := d.bandFills ++ [f] })).readFill die id

/-- End the open hold of a band. -/
def State.endHold (s : State) (die no : Nat) (expired : Bool) : State :=
  match s.band? die no with
  | none => s
  | some b =>
    match b.openHold with
    | none => s
    | some h =>
      (s.modBand die no (fun b => { b with openHold := none, lastKey := some h.key, served := h.askers,
                                           expr := if expired then sat127 b.expr else b.expr })).makeFill
        die no h.key h.askers false

/-- Evaluate an open hold (R280). -/
def State.evalHold (s : State) (die no : Nat) : State :=
  match (s.band? die no).bind (fun b => b.openHold) with
  | none => s
  | some h => if h.wait &&& ~~~h.askers = 0 then s.endHold die no false else s

/-- A core leaves the member map (R278). -/
def State.bandLeave (s : State) (die no core : Nat) : State :=
  let bit := coreBit core
  (s.modBand die no (fun b => { b with
    members := b.members &&& ~~~bit
    leaving := b.leaving &&& ~~~bit
    openHold := b.openHold.map (fun h => { h with wait := h.wait &&& ~~~bit }) })).evalHold die no

/-- An ask of a core that has not been filled. -/
def Band.asked (b : Band) (core : Nat) : Bool := b.asks.any (fun a => a.core == core)

/-- `bandj` at its home slice (R182, R277): of a core that is a member, one whose `bandx` still waits included, it does nothing. Nor
does one that has waited behind a `bandx` of its clause while the map filled (DESIGN CHOICE, notes/assumptions/43.md). -/
def State.bandJoin (s : State) (die no core : Nat) : State :=
  s.modBand die no (fun b => if bits96 b.members < b.maxm then { b with members := b.members ||| coreBit core } else b)

/-- `bandx`: at once, or after the core's fills on the band. It waits in its slot for those (R182); only one whose `bandl` stands in
the same checked clause still meets an unfilled ask here. -/
def State.bandDrop (s : State) (die no core : Nat) : State :=
  match s.band? die no with
  | none => s
  | some b =>
    if b.asked core then s.modBand die no (fun b => { b with leaving := b.leaving ||| coreBit core })
    else s.bandLeave die no core

/-- `bandl`: the destination granules become empty and the ask is sent (R183). -/
def State.bandAsk (s : State) (g : GRef) (c : Cohort) (no va n : Nat) (hdr pc : DWord) (issuedAt : Nat) : State :=
  let die := dieOf c.core
  match s.band? die no with
  | none => s
  | some b =>
    let ask : BandAsk := { core := c.core, g := g, key := ⟨va, n⟩, arrived := false, after := s.nextId, hdr := hdr, pc := pc,
                            issuedAt := issuedAt }
    ((s.modCohort c.ref (fun c => c.setGranules b.soff n false)).modBand die no
      (fun b => { b with asks := b.asks ++ [ask] })).post (.bandAskArrival die no c.core)

/-- An ask reaches the home slice (Table 15.2). -/
def State.askArrive (s : State) (die no core : Nat) : State :=
  match s.band? die no with
  | none => s
  | some b =>
    match b.asks.find? (fun a => a.core == core && !a.arrived) with
    | none => s
    | some a =>
      let bit := coreBit core
      let s := s.modBand die no (fun b => { b with asks := updateWhere (fun a => a.core == core) (fun a => { a with arrived := true }) b.asks })
      match b.openHold with
      | some h =>
        if h.key = a.key then
          (s.modBand die no (fun b => { b with openHold := some { h with askers := h.askers ||| bit } })).evalHold die no
        else
          ((s.modBand die no (fun b => { b with mism := sat127 b.mism,
                                                openHold := some { h with wait := h.wait &&& ~~~bit } })).makeFill
            die no a.key bit false).evalHold die no
      | none =>
        if b.lastKey = some a.key ∧ b.served &&& bit = 0 then
          (s.modBand die no (fun b => { b with late := sat127 b.late })).makeFill die no a.key bit false
        else
          ((s.modBand die no (fun b => { b with openHold := some ⟨a.key, b.members, bit⟩ })).post
            (.bandHoldTimerExpiry die no)).evalHold die no

/-- A departing core's bands (R284): its bits clear, enrolments are recorded, and unfilled asks become deferred fills. -/
def State.bandDepart (s : State) (r : CRef) : State :=
  match s.cohort? r with
  | none => s
  | some c =>
    let die := dieOf c.core
    let bit := coreBit c.core
    match s.die? die with
    | none => s
    | some d =>
      (d.bands.filter (fun b => b.lid == r.lid)).foldl (fun s b =>
        let leave := (b.leaving &&& bit) != 0
        let defs := (b.asks.filter (fun a => a.core == c.core)).map (fun a => Deferred.mk b.no a.key.n a.key.va a.g.gid a.pc leave a.issuedAt)
        let enr := (b.members &&& bit) != 0
        let s := s.modCohort r (fun c => { c with
          benr := if enr then c.benr ||| (1#64 <<< b.no) else c.benr
          deferred := c.deferred ++ defs })
        let s := s.modBand die b.no (fun b => { b with
          asks := b.asks.filter (fun a => a.core != c.core)
          openHold := b.openHold.map (fun h => { h with askers := h.askers &&& ~~~bit }) })
        let cut (f : BandFill) : BandFill :=
          if f.band = b.no then { f with targets := f.targets &&& ~~~bit } else f
        let s := s.modDie die (fun d => { d with bandFills := d.bandFills.map cut })
        if enr then s.bandLeave die b.no c.core else s) s

/-- The status word (Table 15.4) of a band as a core sees it; 0 when the launch has not declared it. -/
def State.bandStatus (s : State) (l : Launch) (core no : Nat) : Nat :=
  if !(l.bands.any (fun d => d.band == no)) then 0
  else
    match s.band? (dieOf core) no with
    | none => 0
    | some b =>
      if b.lid ≠ l.lid then 0
      else
        let bit := coreBit core
        let f (p : Bool) (k : Nat) : Nat := if p then 2 ^ k else 0
        f ((b.members &&& bit) != 0) 31 + f (b.asked core) 30 + f b.openHold.isSome 29 + f b.flt 28 +
          bits96 b.members * 2 ^ 21 + b.mism * 2 ^ 14 + b.expr * 2 ^ 7 + b.late

/-- Write whole sectors into a scratchpad from outside the lanes: a mapped sector that is wholly covered becomes filled
and dirty (R241). -/
def Cohort.deliver (c : Cohort) (o : Nat) (bs : List Byte) : Cohort :=
  let n := bs.length
  let fillWhole (c : Cohort) (k : Nat) : Cohort :=
    let sec := alignDown o 128 + 128 * k
    if o ≤ sec ∧ sec + 128 ≤ o + n then
      match c.mapAt sec with
      | some e => c.modMap e (fun m => { m with filled := insertNat sec m.filled, filling := m.filling.filter (fun f => f.sec != sec) })
      | none => c
    else c
  let c := (List.range ((o % 128 + n + 127) / 128)).foldl fillWhole c
  c.scrWrite o bs true

/-- Poison the units of a delivered range that come from poisoned sectors. -/
def Cohort.poisonUnits (c : Cohort) (o n : Nat) (bad : List (Nat × Poison)) : Cohort :=
  bad.foldl (fun c k => c.setScrPoison (o + k.1) (min 64 (n - k.1)) (some k.2)) c

/-- A first-touch fill of a sector that n bytes at an offset touch is under way: a write from outside the lanes waits for it (R241). -/
def Cohort.fillingIn (c : Cohort) (o n : Nat) : Bool :=
  c.maps.toList.any (fun m => m.filling.any (fun f => rangesMeet f.sec 128 o n))

/-- Some target of a band fill has to wait for a first-touch fill. -/
def State.landBlocked (s : State) (die : Nat) (f : BandFill) : Bool :=
  match s.band? die f.band with
  | none => false
  | some b => (coresOf die f.targets).any (fun core =>
      ((s.bandCohort b.lid core).map (fun c => c.fillingIn b.soff f.key.n)).getD false)

/-- Parked words may be tried again. -/
def Cohort.unpark (c : Cohort) : Cohort :=
  { c with groups := c.groups.map Group.unpark }

/-- A `bandx` that waited for a core's fills takes effect (R182). -/
def State.bandLeft (s : State) (die no core : Nat) : State :=
  if ((s.band? die no).map (fun b => (b.leaving &&& coreBit core) != 0 && !b.asked core)).getD false then s.bandLeave die no core else s

/-- A fill lands in its targets (R281): bytes, then granules, and the asks are over. The frame of a cohort that is being restored stays as
it is (R308). -/
def State.landFill (s : State) (die id : Nat) : State :=
  match (s.die? die).bind (fun d => d.bandFills.find? (fun f => f.id == id)) with
  | none => s
  | some f =>
    match f.data, s.band? die f.band with
    | some bs, some b =>
      let s := s.modDie die (fun d => { d with bandFills := d.bandFills.filter (fun x => x.id != id) })
      (coresOf die f.targets).foldl (fun s core =>
        let s := match s.bandCohort b.lid core with
          | none => s
          | some c =>
            let put (c : Cohort) : Cohort := ((c.deliver b.soff bs).poisonUnits b.soff bs.length f.poison).unpark
            let drop (c : Cohort) : Cohort :=
              if f.deferred then { c with deferred := c.deferred.filter (fun d => !(d.band == f.band && d.va == f.key.va && d.n == f.key.n)) } else c
            (s.modSeated c.ref (fun c => drop (put c))).wakeOne c.ref
        let s := if f.deferred then s else s.modBand die f.band (fun b => { b with asks := b.asks.filter (fun a => a.core != core) })
        s.bandLeft die f.band core) s
    | _, _ => s.modDie die (fun d => { d with bandFills := d.bandFills.filter (fun x => x.id != id) })

end Sys2Proof.Machine
end

