-- ==== Sys2Proof/Machine/Engine.lean ====
section
/-!
DEFINITION. Engine commands on their way in: the fields of Tables 11.3 to 11.7, the completion record (R196), the ranges
that take range-lock entries (Table 11.3, R198, R251), queues and the child-slot rule (R195, R202, R298), barriers (R204),
the extended set (R212), and what each word sends (R106, Table 11.1).
-/
namespace Sys2Proof.Machine

/-! ## Command fields -/

/-- The bytes of a command. -/
def cmdBytes (ws : List Word) : List Byte := ws.flatMap (fun w => leBytes w.toNat 4)

/-- A field of a command. -/
def cmdField (ws : List Word) (off n : Nat) : Nat := fieldLE (cmdBytes ws) off n

/-- CNTV or STV of a pushed command. -/
def cmdFlags (ws : List Word) : Nat := cmdField ws 1 1

/-- The engine that a selector names for a core (Table 11.2). -/
def engineOf (sel core : Nat) : EngineId :=
  match bitsOf sel 15 12 with
  | 0 => .copy core
  | 1 => .collective (sel % 16)
  | 2 => .storage (sel % 16)
  | _ => .launchQueue

/-- A selector that Table 11.2 does not allow. -/
def badSelector (sel : Nat) : Bool :=
  let k := bitsOf sel 15 12
  let i := sel % 16
  4 ≤ k || bitsOf sel 11 4 != 0 || (k == 0 && i != 0) || (k == 1 && 2 ≤ i) || (k == 3 && i != 0)

/-- The check of the completion record (R196): the cause and INFO. `scratchOk`: SCRATCH is accepted too. -/
def Launch.recordTrap (l : Launch) (chnd coff : Nat) (scratchOk : Bool) : Option (Nat × Nat) :=
  let k := chnd % 64
  (l.handle k).check k coff 8 1 l.scr ⟨false, true, false, true⟩ (if scratchOk then [0, 1] else [0]) |>.or
    (if !(l.handle k).inScratch coff 8 l.scr then some (0x09, k) else if coff % 8 ≠ 0 then some (0x0C, k) else none)

/-- Current view of a membership group, and whether this package is excluded from it (R195, R407). -/
def State.viewMismatch (s : State) (group view : Nat) : Option Nat :=
  match s.mgroup? group with
  | none => none
  | some m =>
    if m.view = 0 || view ≠ m.view % 2 ^ 32 || !m.members.getLsbD s.pkg then some (m.view % 256) else none

/-! ## Element sizes and ranges -/

/-- Bytes of an element of a collective (R425). -/
def collSize (type : Nat) : Nat := if type = 1 then 2 else 4

/-- Members of a map. -/
def membersOf (m : BitVec 288) : List Nat := (List.range 288).filter (fun i => m.getLsbD i)

/-- Member number r's chunk [first, end) of COUNT elements among m (R398). -/
def chunkOf (count m r : Nat) : Nat × Nat := (r * count / m, (r + 1) * count / m)

/-- The extent in bytes from the lowest to the highest byte of rows. -/
def rowSpan (len rows stride : Nat) : Nat := if rows = 0 then 0 else (rows - 1) * stride + len

/-- The ranges of a collective: source and destination, as (handle, offset, bytes, write). -/
def collRanges (ws : List Word) (m rank : Nat) : List (Nat × Nat × Nat × Bool) :=
  let f := cmdField ws
  let op := f 0 1
  let sz := collSize (f 8 1)
  let count := f 0x14 4
  let (a, b) := chunkOf count (max m 1) rank
  let dn := match op with
    | 2 => (b - a) * sz
    | 3 => count * m * sz
    | _ => count * sz
  (if op = 4 ∧ f 0x20 2 ≠ rank then [] else [(f 0x0A 1, f 0x0C 4, count * sz, false)]) ++ [(f 0x0B 1, f 0x10 4, dn, true)]

/-- The ranges of a pushed command, as (handle, offset, bytes, write). -/
def State.pushRanges (s : State) (ws : List Word) (kind : Nat) : List (Nat × Nat × Nat × Bool) :=
  let f := cmdField ws
  match kind with
  | 0 =>
    let src := (f 8 1, f 0x0C 4, rowSpan (f 0x14 4) (f 0x18 4) (f 0x1C 4), false)
    let dst := (f 9 1, f 0x10 4, rowSpan (f 0x14 4) (f 0x18 4) (f 0x20 4), true)
    if f 0 1 = 2 then [dst] else [src, dst]
  | 1 =>
    match s.mgroup? (f 0x1C 2) with
    | none => collRanges ws 1 0
    | some g =>
      let ms := membersOf g.members
      collRanges ws ms.length ((ms.findIdx? (fun p => p == s.pkg)).getD 0)
  | 2 => if f 0 1 = 3 then [] else [(f 0x0C 1, f 0x10 4, f 0x14 4 * 4096, f 0 1 == 1)]
  | _ => []

/-- Range-lock entries that a command needs (Table 11.3). -/
def locksNeeded (kind op : Nat) : Nat :=
  match kind with
  | 0 => if op = 2 then 1 else 2
  | 1 => 2
  | 2 => 1
  | _ => 0

/-- Range-lock entries of a frame's commands that have not completed (R312). -/
def State.frameLocks (s : State) (f : Frame) : List Lock := f.locks.filter (fun k => s.cmds.any (fun c => c.id == k.cmd))

/-- Entries of a core's table that a restore under way there will take again (R312). -/
def State.locksDue (s : State) (core : Nat) : Nat :=
  let mine (f : Frame) : Bool := s.cohorts.any (fun c => c.ref == f.cohort.ref && c.core == core)
  let held := ((s.core? core).map (fun k => k.locks)).getD []
  (((s.frames.filter mine).flatMap s.frameLocks).filter (fun k => !(held.any (fun x => x.cmd == k.cmd)))).length

/-- Free range-lock entries of a core. -/
def State.locksFree (s : State) (core : Nat) : Nat := 32 - (((s.core? core).map (fun c => c.locks.length)).getD 0 + s.locksDue core)

/-- The lowest free entry number. -/
def freeLock (ls : List Lock) : Nat := ((List.range 32).find? (fun i => !(ls.any (fun k => k.idx == i)))).getD 32

/-- Register ranges in a core's table (R251). A range that lies outside its handle is none. -/
def State.takeLocks (s : State) (l : Launch) (c : Cohort) (cmd : Nat) (rs : List Range) : State :=
  rs.foldl (fun s r =>
    if r.len = 0 then s
    else s.modCore c.core (fun k => { k with locks := k.locks ++
      [{ idx := freeLock k.locks, space := r.space, cohort := c.ref, vif := l.vif, lo := r.lo, hi := r.lo + r.len - 1,
         cmd := cmd }] })) s

/-- The addresses that a handle's range names, without any check of permission. -/
def Launch.lockRange (l : Launch) (x : Nat × Nat × Nat × Bool) : Range :=
  let h := l.handle (x.1 % 64)
  if 2 ≤ h.space || !h.bound then ⟨0, 0, 0, 0⟩ else { space := h.space, lo := h.base + x.2.1, len := x.2.2.1, policy := h.policy }

/-! ## Engine queues (R195) -/

def State.engine? (s : State) (e : EngineId) : Option Engine := s.engines.find? (fun x => x.eng == e)

/-- Change an engine's queues, making its entry if absent. -/
def State.modEngine (s : State) (e : EngineId) (f : Engine → Engine) : State :=
  if s.engines.any (fun x => x.eng == e) then { s with engines := updateWhere (fun x => x.eng == e) f s.engines }
  else { s with engines := s.engines ++ [f { eng := e, queueG := [], queueH := [] }] }

/-- Commands of a class that wait at an engine, not yet started. -/
def State.queueLength (s : State) (e : EngineId) (classH : Bool) : Nat :=
  match s.engine? e with
  | none => 0
  | some x => (if classH then x.queueH else x.queueG).length

/-- Depth of an engine's queue of a class in a partition (R195). -/
def State.queueDepth (s : State) (part : Nat) (e : EngineId) (classH : Bool) : Nat :=
  ((s.part? part).map (fun p =>
    ((p.depths.find? (fun d => d.1 == e && d.2.1 == classH)).map (fun d => d.2.2)).getD p.depth)).getD 64

/-- QUOTA of a queue, from the shadow (Table 17.1). -/
def Queue.quota (q : Queue) : Nat := fieldLE q.shadow 8 4

/-- How a launch command is charged: its queue's quota, else the cohort's child slot, else refused (R202, R298). -/
inductive Charge where
  | quota
  | slot
  | refuse
  deriving DecidableEq, Repr

def State.childCharge (s : State) (l : Launch) (c : Cohort) : Charge :=
  match s.queue? l.qid with
  | some q => if q.quotaUsed < q.quota then .quota else if c.child.isNone then .slot else .refuse
  | none => if c.child.isNone then .slot else .refuse

/-- A command of a cohort in its first form. -/
def newCmd (s : State) (l : Launch) (c : Cohort) (g : GRef) (e : EngineId) (ws coords : List Word) (coff gate : Nat)
    (reserved : Bool) : Cmd :=
  { id := s.nextId, eng := e, classH := c.classH, owner := g, core := c.core, vif := l.vif, part := l.part, kdom := l.kdom,
    words := ws, coords := coords, coff := coff, gate := gate, stage := .queued, coll := none, reserved := reserved,
    child := none, waiting := false, ran := false, lost := false, notify := none, freed := false }

/-- Put a command in its class's queue. -/
def State.enqueue (s : State) (c : Cmd) : State :=
  let add (x : Engine) : Engine :=
    if c.classH then { x with queueH := x.queueH ++ [c.id] } else { x with queueG := x.queueG ++ [c.id] }
  { s with nextId := max s.nextId (c.id + 1), cmds := s.cmds ++ [c] }.modEngine c.eng add

/-- An access that carries only a release (Table 14.2). `hnd`, `size` and `data` carry what follows it. -/
def releaseAccess (x : Group) (opc : BitVec 8) (scope : BitVec 3) (lanes : Mask) (hnd size : Nat) : Access :=
  { id := 0, opc := opc, var := 0, ord := 2, scope := scope, hnd := hnd, space := 0, policy := 0, dst := noDst, size := size,
    addr := [], data := [], cmp := [], released := 0, resv := false, unavailable := false, quiesced := false, lanes := lanes,
    pc := 0, hdr := 0, issuedAt := x.issued, inRegion := x.r.inReg, noFill := true, resolved := [], behind := false }

/-! ## Predicates and destinations of sent words -/

/-- Write a predicate in each lane of a mask. -/
def Group.putPred (x : Group) (p : Nat) (lanes : Mask) (v : Bool) : Group :=
  let r := (maskLanes lanes).foldl (fun r i => r.setPred p i v) x.r
  { x with r := r }.noteChange (regsChanged x.r r)

/-! ## `push` and `tstream` -/

/-- Send a `push` (R195): the full flag, or release, locks, and the queue. -/
def State.sendPush (s : State) (g : GRef) (l : Launch) (c : Cohort) (x : Group) (pd : Nat) (lanes : Mask) (sel : Nat)
    (ws : List Word) : State :=
  let kind := bitsOf sel 15 12
  let e := engineOf sel c.core
  let charge := if kind = 3 then s.childCharge l c else .quota
  let full := decide (s.queueDepth l.part e c.classH ≤ s.queueLength e c.classH) ||
    decide (s.locksFree c.core < locksNeeded kind (cmdField ws 0 1)) || (kind == 3 && charge == .refuse)
  let s := if full then s
    else
      let gate := s.nextId
      let rel := { releaseAccess x opPush 4 lanes 0 0 with id := gate }
      let s := { s with nextId := gate + 1 }.modGroup g (fun x => { x with accs := x.accs ++ [rel] })
      let cmd := newCmd s l c g e ws [] 0 gate (charge == .slot)
      let s := s.takeLocks l c cmd.id ((s.pushRanges ws kind).map (fun r => l.lockRange r))
      let s := s.enqueue cmd
      let s := if kind = 3 then
          (match charge with
           | .quota => s.modQueue l.qid (fun q => { q with quotaUsed := q.quotaUsed + 1 })
           | _ => s.modCohort c.ref (fun c => { c with child := some cmd.id }))
        else s
      s.wakeOne c.ref
  s.modGroup g (fun x => x.putPred pd lanes full)

/-- Fields of a shape record (Table 11.7). -/
structure Shape where
  dir : Bool
  ndim : Nat
  esz : Nat
  cntv : Bool
  stv : Bool
  ghnd : Nat
  chnd : Nat
  goff : Nat
  ext : List Nat
  gstr : List Nat
  box : List Nat
  soff : Nat
  sstr : List Nat
  ok : Bool
  deriving DecidableEq, Repr

/-- Read a shape record. Every field keeps its limit of Table 11.7; dimensions at or beyond NDIM then take box extent 1 (R200, R201). -/
def shapeOf (ws : List Word) : Shape :=
  let f := cmdField ws
  let flags := f 0 1
  let ndim := bitsOf flags 2 1 + 1
  let esz := 2 ^ bitsOf flags 4 3
  let fields := (List.range 4).map (fun d => f (0x24 + 2 * d) 2)
  let box := (List.range 4).map (fun d => if d < ndim then fields.getD d 0 else 1)
  let sstr := (List.range 3).map (fun d => f (0x30 + 4 * d) 4)
  { dir := bitOf flags 0, ndim := ndim, esz := esz, cntv := bitOf flags 5, stv := bitOf flags 6, ghnd := f 1 1,
    chnd := f 2 1, goff := f 4 4, ext := (List.range 4).map (fun d => f (8 + 4 * d) 4),
    gstr := (List.range 3).map (fun d => f (0x18 + 4 * d) 4), box := box, soff := f 0x2C 4, sstr := sstr,
    ok := !(bitOf flags 7) && f 3 1 == 0 && f 0x3C 4 == 0 && fields.all (fun b => 1 ≤ b && b ≤ 256) &&
      (box.headD 1 * esz) % 16 == 0 && f 0x2C 4 % 16 == 0 &&
      sstr.all (fun x => x % 16 == 0) && f 1 1 < 64 && f 2 1 < 64 }

/-- One row of a box: offset of its first scratchpad byte, its global offset, and for each element whether it lies in the
tensor, as the half-open interval of e0. -/
structure BoxRow where
  s : Nat
  g : Int
  lo : Nat
  hi : Nat
  deriving DecidableEq, Repr

/-- Coordinates of dimension d: 0 at or beyond NDIM. -/
def coordOf (h : Shape) (coords : List Word) (d : Nat) : Int :=
  if d < h.ndim then sextNat (coords.getD d 0).toNat 32 else 0

/-- The rows of a box in ascending order (R201). A dimension at or beyond NDIM has coordinate 0 and box extent 1; R201 says nothing of
its EXT, which is taken as 1, so that the element lies inside (DESIGN CHOICE, notes/assumptions/43.md). -/
def boxRows (h : Shape) (coords : List Word) : List BoxRow :=
  let b (d : Nat) : Nat := h.box.getD d 1
  let c (d : Nat) : Int := coordOf h coords d
  let ext (d : Nat) : Int := if d < h.ndim then (h.ext.getD d 0 : Int) else 1
  (List.range (b 3)).flatMap (fun (e3 : Nat) => (List.range (b 2)).flatMap (fun (e2 : Nat) =>
    (List.range (b 1)).map (fun (e1 : Nat) =>
    let g1 := c 1 + e1
    let g2 := c 2 + e2
    let g3 := c 3 + e3
    let ok := 0 ≤ g1 ∧ g1 < ext 1 ∧ 0 ≤ g2 ∧ g2 < ext 2 ∧ 0 ≤ g3 ∧ g3 < ext 3
    let lo := (max 0 (-(c 0))).toNat
    let hi := (min (b 0 : Int) (ext 0 - c 0)).toNat
    { s := h.soff + e1 * h.sstr.getD 0 0 + e2 * h.sstr.getD 1 0 + e3 * h.sstr.getD 2 0
      g := h.goff + c 0 * h.esz + g1 * h.gstr.getD 0 0 + g2 * h.gstr.getD 1 0 + g3 * h.gstr.getD 2 0
      lo := if ok then min lo hi else 0
      hi := if ok then hi else 0 })))

/-- Bytes of a row of a box. -/
def Shape.rowBytes (h : Shape) : Nat := h.box.headD 1 * h.esz

/-- Lowest and highest byte of a list of ranges (lo, n) with n > 0. -/
def hull (l : List (Nat × Nat)) : Option (Nat × Nat) :=
  match l.filter (fun p => p.2 != 0) with
  | [] => none
  | p :: rest =>
    let lo := rest.foldl (fun m q => min m q.1) p.1
    let hi := rest.foldl (fun m q => max m (q.1 + q.2)) (p.1 + p.2)
    some (lo, hi - lo)

/-- Global bytes of a row: offset and length. -/
def BoxRow.global (h : Shape) (r : BoxRow) : Nat × Nat := ((r.g + r.lo * h.esz).toNat, (r.hi - r.lo) * h.esz)

/-- Scratchpad bytes of a row: all of it for DIR 0, the elements inside the tensor for DIR 1. -/
def BoxRow.scratch (h : Shape) (r : BoxRow) : Nat × Nat :=
  if h.dir then (r.s + r.lo * h.esz, (r.hi - r.lo) * h.esz) else (r.s, h.rowBytes)

/-- Send the command of one `tstream` lane (R200, R201). The tensor stream engine has the queues of R195, 64 deep as the copy engine's
(DESIGN CHOICE, notes/assumptions/43.md). -/
def State.sendTstream (s : State) (g : GRef) (l : Launch) (c : Cohort) (x : Group) (pd lane : Nat) (record coords : List Word)
    (coff : Nat) : State :=
  let e : EngineId := .tstream (clusterOf c.core)
  let full := decide (s.queueDepth l.part e c.classH ≤ s.queueLength e c.classH) || decide (s.locksFree c.core < 2)
  let s := if full then s
    else
      let h := shapeOf record
      let gate := s.nextId
      let rel := { releaseAccess x opTstream 2 (maskOf [lane]) 0 0 with id := gate }
      let s := { s with nextId := gate + 1 }.modGroup g (fun x => { x with accs := x.accs ++ [rel] })
      let cmd := newCmd s l c g e record coords coff gate false
      let rows := if h.ok then boxRows h coords else []
      let gh := l.handle (h.ghnd % 64)
      let gr : List Range := match hull (rows.map (BoxRow.global h)) with
        | some (lo, n) => if gh.bound && gh.space == 0 then [⟨0, gh.base + lo, n, gh.policy⟩] else []
        | none => []
      let sr : List Range := match hull (rows.map (BoxRow.scratch h)) with
        | some (lo, n) => [⟨1, lo, n, 0⟩]
        | none => []
      let s := s.takeLocks l c cmd.id (gr ++ sr)
      let s := if h.dir then s
        else s.modCohort c.ref (fun c => rows.foldl (fun c r => c.setGranules r.s h.rowBytes false) c)
      (s.enqueue cmd).wakeOne c.ref
  s.modGroup g (fun x => x.putPred pd (maskOf [lane]) full)

/-! ## What a command touches -/

/-- Rows of a copy command: offsets of row i at both ends (Table 11.4). -/
def copyRowOffsets (ws : List Word) : List (Nat × Nat) :=
  let f := cmdField ws
  (List.range (f 0x18 4)).map (fun i => (f 0x0C 4 + i * f 0x1C 4, f 0x10 4 + i * f 0x20 4))

/-- Scratchpad rows that a command reads and writes, as (offset, length). -/
def Launch.scratchUse (l : Launch) (k : Cmd) : List (Nat × Nat) × List (Nat × Nat) :=
  match k.eng with
  | .copy _ =>
    let f := cmdField k.words
    let sh := l.handle (f 8 1)
    let dh := l.handle (f 9 1)
    let rows := copyRowOffsets k.words
    (if f 0 1 = 1 ∧ sh.space = 1 then rows.map (fun r => (sh.base + r.1, f 0x14 4)) else [],
     if dh.space = 1 then rows.map (fun r => (dh.base + r.2, f 0x14 4)) else [])
  | .tstream _ =>
    let h := shapeOf k.words
    let rows := ((boxRows h k.coords).map (BoxRow.scratch h)).filter (fun p => p.2 != 0)
    if h.dir then (rows, []) else ([], rows)
  | _ => ([], [])

/-- Unfilled mapped sectors that must be filled before a command's scratchpad rows (R241). -/
def Cohort.sectorsNeeded (c : Cohort) (reads writes : List (Nat × Nat)) : List (Nat × Nat) :=
  (reads.flatMap (fun r => c.unfilled r.1 r.2) ++ writes.flatMap (fun r =>
    (c.unfilled r.1 r.2).filter (fun e => !(r.1 ≤ e.2 && e.2 + 128 ≤ r.1 + r.2)))).eraseDups

/-! ## Barriers (R204) -/

/-- Complete a block barrier if due, by an arrival or by a retirement. -/
def State.settleBarb (s : State) (lid bid id : Nat) : State :=
  let cs := s.blockCohorts lid bid
  match s.blockHolder lid bid with
  | none => s
  | some h =>
    match (cs.find? (fun c => c.ref == h)).bind (fun c => c.bbars.toList[id]?) with
    | none => s
    | some b =>
      let live := (cs.map (fun c => c.liveGroups)).foldl (· + ·) 0
      let t := if b.target = 0 then live else b.target
      if 0 < b.arrivals ∧ t ≤ b.arrivals then
        let s := s.modCohort h (fun c => { c with bbars := Barrier.modAt c.bbars id (fun b => ⟨0, !b.phase, 0⟩) })
        let s := cs.foldl (fun s c => s.modCohort c.ref (fun c =>
          { c with groups := c.groups.map (Group.endBarrier true id) })) s
        -- every waiting issue set is released with an acquire at `.clu`
        (cs.filter (fun c => !c.phase.away)).foldl (fun s c => s.acquireActions c.core 2) s
      else s

/-- The wait of a group's issue set has its arrival counted. -/
def Group.arrived (block : Bool) (id : Nat) (lanes : Mask) (x : Group) : Group := x.modWaits (Wait.arrived block id lanes)

/-- An arrival at a cohort barrier. -/
def Cohort.arriveBar (c : Cohort) (gid id count : Nat) (lanes : Mask) : Cohort :=
  let add (b : Barrier) : Barrier := { b with arrivals := b.arrivals + 1, target := if b.arrivals = 0 then count else b.target }
  ({ c with bars := Barrier.modAt c.bars id add }.modGroup gid (Group.arrived false id lanes)).settleBar id

/-- An arrival at a block barrier. -/
def State.arriveBarb (s : State) (c : Cohort) (gid id count : Nat) (lanes : Mask) : State :=
  match s.blockHolder c.ref.lid c.bid with
  | none => s
  | some h =>
    let add (b : Barrier) : Barrier := { b with arrivals := b.arrivals + 1, target := if b.arrivals = 0 then count else b.target }
    let s := s.modCohort h (fun k => { k with bbars := Barrier.modAt k.bbars id add })
    (s.modCohort c.ref (fun k => k.modGroup gid (Group.arrived true id lanes))).settleBarb c.ref.lid c.bid id

/-! ## What a word sends -/

/-- Mark the destination registers of a memory word empty in its lanes (R51). -/
def Group.emptyDst (x : Group) (a : Access) : Group :=
  if noDst ≤ a.dst ∨ a.noFill then x else { x with r := x.r.setEmptyN a.dst a.regs a.lanes true }

/-- Change a group's registers for good: also what a checked clause that runs would give back (R106). -/
def Group.modBoth (f : Regs → Regs) (x : Group) : Group := { x with r := f x.r, ck := x.ck.map f }

/-- Send one operation for a group. -/
def State.sendOp (s : State) (g : GRef) (u : SendOp) : State :=
  match s.cohort? (GRefCohort g), s.launch? g.lid with
  | some c, some l =>
    match c.group? g.gid with
    | none => s
    | some x =>
      match u with
      | .mem a => (s.modGroup g (fun x => x.emptyDst a)).accept g a
      | .mst rows => s.modCohort c.ref (fun c => rows.foldl (fun c r => c.scrWrite r.1 r.2 true) c)
      | .bandj b => s.bandJoin (dieOf c.core) b c.core
      | .bandl b va n hdr pc k => s.bandAsk g c b va n hdr pc k
      | .bandx b => s.bandDrop (dieOf c.core) b c.core
      | .push pd lanes sel cmd => s.sendPush g l c x pd lanes sel cmd
      | .tstream pd lane record coords coff => s.sendTstream g l c x pd lane record coords coff
      | .fetcht n d =>
        ((s.modGroup g (fun x => { x with r := { x.r.setEmptyN d 4 0xFFFF true with grant := none } })).modCluster
          (clusterOf c.core) (fun k => { k with waiting := k.waiting ++ [⟨g, n, d⟩] })).post
          (.dispenserRequest (clusterOf c.core) g.lid)
      | .bar id count lanes => s.accept g (releaseAccess x opBar 1 lanes id count)
      | .barb id count lanes => s.accept g (releaseAccess x opBarb 2 lanes id count)
      | .xacq pd lanes =>
        let other := ((c.group? (partnerGid g.gid)).map (fun y => y.r.xheld)).getD false
        let got := x.r.xheld || !other
        -- the pair's one set comes with its contents (R55)
        let moved := ((c.group? (partnerGid g.gid)).map (fun y => y.r.xlast)).getD false
        let theirs := ((c.group? (partnerGid g.gid)).map (fun y => y.r)).getD x.r
        let ext (m : SMap Word) : SMap Word := m.filter (fun p => 16 * 128 ≤ p.1)
        let base (m : SMap Word) : SMap Word := m.filter (fun p => p.1 < 16 * 128)
        let s := if got && moved then
            (s.modGroup ⟨g.lid, g.cid, partnerGid g.gid⟩ (Group.modBoth (fun r => { r with v := base r.v, xlast := false }))).modRegs g
              (fun r => { r with v := base r.v ++ ext theirs.v, xlast := true })
          else s
        s.modGroup g (fun x => ({ x with r := { x.r with xheld := x.r.xheld || got } }).putPred pd lanes got)
      | .xrel => s.modRegs g (fun r => if r.extBusy then { r with wait := r.wait.join .xrel } else { r with xheld := false })
      | .inject n v =>
        s.modPart l.part (fun p => { p with inj := p.inj.write n v })
  | _, _ => s

/-! ## Sending in order past a `bandx` (R182, R276) -/

/-- A `bandx` whose core still has an unfilled ask on its band waits. -/
def State.bandWaits (s : State) (g : GRef) (u : SendOp) : Bool :=
  match u, s.cohort? (GRefCohort g) with
  | .bandx b, some c => ((s.band? (dieOf c.core) b).map (fun e => e.asked c.core)).getD false
  | _, _ => false

/-- Send operations in order; a `bandx` that waits holds back what follows it. -/
def State.sendOps (s : State) (g : GRef) : List SendOp → State
  | [] => s
  | u :: us =>
    if s.bandWaits g u then (s.sendOp g u).modGroup g (fun y => { y with sending := u :: us })
    else (s.sendOp g u).sendOps g us

/-- What a group held back goes on. -/
def State.resumeSends (s : State) (g : GRef) : State :=
  match s.group? g with
  | none => s
  | some x => if x.sending.isEmpty then s else (s.modGroup g (fun y => { y with sending := [] })).sendOps g x.sending

/-- Fills have landed on a die: what the groups of its cores held back goes on. -/
def State.resumeDie (s : State) (die : Nat) : State :=
  (s.cohorts.filter (fun c => dieOf c.core == die && !c.phase.away)).foldl (fun s c =>
    c.groups.foldl (fun s x => s.resumeSends ⟨c.ref.lid, c.ref.cid, x.gid⟩) s) s

end Sys2Proof.Machine
end

