-- ==== Sys2Proof/Machine/Resume.lean ====
section
/-!
DEFINITION. Putting things that wait back among the pending events: the work of a command, what a walk or an answer resumes,
and the retry of everything that could have become possible. A posted event that still cannot happen changes nothing, so
posting too much is harmless (notes/assumptions/3.md).
-/
namespace Sys2Proof.Machine

/-- OP of a command; DIR of a tensor stream. -/
def Cmd.op (c : Cmd) : Nat := cmdField c.words 0 1

/-- The event that goes on with a command. -/
def Cmd.work (c : Cmd) : Option Instr :=
  match c.stage with
  | .queued => none
  | .done _ => some (.commandCompletion c.id)
  | .started =>
    match c.eng with
    | .copy _ => if c.op = 1 then some (.copyRows c.id) else some (.fillRows c.id)
    | .collective _ =>
      (match c.op with
       | 1 => some (.allReduce c.id)
       | 2 => some (.reduceScatter c.id)
       | 3 => some (.allGather c.id)
       | _ => some (.broadcast c.id))
    | .storage _ =>
      (match c.op with
       | 1 => some (.storageRead c.id true)
       | 2 => some (.storageWrite c.id true)
       | _ => some (.storageFlush c.id true))
    | .launchQueue => some (.launchCommand c.id)
    | .tstream _ => if (shapeOf c.words).dir then some (.tstreamStore c.id) else some (.tstreamLoad c.id)

/-- Post the event of a command. -/
def State.postWork (s : State) (c : Cmd) : State :=
  match c.work with
  | some e => s.post e
  | none => s

/-- A command may try again. -/
def State.resumeCmd (s : State) (id : Nat) : State :=
  let s := s.modCmd id (fun c => { c with waiting := false })
  match s.cmd? id with
  | some c => s.postWork c
  | none => s

/-- Post the fetch of a launch on a core at an address. -/
def State.resumeFetch (s : State) (core slot lid : Nat) (pc : DWord) : State :=
  let hit (f : Fetch) : Bool := f.slot == slot && f.lid == lid && f.pc == pc
  let s := s.modCore core (fun c => { c with fetches := updateWhere hit (fun f => { f with stuck := false }) c.fetches })
  match s.core? core with
  | none => s
  | some c => (c.fetches.filter hit).foldl (fun s f => s.post (.clauseFetchDone core slot f.lid pc.toNat 0)) s

/-- A cohort that is leaving, or has retired, goes on. -/
def State.resumePhase (s : State) (c : Cohort) : State :=
  match c.phase with
  | .resident | .saved => s
  | .flushing _ => s.post (.saveComplete c.ref)
  | .arriving _ => s.post (.l1WayWritebackDone c.core 0)
  | .evicting => s.post (.atticWriteAck c.core)
  | .saving _ => s.post (.saveComplete c.ref)
  | .restoring _ => s.post (.restoreFrameReadDone c.ref)
  | .draining _ => s.post (.cohortRetire c.ref)

/-- Let one waiter go on. -/
def State.resume (s : State) (w : Waiter) : State :=
  match w with
  | .access g _ => s.wakeOne (GRefCohort g)
  | .fetch core slot lid pc _ => s.resumeFetch core slot lid pc
  | .command id => s.resumeCmd id
  | .bandFill die fill _ =>
    (s.modDie die (fun d => { d with bandFills := updateWhere (fun f => f.id == fill) (fun f => { f with recId := 0 }) d.bandFills })).readFill
      die fill
  | .mapFill c e sec => s.post (.firstTouchFillDone c e sec)
  | .mapWriteback c _ =>
    let s := s.wakeOne c
    let s := match s.cohort? c with
      | some x => s.resumePhase x
      | none => s
    (s.frames.filter (fun f => f.cohort.ref == c)).foldl (fun s f => s.post (.mapAtticWriteback f.id)) s
  | .device v => (s.invs.filter (fun i => i.d.vif == v)).foldl (fun s i => s.post (.invalidationDone i.id)) s
  | .queue q use =>
    let s := if use == .record then s.modQueue q (fun x => { x with waitRec := none }) else s
    (if use == .entry || use == .kick then s.post (.completionEntryWrite q) else s).post (.launchRecordTake q)

/-- The event that a fault record waits for. -/
def State.postRecord (s : State) (r : FaultRec) : State :=
  match r.answered with
  | some refuse => s.post (if refuse then .faultAnswerRefused r.id else .faultAnswerResolved r.id)
  | none =>
    if r.kind = 5 then (if r.frame.isSome then s.post (.storagePageReadDone r.id true) else s.post (.storageFrameTaken r.id))
    else if r.seq.isNone then s.post (.faultRecordWrite r.id) else s

/-- Reclaim runs while fewer frames than FLOW are free (R354): every engine that a frame in use names sweeps. -/
def State.postSweeps (s : State) (vif : Nat) : State :=
  match s.vif? vif with
  | none => s
  | some v =>
    if v.flow ≤ v.pool.free.length then s
    else ((v.pool.used.filterMap (fun f => f.saved.map (fun e => bitsOf e.toNat 59 56))).eraseDups).foldl
      (fun s e => s.post (.reclaimSweep vif e)) s

/-- The scrub of a partition's units after its reset, which belong to no interface (R393). -/
def ScrubDef.ofReset (part : Nat) : ScrubDef := { reason := 3, vif := 0xFF, part := part, kdom := 0, ranges := [], ipa := 0 }

/-- Post whatever may have become possible. -/
def State.retry (s : State) : State :=
  let s := s.wake
  let s := s.cores.foldl (fun s c => c.fetches.foldl (fun s f => s.post (.clauseFetchDone c.no f.slot f.lid f.pc.toNat 0)) s) s
  let s := (s.cmds.filter (fun c => !c.waiting)).foldl (fun s c => s.postWork c) s
  let s := (s.engines.filter (fun e => !(e.queueG.isEmpty && e.queueH.isEmpty && e.pageG.isEmpty && e.pageH.isEmpty))).foldl (fun s e => s.post (.engineCommandStart e.eng)) s
  let s := s.walks.foldl (fun s w => s.post (if w.started then .walkComplete w.id else .walkStart w.id)) s
  let s := s.recs.foldl (fun s r => s.postRecord r) s
  let s := s.queues.foldl (fun s q =>
    let s := if q.compl.isEmpty then s else s.post (.completionEntryWrite q.qid)
    if q.head = q.tail && q.kicks.isEmpty then s else s.post (.launchRecordTake q.qid)) s
  let s := (s.cores.filter (fun k => !k.held.isEmpty || !k.spills.isEmpty)).foldl (fun s k => s.post (.atticWriteAck k.no)) s
  let s := s.cohorts.foldl (fun s c =>
    let s := s.resumePhase c
    let s := c.groups.foldl (fun s g =>
      let ref : GRef := ⟨c.ref.lid, c.ref.cid, g.gid⟩
      let s := if g.r.live = 0 && !g.retired then s.post (.groupRetire ref) else s
      let s := if g.r.wait.has Wait.isSleep then s.post (.sleepExpiry ref) else s
      let s := if g.ck.isSome && (g.run1.map (fun i => i.ended)).getD false then s.post (.checkedCompare ref false) else s
      let s := if g.spin.lowered then s.post (.spinReleaseTimeout ref) else s
      let s := if (g.run1.map (fun i => i.held)).getD false then s.post (.checkedWaitExpiry ref) else s
      if !g.posted.isEmpty || g.slots.any (fun t => t.refused.isSome) then s.post (.asyncTrapDelivery ref) else s) s
    (List.range 8).foldl (fun s e => (c.mapEntry e).filling.foldl (fun s f => s.post (.firstTouchFillDone c.ref e f.sec)) s) s) s
  let s := s.dies.foldl (fun s d => d.bandFills.foldl (fun s f =>
    if f.data.isSome then s.post (.bandFillLand d.no f.id) else if f.recId = 0 then s.readFill d.no f.id else s) s) s
  let s := s.clusters.foldl (fun s c => c.waiting.foldl (fun s w => s.post (.dispenserRequest c.no w.g.lid)) s) s
  let s := s.invs.foldl (fun s i => s.post (.invalidationDone i.id)) s
  let s := (s.parts.filter (fun p => !p.logWait.isEmpty)).foldl (fun s p => s.post (.accessLogRecord p.no)) s
  let s := (s.parts.filter (fun p => p.unscrubbed)).foldl (fun s p => s.post (.demandScrub (ScrubDef.ofReset p.no))) s
  let s := s.dies.foldl (fun s d => if d.reblock.isSome then s.post (.reblockRehash d.no) else s) s
  let s := s.vifs.foldl (fun s v =>
    let s := if v.mig = .stopping then s.post (.migrationStopped v.no) else s
    let s := if v.unlocking then s.post (.stopInterface v.no) else s
    (v.pool.used.foldl (fun s f => if f.writing then s.post (.reclaimWritebackDone v.no f.ipa true) else s) s).postSweeps v.no) s
  (s.frames.filter (fun f => !f.mapDirty.isEmpty)).foldl (fun s f => s.post (.mapAtticWriteback f.id)) s

end Sys2Proof.Machine
end

