-- ==== Sys2Proof/Machine/Run.lean ====
section
/-!
DEFINITION. The life of one word of an issue set: checks, parking or waiting (R100, R106), poison (R387), the effect, the
injector's datapath events (R392), traps at the word (R69, R206), and the step to the next word or to the clause's end (R99).
-/
namespace Sys2Proof.Machine

/-- Live lanes of a group of a slot stand at an address, and may issue there. -/
def Group.waitsFetch (x : Group) (slot : Nat) (pc : DWord) : Bool :=
  x.gidx % 4 == slot && !x.retired && (maskLanes x.r.live).any (fun i => (x.r.lane i).hdr == pc && !(x.r.lane i).waiting)

/-- Words of a group that count: under checked execution a word counts at its commit (R338). -/
def Group.counted (x : Group) : Nat := if x.ck.isSome then x.issuedCk else x.issued

/-- The skid of a word: those counted after it (R338). -/
def Group.skid (x : Group) (issuedAt : Nat) : Nat := min (x.counted - issuedAt - 1) 0xFFFF

/-! ## Poison consumption (R387, Table 24.2) -/

/-- Restart a group's region at RPC. -/
def State.restartGroup (s : State) (g : GRef) : State := s.modGroup g Group.restart

/-- Leaving RUN: every launch of the interface ends with STAT 2 and a CODE (R369). -/
def State.vifEnd (s : State) (vif code : Nat) : State :=
  let roots := (s.launches.filter (fun l => l.vif == vif && l.phase != .over)).map (fun l => s.rootLid s.launches.length l.lid)
  roots.eraseDups.foldl (fun s lid => s.endTree lid 2 code 0 0) s

/-- Cause 0x32 in a launch of an interface in RUN takes it to ERROR (R368). -/
def State.vifError (s : State) (vif : Nat) : State :=
  match s.vif? vif with
  | some v => if v.tdisp = .run then (s.modVif vif (fun v => { v with tdisp := .error })).vifEnd vif 0x32 else s
  | none => s

/-- A consumption record (Table 24.3). `src`: STRUCT of Table 24.5. -/
def consumeRec (l : Launch) (c : Cohort) (g : GRef) (action code src pa : Nat) (pc : DWord) : ErrRec :=
  { ErrRec.zero with etype := 3, code := code, src := src, action := action, die := dieOf c.core,
                     unit := clusterOf c.core % 8 * 256 + c.core % 12, pa := pa, lid := l.lid, part := l.part,
                     kdom := l.kdom, gid := g.gid, pc := pc }

/-- A unit of the group's own state, or a memory unit outside every clean copy, is consumed. -/
def State.consume (s : State) (g : GRef) (kind : Poison) (o : Origin) (pa : Nat) (pc : DWord) : State :=
  let record (r : ErrRec) : State := s.logError { r with inj := o.inj || (pa != 0 && s.injectedAt pa) }
  match s.cohort? (GRefCohort g), s.launch? g.lid with
  | some c, some l =>
    match c.group? g.gid with
    | none => s
    | some x =>
      match kind with
      | .integrity =>
        ((record (consumeRec l c g 5 0x32 (if pa = 0 then 1 else 6) pa pc)).failLaunch g.lid 0x32 pc 0
          (tcauseOf 0x32 0 0) 0).vifError l.vif
      | .uncorrectable =>
        if o.ours && x.r.inReg then
          (record (consumeRec l c g 3 0x30 1 pa pc)).restartGroup g
        else
          (record (consumeRec l c g 5 0x30 (if pa = 0 then 1 else 6) pa pc)).failLaunch g.lid 0x30 pc 0
            (tcauseOf 0x30 0 0) 0
  | _, _ => s

/-! ## What a word does -/

/-- The outcome of a word's own effect. -/
inductive WordRes where
  /-- The effect, and the lanes that trap at steps 15 and 16. -/
  | done (s : State) (traps : List LaneTrap)
  /-- A control word: where lanes go; the others of the issue set go to F. -/
  | jump (s : State) (traps : List LaneTrap) (pcs : List (Nat × DWord))
  /-- It waits in its slot (R177, R182, R190, R212). -/
  | stall
  /-- It parks (R100), in the state given: a touch may have started a fill (R163). -/
  | park (s : State) (why : Park)
  /-- It would consume a poisoned unit that the checks of its own sources do not see (R387). -/
  | poison (kind : Poison) (from_ : Origin)

/-- The word waits in its slot. -/
def State.stallWord (s : State) (x : Ctx) : State :=
  s.modGroup x.ref.g (fun y => y.setIssue x.ref.second ((y.issue? x.ref.second).map (fun i => { i with waiting := true })))

/-- Lanes stand parked for a reason (R100). -/
def Group.park (y : Group) (why : Park) : Group :=
  { y with r := y.r.modLanes why.lanes (fun _ l => { l with parked := true })
           parks := (y.parks.map (fun p => { p with lanes := p.lanes &&& ~~~why.lanes })).filter (fun p => p.lanes != 0) ++ [why] }

/-- The word parks: its lanes stand at it until what it waits for has come (R100); under checked execution it waits in its slot
first (R106). -/
def State.parkWord (s : State) (x : Ctx) (why : Park) : State :=
  if x.c.checked then
    ((s.stallWord x).modGroup x.ref.g (fun y =>
      y.setIssue x.ref.second ((y.issue? x.ref.second).map (fun i => { i with held := true, why := some why })))).post
        (.checkedWaitExpiry x.ref.g)
  else s.modGroup x.ref.g (fun y => (y.park why).shelve x.ref.second) |>.post (.asyncTrapDelivery x.ref.g)

/-- The loads of a checked clause stand behind nothing of it any more. -/
def Group.committed (y : Group) : Group :=
  { y with accs := y.accs.map (fun a => { a with behind := false })
           slots := y.slots.map (fun t => { t with acc := { t.acc with behind := false } }) }

/-- Send what a checked clause has buffered, in program order (R106). -/
def State.sendAll (s : State) (g : GRef) : State :=
  match s.group? g with
  | none => s
  | some x =>
    let s := s.modGroup g (fun y => { y with ck := none, unsent := [], ckPoison := [], sending := if y.sending.isEmpty then [] else y.queued })
    let s := if x.sending.isEmpty then s.sendOps g x.unsent else s
    if x.accs.any (fun a => a.behind) || x.slots.any (fun t => t.acc.behind) then (s.modGroup g Group.committed).wakeOne (GRefCohort g) else s

/-- A buffered operation that a load of the same clause must follow (R165, R172, R177, R243). -/
def State.sendBefore (s : State) (x : Ctx) (u v : SendOp) : Bool :=
  match u, v with
  | .mem b, .mem a => b.acquires || (b.mapWord && a.space == 1) || (maskLanes a.left).any (fun i => s.laneHeld x.l x.c a b false i)
  | .mst rows, .mem a => a.space == 1 && a.addr.any (fun p => rows.any (fun r => rangesMeet p.2 a.size r.1 r.2.length))
  | _, _ => false

/-- An operation of a checked clause that is sent as its word compares stands behind the operations of the clause that it must follow,
which are sent at the commit (R106, R172). -/
def SendOp.standBehind (b : Bool) : SendOp → SendOp
  | .mem a => .mem { a with behind := b }
  | u => u

/-- Send an operation of a word now, or at the commit of its checked clause (R106). -/
def State.emit (s : State) (x : Ctx) (early : Bool) (u : SendOp) : State :=
  if x.c.checked && !early then s.modGroup x.ref.g (fun y => { y with unsent := y.unsent ++ [u] })
  else s.sendOp x.ref.g (if x.c.checked then u.standBehind (x.g.unsent.any (fun b => s.sendBefore x b u)) else u)

/-! ## Moving on -/

/-- The clause of an issue set has issued its last word. -/
def State.endClause (s : State) (x : Ctx) : State :=
  if x.c.checked then
    (s.modGroup x.ref.g (fun y => y.setIssue x.ref.second ((y.issue? x.ref.second).map (fun i => { i with ended := true })))).post
      (.checkedCompare x.ref.g false)
  else s.retireClause x.ref.g x.ref.second

/-- Count the word and note whether it changed a register (R101). -/
def State.countWord (s : State) (x : Ctx) (act : Mask) : State :=
  s.modGroup x.ref.g (fun y =>
    { y with issued := if act = 0 then y.issued else y.issued + 1 }.noteChange (regsChanged x.g.r y.r))

/-- The issue set goes on to its word number idx. -/
def Issue.goTo (i : Issue) (idx : Nat) : Issue := { i with idx := idx, waiting := false, held := false, why := none, dying := 0 }

/-- Lanes that a `kill` of the other issue set removed in the cycle leave after the word of this set (R128). -/
def State.reap (s : State) (x : Ctx) : State :=
  if x.i.dying = 0 then s else (s.modRegs x.ref.g (fun r => r.removeLanes x.i.dying)).settleGroup x.ref.g

/-- A cycle ends after the word of the P2 set: MFR takes its new value (R154), and the trap of the P1 set's word is taken (R128). -/
def State.endCycle (s : State) (x : Ctx) : State :=
  if !x.ref.second then s
  else
    match s.group? x.ref.g with
    | none => s
    | some y =>
      if y.mfrNext.isNone && y.due.isNone then s
      else
        let s := s.modGroup x.ref.g Group.takeMfr
        match y.due with
        | none => s
        | some d =>
          let s := s.modGroup x.ref.g (fun y => { y.trapShelve with due := none })
          (if d.lanes &&& y.r.live = 0 then s else s.takeTrap x.ref.g d.code d.info (d.lanes &&& y.r.live) d.tpc 0 0).settleGroup x.ref.g

/-- The next word of the clause, or its end. -/
def State.advance (s : State) (x : Ctx) (act : Mask) : State :=
  let move (y : Group) : Group :=
    let z := { y with r := y.r.placeLanes x.i.lanes x.i.hdr (fun _ => x.i.nextPc) x.i.isLast }
    z.setIssue x.ref.second ((y.issue? x.ref.second).map (fun i => i.goTo (i.idx + x.i.size)))
  let s := ((s.countWord x act).modGroup x.ref.g move).reap x
  (if x.i.isLast then s.endClause x else s).endCycle x

/-- A control word is over: it was the last of its clause. -/
def State.leave (s : State) (x : Ctx) (act : Mask) (pcs : List (Nat × DWord)) : State :=
  let target (i : Nat) : DWord := ((pcs.find? (fun p => p.1 == i)).map (fun p => p.2)).getD x.i.fall
  let move (y : Group) : Group :=
    let z := { y with r := y.r.placeLanes x.i.lanes x.i.hdr target true }
    z.setIssue x.ref.second ((y.issue? x.ref.second).map (fun i => i.goTo i.words.length))
  ((((s.countWord x act).modGroup x.ref.g move).reap x).endClause x).endCycle x

/-- A clause gives up what it has buffered and is issued again from its header. -/
def State.rerunClause (s : State) (g : GRef) (i : Issue) : State :=
  s.modGroup g (fun x =>
    let y := x.discardClause
    ({ y with replaying := false, r := y.r.placeLanes i.lanes i.hdr (fun _ => i.hdr) true }).setIssue false none)

/-- A `bandj` that a clause has buffered would find its member map full: other cores have enrolled since its word compared (R277;
DESIGN CHOICE, notes/assumptions/43.md). -/
def State.bandRefused (s : State) (c : Cohort) (x : Group) : Bool :=
  x.unsent.any (fun u => match u with
    | .bandj b => ((s.band? (dieOf c.core) b).map (fun e =>
        (e.members &&& coreBit c.core) == 0 && decide (e.maxm ≤ bits96 e.members))).getD false
    | _ => false)

/-- A trap that no word takes interrupts what the group issues: the buffered part of a checked clause commits (R106), unless a `bandj` of
it would be refused, which is then met again at its word; both issue sets end (R206). -/
def State.interrupt (s : State) (g : GRef) : State :=
  match s.cohort? (GRefCohort g), s.group? g with
  | some c, some x =>
    let s := match (if c.checked then x.run1 else none) with
      | some i => if s.bandRefused c x then s.rerunClause g i else s.sendAll g
      | none => s
    s.modGroup g (fun y => { y.trapShelve with ck := none, unsent := [], replaying := false })
  | _, _ => s

/-- Lanes trap at the word (R69): the lowest code, the lanes that raised it. The lanes that completed stand at the next
word, or where `pcs` sends them; both issue sets end (R206). The clause has ended, with what begins there (R29, R204, R211), when
no lane of the set is left in it. A trap of the P1 set waits for the word that the P2 set issues in the same cycle, which completes
(R128, Table 11.8); where both trap, the P1 set's trap is taken, and the other lanes stand at their word. -/
def State.wordTrap (s : State) (x : Ctx) (act : Mask) (traps : List LaneTrap) (control : Bool) (pcs : List (Nat × DWord)) :
    State :=
  match minNat? (traps.map (fun t => t.code)) with
  | none => s
  | some code =>
    let mine := traps.filter (fun t => t.code == code)
    let infos := (mine.map (fun t => t.info)).eraseDups
    let info := infos.getD (s.freeBelow infos.length) 0
    let s := if 1 < infos.length then s.tick else s
    let lanes := maskOf (mine.map (fun t => t.lane))
    let all := maskOf (traps.map (fun t => t.lane))
    let last := control || x.i.isLast
    let first := x.ref.second && x.g.due.isSome
    let next (i : Nat) : DWord :=
      if control then ((pcs.find? (fun p => p.1 == i)).map (fun p => p.2)).getD x.i.fall else x.i.nextPc
    -- a word that retires in no lane is not counted (R338)
    let s := (s.countWord x (act &&& ~~~(if code = 0x3F then all &&& ~~~lanes else all))).modGroup x.ref.g (fun y =>
      let r := y.r.placeLanes (x.i.lanes &&& ~~~all) x.i.hdr next last
      let r := if code = 0x3F && !first then r.placeLanes lanes x.i.hdr (fun _ => x.i.fall) true else r
      { y with r := r })
    let s := if x.c.checked then s.sendAll x.ref.g else s
    let close (y : Group) : Group :=
      let left := all &&& y.r.live &&& ~~~(if code = 0x3F && !first then lanes else 0)
      match y.issue? x.ref.second with
      | some i => if last && left == 0 then ({ y with r := y.r.removeLanes i.dying }.endEffects i).setIssue x.ref.second none else y
      | none => y
    if first then (s.modGroup x.ref.g close).endCycle x
    else if x.g.sameCycle x.ref.second != 0 then
      s.modGroup x.ref.g (fun y => { ((close y).shelve false) with due := some ⟨code, info, lanes, x.i.wordPc, x.i.hdr⟩ })
    else
      let s := s.modGroup x.ref.g (fun y => { (close y).trapShelve with ck := none, unsent := [], replaying := false, p2next := false })
      (s.takeTrap x.ref.g code info lanes x.i.wordPc 0 0).settleGroup x.ref.g

/-- A word traps, once the words before it can commit (R106): until then it waits in its slot, as it was (R190). -/
def State.trapOr (s : State) (x : Ctx) (trap : State) : State :=
  if x.c.checked && !s.commitFits x.c x.g then s.stallWord x
  -- a `bandj` before the word that its band refuses by now is met again, and traps first (R277)
  else if x.c.checked && s.bandRefused x.c x.g then s.rerunClause x.ref.g x.i
  else trap

/-! ## The injector's datapath and store events (R392) -/

/-- An eligible event of the launch's partition at target [5], when the word writes a register: one flipped result bit. Under checked
execution the copies differ at once: the clause goes no further until it is discarded (R107). -/
def State.injectResult (s : State) (x : Ctx) (act : Mask) (ds : List DstOp) : State × Bool :=
  match ds.findSome? (fun d => match d with
      | .reg e n => some (e, n)
      | _ => none), firstLane act with
  | some (e, _), some lane =>
    let (s, hit) := s.injectEvent x.l.part 5 0
    if !hit then (s, false)
    else if x.c.checked then
      ((s.modGroup x.ref.g (fun y => y.setIssue x.ref.second ((y.issue? x.ref.second).map (fun i => { i with differs := true, waiting := true })))).post
        (.checkedCompare x.ref.g true), true)
    else
      let b := s.freeBelow 32
      (s.tick.modGroup x.ref.g (fun y => { y with r := y.r.write e lane (y.r.read e lane ^^^ (1#32 <<< b)) }), false)
  | _, _ => (s, false)

/-- Poison a unit of a group's state; an error in a shadow slot is told apart (R166), and so is one that the injector makes (R392). -/
def State.poisonUnit (s : State) (g : GRef) (key : Nat) (inj : Bool) : State :=
  s.modGroup g (fun y => { y with poison := SMap.ins y.poison key (decide (2 ^ 17 ≤ key))
                                  injected := if inj then SMap.ins y.injected key true else y.injected.filter (fun p => p.1 != key) })

/-- An eligible event at target [0] when the word reads a register, and at target [1] when it reads a tile: the unit read is
poisoned. -/
def State.injectStore (s : State) (x : Ctx) (act : Mask) (ss : List SrcOp) : State :=
  let reg := ss.findSome? (fun o => match o with
      | .reg e _ _ => if e < 0xE0 then some e else none
      | _ => none)
  let tile := ss.findSome? (fun o => match o with
      | .tile n => some n
      | _ => none)
  match firstLane act with
  | none => s
  | some lane =>
    let s := match reg with
      | none => s
      | some e =>
        let (s, hit) := s.injectEvent x.l.part 0 0
        if hit then s.poisonUnit x.ref.g (unitKey e lane) true else s
    match tile with
    | none => s
    | some n =>
      let (s, hit) := s.injectEvent x.l.part 1 0
      if hit then s.poisonUnit x.ref.g (x.g.r.accUnit n lane 0) true else s

/-! ## One word -/

/-- Run the word of the issue that executes: `body` gives its effect in the lanes that pass the checks. Lanes that take trap 0x06 at an
`mwr` or `mscl` leave the rows of the other lanes written, as R52 says of every word; Table 9.6 says that no tile changes at a precise
trap (DESIGN CHOICE, notes/assumptions/43.md). -/
def State.runWord (s : State) (w : WordSpec) (body : Ctx → Mask → State → WordRes) : State :=
  match s.ctx? with
  | none => s
  | some x0 =>
    if x0.waits then ((s.stallWord x0).reap x0).endCycle x0
    else
    let s := s.injectStore x0 (x0.active w.guard) w.srcs
    match s.ctx? with
    | none => s
    | some x =>
      let act := x.active w.guard
      match x.check w with
      | .skip => s.advance x 0
      | .trap code info => s.trapOr x (s.wordTrap x 0 ((maskLanes act).map (fun i => ⟨i, code, info⟩)) false [])
      | .park why => ((s.parkWord x why).reap x).endCycle x
      | .poison ours => s.consume x.ref.g .uncorrectable ours 0 x.i.wordPc
      | .go lanes traps =>
        -- no lane is left: the word has no effect
        if lanes = 0 then (if traps.isEmpty then s.advance x act else s.trapOr x (s.wordTrap x act traps false []))
        else
        match body x lanes s with
        | .stall => ((s.stallWord x).reap x).endCycle x
        | .park s' why => ((s'.parkWord x why).reap x).endCycle x
        | .poison k ours => s.consume x.ref.g k ours 0 x.i.wordPc
        | .done s' ts =>
          let (s', differs) := s'.injectResult x lanes w.dsts
          if differs then s'
          else if (traps ++ ts).isEmpty then s'.advance x act else s.trapOr x (s'.wordTrap x act (traps ++ ts) false [])
        | .jump s' ts pcs =>
          if (traps ++ ts).isEmpty then s'.leave x act pcs else s.trapOr x (s'.wordTrap x act (traps ++ ts) true pcs)

/-- A control word whose guard is false in every lane still ends its clause at F: `advance` does the same, since it stands
last. The word specification of an instruction without operands. -/
def plainSpec (i : Instr) (gd : Guard) : WordSpec :=
  { i := i, guard := gd, srcs := [], dsts := [], priv := false, region := none, tile := none }

/-- A word whose active lanes each write `f` to a register destination. -/
def State.runLanes (s : State) (w : WordSpec) (d : Nat) (f : Ctx → Nat → List Word) : State :=
  s.runWord w (fun x lanes s =>
    .done (s.modGroup x.ref.g (fun y => (maskLanes lanes).foldl (fun y i => y.put (x.active w.guard) d i (f x i)) y)) [])

/-- Registers become empty until a fill brings each lane's words (R51); a w register is written for the first active lane alone, and stays
as it is when that lane has trapped (R65). -/
def State.fillLater (s : State) (x : Ctx) (act lanes : Mask) (d n : Nat) (f : Nat → List Word) : State :=
  if 0xC0 ≤ d && !((firstLane act).any (fun i => lanes.getLsbD i)) then s
  else
    (s.modGroup x.ref.g (fun y => { y with r := y.r.setEmptyN d n lanes true })).addFill x.ref.g d n act
      ((maskLanes lanes).map (fun i => (i, f i))) x.g.r.inReg none

/-- A word whose active lanes each write a predicate. -/
def State.runPreds (s : State) (w : WordSpec) (p : Nat) (f : Ctx → Mask → Nat → Bool) : State :=
  s.runWord w (fun x lanes s =>
    .done (s.modRegs x.ref.g (fun r => (maskLanes lanes).foldl (fun r i => r.setPred p i (f x lanes i)) r)) [])

end Sys2Proof.Machine
end

