-- ==== Sys2Proof/Machine/Fault.lean ====
section
/-!
DEFINITION. Walks and what they find (19): watched ranges and the access log (R376, R377), AF and D (R328), fault records and
their rings (R333 to R336), refusals (R337, R244, R282), the larder (R341 to R344), invalidation (R329 to R332) and placement
(R345 to R347).
-/
namespace Sys2Proof.Machine

/-! ## Access log (R376, R377) -/

/-- Waiting records are written when there is room; walks that wait to log go on. -/
def execAccessLogRecord (part : Nat) (s : State) : Host.Outcome State Fault Refusal :=
  .next (
    let move (p : Partition) : Partition :=
      match p.logWait with
      | [] => p
      | rs :: rest =>
        if p.log.length + rs.length ≤ 32768 then { p with log := p.log ++ rs, logWait := rest } else p
    let s := s.modPart part move
    let s := match s.part? part with
      | some p => if p.logWait.isEmpty || !(p.log.length < 32768) then s else s.post (.accessLogRecord part)
      | none => s
    (s.walks.filter (fun w => w.logging)).foldl (fun s w => s.post (.walkComplete w.id)) s)

/-! ## Walk start (R326) -/

/-- Walks that run on a die. -/
def State.walking (s : State) (die : Nat) : Nat := (s.walks.filter (fun w => w.die == die && w.started)).length

def State.modWalk (s : State) (id : Nat) (f : Walk → Walk) : State :=
  { s with walks := updateWhere (fun w => w.id == id) f s.walks }

/-- Start a walk with the present generations (R329). -/
def State.beginWalk (s : State) (w : Walk) : State :=
  let gens := ((s.vif? w.vif).map (fun v => (v.s1gen, v.s2gen))).getD (0, 0)
  (s.modWalk w.id (fun w => { w with started := true, s1gen := gens.1, s2gen := gens.2, logging := false })).post (.walkComplete w.id)

/-- The walk of a die that starts next: class G first, otherwise in order of arrival. -/
def State.nextWalk (s : State) (die : Nat) : Option Walk :=
  (s.walks.find? (fun w => w.die == die && !w.started && !w.classH)).or (s.walks.find? (fun w => w.die == die && !w.started))

/-- The next walk of a die may start. -/
def State.postNextWalk (s : State) (die : Nat) : State :=
  match s.nextWalk die with
  | some n => s.post (.walkStart n.id)
  | none => s

/-- A walk starts when it is the next one and one of the 256 walkers is free. -/
def execWalkStart (walk : Nat) (s : State) : Host.Outcome State Fault Refusal :=
  .next (match s.walks.find? (fun w => w.id == walk && !w.started) with
    | none => s
    | some w =>
      if 256 ≤ s.walking w.die || (s.nextWalk w.die).map (fun n => n.id) != some w.id then s
      else (s.beginWalk w).postNextWalk w.die)

/-- The walker of a finished walk is free: the next one starts. -/
def State.endWalk (s : State) (w : Walk) : State :=
  ({ s with walks := s.walks.filter (fun x => x.id != w.id) } : State).postNextWalk w.die

/-! ## Fault records -/

def State.modRec (s : State) (id : Nat) (f : FaultRec → FaultRec) : State :=
  { s with recs := updateWhere (fun r => r.id == id) f s.recs }
def State.rec? (s : State) (id : Nat) : Option FaultRec := s.recs.find? (fun r => r.id == id)

/-- The page that a record of a KIND is kept by (R335). -/
def faultPage (kind va ipa : Nat) : Nat := if kind = 3 ∨ kind = 4 then ipa / 65536 else va / 65536

/-- AGENT of Table 19.7. -/
def State.agentOf (s : State) (w : Waiter) : Nat :=
  match w with
  | .access _ _ => 0
  | .fetch _ _ _ _ _ => 7
  | .command id => (match (s.cmd? id).map (fun c => c.eng) with
    | some (EngineId.copy _) => 1
    | some (EngineId.tstream _) => 2
    | some (EngineId.collective _) => 3
    | some (EngineId.storage _) => 4
    | _ => 9)
  | .device _ => 9
  | .bandFill _ _ _ => 5
  | .mapFill _ _ _ => 6
  | .mapWriteback _ _ => 6
  | .queue _ _ => 9

/-- An access in a group. -/
def State.access? (s : State) (g : GRef) (id : Nat) : Option Access :=
  (s.group? g).bind (fun x => x.accs.find? (fun a => a.id == id))

/-- What a waiter does when its page has an open record. -/
def State.waitOn (s : State) (page id kind engine : Nat) (w : Waiter) : State :=
  match w with
  | .access g acc =>
    (match s.access? g acc with
     | some a => s.slotAccess g a (a.lanesOn page) id kind engine
     | none => s)
  | .fetch core slot lid pc _ =>
    s.modCore core (fun c => { c with
      fetches := updateWhere (fun f => f.slot == slot && f.lid == lid && f.pc == pc) (fun f => { f with stuck := true }) c.fetches })
  -- the command finds the record itself: its write may go to the larder (R342)
  | .command cmd => s.resumeCmd cmd
  | .bandFill die fill _ =>
    s.modDie die (fun d => { d with bandFills := updateWhere (fun f => f.id == fill) (fun f => { f with recId := id }) d.bandFills })
  | .mapFill c _ sec => s.slotSector c sec id kind engine
  | .mapWriteback _ _ => s
  | .queue q use => if use == .record then s.modQueue q (fun x => { x with waitRec := some id }) else s
  | .device _ => s

/-- What stopped a walk. -/
structure Stop where
  kind : Nat
  level : Nat
  entry : Nat
  ipa : Nat
  table : Bool
  engine : Nat
  deriving DecidableEq, Repr

/-- The lane fields of a record: slot, lanes and the group, from its first waiter. -/
def State.faultLanes (s : State) (w : Waiter) : Nat × Mask :=
  match w with
  | .access g acc =>
    (match (s.group? g).bind (fun x => x.slots.find? (fun t => t.acc.id == acc)) with
     | some t => (t.idx, maskOf (t.acc.addr.map (fun p => p.1)))
     | none => (0xFF, 0))
  | _ => (0xFF, 0)

/-- Open a record for a walk, or join the open one (R335); then its waiters wait on it. -/
def State.fault (s : State) (w : Walk) (k : Stop) (ws : List Waiter) : State :=
  let page := faultPage k.kind (w.va * 65536) k.ipa
  match s.recs.find? (fun r => r.vif == w.vif && r.kind == k.kind && r.page == page) with
  | some r =>
    let s := s.modRec r.id (fun r => { r with waiters := r.waiters ++ ws.filter (fun x => !r.waiters.contains x) })
    ws.foldl (fun s x => s.waitOn w.va r.id k.kind k.engine x) s
  | none =>
    let id := s.nextId
    let first := ws.headD (.device w.vif)
    let va := match first with
      | .access g acc => (((s.access? g acc).bind (fun a => a.addr.find? (fun p => p.2 / 65536 == w.va))).map (fun p => p.2)).getD (w.va * 65536)
      | .fetch _ _ _ _ va => va
      | _ => w.askedVa
    -- the walk's IPA is that of the page, but for a table read; KIND 5 keeps the place of the entry
    let ipa := if k.kind = 3 ∨ k.kind = 4 then (if k.table then k.ipa else k.ipa + va % 65536) else if k.kind = 5 then k.ipa else 0
    let r : FaultRec :=
      { id := id, vif := w.vif, kind := k.kind, page := page, va := va, ipa := ipa,
        acc := if k.table then w.acc ||| accTable else w.acc, agent := s.agentOf first, classH := w.classH, level := k.level,
        slot := 0xFF, gid := match first with
          | .access g _ => g.gid
          | .fetch _ _ _ _ _ => w.gid
          | _ => 0xFFFF,
        lid := w.lid, cid := w.cid, lanes := 0, pte := w64 k.entry, nlost := 0,
        s2gen := ((s.vif? w.vif).map (fun v => v.s2gen)).getD 0, seq := none, waiters := ws, engine := k.engine, frame := none,
        tries := 0, rescued := none }
    let s := { s with nextId := id + 1, recs := s.recs ++ [r] }
    let s := ws.foldl (fun s x => s.waitOn w.va id k.kind k.engine x) s
    let f := s.faultLanes first
    (s.modRec id (fun r => { r with slot := f.1, lanes := f.2 })).postRecord r

/-- The permission that ACC bits need, as a mask of an entry's bits. -/
def accAllowed (perm : BitVec 4) (acc : BitVec 8) : Bool := perm &&& needOfAcc acc == needOfAcc acc

/-- Waiters whose own access needs what the walk was made for wait on the fault; the others ask again. -/
def State.faultWaiters (s : State) (w : Walk) (k : Stop) : State :=
  let mine := (w.waiters.filter (fun p => needOfAcc p.1 == needOfAcc w.acc)).map (fun p => p.2)
  let others := (w.waiters.filter (fun p => needOfAcc p.1 != needOfAcc w.acc)).map (fun p => p.2)
  let s := s.fault w k mine
  others.foldl (fun s x => s.resume x) s

/-! ## Walk complete (R325, R328, R329) -/

/-- Install a translation in the core's TLB and its cluster's (R325). -/
def State.installTlb (s : State) (w : Walk) (t : TlbEntry) : State :=
  match w.core with
  | none => s
  | some core =>
    (s.modCore core (fun c => { c with tlb := tlbInstall 64 c.tlb t })).modCluster (clusterOf core)
      (fun c => { c with tlb := tlbInstall 4096 c.tlb t })

/-- A walk finishes. -/
def State.completeWalk (s : State) (w : Walk) (v : Vif) (e : WalkEnv) : State :=
  let va := w.va * 65536
  match s.walkTables e va (needOfAcc w.acc) with
  | .retry pa => s.countUnavailable pa
  | .fault kind level entry ipa table =>
    (s.faultWaiters w ⟨kind, level, entry, ipa, table, 0⟩).endWalk w
  | .storage entry ea =>
    if accAllowed (ptePerm entry) w.acc then
      (s.faultWaiters w ⟨5, 0, entry, ea, false, bitsOf entry 59 56⟩).endWalk w
    else (s.faultWaiters w ⟨2, 0, entry, 0, false, 0⟩).endWalk w
  | .ok ipa pa size perm ga ge ha he =>
    -- a page that holds larder bytes is waited for at its record (R342)
    match (s.larder.find? (fun l => l.vif == w.vif && l.page == w.va)).bind (fun l => s.rec? l.recId) with
    | some r => (s.fault w ⟨r.kind, r.level, r.pte.toNat, alignDown r.ipa 65536, false, r.engine⟩ (w.waiters.map (fun p => p.2))).endWalk w
    | none =>
    let hits := e.part.hits (alignDown pa size) size perm
    if !(e.part.roomFor hits.length) then s.modWalk w.id (fun w => { w with logging := true })
    else
      let first := (w.waiters.headD (w.acc, .device w.vif)).2
      let s := s.logAccess v.part hits w.acc (s.agentOf first) w.vif w.lid va pa
      let write := (needOfAcc w.acc).getLsbD 1
      let s := (s.useLeaf e.req ga ge write).useLeaf e.req ha he write
      let t : TlbEntry :=
        { vif := w.vif, va := alignDown va size, size := size, ipa := alignDown ipa size, pa := alignDown pa size, perm := perm,
          dset := write || (pteD ge && pteD he), movable := pteM he, s1gen := w.s1gen, s2gen := w.s2gen }
      let s := (s.installTlb w t).endWalk w
      w.waiters.foldl (fun s x => s.resume x.2) s

/-- The table reads of a walk, in its class: none in a state that waits for tokens or allowances (R362), or while its partition is in
reset (R365). -/
def State.readTables (s : State) (w : Walk) (e : WalkEnv) : State × Bool :=
  let q := { e.req with classH := w.classH }
  let lines := s.walkLines e (w.va * 65536)
  if s.silenced e.part.no then (s, false)
  else if !lines.all (s.hasToken q) then (s.awaitTokens q lines, false)
  else (lines.foldl (fun s a => s.reachHome q a false) s, true)

/-- A walk whose generation changed starts again (R329). -/
def execWalkComplete (walk : Nat) (s : State) : Host.Outcome State Fault Refusal :=
  .next (match s.walks.find? (fun w => w.id == walk && w.started) with
    | none => s
    | some w =>
      match s.vif? w.vif, s.walkEnv? w.vif with
      | some v, some e =>
        if v.s1gen = w.s1gen && v.s2gen = w.s2gen then
          (match s.readTables w e with
           | (s, true) => s.completeWalk w v e
           | (s, false) => s)
        else s.beginWalk w
      | _, _ => s.endWalk w)

/-! ## Writing a record to its ring (R334) -/

/-- Skid of the access that opened a record. -/
def State.recSkid (s : State) (r : FaultRec) : Nat :=
  match r.waiters.head? with
  | some (.access g _) =>
    (match (s.group? g).bind (fun x => (x.slots.find? (fun t => t.recs.contains r.id)).map (fun t => x.skid t.acc.issuedAt)) with
     | some n => n
     | none => 0)
  | _ => 0

/-- The 64 bytes of a record. -/
def FaultRec.toBytes (r : FaultRec) (seq skid : Nat) : List Byte :=
  leBytes r.kind 1 ++ leBytes r.acc.toNat 1 ++ leBytes (if r.classH then 1 else 0) 1 ++ leBytes r.level 1 ++ leBytes r.agent 1 ++
    leBytes r.slot 1 ++ leBytes r.gid 2 ++ leBytes r.va 8 ++ leBytes (if r.kind = 3 ∨ r.kind = 4 then r.ipa else 0) 8 ++ leBytes r.lid 4 ++ leBytes r.cid 4 ++
    leBytes r.lanes.toNat 2 ++ leBytes skid 2 ++ leBytes seq 4 ++ leBytes r.pte.toNat 8 ++ leBytes r.nlost 4 ++
    leBytes r.s2gen.toNat 2 ++ leBytes 0 10

/-- The hypervisor ring takes KIND 3 and 4. -/
def FaultRec.hyp (r : FaultRec) : Bool := r.kind == 3 || r.kind == 4

/-- PA of an IPA of a context, for a device write or read. -/
def State.ipaPa (s : State) (vif ipa : Nat) : Option Nat :=
  (s.walkEnv? vif).bind (fun e => match s.hypWalk e ipa with
    | .ok pa _ _ _ _ => some pa
    | _ => none)

/-- A record is written when its ring has room, and FTAIL advances. A record of KIND 6 needs no answer. -/
def execFaultRecordWrite (rid : Nat) (s : State) : Host.Outcome State Fault Refusal :=
  .next (match s.rec? rid with
    | none => s
    | some r =>
      match s.vif? r.vif with
      | none => s
      | some v =>
        if r.seq.isSome || r.kind = 5 then s
        else
          let tail := if r.hyp then v.htail else v.ftail
          let head := if r.hyp then v.hhead else v.fhead
          let n := 2 ^ (if r.hyp then v.hlog else v.frlog)
          let base := if r.hyp then v.hbase else v.frbase
          if n ≤ (tail + 2 ^ 32 - head) % 2 ^ 32 then s
          else
            let at_ := base + 64 * (tail % n)
            match if r.hyp then s.reachParts v (some [⟨at_, 64, none⟩]) true else s.ipaReach v at_ 64 true with
            | (s, none) => s
            | (s, some ps) =>
                let s := s.devStore v ps (r.toBytes tail (s.recSkid r))
                let s := s.modVif r.vif (fun v =>
                  if r.hyp then { v with htail := (v.htail + 1) % 2 ^ 32 } else { v with ftail := (v.ftail + 1) % 2 ^ 32 })
                let s := if r.hyp then s else s.signal r.vif v.faultVector
                if r.kind = 6 then { s with recs := s.recs.filter (fun x => x.id != rid) }
                else s.modRec rid (fun r => { r with seq := some tail }))

/-- A write of FRESP (R336). -/
def execFresp (vif : Nat) (hyp : Bool) (value : DWord) (s : State) : Host.Outcome State Fault Refusal :=
  .next (
    let hit (r : FaultRec) : Bool := r.vif == vif && r.hyp == hyp && r.seq == some (value.toNat % 2 ^ 32) && r.answered.isNone
    if bitsOf value.toNat 63 33 ≠ 0 then s
    else
      match s.recs.find? hit with
      | none => s
      | some r => (s.modRec r.id (fun r => { r with answered := some (value.getLsbD 32) })).postRecord
          { r with answered := some (value.getLsbD 32) })

/-! ## The larder (R341 to R344) -/

def State.larder? (s : State) (vif page : Nat) : Option Larder := s.larder.find? (fun l => l.vif == vif && l.page == page)

/-- Write bytes of an engine at a VA into a slot of the larder, taking one if need be; none when no slot is free. -/
def State.larderWrite (s : State) (vif kdom recId va : Nat) (bs : List Byte) : Option State :=
  let page := va / 65536
  let put (l : Larder) : Larder :=
    { l with bytes := (List.range bs.length).foldl (fun m k => SMap.ins m (va % 65536 + k) (bs.getD k 0)) l.bytes }
  if (s.larder? vif page).isSome then
    some { s with larder := updateWhere (fun l => l.vif == vif && l.page == page) put s.larder }
  else if s.larder.length < s.larderSlots then
    some { s with larder := s.larder ++ [put { vif := vif, page := page, kdom := kdom, recId := recId, bytes := [] }] }
  else none

/-- Change a slot. -/
def State.modLarder (s : State) (l : Larder) (f : Larder → Larder) : State := { s with larder := updateWhere (fun x => x == l) f s.larder }

/-- Larder slots of a record's page. -/
def State.larderOf (s : State) (r : FaultRec) : List Larder := s.larder.filter (fun l => l.recId == r.id)

/-- What the merge of a larder slot comes to (R343). -/
inductive Merge where
  /-- The bytes are in the page. -/
  | done (s : State)
  /-- Its home or a table's is held or away, or a token is lacking: the answer waits. -/
  | waits (s : State)
  /-- The page still faults. -/
  | fault (k : Stop)

/-- Runs of consecutive bytes of a slot, as offset and bytes. -/
def byteRunsOf (bs : List (Nat × Byte)) : List (Nat × List Byte) :=
  bs.foldr (fun b rs => match rs with
    | (o, r) :: rest => if o = b.1 + 1 then (b.1, b.2 :: r) :: rest else (b.1, [b.2]) :: rs
    | [] => [(b.1, [b.2])]) []

/-- Write a slot's bytes into the newly mapped page, in the class of its record: an engine's write, which sets AF and D (R343, R324,
R328). -/
def State.larderMerge (s : State) (r : FaultRec) (l : Larder) : Merge :=
  match s.walkEnv? l.vif with
  | none => .done s
  | some e =>
    match s.walkTables e (l.page * 65536) needWrite with
    | .ok _ pa _ _ ga ge ha he =>
      let q := { e.req with kdom := l.kdom, classH := r.classH, movable := pteM he }
      let lines := (l.bytes.map (fun b => alignDown (pa + b.1) 128)).eraseDups
      if s.silenced e.part.no || lines.any (fun a => s.homeUnavailable a || s.quiesced q a) then .waits s
      else if !lines.all (s.hasToken q) then .waits (s.awaitTokens q lines)
      else
        let s := (s.useLeaf e.req ga ge true).useLeaf e.req ha he true
        .done ((byteRunsOf l.bytes).foldl (fun s b => (s.agentReach q (pa + b.1) b.2.length true).homeStore q (pa + b.1) b.2) s)
    | .retry pa => .waits (s.countUnavailable pa)
    | .fault kind level entry ipa table => .fault ⟨kind, level, entry, ipa, table, 0⟩
    | .storage entry ea =>
      if accAllowed (ptePerm entry) accWrite then .fault ⟨5, 0, entry, ea, false, bitsOf entry 59 56⟩ else .fault ⟨2, 0, entry, 0, false, 0⟩

/-- Merge slots in turn, each leaving the larder as it is merged; false when one must wait, and those whose page still faults. -/
def State.mergeAll (s : State) (r : FaultRec) : List Larder → State × Bool × List (Larder × Stop)
  | [] => (s, true, [])
  | l :: ls =>
    match s.larderMerge r l with
    | .waits s => (s, false, [])
    | .done s => ({ s with larder := s.larder.filter (fun x => x != l) } : State).mergeAll r ls
    | .fault k =>
      let (s, ok, ks) := s.mergeAll r ls
      (s, ok, (l, k) :: ks)

/-- The bytes of a slot whose page still faults wait at the record of that fault (notes/assumptions/27.md). -/
def State.larderFault (s : State) (r : FaultRec) (l : Larder) (k : Stop) : State :=
  let w : Walk := { id := 0, vif := l.vif, die := 0, core := none, va := l.page, askedVa := l.page * 65536, acc := accWrite ||| accEngine,
                    agent := r.agent, classH := r.classH, lid := r.lid, cid := r.cid, gid := r.gid, waiters := [], started := true,
                    s1gen := 0, s2gen := 0, logging := false }
  let s := s.fault w k []
  let page := faultPage k.kind (l.page * 65536) k.ipa
  match s.recs.find? (fun x => x.vif == l.vif && x.kind == k.kind && x.page == page) with
  | some n => (s.modRec n.id (fun n => if n.agent = 9 then { n with agent := r.agent } else n)).modLarder l (fun x => { x with recId := n.id })
  | none => s

/-! ## Answers (R336, R337) -/

/-- Every group, resident or saved, forgets a record; slots that waited on it count the answer. -/
def State.releaseSlots (s : State) (r : FaultRec) : State :=
  let free (t : Slot) : Slot :=
    if t.recs.contains r.id then
      { t with recs := t.recs.filter (fun k => k != r.id),
               acc := { t.acc with resolved := SMap.set t.acc.resolved 0 r.pageKey (SMap.get t.acc.resolved 0 r.pageKey + 1) } }
    else t
  let move (c : Cohort) : Cohort := { c with groups := c.groups.map (fun g => { g with slots := g.slots.map free }) }
  { s with cohorts := s.cohorts.map move, frames := s.frames.map (fun f => { f with cohort := move f.cohort }) }

/-- A resolved answer: larder bytes first, then the slots in order, then the other waiters. Until the bytes are in the page the record
stays, and nothing resumes. -/
def State.answerResolved (s : State) (r : FaultRec) : State :=
  match s.mergeAll r (s.larderOf r) with
  | (s, false, _) => s.modRec r.id (fun r => { r with answered := some false })
  | (s, true, left) =>
    let s : State := { s with recs := s.recs.filter (fun x => x.id != r.id) }
    let s := left.foldl (fun s x => s.larderFault r x.1 x.2) s
    r.waiters.foldl (fun s w => s.resume w) (s.releaseSlots r).wake

/-- A resolved answer to a fault record. -/
def execFaultAnswerResolved (rid : Nat) (s : State) : Host.Outcome State Fault Refusal :=
  .next (match s.rec? rid with
    | none => s
    | some r => s.answerResolved r)

/-- The lanes of every group of a slot that stand at an absent clause take a trap at its header (R337). -/
def State.refuseFetch (s : State) (core slot lid : Nat) (pc va : DWord) (code info : Nat) : State :=
  (s.cohorts.filter (fun c => c.core == core && c.ref.lid == lid)).foldl (fun s c =>
    (c.groups.filter (fun g => g.gidx % 4 == slot && !g.retired)).foldl (fun s g =>
      let ref : GRef := ⟨c.ref.lid, c.ref.cid, g.gid⟩
      let lanes := maskWhere (fun i => g.r.live.getLsbD i && (g.r.lane i).hdr == pc && !(g.r.lane i).waiting)
      if lanes = 0 || (g.run1.map (fun i => i.hdr == pc)).getD false then s
      else
        let s := s.interrupt ref
        s.takeTrap ref code info lanes pc va (w32 (g.slots.length % 256 * 65536))) s) s

/-- A cohort that was saved while it waited at the fetch meets the refusal at its restore (R340). -/
def State.refuseSavedFetch (s : State) (core slot lid : Nat) (pc va : DWord) (code info : Nat) : State :=
  let move (x : Group) : Group :=
    if x.gidx % 4 == slot && x.awaits.contains pc then
      let lanes := maskWhere (fun i => x.r.live.getLsbD i && (x.r.lane i).hdr == pc && !(x.r.lane i).waiting)
      { x with awaits := x.awaits.filter (fun a => a != pc)
               posted := x.posted ++ [⟨code, info, some { lanes := lanes, pc := pc, va := va, issuedAt := x.issued, full := none }⟩] }
    else x
  { s with frames := s.frames.map (fun f =>
      if f.cohort.core == core && f.cohort.ref.lid == lid then
        { f with cohort := { f.cohort with groups := f.cohort.groups.map move } } else f) }

/-- An imprecise trap without a replay slot waits for its group (R184, R206, R244). -/
def State.postTrap (s : State) (g : GRef) (code info : Nat) (w : Imprecise) : State :=
  (s.modGroup g (fun x => if x.retired then x else { x with posted := x.posted ++ [⟨code, info, some w⟩] })).post (.asyncTrapDelivery g)

/-- The lanes of an `ldw` whose granule's fill was refused trap; its registers become full at the trap (R244). -/
def State.refuseLdw (s : State) (c : CRef) (sec : Nat) (fva : Nat) : State :=
  match s.cohort? c with
  | none => s
  | some x => x.groups.foldl (fun s g =>
      let ref : GRef := ⟨c.lid, c.cid, g.gid⟩
      (g.accs.filter (fun a => a.opc == opLdw && a.space == 1)).foldl (fun s a =>
        let ls := (a.addr.filter (fun p => rangesMeet p.2 a.size sec 128)).map (fun p => p.1)
        if ls.isEmpty then s
        else
          (s.accDone ref a.id ls).postTrap ref 0x11 0xFF
            { lanes := maskOf ls, pc := a.pc, va := w64 fva, issuedAt := a.issuedAt, full := if a.noFill then none else some (a.dst, a.regs) }) s) s

/-- An engine command that waits for a refused fill completes with status 2 (R244), or 3 (R353). -/
def State.refuseCmds (s : State) (c : CRef) (sec status : Nat) : State :=
  match s.cohort? c, s.launch? c.lid with
  | some x, some l =>
    let waits (k : Cmd) : Bool :=
      let use := l.scratchUse k
      GRefCohort k.owner == c && k.ran && k.stage == .started && (x.sectorsNeeded use.1 use.2).any (fun e => e.2 == sec)
    (s.cmds.filter waits).foldl (fun s k => s.endCmd k.id status) s
  | _, _ => s

/-- A matrix word parked on a sector whose fill was refused: the launch fails (R244). -/
def State.refuseMatrix (s : State) (c : CRef) (sec fva : Nat) : State :=
  match s.cohort? c with
  | none => s
  | some x =>
    let on (p : Park) : Bool := p.bytes.any (fun b => rangesMeet b.1 b.2 sec 128)
    let atMatrix (g : Group) : Bool :=
      g.parks.any (fun p => (maskLanes (p.lanes &&& g.r.live)).any (fun i => (g.r.lane i).parked) && on p) ||
        ((g.run1.bind (fun i => if i.held then i.why else none)).map on).getD false
    if x.groups.any atMatrix then
      s.failLaunch c.lid 0x11 0 (w64 fva) (tcauseOf 0x11 0xFF 0) 0
    else s

/-- A refused band fault (R282, R184): the group that asked on each core traps, and so does that of a deferred fill, whose restore
goes on. `va`: the lowest address of the fill's range in the refused page. -/
def State.refuseBand (s : State) (die fill va : Nat) : State :=
  match (s.die? die).bind (fun d => d.bandFills.find? (fun f => f.id == fill)) with
  | none => s
  | some f =>
    let s := s.modDie die (fun d => { d with bandFills := d.bandFills.filter (fun x => x.id != fill) })
    let mine (b : Band) : List BandAsk := b.asks.filter (fun a => f.targets.getLsbD (a.core % 96))
    let asks := if f.deferred then [] else ((s.band? die f.band).map mine).getD []
    let s := s.modBand die f.band (fun b => { b with flt := true, lastKey := none,
                                                     asks := if f.deferred then b.asks else b.asks.filter (fun a => !f.targets.getLsbD (a.core % 96)) })
    let trap (s : State) (g : GRef) (pc : DWord) (issuedAt : Nat) : State :=
      s.postTrap g 0x11 0xFF { lanes := 0xFFFF, pc := pc, va := w64 va, issuedAt := issuedAt, full := none }
    let s := asks.foldl (fun s a => trap s a.g a.pc a.issuedAt) s
    let s := (coresOf die f.targets).foldl (fun s core => s.bandLeft die f.band core) s
    if !f.deferred then s.resumeDie die
    else (s.cohorts.filter (fun c => (coresOf die f.targets).contains c.core)).foldl (fun s c =>
      let hit (d : Deferred) : Bool := d.band == f.band && d.va == f.key.va && d.n == f.key.n
      let s := (c.deferred.filter hit).foldl (fun s d => trap s ⟨c.ref.lid, c.ref.cid, d.gid⟩ d.pc d.issuedAt) s
      let c' : Cohort := { c with deferred := c.deferred.filter (fun d => !hit d) }
      (s.modCohort c.ref (fun x => { x with deferred := c'.deferred })).resumePhase c') s

/-- A refusal reaches one waiter. -/
def State.refuse (s : State) (r : FaultRec) (w : Waiter) : State :=
  let code := refusalCode r.kind
  match w with
  | .access g _ => s.post (.asyncTrapDelivery g)
  | .fetch core slot lid pc va =>
    let info := if r.kind = 5 then r.engine else 0xFE
    let hit (f : Fetch) : Bool := f.slot == slot && f.lid == lid && f.pc == pc
    let code := if r.kind = 5 then 0x12 else 0x10
    let s := s.refuseSavedFetch core slot lid pc (w64 va) code info
    if ((s.core? core).map (fun c => c.fetches.any hit)).getD false then
      (s.modCore core (fun c => { c with fetches := c.fetches.filter (fun f => !(hit f)) })).refuseFetch core slot lid pc (w64 va) code info
    else s
  | .command id =>
    -- refused at the completion record, only that is lost
    let done (c : Cmd) : Bool := match c.stage with
      | .done _ => true
      | _ => false
    -- a child whose record or tables cannot be read is refused with code 0x0B (R297, R298)
    let child := ((s.cmd? id).map (fun c => c.eng == .launchQueue)).getD false
    -- one that has ended does not wait here for more than its record
    if ((s.cmd? id).map (fun c => done c && !c.waiting)).getD true then s
    else (s.modCmd id (fun c => { c with waiting := false, lost := c.lost || done c })).endCmd id
      (if child then 0x0B01 else if code = 0x12 then 3 else 2)
  | .bandFill die fill va => s.refuseBand die fill va
  | .mapFill c e sec =>
    let fva := ((s.cohort? c).map (fun x => (x.mapEntry e).va + (sec - (x.mapEntry e).s))).getD 0
    let s := s.modCohort c (fun x => x.modMap e (fun m => { m with filling := m.filling.filter (fun k => k.sec != sec) }))
    ((s.refuseLdw c sec fva).refuseCmds c sec (if code = 0x12 then 3 else 2)).refuseMatrix c sec fva
  | .mapWriteback c va => s.failLaunch c.lid 0x11 0 (w64 va) (tcauseOf 0x11 0xFF 0) 0
  | .queue q use =>
    (match use with
     | .kick => s.modQueue q (fun x => { x with refusedKick := true })
     | .record => s.modQueue q (fun x => { x with waitRec := none, refusedRead := true })
     | .head => s.modQueue q (fun x => { x with refusedHead := true })
     | .entry => (s.modQueue q (fun x => { x with refusedEntry := true })).post (.completionEntryWrite q)).post (.launchRecordTake q)
  | .device _ => s

/-- Mark the slots that wait on a record as refused, in resident and saved groups. -/
def State.refuseSlots (s : State) (r : FaultRec) : State :=
  let mark (t : Slot) : Slot :=
    if t.recs.contains r.id then
      { t with recs := t.recs.filter (fun k => k != r.id), refused := some (t.refused.getD (refusalCode r.kind, r.engine)) }
    else t
  let move (c : Cohort) : Cohort := { c with groups := c.groups.map (fun g => { g with slots := g.slots.map mark }) }
  { s with cohorts := s.cohorts.map move, frames := s.frames.map (fun f => { f with cohort := move f.cohort }) }

/-- Discard the larder bytes of a refused record, and open its KIND 6 record (R344). -/
def State.larderDiscard (s : State) (r : FaultRec) : State :=
  let lost := (s.larderOf r).foldl (fun n l => n + l.bytes.length) 0
  let s := { s with larder := s.larder.filter (fun l => l.recId != r.id) }
  if lost = 0 then s
  else
    let id := s.nextId
    let six : FaultRec := { r with id := id, kind := 6, nlost := lost, seq := none, waiters := [], answered := none }
    ({ s with nextId := id + 1, recs := s.recs ++ [six] }).post (.faultRecordWrite id)

/-- The faulting address of a fill or write-back of the map unit: the launch is told of the lowest (R244). -/
def State.waiterVa (s : State) (w : Waiter) : Nat :=
  match w with
  | .mapFill c e sec => ((s.cohort? c).map (fun x => (x.mapEntry e).va + (sec - (x.mapEntry e).s))).getD 0
  | .mapWriteback _ va => va
  | .bandFill _ _ va => va
  | _ => 0

/-- Waiters by rising address, those of one address in order. -/
def State.byVa (s : State) (ws : List Waiter) : List Waiter :=
  ws.foldl (fun l w => l.takeWhile (fun x => s.waiterVa x ≤ s.waiterVa w) ++ w :: l.dropWhile (fun x => s.waiterVa x ≤ s.waiterVa w)) []

/-- A refused answer. -/
def State.answerRefused (s : State) (r : FaultRec) : State :=
  let s := (s.refuseSlots r).larderDiscard r
  let s := { s with recs := s.recs.filter (fun x => x.id != r.id) }
  let s := s.cohorts.foldl (fun s c => c.groups.foldl (fun s g =>
    if g.slots.any (fun t => t.refused.isSome) then s.post (.asyncTrapDelivery ⟨c.ref.lid, c.ref.cid, g.gid⟩) else s) s) s
  (s.byVa r.waiters).foldl (fun s w => s.refuse r w) s

def execFaultAnswerRefused (rid : Nat) (s : State) : Host.Outcome State Fault Refusal :=
  .next (match s.rec? rid with
    | none => s
    | some r => s.answerRefused r)

/-- The global address that a mapped scratchpad offset stands for. -/
def Cohort.mappedVa (c : Cohort) (o : Nat) : Nat :=
  match c.mapAt o with
  | some e => (c.mapEntry e).va + (o - (c.mapEntry e).s)
  | none => 0

/-- Deliver the first refused slot of a group (R337): the slot is discarded, its registers are full again, and its live lanes
trap. -/
def State.deliverRefusal (s : State) (g : GRef) : State :=
  match s.group? g with
  | none => s
  | some x =>
    match x.slots.find? (fun t => t.refused.isSome) with
    | none => s
    | some t =>
      let code := (t.refused.getD (0, 0)).1
      let engine := (t.refused.getD (0, 0)).2
      let all := maskOf (t.acc.addr.map (fun p => p.1))
      let s := s.modGroup g (fun y => { y with
        slots := (y.slots.filter (fun u => u.idx != t.idx)).map (fun u => { u with held := u.held || (u.recs.isEmpty && u.refused.isNone) })
        r := if noDst ≤ t.acc.dst || t.acc.noFill then y.r else y.r.setEmptyN t.acc.dst t.acc.regs all false })
      let lanes := all &&& x.r.live
      if lanes = 0 then s.modGroup g (fun y => { y with slots := y.slots.map (fun u => { u with held := false }) })
      else
        let s := s.interrupt g
        let a := (t.acc.addr.head?.map (fun p => p.2)).getD 0
        -- an access to a mapped region names the first byte of its sector, with cause 0x11 (R244)
        let mapped := t.acc.space == 1
        let code := if mapped then 0x11 else code
        let va := if mapped then ((s.cohort? (GRefCohort g)).map (fun c => c.mappedVa (alignDown a 128))).getD 0 else a
        s.takeTrap g code (if code = 0x12 then engine else t.idx) lanes t.acc.pc (w64 va)
          (w32 (x.slots.length % 256 * 65536 + ((s.group? g).map (fun y => y.skid t.acc.issuedAt)).getD 0))

/-! ## Invalidation (R330, R331) -/

/-- The fields of a descriptor keep Table 19.4. -/
def invLegal (d : InvDesc) : Bool :=
  d.resv == 0 && d.done % 8 == 0 && (d.stage == 1 || (d.stage == 2 && !d.guest)) &&
    ((d.op == 1 && d.base % 65536 == 0 && d.len % 65536 == 0) || (d.op == 2 && d.base == 0 && d.len == 0))

/-- A TLB entry that a request drops. -/
def invDrops (d : InvDesc) (t : TlbEntry) : Bool :=
  t.vif == d.vif && (d.op == 2 || (if d.stage = 1 then rangesMeet t.va t.size d.base d.len else rangesMeet t.ipa t.size d.base d.len))

/-- Steps 1 and 2 of R330: the generation, and the entries that it drops. -/
def State.dropEntries (s : State) (d : InvDesc) : State :=
  let cut (l : List TlbEntry) : List TlbEntry := l.filter (fun t => !(invDrops d t))
  let s := s.modVif d.vif (fun v => if d.stage = 1 then { v with s1gen := v.s1gen + 1 } else { v with s2gen := v.s2gen + 1 })
  { s with cores := s.cores.map (fun (c : Core) => { c with tlb := cut c.tlb })
           clusters := s.clusters.map (fun (c : Cluster) => { c with tlb := cut c.tlb }) }

/-- A request of firmware, which gives the descriptor itself. -/
def State.invalidate (s : State) (d : InvDesc) : State :=
  if !(invLegal d) then s
  else
    (({ s with nextId := s.nextId + 1, invs := s.invs ++ [{ id := s.nextId, d := d }] } : State).dropEntries d).post (.invalidationDone s.nextId)

def execInvalidateRange (d : InvDesc) (s : State) : Host.Outcome State Fault Refusal := .next (s.invalidate d)

def execInvalidateContext (d : InvDesc) (s : State) : Host.Outcome State Fault Refusal := .next (s.invalidate d)

/-- A request is over: the next of its context goes on. -/
def State.endInv (s : State) (i : Inval) : State :=
  let s := { s with invs := s.invs.filter (fun x => x.id != i.id) }
  match s.invs.find? (fun x => x.d.vif == i.d.vif) with
  | some n => s.post (.invalidationDone n.id)
  | none => s

/-- The 32 bytes of Table 19.4. -/
def invDesc (vif : Nat) (bs : List Byte) : InvDesc :=
  { vif := vif, guest := true, op := fieldLE bs 0 1, stage := fieldLE bs 1 1, base := fieldLE bs 8 8, len := fieldLE bs 0x10 8,
    done := fieldLE bs 0x18 8, resv := fieldLE bs 2 6 }

/-- The guest's descriptor is read, page by page; one that the hypervisor stage does not map for the moment is read when it does
(R331, notes/assumptions/27.md). One that breaks Table 19.4 is ignored. -/
def State.readInv (s : State) (i : Inval) (at_ : DWord) : State :=
  match s.vif? i.d.vif with
  | none => s.endInv i
  | some v =>
    match s.ipaReach v at_.toNat 32 false with
    | (s, none) => s
    | (s, some ps) =>
      let d := invDesc v.no (s.devBytes ps)
      if invLegal d then
        (({ s with invs := updateWhere (fun x => x.id == i.id) (fun x => { x with d := d, unread := none }) s.invs } : State).dropEntries
          d).post (.invalidationDone i.id)
      else s.endInv i

/-- A write of INVREQ takes its place among the requests of the context and has its descriptor read (R330, R331). -/
def State.invreq (s : State) (vif : Nat) (value : DWord) : State :=
  if (s.vif? vif).isNone then s
  else
    let d : InvDesc := { vif := vif, guest := true, op := 0, stage := 0, base := 0, len := 0, done := 0, resv := 0 }
    let i : Inval := { id := s.nextId, d := d, unread := some value }
    ({ s with nextId := s.nextId + 1, invs := s.invs ++ [i] } : State).readInv i value

def execInvreq (vif : Nat) (value : DWord) (s : State) : Host.Outcome State Fault Refusal := .next (s.invreq vif value)

/-- A line holds a dirty byte that a context has stored. -/
def CacheLine.dirtyOf (l : CacheLine) (vif : Nat) : Bool := l.bytes.any (fun b => b.2.dirty.isSome && b.2.vif == vif)

/-- Dirty bytes that the thread stores of a context have left are held back: by a range lock (R252), or by a reblock or a reset of their
home (R359, R415). -/
def State.domainHeld (s : State) (v : Vif) : Bool :=
  let away (l : CacheLine) : Bool :=
    l.dirtyOf v.no && (s.homeUnavailable (128 * l.line) || s.quiesced (l.req v.req) (128 * l.line))
  s.cores.any (fun c => c.l1.any (fun l => away l ||
    (l.dirtyOf v.no && s.heldBack { v.req with core := c.no, kdom := l.kdom } 0 l.dirtyBytes))) ||
    s.dies.any (fun d => d.rdc.any away)

/-- Write back every dirty line that a context has stored to, in L1s and RDCs and under whatever key domain: the stores made through
dropped entries are performed (R332). -/
def State.cleanDomain (s : State) (v : Vif) : State :=
  let s := s.cores.foldl (fun s c => (c.l1.filter (fun l => l.dirtyOf v.no)).foldl (fun s l =>
    s.cleanL1Line { v.req with core := c.no, kdom := l.kdom } false l) s) s
  s.dies.foldl (fun s d => (d.rdc.filter (fun l => l.dirtyOf v.no)).foldl (fun s l =>
    s.cleanRdcLine { v.req with kdom := l.kdom } d.no l) s) s

/-- Steps 3 and 4: DONE is written once the requests before it are done. The guest gives a VA, firmware a PA. -/
def State.finishInv (s : State) (i : Inval) (v : Vif) : State :=
  if s.invs.any (fun x => x.d.vif == i.d.vif && x.id < i.id) || s.domainHeld v then s
  else
    let s := s.cleanDomain v
    match if i.d.guest then s.agentPa v.no i.d.done needWrite else some i.d.done with
    | none => s.requestWalk v.no 0 none i.d.done accWrite 0 false 0 0xFFFFFFFF 0xFFFF (.device v.no)
    | some pa =>
      match s.reachParts v (some [⟨pa, 8, none⟩]) true with
      | (s, none) => s
      | (s, some ps) => (s.devStore v ps (leBytes 1 8)).endInv i

/-- An invalidation goes on: its descriptor is read, or it is finished. -/
def execInvalidationDone (inv : Nat) (s : State) : Host.Outcome State Fault Refusal :=
  .next (match s.invs.find? (fun i => i.id == inv) with
    | none => s
    | some i =>
      match i.unread, s.vif? i.d.vif with
      | some at_, _ => s.readInv i at_
      | none, some v => s.finishInv i v
      | none, none => s.endInv i)

/-! ## Placement (R345 to R347) -/

/-- Sum of a function over the four dies. -/
def overDies (f : Nat → Nat) : Nat := f 0 + f 1 + f 2 + f 3

/-- The verdict of R346 on a counter: none, move to a die, or replicate. -/
def Counter.verdict (c : Counter) : Option (Nat × Nat) :=
  let n (k : Nat) : Nat := c.reads.toList.getD k 0 + c.writes.toList.getD k 0
  let h := c.home
  let best := [1, 2, 3].foldl (fun b k => if n b < n k then k else b) 0
  let far := 8 * c.other
  let now := far + overDies (fun k => n k * dieDistance h k)
  let mv := far + 512 * dieDistance h best + overDies (fun k => n k * dieDistance best k)
  let rp := far + 512 * overDies (fun k => if k ≠ h ∧ 0 < n k then dieDistance h k else 0)
  let clean := c.writes.toList.all (fun w => w == 0)
  if clean && rp ≤ mv then (if 2 * rp ≤ now then some (1, h) else none)
  else if 2 * mv ≤ now then some (0, best) else none

/-- A page's total at a slice has reached 4,096: the verdict goes to the pager, and the counts clear. A replica is entered for each die
that read the page. -/
def execPlacementCountThreshold (page : Nat) (s : State) : Host.Outcome State Fault Refusal :=
  .next (match s.dies.findSome? (fun d => d.counters.find? (fun c => c.page == page && decide (4096 ≤ c.total))) with
    | none => s
    | some c =>
      let clear (x : Counter) : Counter :=
        { x with reads := Vector.replicate 4 0, writes := Vector.replicate 4 0, other := 0 }
      let s := s.modDie c.home (fun d => { d with counters := updateWhere (fun x => x.page == page && x.slice == c.slice) clear d.counters })
      match c.verdict with
      | none => s
      | some (0, k) => s.send (.pager page 0 k)
      | some (_, k) =>
        let s := { s with dies := s.dies.map (fun (d : Die) =>
          if d.no ≠ k ∧ 0 < c.reads.toList.getD d.no 0 ∧ !d.replicas.contains page then
            { d with replicas := (if d.replicas.length < 256 then d.replicas else d.replicas.drop 1) ++ [page] }
          else d) }
        s.send (.pager page 1 k))

end Sys2Proof.Machine
end

