-- ==== Sys2Proof/Machine/Storage.lean ====
section
/-!
DEFINITION. The storage tier (20): blocks of a drive (R348, R349), the frame pool of a context (R351), storage faults
(R352, R353), reclaim and write-back (R354).
-/
namespace Sys2Proof.Machine

/-! ## Drives (R348, R349) -/

/-- Number of a byte of a drive, for the tweak of its encryption. -/
def driveAddr (engine nsid lba k : Nat) : Nat := ((engine * 2 ^ 32 + nsid) * 2 ^ 40 + lba) * 4096 + k

def State.block? (s : State) (engine nsid lba : Nat) : Option Block :=
  s.drives.find? (fun b => b.engine == engine && b.nsid == nsid && b.lba == lba)

/-- The keys that a domain holds now. -/
def State.keyOf (s : State) (kdom : Nat) : Nat := ((s.kdoms.find? (fun k => k.no == kdom)).map (fun k => k.key)).getD 0

/-- The 4,096 bytes that a domain reads from a block. Under another domain than wrote it, under keys that have replaced those it was
written with, and in a block that nothing has written (written domain 256), the decryption gives what it gives (R349). -/
def State.readBlock (s : State) (engine nsid lba kdom : Nat) : List Byte :=
  let k := s.keyOf kdom
  match s.block? engine nsid lba with
  | some b =>
    if b.kdom = kdom ∧ b.key = k then b.bytes
    else (List.range 4096).map (fun i => Config.wrongKey (b.kdom, b.key) (kdom, k) (driveAddr engine nsid lba i) (b.bytes.getD i 0))
  | none => (List.range 4096).map (fun i => Config.wrongKey (256, 0) (kdom, k) (driveAddr engine nsid lba i) 0)

/-- n blocks from a first one. -/
def State.readBlocks (s : State) (engine nsid lba n kdom : Nat) : List Byte :=
  (List.range n).flatMap (fun k => s.readBlock engine nsid (lba + k) kdom)

/-- Write one block under a domain. -/
def State.writeBlock (s : State) (engine nsid lba kdom : Nat) (bs : List Byte) : State :=
  let b : Block := { engine := engine, nsid := nsid, lba := lba, kdom := kdom, key := s.keyOf kdom, bytes := bs }
  if (s.block? engine nsid lba).isSome then
    { s with drives := updateWhere (fun x => x.engine == engine && x.nsid == nsid && x.lba == lba) (fun _ => b) s.drives }
  else { s with drives := s.drives ++ [b] }

/-- Write n blocks from bytes. -/
def State.writeBlocks (s : State) (engine nsid lba n kdom : Nat) (bs : List Byte) : State :=
  (List.range n).foldl (fun s k => s.writeBlock engine nsid (lba + k) kdom ((bs.drop (4096 * k)).take 4096)) s

/-- The namespace that an index is bound to for a partition on an engine: NSID and capacity. -/
def Partition.namespace? (p : Partition) (engine nsi : Nat) : Option (Nat × Nat) :=
  (p.nsi.find? (fun (g, k, _, _) => g == engine && k == nsi)).map (fun (_, _, nsid, cap) => (nsid, cap))

/-- Engine, NSID and first block of a storage entry of a context. -/
def State.entryBlocks (s : State) (vif entry : Nat) : Nat × Nat × Nat :=
  let nsid := (((s.vif? vif).bind (fun v => s.part? v.part)).bind
    (fun p => p.namespace? (bitsOf entry 59 56) (bitsOf entry 62 60))).map (fun x => x.1)
  (bitsOf entry 59 56, nsid.getD 0, 16 * bitsOf entry 55 20)

/-- Engine, NSID, first block and number of blocks of a storage command; a flush has none. -/
def Cmd.blocks (c : Cmd) : Option (Nat × Nat × Nat × Nat) :=
  match c.eng with
  | .storage e => if c.op = 3 then none else some (e, cmdField c.words 8 4, cmdField c.words 0x18 8, cmdField c.words 0x14 4)
  | _ => none

/-! ## Submission (R348, R349, R361) -/

/-- The paging queue of a class takes one more. -/
def State.queuePage (s : State) (e : EngineId) (io : DriveIo) : State :=
  (s.modEngine e (fun x => if io.classH then { x with pageH := x.pageH ++ [io] } else { x with pageG := x.pageG ++ [io] })).post
    (.engineCommandStart e)

/-- Page work on the 16 blocks of a storage entry of a context. -/
def State.pageIo (s : State) (vif entry : Nat) (classH : Bool) (work : DriveWork) : DriveIo :=
  let b := s.entryBlocks vif entry
  { work := work, classH := classH, nsid := b.2.1, lba := b.2.2, n := 16 }

/-- A command goes to the drive (R348). -/
def State.submit (s : State) (e : EngineId) (io : DriveIo) : State :=
  s.modEngine e (fun x => { x with drive := x.drive ++ [io] })

/-- The command that is outstanding at the drive for some work. -/
def State.onDrive? (s : State) (e : EngineId) (work : DriveWork) : Option DriveIo :=
  (s.engine? e).bind (fun x => x.drive.find? (fun y => y.work == work))

/-- An earlier command that is outstanding at the drive overlaps the blocks of some work: it waits (R349). -/
def State.driveBusyFor (s : State) (e : EngineId) (work : DriveWork) : Bool :=
  match s.engine? e, s.onDrive? e work with
  | some y, some io =>
    (y.drive.takeWhile (fun x => x.work != work)).any (fun x => x.nsid == io.nsid && rangesMeet x.lba x.n io.lba io.n)
  | _, _ => false

/-- The event in which the drive completes page work. -/
def State.postDrive (s : State) (work : DriveWork) : State :=
  match work with
  | .cmd id => (match s.cmd? id with
    | some k => s.postWork k
    | none => s)
  | .read rec => s.post (.storagePageReadDone rec true)
  | .write vif ipa => s.post (.reclaimWritebackDone vif ipa true)

/-- Work has completed at the drive: what waited for it there or in its queues goes on. -/
def State.leaveDrive (s : State) (e : EngineId) (work : DriveWork) : State :=
  if (s.onDrive? e work).isNone then s
  else
    let s := s.modEngine e (fun y => { y with drive := y.drive.filter (fun x => x.work != work) })
    ((((s.engine? e).map (fun y => y.drive)).getD []).foldl (fun s x => s.postDrive x.work) s).post (.engineCommandStart e)

/-- Room at the drive in one of its four queue pairs, each of depth 1,024 (R348), and below 64 commands of class H in all (R361). -/
def Engine.driveRoom (e : Engine) (classH paging : Bool) : Bool :=
  let isPage (x : DriveIo) : Bool := match x.work with
    | .cmd _ => false
    | _ => true
  decide ((e.drive.filter (fun x => x.classH == classH && isPage x == paging)).length < 1024) &&
    (!classH || decide ((e.drive.filter (fun x => x.classH)).length < 64))

/-! ## Frame pools (R351) -/

def State.modPool (s : State) (vif : Nat) (f : Pool → Pool) : State := s.modVif vif (fun v => { v with pool := f v.pool })

/-- A frame that holds nothing. -/
def PoolFrame.empty (ipa : Nat) : PoolFrame :=
  { ipa := ipa, saved := none, page := none, pinned := false, writing := false, tries := 0 }

/-- Change a frame in use. -/
def Pool.modUsed (p : Pool) (ipa : Nat) (f : PoolFrame → PoolFrame) : Pool :=
  { p with used := updateWhere (fun x => x.ipa == ipa) f p.used }

/-- A frame in use joins the tail of the free list, as `f` leaves it. -/
def Pool.release (p : Pool) (ipa : Nat) (f : PoolFrame → PoolFrame) : Pool :=
  { p with used := p.used.filter (fun x => x.ipa != ipa), free := p.free ++ (p.used.filter (fun x => x.ipa == ipa)).map f }

/-- A frame whose entry has changed is given back; one that is pinned or still being written stays in use without a page (R354). -/
def Pool.giveBack (p : Pool) (ipa : Nat) : Pool :=
  if p.used.any (fun f => f.ipa == ipa && (f.pinned || f.writing)) then p.modUsed ipa (fun f => { f with page := none })
  else p.release ipa (fun f => { f with page := none })

/-- Whether the hypervisor stage maps an IPA with R and W; none when a table's home cannot be read for the moment. -/
def State.frameMapped? (s : State) (vif ipa : Nat) : Option Bool :=
  match s.walkEnv? vif with
  | none => some false
  | some w => match s.hypWalk w ipa with
    | .ok _ _ _ _ perm => some (perm &&& 3 == 3)
    | .fault _ _ => some false
    | .retry _ => none

/-- The frames that a list keeps and the count that it drops (R351); none while some hypervisor table cannot be read. -/
def State.keepFrames (s : State) (vif : Nat) : List Nat → Option (List Nat × Nat)
  | [] => some ([], 0)
  | ipas =>
    ipas.foldl (fun acc ipa => acc.bind (fun x => (s.frameMapped? vif ipa).map (fun ok =>
      if ipa % 65536 ≠ 0 || x.1.contains ipa || !ok then (x.1, x.2 + 1) else (x.1 ++ [ipa], x.2)))) (some ([], 0))

/-- Faults of a context that wait for a frame. -/
def State.wakeStorage (s : State) (vif : Nat) : State :=
  (s.recs.filter (fun r => r.kind == 5 && r.vif == vif && r.frame.isNone)).foldl (fun s r => s.post (.storageFrameTaken r.id)) s

/-- A write of FLIST (R351). A list that cannot be read for the moment is read when it can (notes/assumptions/27.md). -/
def execFlist (vif : Nat) (value : DWord) (s : State) : Host.Outcome State Fault Refusal :=
  .next (match s.vif? vif with
    | none => s
    | some v =>
      if !v.pool.used.isEmpty then s
      else
        let n := min v.fnum (2 ^ 20)
        let again (s : State) : State := { s with inputs := s.inputs ++ [.flist vif value] }
        match s.ipaReach v value.toNat (8 * n) false with
        | (s, none) => again s
        | (s, some ps) =>
          let bs := s.devBytes ps
          match s.keepFrames vif ((List.range n).map (fun k => fieldLE bs (8 * k) 8)) with
          | none => again s
          | some (kept, bad) =>
            let pool : Pool := { list := kept, bad := bad, free := kept.map PoolFrame.empty, used := [], hands := [] }
            (s.modVif vif (fun v => { v with flistReg := value.toNat, pool := pool })).wakeStorage vif)

/-! ## The storage fault (R352, R353) -/

/-- A frame that a storage entry can be rescued from: free, or reclaimed with its write-back unfinished or failed. -/
def Pool.rescue? (p : Pool) (entry : DWord) : Option PoolFrame :=
  (p.free ++ p.used.filter (fun f => f.page.isNone)).find? (fun f => f.saved == some entry)

/-- Step 3 or 4 of R352: a rescued frame needs no read, and the read of a free one goes to the paging queue of the faulting agent's
class. -/
def execStorageFrameTaken (rid : Nat) (s : State) : Host.Outcome State Fault Refusal :=
  .next (match s.rec? rid with
    | none => s
    | some r =>
      match s.vif? r.vif with
      | none => s
      | some v =>
        if r.kind ≠ 5 ∨ r.frame.isSome then s
        else
          let take (f : PoolFrame) (rescued : Option Bool) : State :=
            let f' := { f with page := some r.page, saved := some r.pte }
            let s := s.modPool r.vif (fun p => { p with
              free := p.free.filter (fun x => x.ipa != f.ipa), used := p.used.filter (fun x => x.ipa != f.ipa) ++ [f'] })
            let s := s.modRec rid (fun r => { r with frame := some f.ipa, rescued := rescued })
            let s := if rescued.isSome then s.post (.storagePageReadDone rid true)
              else s.queuePage (.storage (bitsOf r.pte.toNat 59 56)) (s.pageIo r.vif r.pte.toNat r.classH (.read rid))
            s.postSweeps r.vif
          match v.pool.rescue? r.pte with
          | some f => take f (some (f.pinned || f.writing))
          | none =>
            match v.pool.free with
            | [] => s.postSweeps r.vif
            | f :: _ => take f none)

/-- The leaf that step 6 writes. -/
def residentLeaf (entry ipa : Nat) (d : Bool) : Nat :=
  ipa + 3 + bitsOf entry 5 2 * 4 + 2 ^ 6 + (if d then 2 ^ 7 else 0)

/-- Steps 6 and 7 of R352: the leaf is written by `cas`, and the record is answered "resolved". -/
def State.storageResolve (s : State) (v : Vif) (r : FaultRec) (ipa : Nat) : State :=
  let s :=
    if leNat (s.homeBytes r.ipa 8) = r.pte.toNat then
      s.homeStore v.req r.ipa (leBytes (residentLeaf r.pte.toNat ipa (r.rescued.getD false)) 8)
    else s.modPool r.vif (fun p => p.giveBack ipa)
  (s.answerResolved r).wakeStorage r.vif

/-- Steps 5 to 7, or a failed read, which goes to the queue again, or after three times is refused (R353). -/
def execStoragePageReadDone (rid : Nat) (ok : Bool) (s : State) : Host.Outcome State Fault Refusal :=
  .next (match s.rec? rid with
    | none => s
    | some r =>
      match s.vif? r.vif, r.frame with
      | some v, some ipa =>
        let b := s.entryBlocks r.vif r.pte.toNat
        if s.homeUnavailable r.ipa || s.quiesced v.req r.ipa then s
        else if r.rescued.isSome then s.storageResolve v r ipa
        else if (s.onDrive? (.storage b.1) (.read rid)).isNone || s.driveBusyFor (.storage b.1) (.read rid) then s
        else if ok then
          match s.ipaReach v ipa 65536 true with
          | (s, none) => s
          | (s, some ps) =>
            ((s.devStore v ps (s.readBlocks b.1 b.2.1 b.2.2 16 v.kdom)).leaveDrive (.storage b.1) (.read rid)).storageResolve v r ipa
        else if r.tries < 2 then
          ((s.modRec rid (fun r => { r with tries := r.tries + 1 })).leaveDrive (.storage b.1) (.read rid)).queuePage (.storage b.1)
            (s.pageIo r.vif r.pte.toNat r.classH (.read rid))
        else
          let s := (s.modPool r.vif (fun p => p.release ipa (fun f => { f with page := none, saved := none }))).leaveDrive (.storage b.1) (.read rid)
          (s.answerRefused r).wakeStorage r.vif
      | _, _ => s)

/-! ## Reclaim (R354) -/

/-- Steps 1 and 2 of R330 for one page at the guest stage. -/
def State.dropPage (s : State) (v : Vif) (page : Nat) : State :=
  s.dropEntries { vif := v.no, guest := true, op := 1, stage := 1, base := page * 65536, len := 65536, done := 0, resv := 0 }

/-- Invalidate one page at the guest stage under R330, up to the end of its step 3. -/
def State.invalidatePage (s : State) (v : Vif) (page : Nat) : State := (s.dropPage v page).cleanDomain v

/-- The leaf of a frame in use: its place and value, if it is still the one that the device wrote (R352 step 6), but for AF and D. With
any other the `cas` of a sweep fails (R354). -/
def State.frameLeaf (s : State) (vif : Nat) (f : PoolFrame) : Option (Nat × Nat) :=
  match s.walkEnv? vif, f.page, f.saved with
  | some w, some page, some saved =>
    (match s.guestFrom w (page * 65536) 5 4 w.groot with
     | .ok _ _ ea e _ => if usedEntry e false = residentLeaf saved.toNat f.ipa (pteD e) then some (ea, e) else none
     | _ => none)
  | _, _, _ => none

/-- The frame in use of a context that holds a PA, when its leaf has D = 0 (R387): the frame and its leaf's place. -/
def State.cleanFrame (s : State) (v : Vif) (pa : Nat) : Option (PoolFrame × Nat) :=
  v.pool.used.findSome? (fun f =>
    match s.ipaPa v.no f.ipa, s.frameLeaf v.no f with
    | some base, some (ea, e) => if base ≤ pa && pa < base + 65536 && !pteD e && !f.writing then some (f, ea) else none
    | _, _ => none)

/-- Poison in such a frame: the page will be read again into a new frame, and the old one is pinned (Table 24.2). -/
def State.rereadPage (s : State) (vif pa : Nat) (rec : ErrRec) : Option State :=
  match s.vif? vif with
  | none => none
  | some v =>
    match s.cleanFrame v pa with
    | none => none
    | some (f, ea) =>
      let s := (s.homeStore v.req ea (leBytes (f.saved.getD 0).toNat 8)).dropPage v (f.page.getD 0)
      let s := s.modPool vif (fun p => p.modUsed f.ipa (fun f => { f with page := none, saved := none, pinned := true }))
      some (s.logError { rec with action := 8, pa := pa })

/-- Sweep one frame: the state after it, and whether it changed anything. -/
def State.sweepFrame (s : State) (v : Vif) (f : PoolFrame) : State × Bool :=
  match s.frameLeaf v.no f, f.saved, f.page with
  | some (ea, e), some saved, some page =>
    if s.homeUnavailable ea || s.quiesced v.req ea || s.domainHeld v then (s, false)
    else if pteAF e then ((s.homeStore v.req ea (leBytes (e - 2 ^ 6) 8)).invalidatePage v page, true)
    else
      let s := (s.homeStore v.req ea (leBytes saved.toNat 8)).invalidatePage v page
      if pteD e then
        -- the class of a write-back is the model's choice (notes/assumptions/26.md)
        let s := s.modPool v.no (fun p => p.modUsed f.ipa (fun f => { f with page := none, writing := true, tries := 0 }))
        (s.queuePage (.storage (bitsOf saved.toNat 59 56)) (s.pageIo v.no saved.toNat true (.write v.no f.ipa)), true)
      else (s.modPool v.no (fun p => p.release f.ipa (fun f => { f with page := none })), true)
  | _, _, _ => (s, false)

/-- One sweep from the hand over the frames of an engine, while fewer than FLOW are free. -/
def execReclaimSweep (vif engine : Nat) (s : State) : Host.Outcome State Fault Refusal :=
  .next (match s.vif? vif with
    | none => s
    | some v =>
      let hand := SMap.get v.pool.hands 0 engine
      let order := v.pool.list.drop hand ++ v.pool.list.take hand
      let step (acc : State × Bool × Nat) (ipa : Nat) : State × Bool × Nat :=
        match acc.1.vif? vif with
        | none => acc
        | some v =>
          if v.flow ≤ v.pool.free.length then acc
          else
            match v.pool.used.find? (fun f => f.ipa == ipa && !f.pinned && !f.writing &&
                ((f.saved.map (fun e => bitsOf e.toNat 59 56 == engine)).getD false)) with
            | none => (acc.1, acc.2.1, acc.2.2 + 1)
            | some f => let (s, moved) := acc.1.sweepFrame v f; (s, acc.2.1 || moved, acc.2.2 + 1)
      let (s, moved, n) := order.foldl step (s, false, 0)
      let s := s.modPool vif (fun p => { p with hands := SMap.set p.hands 0 engine ((hand + n) % max 1 p.list.length) })
      let s := s.wakeStorage vif
      match s.vif? vif with
      | some v => if moved && v.pool.free.length < v.flow then s.post (.reclaimSweep vif engine) else s
      | none => s)

/-- The write-back of a frame ends: the blocks are written and the frame joins the free list, or it goes to the queue again, or is
pinned with an error record (R354). A frame that has been rescued meanwhile stays in use. -/
def execReclaimWritebackDone (vif ipa : Nat) (ok : Bool) (s : State) : Host.Outcome State Fault Refusal :=
  .next (match s.vif? vif with
    | none => s
    | some v =>
      match v.pool.used.find? (fun f => f.ipa == ipa && f.writing) with
      | none => s
      | some f =>
        match f.saved with
        | none => s
        | some e =>
          let b := s.entryBlocks vif e.toNat
          let work : DriveWork := .write vif ipa
          if (s.onDrive? (.storage b.1) work).isNone || s.driveBusyFor (.storage b.1) work then s
          else if ok then
            match s.ipaReach v ipa 65536 false with
            | (s, none) => s
            | (s, some ps) =>
              let s := (s.writeBlocks b.1 b.2.1 b.2.2 16 v.kdom (s.devBytes ps)).leaveDrive (.storage b.1) work
              let s := s.modPool vif (fun p =>
                if f.page.isNone then p.release ipa (fun f => { f with writing := false }) else p.modUsed ipa (fun f => { f with writing := false }))
              (s.wakeStorage vif).postSweeps vif
          else if f.tries < 2 then
            ((s.modPool vif (fun p => p.modUsed ipa (fun f => { f with tries := f.tries + 1 }))).leaveDrive (.storage b.1) work).queuePage (.storage b.1)
              (s.pageIo vif e.toNat true work)
          else
            ((s.modPool vif (fun p => p.modUsed ipa (fun f => { f with writing := false, pinned := true }))).leaveDrive (.storage b.1) work).logError
              { ErrRec.zero with etype := 7, action := 7, src := 6, die := 4 + b.1 / 8, unit := b.1,
                                 pa := ((s.ipaPa vif ipa).getD 0), part := v.part, kdom := v.kdom, va := 65536 * f.page.getD 0 })

end Sys2Proof.Machine
end

