-- ==== Sys2Proof/Machine/Issue.lean ====
section
/-!
DEFINITION. Issue (06): clause checks (R59 to R61), eligibility and the vote (R95 to R99, R222, R228), region entry (R229),
clause fetches (R61), register fills (R51, R53, R387), the comparison of checked execution (R105 to R107, R384), the spin
detector's events (R101, R102), and the delivery of asynchronous and imprecise traps (R206, R208, R337).
-/
namespace Sys2Proof.Machine

/-! ## Eligibility (R96, R98) -/

/-- Lanes that stand at one place: PC, the header of their clause, the mask. -/
structure LaneSet where
  pc : DWord
  hdr : DWord
  lanes : Mask
  deriving DecidableEq, Repr

/-- What a parked word waits for has come (R100, R106, R163). -/
def Cohort.parkOver (c : Cohort) (g : Group) (why : Park) : Bool :=
  let x : Bool := why.bytes.isEmpty ||
    (!c.mtxHeld g why.lanes && why.bytes.all (fun p => (c.unfilled p.1 p.2).isEmpty) &&
      (!why.read || why.bytes.all (fun p => (granulesOf p.1 p.2).all (granuleFull c))))
  x && why.regs.all (fun p => !g.outstanding p.1 p.2) && (why.tile.map (fun p => !g.tileBusy p.1 p.2)).getD true

/-- A lane stands parked and what it waits for has not come (R100). -/
def Cohort.parkedNow (c : Cohort) (g : Group) (i : Nat) : Bool :=
  (g.r.lane i).parked && g.parks.any (fun p => p.lanes.getLsbD i && !c.parkOver g p)

/-- A lane that could issue, but for its clause and the header waits (R98, R100, R131, R206, R228). -/
def State.laneReady (s : State) (l : Launch) (c : Cohort) (g : Group) (i : Nat) : Bool :=
  g.r.live.getLsbD i && !(g.r.lane i).waiting && !c.parkedNow g i && !g.fills.any (fun f => f.holds.getLsbD i) &&
    (!g.r.inTrap || (g.r.handler.getLsbD i && !g.r.retted.getLsbD i)) && !s.regionWait c.core l g i

/-- Put a place in rising order, once. -/
def insertPlace (p : DWord × DWord) : List (DWord × DWord) → List (DWord × DWord)
  | [] => [p]
  | q :: rest =>
    if p = q then q :: rest
    else if p.1.toNat < q.1.toNat ∨ (p.1 = q.1 ∧ p.2.toNat < q.2.toNat) then p :: q :: rest
    else q :: insertPlace p rest

/-- The sets of ready lanes by rising PC. -/
def State.laneSets (s : State) (l : Launch) (c : Cohort) (g : Group) : List LaneSet :=
  let ready := laneNumbers.filter (fun i => s.laneReady l c g i)
  let places := ready.foldl (fun l i => insertPlace ((g.r.lane i).pc, (g.r.lane i).hdr) l) []
  places.map (fun p => ⟨p.1, p.2, maskOf (ready.filter (fun i => (g.r.lane i).pc == p.1 && (g.r.lane i).hdr == p.2))⟩)

/-- The trap that a set takes at its header. A clause fetched again for lanes that stand inside it is checked again (R61, R98), and its
wait fields are not looked at (R100; DEDUCED, notes/assumptions/47.md). -/
def LaneSet.trap (t : LaneSet) (k : Clause) (l : Launch) (g : Group) : Option (Nat × Nat) :=
  k.fault.or (if t.pc ≠ t.hdr then none else waitTrap l g.r k.hdr)

/-- A set whose clause is present may start (R57, R98); at an RE or RX header all live lanes start together (R228). -/
def LaneSet.eligible (t : LaneSet) (k : Clause) (l : Launch) (g : Group) : Bool :=
  t.pc != t.hdr || (t.trap k l g).isSome ||
    (!((hdrRE k.hdr || hdrRX k.hdr) && t.lanes != g.r.live) && (hdrWaits k.hdr).all (fun n => (maskLanes t.lanes).all (fun i => !g.r.isEmpty n i)))

/-- The eligible sets of a group with their clauses. -/
def State.eligibleSets (s : State) (l : Launch) (c : Cohort) (g : Group) : List (LaneSet × Clause) :=
  (s.laneSets l c g).filterMap (fun t =>
    match s.clause? c.core (g.gidx % 4) l.vif t.hdr with
    | some k => if t.eligible k l g then some (t, k) else none
    | none => none)

/-- Headers of ready sets that are not in the buffer and not on their way. -/
def State.missingClauses (s : State) (l : Launch) (c : Cohort) (g : Group) : List DWord :=
  ((s.laneSets l c g).filter (fun t =>
    (s.clause? c.core (g.gidx % 4) l.vif t.hdr).isNone &&
      !(((s.core? c.core).map (fun c => c.fetches.any (fun f => f.slot == g.gidx % 4 && f.lid == l.lid && f.pc == t.hdr))).getD false))).map
    (fun t => t.hdr)

/-- States that keep a group from the vote, but for `yield` (R96). -/
def Group.barred (g : Group) : Bool :=
  g.stopped || g.retired || g.run1.isSome || g.run2.isSome ||
    (!g.r.inTrap && (!g.posted.isEmpty || g.slots.any (fun t => t.refused.isSome)))

/-- Class H has lost issue on a core to an eviction there, until that has released what it evicted (R97, R305, R306). -/
def State.classHOut (s : State) (core : Nat) : Bool :=
  ((s.core? core).map (fun k => !k.spills.isEmpty)).getD false || s.cohorts.any (fun c => c.core == core && c.phase == .evicting)

/-- The groups of a slot with their launches and cohorts that may take part in its vote. -/
def State.voters (s : State) (core slot : Nat) : List (Launch × Cohort × Group) :=
  (s.cohorts.filter (fun c => c.core == core && c.phase == .resident && !(c.classH && s.classHOut core))).flatMap (fun c =>
    match s.launch? c.ref.lid with
    | none => []
    | some l => if l.phase = .running then ((c.groups.filter (fun g => g.gidx % 4 == slot && !g.barred)).map (fun g => (l, c, g))) else [])

/-- Some group of the slot runs an issue set: the slot does not vote (R97). -/
def State.slotBusy (s : State) (core slot : Nat) : Bool :=
  s.cohorts.any (fun c => c.core == core && c.groups.any (fun g => g.gidx % 4 == slot && (g.run1.isSome || g.run2.isSome)))

/-- The key of Table 6.1. -/
def groupKey (c : Cohort) (g : Group) : List Nat := [if c.classH then 1 else 0, if g.spin.lowered then 1 else 0, g.age, g.gidx]

/-- Field by field. -/
def keyLess : List Nat → List Nat → Bool
  | x :: xs, y :: ys => if x < y then true else if y < x then false else keyLess xs ys
  | _, _ => false

/-- The voter of smallest key. -/
def smallestKey : List (Launch × Cohort × Group) → Option (Launch × Cohort × Group)
  | [] => none
  | x :: rest =>
    match smallestKey rest with
    | none => some x
    | some y => if keyLess (groupKey y.2.1 y.2.2) (groupKey x.2.1 x.2.2) then some y else some x

/-- Nothing but `yield` keeps the group back. -/
def Wait.yields (w : Wait) : Bool := w.drop (fun w => w == .yield) == .none

/-- The winner of the vote (R96, R211): a yielding group only when no other is eligible. -/
def State.winner (s : State) (core slot : Nat) : Option (Launch × Cohort × Group) :=
  let able := (s.voters core slot).filter (fun x => !(s.eligibleSets x.1 x.2.1 x.2.2).isEmpty)
  (smallestKey (able.filter (fun x => x.2.2.r.wait == .none))).or (smallestKey (able.filter (fun x => x.2.2.r.wait.yields)))

/-- Clauses that the slot's groups await and nothing fetches yet. -/
def State.fetchesDue (s : State) (core slot : Nat) : List (Nat × DWord) :=
  ((s.voters core slot).filter (fun x => x.2.2.r.wait.yields)).flatMap (fun x =>
    (s.missingClauses x.1 x.2.1 x.2.2).map (fun pc => (x.1.lid, pc)))

/-- A vote of the slot would move something. -/
def State.voteMoves (s : State) (core slot : Nat) : Bool :=
  !s.slotBusy core slot && ((s.winner core slot).isSome || !(s.fetchesDue core slot).isEmpty)

/-! ## Starting a clause -/

/-- Start the fetches of absent clauses. -/
def State.startFetches (s : State) (core slot : Nat) (l : List (Nat × DWord)) : State :=
  l.eraseDups.foldl (fun s (lid, pc) =>
    (s.modCore core (fun c => { c with fetches := c.fetches ++ [Fetch.mk slot lid pc false false] })).post
      (.clauseFetchDone core slot lid pc.toNat 0)) s

/-- Effects at the header of a clause, before its first word: the region (R229) and the spin detector (R101). -/
def Group.atHeader (x : Group) (hdr h : DWord) : Group := if hdrRE h then x.enterRegion hdr else x

/-- The issue of a clause by the group: one of another clause restarts the spin detector's count (R101). -/
def Group.spinSee (x : Group) (hdr : DWord) : Group :=
  if x.spin.header = hdr then x else { x with spin := { x.spin with count := 0, changed := false, header := hdr } }

/-- What a checked clause gives back when it is discarded (R106): the state after the effects at its header. -/
def Group.snapshot (x : Group) : Group := { x with ck := some x.r, unsent := [], ckPoison := x.poison, issuedCk := x.issued }

/-- The issue of a set: its clause from the header, or from the word that its lanes stand at, with the effects that its lanes
carried over a parking or a trap. Lanes that start at a header have left what they carried. -/
def Group.begin (x : Group) (second checked : Bool) (t : LaneSet) (k : Clause) : Group :=
  let top := t.pc == t.hdr
  let mine (e : Late) : Bool := !top && e.hdr == t.hdr && (e.lanes &&& t.lanes) != 0
  let carried := x.late.filter mine
  let left := ((x.late.filter (fun e => !mine e)).map (fun e =>
    if top then { e with lanes := e.lanes &&& ~~~t.lanes } else e)).filter (fun e => e.lanes != 0)
  let (r, again) := x.r.callBack (carried.flatMap (fun e => e.early))
  let x := { x with r := r, late := left }
  let x := (if top then x.atHeader t.hdr k.hdr else x).spinSee t.hdr
  let x := if checked then x.snapshot else x
  let idx := if top then 0 else (t.pc.toNat - t.hdr.toNat) / 8 - 1
  let i : Issue :=
    { hdr := t.hdr, cls := hdrClass k.hdr, rx := hdrRX k.hdr, words := k.words, idx := idx, lanes := t.lanes,
      sysWrites := again ++ carried.flatMap (fun e => e.sysWrites), after := carried.foldl (fun w e => w.join e.after) .none,
      waiting := false, held := false, why := none, dying := 0, loops := false, ended := false, differs := false }
  let parks := (x.parks.map (fun p => { p with lanes := p.lanes &&& ~~~t.lanes })).filter (fun p => p.lanes != 0)
  ({ x with parks := parks, p2next := false,
            r := x.r.modLanes t.lanes (fun _ l => { l with pc := if top then t.hdr + 8 else l.pc, parked := false }) }).setIssue second (some i)

/-- A set takes a trap at its header. A clause whose check failed is dropped from the buffer. -/
def State.headerTrap (s : State) (core : Nat) (g : GRef) (t : LaneSet) (k : Clause) (code info : Nat) : State :=
  let s := if code = 0x03 then s.modCore core (fun c => { c with clauses := removeFirst k c.clauses }) else s
  s.takeTrap g code info t.lanes t.hdr 0 0

/-- The groups of a slot that yielded, be it before a trap that they handle now, are eligible again once it has started a clause of
another group. -/
def State.endYields (s : State) (core slot : Nat) (g : GRef) : State :=
  let clear (c : Cohort) (x : Group) : Group :=
    if x.gidx % 4 = slot ∧ (⟨c.ref.lid, c.ref.cid, x.gid⟩ : GRef) ≠ g then
      { x with r := { x.r with wait := x.r.wait.drop (fun w => w == .yield), outer := x.r.outer.drop (fun w => w == .yield) } }
    else x
  let each (c : Cohort) : Cohort := if c.core = core then { c with groups := c.groups.map (clear c) } else c
  { s with cohorts := s.cohorts.map each }

/-- The vote of a slot (R98). When one of the two sets traps at its header the other does not start: whether it does is left open
(DESIGN CHOICE, notes/assumptions/43.md). -/
def State.vote (s : State) (core slot : Nat) : State :=
  let s := s.startFetches core slot (s.fetchesDue core slot)
  match s.winner core slot with
  | none => s
  | some (l, c, x) =>
    let g : GRef := ⟨c.ref.lid, c.ref.cid, x.gid⟩
    let sets := (s.eligibleSets l c x).take (if c.checked then 1 else 2)
    match sets.findSome? (fun p => (p.1.trap p.2 l x).map (fun e => (p, e))) with
    | some ((t, k), (code, info)) => s.headerTrap core g t k code info
    | none =>
      let s := s.endYields core slot g
      let s := s.modGroup g (fun y => { y with r := { y.r with wait := y.r.wait.drop (fun w => w == .yield) } })
      match sets with
      | [] => s
      | [p] => s.modGroup g (fun y => y.begin false c.checked p.1 p.2)
      | p :: q :: _ => s.modGroup g (fun y => (y.begin false c.checked p.1 p.2).begin true c.checked q.1 q.2)

/-- An uncorrectable error of a core's SRAM: a unit is poisoned (R385); an error in core-level state restarts every group of the
cohort, or fails the launch when one of them is outside every region (R22, R231, R387). -/
def State.sramError (s : State) (e : SramError) : State :=
  match e with
  | .unit g key => s.poisonUnit g key false
  | .scratch r unit => s.modCohort r (fun c => c.setScrPoison (4 * unit) 4 (some .uncorrectable))
  | .core r =>
    match s.cohort? r, s.launch? r.lid with
    | some c, some l =>
      let gs := c.groups.filter (fun x => !x.retired && x.r.live != 0)
      let g (x : Group) : GRef := ⟨r.lid, r.cid, x.gid⟩
      let first := gs.headD (Group.start 0 0 0 0)
      if gs.all (fun x => x.r.inReg) then
        gs.foldl (fun s x => s.restartGroup (g x)) (s.logError (consumeRec l c (g first) 3 0x30 1 0 0))
      else (s.logError (consumeRec l c (g first) 5 0x30 1 0 0)).failLaunch r.lid 0x30 0 0 (tcauseOf 0x30 0 0) 0
    | _, _ => s

/-- A vote; an SRAM error that is due comes to light in its place. -/
def execSlotVote (core slot : Nat) (s : State) : Host.Outcome State Fault Refusal :=
  .next (match s.sram with
    | e :: rest => ({ s with sram := rest } : State).sramError e
    | [] => if s.slotBusy core slot then s else s.vote core slot)

/-! ## Clause fetches (R61, R387) -/

/-- What a fetch reads with: its launch, and a cohort of it on the core. -/
def State.fetchCtx (s : State) (core lid : Nat) : Option (Launch × Cohort) :=
  match s.launch? lid, s.cohorts.find? (fun c => c.core == core && c.ref.lid == lid) with
  | some l, some c => some (l, c)
  | _, _ => none

/-- A group of the slot that waits for the clause. -/
def Cohort.awaiter (c : Cohort) (slot : Nat) (pc : DWord) : Nat :=
  ((c.groups.find? (fun g => g.gidx % 4 == slot && (maskLanes g.r.live).any (fun i => (g.r.lane i).hdr == pc))).map
    (fun g => g.gid)).getD 0xFFFF

/-- Bytes of a fetch: the first reads the core's own copy where there is one, the second bypasses it (R61). -/
def State.fetchByte (s : State) (q : Req) (again : Bool) (pa : Nat) : Byte := if again then s.beyondL1 q pa else s.l1Byte q pa

/-- Words as they arrive: the read XOR a transient error. -/
def noisy (words : List DWord) (noise : Nat) : List DWord :=
  (List.range words.length).map (fun k => words.getD k 0 ^^^ w64 (noise / 2 ^ (64 * k)))

/-- Change the fetches of a core at an address. -/
def State.modFetch (s : State) (core slot lid : Nat) (pc : DWord) (f : Option (Fetch → Fetch)) : State :=
  let hit (x : Fetch) : Bool := x.slot == slot && x.lid == lid && x.pc == pc
  s.modCore core (fun c => { c with fetches := match f with
    | none => c.fetches.filter (fun x => !hit x)
    | some f => updateWhere hit f c.fetches })

/-- A poisoned unit would be fetched: a page of a clean frame is read again, else the launch fails (R387). -/
def State.fetchPoison (s : State) (core slot lid : Nat) (l : Launch) (c : Cohort) (pc : DWord) (kind : Poison) (pa : Nat) : State :=
  let g : GRef := ⟨c.ref.lid, c.ref.cid, c.awaiter slot pc⟩
  let rec0 := { consumeRec l c g 8 0 6 pa pc with inj := s.injectedAt pa }
  match if kind = .uncorrectable then s.rereadPage l.vif pa rec0 else none with
  | some s => s.post (.clauseFetchDone core slot lid pc.toNat 0)
  | none =>
    let s := s.modFetch core slot lid pc none
    let gid := ((c.groups.head?).map (fun x => x.gid)).getD 0
    s.consume ⟨c.ref.lid, c.ref.cid, if g.gid = 0xFFFF then gid else g.gid⟩ kind ⟨false, false⟩ pa pc

/-- Put an arrived clause in the buffer. -/
def State.installClause (s : State) (core slot vif lid : Nat) (pc hdr : DWord) (words : List DWord) (bad : Bool) : State :=
  let s := (s.modFetch core slot lid pc none).modCore core (fun c => { c with clauses := c.clauses ++ [Clause.mk slot vif pc hdr words bad] })
  -- lanes that stand at the header of a region clause wait from now on (R228)
  ((s.cohorts.filter (fun c => c.core == core)).flatMap (fun c => (c.groups.filter (fun g => g.gidx % 4 == slot)).map (fun g =>
    (⟨c.ref.lid, c.ref.cid, g.gid⟩ : GRef)))).foldl (fun s g => s.checkDeadlock g) s

/-- The PAs of the words of a clause, or the VA of the first that has no translation. -/
def State.fetchPas (s : State) (core vif : Nat) (vas : List Nat) : Except Nat (List Nat) :=
  vas.foldl (fun acc va =>
    match acc with
    | .error v => .error v
    | .ok l => match s.translate core vif va needFetch with
      | some pa => .ok (l ++ [pa])
      | none => .error va) (.ok [])

/-- Why a fetch must wait at home, and what is posted meanwhile. -/
def State.fetchBlocked (s : State) (q : Req) (pas : List Nat) : Option State :=
  match pas.find? (fun pa => s.homeUnavailable pa) with
  | some pa => some (s.countUnavailable pa)
  | none =>
    if pas.any (fun pa => s.quiesced q pa) || s.silenced q.part then some s
    else
      let short := pas.filter (fun pa => !s.cached q pa 8 && !s.hasToken q pa)
      if short.isEmpty then none else some (s.awaitTokens q short)

/-- The lines of a fetch are read: those that the core's L1 does not give, or all of them when it is made again (R61). -/
def State.fetchReach (s : State) (q : Req) (again : Bool) (pas : List Nat) : State :=
  let movable (pa : Nat) : Bool := (((s.core? q.core).map (fun c => c.tlb)).getD []).any (fun t =>
    t.vif == q.vif && t.movable && t.pa ≤ pa && pa < t.pa + t.size)
  ((pas.map (fun pa => alignDown pa 128)).eraseDups).foldl (fun s a =>
    let q := { q with movable := movable a }
    if !again && (pas.filter (fun pa => pa / 128 == a / 128)).all (fun pa => s.l1Has q pa 8) then s
    else (s.reachHome q a false).rdcFetch q a) s

/-- One arrival. -/
def State.fetchArrives (s : State) (core slot lid : Nat) (f : Fetch) (l : Launch) (c : Cohort) (noise : Nat) : State :=
  let q := l.req c
  let pc := f.pc
  let ask (va : Nat) : State :=
    s.requestWalk l.vif (dieOf core) (some core) va accFetch core c.classH lid c.ref.cid (c.awaiter slot pc) (.fetch core slot lid pc va)
  match s.fetchPas core l.vif [pc.toNat] with
  | .error va => ask va
  | .ok hp =>
    let hdrOf (s : State) : DWord := w64 (leNat ((List.range 8).map (fun k => s.fetchByte q f.again (hp.headD 0 + k))))
    let n := if hdrTag (hdrOf s) = 0xF then hdrCount (hdrOf s) + 1 else 0
    match s.fetchPas core l.vif ((List.range n).map (fun k => pc.toNat + 8 * (k + 1))) with
    | .error va => ask va
    | .ok bp =>
      match s.fetchBlocked q (hp ++ bp) with
      | some s => s
      | none =>
        let s := s.fetchReach q f.again (hp ++ bp)
        match (hp ++ bp).findSome? (fun pa => if f.again then (s.poisonIn q.kdom pa 8) else s.l1Poison q pa 8) with
        | some (kind, pa) => s.fetchPoison core slot lid l c pc kind pa
        | none =>
          let hdr := hdrOf s
          let words := noisy (bp.map (fun pa => w64 (leNat ((List.range 8).map (fun k => s.fetchByte q f.again (pa + k)))))) noise
          if n = 0 ∨ clauseCheck words = hdr.toNat % 65536 then s.installClause core slot l.vif lid pc hdr words false
          else if f.again then s.installClause core slot l.vif lid pc hdr words true
          else (s.modFetch core slot lid pc (some (fun f => { f with again := true }))).post (.clauseFetchDone core slot lid pc.toNat 0)

def execClauseFetchDone (core slot lid pc noise : Nat) (s : State) : Host.Outcome State Fault Refusal :=
  .next (match (s.core? core).bind (fun c => c.fetches.find? (fun f => f.slot == slot && f.lid == lid && f.pc == w64 pc)) with
    | none => s
    | some f =>
      if f.stuck then s
      else
        match s.fetchCtx core lid with
        | none => s.modFetch core slot lid f.pc none
        | some (l, c) => s.fetchArrives core slot lid f l c noise)

/-! ## Register fills (R51, R53, R387) -/

/-- The lanes of a fill that take it: those in the live set; a w register belongs to the group (R53). -/
def Fill.taken (f : Fill) (live : Mask) : Mask :=
  let lanes := maskOf (f.vals.map (fun p => p.1))
  if 0xC0 ≤ f.dst then (if live = 0 then 0 else lanes) else lanes &&& live

/-- Write a fill and mark its registers full. In a lane that has left the live set it is discarded now (R53): the register keeps what it
held and stays empty. A checked clause's snapshot takes a fill that was outstanding before the clause (R106). -/
def Group.land (x : Group) (f : Fill) : Group :=
  let mine (r : Regs) : List (Nat × List Word) := f.vals.filter (fun p => (f.taken r.live).getLsbD p.1)
  let fill (r : Regs) : Regs := ((mine r).foldl (fun r p => r.writeFrom f.dst p.1 p.2) r).setEmptyN f.dst f.regs (f.taken r.live) false
  let old (r : Regs) : Bool := (mine r).any (fun p => r.isEmpty f.dst p.1)
  let y := (mine x.r).foldl (fun y p => y.put (maskOf (f.vals.map (fun p => p.1))) f.dst p.1 p.2) x
  { y with r := fill x.r, ck := x.ck.map (fun r => if old r then fill r else r) }

/-- A fill lands, or is discarded in lanes that have left the live set, or is consumed poisoned. The lanes that a checked clause has
killed live until it commits (R106). -/
def State.landReg (s : State) (g : GRef) (f : Fill) : State :=
  let s := s.modGroup g (fun x => { x with fills := x.fills.filter (fun k => k.id != f.id) })
  let done (x : Group) : Group := let y := x.unpark; { y with r := y.r.settleXrel, ck := y.ck.map Regs.settleXrel }
  match f.poison, s.group? g with
  | some (kind, pa), some x =>
    let mine := f.taken (x.ck.getD x.r).live
    let full (r : Regs) : Regs := r.setEmptyN f.dst f.regs mine false
    let old (r : Regs) : Bool := (maskLanes mine).any (fun i => r.isEmpty f.dst i)
    let s := s.modGroup g (fun x => done { x with r := full x.r, ck := x.ck.map (fun r => if old r then full r else r) })
    if mine = 0 then s
    else
      let pc := (x.r.lane ((firstLane mine).getD 0)).hdr
      if 2 ^ 60 ≤ pa then s.consume g kind ⟨pa % 2 == 1, pa / 2 % 2 == 1⟩ 0 pc else s.consume g kind ⟨false, false⟩ pa pc
  | _, _ =>
    (s.modGroup g (fun x => done ((x.land f).noteChange (regsChanged x.r (x.land f).r)))).wakeOne (GRefCohort g)

def execRegisterFill (g : GRef) (fill : Nat) (s : State) : Host.Outcome State Fault Refusal :=
  .next (match (s.group? g).bind (fun x => x.fills.find? (fun f => f.id == fill)) with
    | none => s
    | some f => s.landReg g f)

/-! ## Checked execution (R105 to R107, R384) -/

/-- A mismatch record (R383), of an injected result bit or not (R392). -/
def mismatchRec (l : Launch) (c : Cohort) (g : GRef) (etype code action : Nat) (pc : DWord) (inj : Bool) : ErrRec :=
  { consumeRec l c g action code 0 0 pc with etype := etype, inj := inj }

/-- The clause is issued again from its header (R107). -/
def State.replayClause (s : State) (g : GRef) (i : Issue) (k : DWord) : State :=
  s.modGroup g (fun x =>
    let y := ((x.discardClause.atHeader i.hdr k).spinSee i.hdr).snapshot
    ({ y with replaying := true, r := y.r.placeLanes i.lanes i.hdr (fun _ => i.hdr + 8) false }).setIssue false
      (some { i with idx := 0, sysWrites := [], after := .none, waiting := false, held := false, why := none, dying := 0, loops := false,
                     ended := false, differs := false }))

/-- A second mismatch (R384): the device takes trap 0x31. -/
def State.secondMismatch (s : State) (g : GRef) (l : Launch) (c : Cohort) (i : Issue) : State :=
  let cores := insertNat c.core l.mismatchCores
  let fails := decide (3 ≤ cores.length)
  let s := s.logError (mismatchRec l c g 5 0x31 (if fails then 5 else 6) i.hdr i.differs)
  let s := s.modGroup g (fun x =>
    let y := x.discardClause
    ({ y with replaying := false, r := y.r.placeLanes i.lanes i.hdr (fun _ => i.hdr) true }).setIssue false none)
  let s := s.modLaunch l.lid (fun l => { l with mismatchCores := cores })
  let s := s.modCore c.core (fun k => { k with suspect := true, withdrawn := true })
  let s := (s.cohorts.filter (fun k => k.core == c.core)).foldl (fun s k => s.startSave k.ref 2) s
  if fails then s.failLaunch l.lid 0x31 i.hdr 0 (tcauseOf 0x31 0 i.lanes) 0 else s

/-- The copies have been compared: equal at the clause's end commits it. -/
def execCheckedCompare (g : GRef) (mismatch : Bool) (s : State) : Host.Outcome State Fault Refusal :=
  .next (match s.cohort? (GRefCohort g), s.launch? g.lid with
    | some c, some l =>
      (match c.group? g.gid with
       | none => s
       | some x =>
         match x.run1, x.ck with
         | some i, some _ =>
           if !mismatch && !i.differs then
             if !i.ended || !s.commitFits c x then s
             -- a `bandj` that its band refuses by now is met again, and traps at its word (R277)
             else if s.bandRefused c x then s.rerunClause g i
             else (s.sendAll g).retireClause g false
           else if x.replaying then s.secondMismatch g l c i
           else
             let h := ((s.clause? c.core (x.gidx % 4) l.vif i.hdr).map (fun k => k.hdr)).getD 0
             (s.logError (mismatchRec l c g 4 0 1 i.hdr i.differs)).replayClause g i h
         | _, _ => s)
    | _, _ => s)

/-- A stopped word of a checked clause whose cause still holds at the end of the ninth cycle gives up its slot (R106): the lanes are
parked at the header. A replay that gives up counts as a first attempt when it is issued again (DESIGN CHOICE,
notes/assumptions/43.md). -/
def execCheckedWaitExpiry (g : GRef) (s : State) : Host.Outcome State Fault Refusal :=
  .next (match s.cohort? (GRefCohort g), s.group? g with
    | some c, some x =>
      (match x.run1 with
       | none => s
       | some i =>
         match if i.held then i.why else none with
         | none => s
         | some why =>
           if c.parkOver x why then s
           else s.modGroup g (fun x =>
             let y := x.discardClause
             let y := { y with r := y.r.placeLanes i.lanes i.hdr (fun _ => i.hdr) true }
             ({ y.park { why with lanes := i.lanes } with replaying := false }).setIssue false none) |>.post (.asyncTrapDelivery g))
    | _, _ => s)

/-! ## The spin detector (R101, R102) -/

/-- CYC of a core's cluster has reached a count. -/
def State.cycTo (s : State) (core n : Nat) : State := s.modCluster (clusterOf core) (fun k => { k with cyc := max k.cyc n })

/-- The group is lowered. -/
def execSpinDetectLower (g : GRef) (s : State) : Host.Outcome State Fault Refusal :=
  .next (match s.cohort? (GRefCohort g) with
    | none => s
    | some c =>
      match c.group? g.gid with
      | none => s
      | some x =>
        if x.spin.lowered || x.spin.changed || x.spin.count < 4 then s
        else
          let now := ((s.cluster? (clusterOf c.core)).map (fun k => k.cyc)).getD 0
          (s.modGroup g (fun x => { x with spin := { x.spin with lowered := true, loweredAt := now } })).post (.spinReleaseTimeout g))

/-- 4,096 cycles of CYC have passed. -/
def execSpinReleaseTimeout (g : GRef) (s : State) : Host.Outcome State Fault Refusal :=
  .next (match s.cohort? (GRefCohort g) with
    | none => s
    | some c =>
      match c.group? g.gid with
      | none => s
      | some x =>
        if x.spin.lowered then (s.cycTo c.core (x.spin.loweredAt + 4096)).modGroup g (fun x => { x with spin := x.spin.restart }) else s)

/-- When a wait of sleeping is over: the CYC value. -/
def Wait.sleepEnd : Wait → Nat
  | .sleep n start => start + n
  | .both a b => max a.sleepEnd b.sleepEnd
  | _ => 0

/-- The cycles of a `sleep` have passed (R211). -/
def execSleepExpiry (g : GRef) (s : State) : Host.Outcome State Fault Refusal :=
  .next (match s.cohort? (GRefCohort g) with
    | none => s
    | some c =>
      match c.group? g.gid with
      | none => s
      | some x =>
        if x.r.wait.has Wait.isSleep then
          (s.cycTo c.core x.r.wait.sleepEnd).modRegs g (fun r => { r with wait := r.wait.drop Wait.isSleep })
        else s)

/-! ## Asynchronous and imprecise traps (R206, R208, R337) -/

/-- An issue set at a clause boundary or waiting. -/
def Group.atBoundary (x : Group) : Bool :=
  let ok (i : Option Issue) : Bool := (i.map (fun i => i.waiting && !i.ended)).getD true
  ok x.run1 && ok x.run2

/-- A refusal waits while the group handles an earlier one (R337; those without a slot as well, DEDUCED, notes/assumptions/47.md). -/
def Group.handlesRefusal (x : Group) : Bool :=
  x.r.inTrap && (let code := x.r.tcause.toNat % 256; 0x10 ≤ code && code ≤ 0x12)

/-- Take the first posted trap. 0x20 and 0x38 have no word at fault: TPC is a free value (notes/assumptions/9.md). -/
def State.deliverPosted (s : State) (g : GRef) (x : Group) : State :=
  match x.posted with
  | [] => s
  | p :: rest =>
    -- one that a handler only holds leaves its clause alone (R208)
    let s := if x.r.inTrap && asyncCause p.code then s.modGroup g (fun y => { y with posted := rest })
      else (s.interrupt g).modGroup g (fun y => { y with posted := rest })
    match p.word with
    | none => s.tick.takeTrap g p.code p.info x.r.live (w64 (Config.freeNat s.fresh)) 0 0
    | some w =>
      let s := match w.full with
        | some (d, n) => s.modRegs g (fun r => r.setEmptyN d n w.lanes false)
        | none => s
      let skid := ((s.group? g).map (fun y => y.skid w.issuedAt)).getD 0
      if w.lanes &&& x.r.live = 0 then s
      else s.takeTrap g p.code p.info (w.lanes &&& x.r.live) w.pc w.va (w32 (x.slots.length % 256 * 65536 + skid))

def execAsyncTrapDelivery (g : GRef) (s : State) : Host.Outcome State Fault Refusal :=
  .next (match s.group? g with
    | none => s
    | some x =>
      if x.retired || x.stopped || x.r.live == 0 || !x.atBoundary || ((s.cohort? (GRefCohort g)).map (fun c => c.phase != .resident)).getD true then s
      else if !(((s.cohort? (GRefCohort g)).map (fun c => s.commitFits c x)).getD true) then s
      else if x.slots.any (fun t => t.refused.isSome) && !x.handlesRefusal then
        let s := s.deliverRefusal g
        (s.post (.asyncTrapDelivery g)).wakeOne (GRefCohort g)
      else if x.handlesRefusal && ((x.posted.head?.bind (fun p => p.word)).isSome) then s
      else s.deliverPosted g x)

end Sys2Proof.Machine
end

