-- ==== Sys2Proof/Machine/Registers.lean ====
section
/-!
DEFINITION. What a read of a register returns (R7, Table 0.3): the registers of the kick page (Tables 22.1, 20.2), of the
migration page (Table 22.3b), WRSTAT (Table 26.3), WATCHi (Table 22.5), the injector (Table 11.10) and the values that firmware sets. A write-only register, a
reserved field and an access that is not aligned read as zero.
-/
namespace Sys2Proof.Machine

/-- VSTAT[1:0] (Table 22.2). -/
def Tdisp.code : Tdisp → Nat
  | .unlocked => 0
  | .locked => 1
  | .run => 2
  | .error => 3

/-- VSTAT[4:2] (Table 22.3). -/
def Mig.code : Mig → Nat
  | .running => 0
  | .precopy => 1
  | .stopping => 2
  | .stopped => 3
  | .resuming => 4

/-- FSTAT (Table 20.2). -/
def Pool.fstat (p : Pool) : Nat :=
  p.free.length * 2 ^ 42 + p.bad * 2 ^ 21 + (p.used.filter (fun f => f.pinned)).length

/-- The 8 bytes at a multiple of 8 in the kick page below the MSI-X table. INVREQ, FRESP and LOGREQ are write-only. -/
def State.kickPageDword (s : State) (v : Vif) (off : Nat) : Nat :=
  if off < 0x800 then
    -- the last accepted TAIL (R293); an unbound slot reads zero
    ((s.queues.find? (fun q => q.vif == v.no && q.slot == off / 8)).map (fun q => q.tail)).getD 0
  else
    match off with
    | 0x808 => v.frbase
    | 0x810 => v.frlog + 2 ^ 32 * v.ftail
    | 0x818 => v.fhead
    | 0x828 => v.flistReg
    | 0x830 => v.fnum + 2 ^ 32 * v.flow
    | 0x838 => v.pool.fstat
    | 0x848 => v.tdisp.code + 4 * v.mig.code
    | _ => 0

/-- The 8 bytes at a multiple of 8 in the migration page below its window. MIGCMD and MIGACK are write-only. -/
def Vif.migDword (v : Vif) (off : Nat) : Nat :=
  let bit (b : Bool) (k : Nat) : Nat := if b then 2 ^ k else 0
  match off with
  | 0x08 => v.mig.code + bit v.migFull 3 + bit v.migEnd 4 + bit v.migRef 5 + bit v.migBadc 6 + bit v.migMiss 7
  | 0x10 => v.migNext
  | _ => 0

/-- `size` bytes at an offset of a page of 8-byte words; only an aligned access of 4 or 8 bytes reads anything. -/
def pageBytes (word : Nat → Nat) (off size : Nat) : List Byte :=
  if (size == 4 || size == 8) && off % size == 0 then ((leBytes (word (off / 8 * 8)) 8).drop (off % 8)).take size
  else List.replicate size 0

/-- The bytes that a read of a register returns. -/
def State.readRegister (s : State) (r : RegName) : List Byte :=
  let vif (no n : Nat) (f : Vif → List Byte) : List Byte := ((s.vif? no).map f).getD (List.replicate n 0)
  let value (o : Option Nat) : List Byte := leBytes (o.getD 0) 8
  match r with
  | .kickPage no off size => vif no size (fun v =>
      pageBytes (fun o => if 0x1000 ≤ o ∧ o < 0x2000 then v.msix.nat (o - 0x1000) 8 else s.kickPageDword v o) off size)
  | .window no off size => vif no size (fun v => pageBytes (fun o => if o < 65536 then v.window.nat o 8 else 0) off size)
  | .migration no off size => vif no size (fun v =>
      pageBytes (fun o => if 65536 ≤ o ∧ o < 131072 then v.window.nat (o - 65536) 8 else v.migDword o) off size)
  | .hypRingBase no => vif no 8 (fun v => leBytes v.hbase 8)
  | .hypRingLog no => vif no 8 (fun v => leBytes v.hlog 8)
  | .hypRingHead no => vif no 8 (fun v => leBytes v.hhead 8)
  | .hypRingTail no => vif no 8 (fun v => leBytes v.htail 8)
  -- Table 11.10: write-only
  | .injector _ _ => leBytes 0 8
  | .msixControl no => vif no 8 (fun v => leBytes (255 + (if v.msixMask then 2 ^ 14 else 0) + (if v.msixOn then 2 ^ 15 else 0)) 8)
  | .config no off size => vif no size (fun v => pageBytes (fun o => if o < 4096 then v.config.nat o 8 else 0) off size)
  | .qcbAddress qid => value ((s.queue? qid).map (fun q => q.qcb))
  | .qcbShadow qid _ => ((s.queue? qid).map (fun q => q.shadow)).getD (List.replicate 32 0)
  | .queueVector qid => value ((s.queue? qid).map (fun q => q.vector))
  | .faultVector no => value ((s.vif? no).map (fun v => v.faultVector))
  | .keyDomain no => value ((s.vif? no).map (fun v => v.kdom))
  | .partition no => value ((s.vif? no).map (fun v => v.part))
  | .watch part i high =>
    value (((s.part? part).bind (fun p => p.watch.toList[i]?)).map (fun w => if high then w.hi.toNat else w.lo.toNat))
  | .logReader part => value ((s.part? part).map (fun p => p.logReader))
  | .swapw part => value ((s.part? part).map (fun p => p.swapw))
  | .rgw part => value ((s.part? part).map (fun p => p.rgw))
  | .gref k => value ((s.hbms.find? (fun x => x.no == k)).map (fun x => x.gref))
  | .href k => value ((s.hbms.find? (fun x => x.no == k)).map (fun x => x.href))
  | .gal k => value ((s.ports.find? (fun x => x.no == k)).map (fun x => x.gal))
  | .hal k => value ((s.ports.find? (fun x => x.no == k)).map (fun x => x.hal))
  | .suspt g => value ((s.mgroup? g).map (fun m => m.suspt))
  | .claim c => value ((s.cluster? c).map (fun k => k.claim))
  | .larderSlots => leBytes s.larderSlots 8
  | .queueDisabled qid => value ((s.queue? qid).map (fun q => if q.disabled then 1 else 0))
  -- sets and bindings, whose writes say nothing by their value (R219, R303, R368)
  | .reserve _ _ _ _ _ | .granted _ _ | .bindQueue _ _ | .unbindQueue _ => leBytes 0 8
  | .attic die => value ((s.die? die).map (fun d => d.attic))
  | .atticBase die => value ((s.die? die).map (fun d => d.atticAt))
  | .errorRecord n => ((s.hearth.errlog[n]?).map ErrRec.toBytes).getD (List.replicate 64 0)
  | .wrstat die => value ((s.die? die).map (fun d => d.hun * 2 ^ 32 + d.wrcnt % 2 ^ 16 * 2 ^ 16 + d.wrstep))

/-- A read of a register; a record of the error log has then been read (R389). -/
def State.answerRegister (s : State) (r : RegName) : State :=
  let s' := s.send (.register r (s.readRegister r))
  match r with
  | .errorRecord n =>
    let log := s'.hearth.errlog.mapIdx (fun k e => if k = n then { e with seen := true } else e)
    { s' with hearth := { s'.hearth with errlog := log } }
  | _ => s'

end Sys2Proof.Machine
end

