-- ==== Sys2Proof/Machine/MemEvents.lean ====
section
/-!
DEFINITION. Memory's own events: requests at their home (R172, R258, R269, R376, R415), rereads of `waitc` (R180), release
actions (R177, R178, R195, R204), L1 ways taken away (R237), first-touch fills (R241), sector reads, patrol and sparing (R385,
R391, R394), and the refills of the regulators and port allowances (R362, R364).
-/
namespace Sys2Proof.Machine

/-! ## Accesses of lanes -/

/-- Poison on a clean storage-backed page that an access would consume: the page is read again (R387). -/
def State.rereadFor (s : State) (g : GRef) (l : Launch) (c : Cohort) (a : Access) : Option State :=
  if a.opc == opSt || a.opc == opStf then none
  else (s.accPas l c a).findSome? (fun pa =>
    match s.poisonIn l.kdom pa a.size with
    | some (.uncorrectable, p) => if s.l1Has (l.req c) pa a.size then none else s.rereadPage l.vif p (consumeRec l c g 8 0 6 p a.pc)
    | _ => none)

/-- Change one access of a group. -/
def State.modAccess (s : State) (g : GRef) (id : Nat) (f : Access → Access) : State :=
  s.modGroup g (fun x => { x with accs := updateWhere (fun b => b.id == id) f x.accs })

/-- An access of a lane at its home: the lanes that can go are performed, or it waits for what blocks them. An access that an older
one of its core precedes on the way to a home slice waits for it (R172); a counter that is read again has been accepted there. -/
def State.tryHome (s : State) (g : GRef) (id : Nat) (reread : Bool) : State :=
  match s.cohort? (GRefCohort g), s.launch? g.lid, s.group? g with
  | some c, some l, some x =>
    match x.accs.find? (fun a => a.id == id) with
    | none => s
    | some a =>
      let lanes := s.homeLanes l c x a
      if lanes = 0 || (!reread && s.behindHome l c a) then s.wakeOne (GRefCohort g)
      else if a.opc == opWbr || a.opc == opInvr then (s.performRange g l c a lanes).wake
      else
        match s.blockOf l c a with
        | .unavailable pa =>
          ((s.countUnavailable pa).modAccess g id (fun a => { a with unavailable := true })).post (.homeUnavailableRetry (.access g id))
        | .quiesced => ({ s with nextId := s.nextId + 1 } : State).modAccess g id (fun a => { a with quiesced := true, heldAt := s.nextId })
        | .held => s
        | .token => s.awaitTokens (a.req l c) (s.accPas l c a)
        | .none =>
          match s.rereadFor g l c a with
          | some s => s.wake
          | none => (s.performGlobal g l c a lanes).wake
  | _, _, _ => s

/-- A counter is read again after a write to it (R180). -/
def execWaitcReread (g : GRef) (acc : Nat) (s : State) : Host.Outcome State Fault Refusal :=
  .next ((s.modAccess g acc (fun a => if a.opc == opWaitc then { a with released := 0 } else a)).tryHome g acc true)

/-! ## Requests from outside the cores (R269, R356, R373, R376) -/

/-- The key domain that a sector was written under; the companion reads and writes in it (notes/assumptions/10.md). -/
def State.domainOf (s : State) (pa : Nat) : Nat := ((s.sector? pa).bind (fun x => x.kdom)).getD 0

/-- A request from outside: partition, key domain, package, address, length, whether it writes, whether it is the companion's. -/
structure Outer where
  part : Nat
  kdom : Nat
  pkg : Option Nat
  pa : Nat
  n : Nat
  write : Bool
  deriving DecidableEq, Repr

def Outer.req (o : Outer) : Req := { vif := 0xFF, part := o.part, kdom := o.kdom, classH := false, core := 0 }

/-- The outside request that an event carries. -/
def State.outer? (s : State) : HomeReq → Option Outer
  | .access _ _ | .register _ => none
  | .companionRead pa n => some ⟨((s.ownerOf pa).map (fun p => p.no)).getD 256, s.domainOf pa, none, pa, n, false⟩
  | .companionWrite pa bs => some ⟨((s.ownerOf pa).map (fun p => p.no)).getD 256, s.domainOf pa, none, pa, bs.length, true⟩
  | .remoteRead pkg part kdom pa n => some ⟨part, kdom, some pkg, pa, n, false⟩
  | .remoteWrite pkg part kdom pa bs => some ⟨part, kdom, some pkg, pa, bs.length, true⟩
  | .remoteAtom pkg part kdom pa var _ => some ⟨part, kdom, some pkg, pa, atomSize var, true⟩

/-- Ranges that must log a companion request: none while the last record is of the same page (R376). -/
def State.companionHits (s : State) (o : Outer) : List Nat :=
  match s.part? o.part with
  | none => []
  | some p => if p.logPage = some (o.pa / 65536) then [] else p.hits o.pa o.n (if o.write then 2 else 1)

/-- Perform it at home, with its reply. -/
def State.performOuter (s : State) (o : Outer) (r : HomeReq) : State :=
  let q := o.req
  let movable := ((s.die? (paDie o.pa)).map (fun d => d.counters.any (fun c => c.page == o.pa / 65536))).getD false
  let s := s.countAccess { q with movable := movable } none o.pa o.write
  match r with
  | .companionWrite pa bs | .remoteWrite _ _ _ pa bs => ((s.homeStore q pa bs).send (.data pa [])).wake
  | .remoteAtom _ _ _ pa var a =>
    let old := s.homeBytes pa o.n
    let s := match s.poisonIn o.kdom pa o.n with
      | none => s.homeStore q pa (leBytes (atomOp var (leNat old) a.toNat) o.n)
      | some _ => s
    (s.send (.data pa old)).wake
  | _ => (s.homeTouch q o.pa).send (.data o.pa (s.homeBytes o.pa o.n))

/-- A write of another package to memory homed outside this one (R269): the memory changes, this package's copies do not, and an atomic
reads what its home holds. -/
def State.performAbroad (s : State) (o : Outer) (r : HomeReq) : State :=
  match r with
  | .companionWrite pa bs | .remoteWrite _ _ _ pa bs => (s.homeWrite o.req pa bs).wake
  | .remoteAtom _ _ _ pa var a =>
    (s.homeWrite o.req pa (leBytes (atomOp var (leNat (s.mem.bytes pa o.n)) a.toNat) o.n)).wake
  | _ => s

/-- A request from outside reaches its home: an unavailable home answers so; one that must wait comes again. -/
def State.outerHome (s : State) (o : Outer) (r : HomeReq) : State :=
  let q := o.req
  let again : State := { s with inputs := s.inputs ++ [.homeSliceRequest r] }
  let hits := if o.pkg.isNone then s.companionHits o else []
  if !s.local o.pa then s.performAbroad o r
  -- a packet of a partition that is not formed here is answered with an error reply (R365)
  else if o.pkg.isSome && !(((s.part? o.part).map (fun p => p.formed)).getD false) then s.send (.errorReply o.part)
  else if s.homeUnavailable o.pa then (s.countUnavailable o.pa).send (.homeUnavailable o.pa)
  else if s.quiesced q o.pa || !s.logRoom o.part hits.length then again
  else if !s.hasToken q o.pa then { (s.awaitTokens q [o.pa]) with inputs := s.inputs ++ [.homeSliceRequest r] }
  else
    let acc : BitVec 8 := if o.write then accWrite else accRead
    (s.logAccess o.part hits acc 8 0xFF 0 0 o.pa).performOuter o r

/-- A request reaches its home slice (R172). -/
def execHomeSliceRequest (r : HomeReq) (s : State) : Host.Outcome State Fault Refusal :=
  .next (match r with
    | .access g acc => s.tryHome g acc false
    | .register r => s.answerRegister r
    | _ => match s.outer? r with
      | some o => s.outerHome o r
      | none => s)

/-- 4,096 cycles after a "home unavailable" reply (R415). Requesters outside reissue on their own. -/
def execHomeUnavailableRetry (r : HomeReq) (s : State) : Host.Outcome State Fault Refusal :=
  .next (match r with
    | .access g acc => (s.modAccess g acc (fun a => { a with unavailable := false })).wakeOne (GRefCohort g)
    | _ => s)

/-! ## Release actions (R177, R178, R195, R204) -/

/-- A write-back of a dirty line cannot be made now: its home is away or quiesced, its partition silent, or its token or allowance
spent (R359, R362 to R365, R415). `outside`: lines of other packages leave this one. -/
def State.lineBlocked (s : State) (q : Req) (outside : Bool) (l : CacheLine) : Bool :=
  let w := l.req q
  let pa := 128 * l.line
  let goesHome := s.homeHere w pa || (outside && !s.local pa) || l.bytes.any (fun p => p.2.direct)
  !l.dirtyBytes.isEmpty && (s.homeUnavailable pa || s.quiesced w pa || s.silenced l.part ||
    (goesHome && !s.hasToken w pa))

/-- The refills that a release's write-backs wait for. -/
def State.awaitRelease (s : State) (q : Req) : State :=
  ((((s.core? q.core).map (fun c => c.l1)).getD [] ++ (s.rdcDirty q).map (fun l => l.2)).filter (fun l => !l.dirtyBytes.isEmpty)).foldl
    (fun s l => s.awaitTokens (l.req q) [128 * l.line]) s

/-- Some dirty line of a core that the actions of a scope write back has a home that cannot take it now. -/
def State.releaseBlocked (s : State) (q : Req) (scope : Nat) : Bool :=
  2 ≤ scope && (((s.core? q.core).map (fun c => c.l1.any (s.lineBlocked q (5 ≤ scope)))).getD false ||
    (5 ≤ scope && (s.rdcDirty q).any (fun l => s.lineBlocked q true l.2)))

/-- What follows the release of lanes of a word that only releases. -/
def State.afterRelease (s : State) (g : GRef) (c : Cohort) (a : Access) (lanes : Mask) : State :=
  if a.opc == opFence then
    let s := s.accDone g a.id (maskLanes lanes)
    if a.acquires then s.acquireActions c.core a.scope.toNat else s
  else
    let s := s.modGroup g (fun x => { x with accs := x.accs.filter (fun b => b.id != a.id) })
    if a.opc == opBar then s.modCohort c.ref (fun c => c.arriveBar g.gid a.hnd a.size a.lanes)
    else if a.opc == opBarb then s.arriveBarb c g.gid a.hnd a.size a.lanes
    else
      match s.cmds.find? (fun k => k.gate == a.id) with
      | some k => s.post (.engineCommandStart k.eng)
      | none => s

/-- The lanes of an access that nothing holds and that owe their release. -/
def State.releasing (s : State) (l : Launch) (c : Cohort) (x : Group) (a : Access) : Mask :=
  let free := s.freeLanes l c x a
  if !a.releases || a.opc == opWbr || a.opc == opInvr then 0
  else if a.addressed then (if (s.untranslated l c a).isEmpty then s.owesRelease l c a free else 0)
  else free

/-- The write-backs of a release are complete. -/
def execReleaseActionsDone (g : GRef) (acc : Nat) (s : State) : Host.Outcome State Fault Refusal :=
  .next (match s.cohort? (GRefCohort g), s.launch? g.lid, s.group? g with
    | some c, some l, some x =>
      (match x.accs.find? (fun a => a.id == acc) with
       | none => s
       | some a =>
         let q := l.req c
         let scope := s.effScope a (s.accPas l c a)
         let lanes := s.releasing l c x a
         if lanes = 0 || s.releaseHeld q scope a.id then s
         else if s.releaseBlocked q scope then s.awaitRelease q
         else
           let s := s.releaseActions q scope
           (if a.addressed then s.markReleased g acc lanes else s.afterRelease g c a lanes).wake)
    | _, _, _ => s)

/-! ## L1 ways taken away (R237) -/

/-- Lines of a core's L1 in stripes that are no longer its ways. -/
def State.l1Excess (s : State) (core : Nat) : List CacheLine :=
  let ways := s.l1Ways core
  ((s.core? core).map (fun c => c.l1.filter (fun l => !ways.contains l.way))).getD []

/-- Each way that has been taken away is written back and invalidated. -/
def State.l1Shrink (s : State) (core : Nat) : State :=
  let q : Req := { vif := 0, part := 0, kdom := 0, classH := false, core := core }
  (s.l1Excess core).foldl (fun s l => s.evictL1 { q with pay := 2 } l) s

/-! ## Sector reads (R385, R391, R394) -/

/-- A record about a sector of memory. -/
def State.sectorRec (s : State) (pa etype code : Nat) : ErrRec :=
  { ErrRec.zero with
    etype := etype, code := code, src := if paRgn pa = 0 then 6 else 7, tunv := etype == 2,
    inj := s.injectedAt pa, die := paDie pa, unit := paStack pa * 256, pa := pa,
    part := (s.ownerOf pa).map (fun p => p.no), kdom := s.domainOf pa }

def State.modStack (s : State) (no : Nat) (f : Stack → Stack) : State := { s with hbms := updateWhere (fun k => k.no == no) f s.hbms }

/-- A corrected error: one record per address in a patrol pass, with COUNT; the sixteenth spares the row. -/
def State.corrected (s : State) (pa : Nat) : State :=
  let k := paStack pa
  let sec := pa / 64
  let n := ((s.hbms.find? (fun x => x.no == k)).map (fun x => SMap.get x.corrected 0 sec)).getD 0
  let s := s.modStack k (fun x => { x with
    corrected := SMap.set x.corrected 0 sec (n + 1)
    spared := if n + 1 = 16 then x.spared ++ [sec] else x.spared })
  if n = 0 || !(s.hearth.errlog.any (fun e => e.etype == 1 && e.pa == pa)) then s.logError (s.sectorRec pa 1 0)
  else
    let fold (e : ErrRec) : ErrRec := { e with count := e.count + 1 }
    { s with hearth := { s.hearth with errlog := updateWhere (fun e => e.etype == 1 && e.pa == pa) fold s.hearth.errlog } }

/-- The outcome of one read by Table 24.1. -/
def State.sectorOutcome (s : State) (pa : Nat) (k : SectorCheck) : State :=
  match k.ecc, k.tagPass with
  | .uncorrectable, _ => (s.logError (s.sectorRec pa 2 0)).modSector pa (fun x => { x with poison := some .uncorrectable })
  | _, false => (s.logError (s.sectorRec pa 6 0x32)).modSector pa (fun x => { x with poison := some .integrity })
  | .clean, true => s
  | .corrected, true => s.corrected pa

/-- A failure of either check is read once more, and the second read decides. -/
def execHbmSectorRead (sector : Nat) (first second : SectorCheck) (s : State) : Host.Outcome State Fault Refusal :=
  .next (let k := if first.ecc = .uncorrectable ∨ !first.tagPass then second else first
         if s.local (64 * sector) then s.sectorOutcome (64 * sector) k else s)

/-- Patrol reads one sector and corrects it; a pass of the stack ends with its 2^30 sectors. -/
def execPatrolScrubRead (stack : Nat) (chk : SectorCheck) (s : State) : Host.Outcome State Fault Refusal :=
  .next (match s.hbms.find? (fun k => k.no == stack) with
    | none => s
    | some k =>
      let s := s.sectorOutcome (s.pkg * 2 ^ 41 + stack * 2 ^ 36 + 64 * k.patrol) chk
      s.modStack stack (fun x =>
        if x.patrol + 1 = 2 ^ 30 then { x with patrol := 0, corrected := [] } else { x with patrol := x.patrol + 1 }))

/-! ## Refills (R362, R364) -/

/-- A stack's buckets are refilled; requests that waited for tokens go on. -/
def execRegulatorRefill (stack : Nat) (s : State) : Host.Outcome State Fault Refusal :=
  .next (if s.hbms.any (fun k => k.no == stack) then
      (s.modStack stack (fun k => { k with gb := min (k.gb + k.gref) k.gref, hb := min (k.hb + k.href) k.href })).retry
    else s)

/-- A port's allowances are refilled; packets that waited leave. -/
def execRafterAllowanceRefill (port : Nat) (s : State) : Host.Outcome State Fault Refusal :=
  let fill (p : Port) : Port := { p with gb := min (p.gb + p.gal) p.gal, hb := min (p.hb + p.hal) p.hal }
  .next (if s.ports.any (fun p => p.no == port) then ({ s with ports := updateWhere (fun p => p.no == port) fill s.ports } : State).flushOut.retry else s)

/-! ## First-touch fills (R241) -/

/-- The 128 bytes of a sector land: its granules are full, it is filled and clean. -/
def Cohort.landSector (c : Cohort) (e sec : Nat) (bs : List Byte) (bad : List (Nat × Poison)) : Cohort :=
  let c := { c with scratch := c.scratch.putBytes sec bs }
  let c := (c.setScrPoison sec 128 none).setGranules sec 128 true
  let c := c.poisonUnits sec 128 bad
  (c.modMap e (fun m => { m with
    filled := insertNat sec m.filled, filling := m.filling.filter (fun f => f.sec != sec)
    dirty := m.dirty.filter (fun o => o / 128 != sec / 128) })).unpark

/-- A fill that has read its bytes lands; the band fills of the die that waited for it follow. -/
def State.landFilling (s : State) (r : CRef) (core e : Nat) (f : Filling) : State :=
  match f.data with
  | none => s
  | some bs =>
    let s := (s.modCohort r (fun c => c.landSector e f.sec bs f.bad)).wakeOne r
    let die := dieOf core
    let s := (s.cmds.filter (fun k => !k.waiting && GRefCohort k.owner == r)).foldl (fun s k => s.postWork k) s
    (((s.die? die).map (fun d => d.bandFills)).getD []).foldl (fun s x => if x.data.isSome then s.post (.bandFillLand die x.id) else s) s

/-- A mapped sector's fill that has not read yet: a plain load of 128 bytes. -/
def State.fillSector (s : State) (r : CRef) (l : Launch) (c : Cohort) (e sec : Nat) : State :=
  let m := c.mapEntry e
  let q := m.req l c
  let va := m.va + (sec - m.s)
  match s.tlb? c.core l.vif va needRead with
  | none =>
    s.requestWalk l.vif (dieOf c.core) (some c.core) va (accRead ||| accMap) c.core c.classH r.lid r.cid 0xFFFF (.mapFill r e sec)
  | some t =>
    let pa := t.paOf va
    if s.homeUnavailable pa then s.countUnavailable pa
    else if s.quiesced q pa || s.silenced l.part then s
    else if !s.cached q pa 128 && !s.hasToken q pa then s.awaitTokens q [pa]
    else
      let again := (s.fillPoison q pa).findSome? (fun p => if p.2 == .uncorrectable then
          s.rereadPage l.vif (pa + p.1) (consumeRec l c ⟨r.lid, r.cid, 0xFFFF⟩ 8 0 6 (pa + p.1) 0)
        else none)
      match again with
      | some s => s.post (.firstTouchFillDone r e sec)
      | none => (s.readSector r q t e sec pa).post (.firstTouchFillDone r e sec)

/-- A fill reads, where it could not when it started, or lands. -/
def execFirstTouchFillDone (r : CRef) (entry sector : Nat) (s : State) : Host.Outcome State Fault Refusal :=
  .next (match s.cohort? r, s.launch? r.lid with
    | some c, some l =>
      (match (c.mapEntry entry).filling.find? (fun f => f.sec == sector) with
       | none => s
       | some f => if f.data.isNone then s.fillSector r l c entry sector else s.landFilling r c.core entry f)
    | _, _ => s)

end Sys2Proof.Machine
end

