-- ==== Sys2Proof/Machine/EngineEvents.lean ====
section
/-!
DEFINITION. Engines at work: starting and validating commands (R195, R197, R425), their data accesses with faults and the larder
(R241, R258, R342, R386), copies and fills (Table 11.4), tensor streams (R201), storage commands (R349, Table 11.6), and the
completion of every command (R196 to R198).
-/
namespace Sys2Proof.Machine

/-! ## Validation (R197) -/

/-- The reserved bits of the header and n reserved bytes at an offset are zero (Table 11.3). -/
def cmdReserved (ws : List Word) (zeros : List (Nat × Nat)) : Bool :=
  let bs := cmdBytes ws
  cmdFlags ws < 4 && cmdField ws 2 1 < 64 && zeroBytes bs 3 1 && zeros.all (fun z => zeroBytes bs z.1 z.2)

/-- The members of a group in rising order, and this package's rank. -/
def State.ranks (s : State) (m : MGroup) : List Nat × Nat :=
  let ms := membersOf m.members
  (ms, (ms.findIdx? (fun p => p == s.pkg)).getD 0)

/-- Status 1 of a pushed command: OP, fields and reserved bytes. For a storage flush only MOFF is checked besides, and a command beyond the
capacity of its namespace has status 1 too (DESIGN CHOICE, notes/assumptions/43.md). -/
def State.fieldsOk (s : State) (k : Cmd) : Bool :=
  let f := cmdField k.words
  let op := k.op
  match k.eng with
  | .copy _ => (op == 1 || op == 2) && cmdReserved k.words [(0x0A, 2), (0x28, 24)] && 1 ≤ f 0x14 4 && f 0x14 4 ≤ 2 ^ 24 &&
      1 ≤ f 0x18 4 && f 0x18 4 ≤ 65536
  | .collective _ =>
    (match s.mgroup? (f 0x1C 2) with
     | none => false
     | some m =>
       1 ≤ op && op ≤ 4 && cmdReserved k.words [(0x24, 28)] && f 8 1 ≤ 2 && (3 ≤ op || f 9 1 ≤ 2) && f 0x22 1 ≤ 16 &&
         (f 0x23 1 == 0 || (f 0x23 1 == 1 && op == 1 && f 9 1 == 0 && f 8 1 ≤ 1)) &&
         (op != 4 || f 0x20 2 < (membersOf m.members).length))
  | .storage e =>
    let cap := ((s.part? k.part).bind (fun p => p.nsi.find? (fun (g, _, nsid, _) => g == e && nsid == f 8 4))).map
      (fun (_, _, _, cap) => cap)
    1 ≤ op && op ≤ 3 && cmdReserved k.words [(0x0D, 3), (0x20, 32)] && cap.isSome &&
      (op == 3 || (1 ≤ f 0x14 4 && f 0x14 4 ≤ 65536 && f 0x18 8 + f 0x14 4 ≤ cap.getD 0))
  | .launchQueue => op == 1 && cmdReserved k.words [(9, 3), (0x10, 48)] && f 0x0C 4 % 64 == 0
  | .tstream _ => (shapeOf k.words).ok

/-- Status 2: handles and ranges. -/
def State.rangesOk (s : State) (l : Launch) (k : Cmd) : Bool :=
  let f := cmdField k.words
  let ok (r : Nat × Nat × Nat × Bool) (spaces : List Nat) : Bool := (l.engineRange r.1 r.2.1 r.2.2.1 r.2.2.2 spaces).isSome
  match k.eng with
  | .copy _ => (s.pushRanges k.words 0).all (fun r => ok r [0, 1])
  | .collective _ => (s.pushRanges k.words 1).all (fun r => ok r [0])
  | .storage _ => f 0x10 4 % 16 == 0 && (s.pushRanges k.words 2).all (fun r => ok r [0])
  | .launchQueue => ok (f 8 1, f 0x0C 4, 64, false) [0]
  | .tstream _ =>
    let h := shapeOf k.words
    let g := l.handle h.ghnd
    let rows := boxRows h k.coords
    g.allows ⟨!h.dir, h.dir, false, true⟩ && g.space == 0 &&
      rows.all (fun r => r.lo == r.hi || (0 ≤ r.g + r.lo * h.esz && (r.g + r.hi * h.esz).toNat ≤ g.limit)) &&
      rows.all (fun r => let p := r.scratch h; p.1 + p.2 ≤ l.scr)

/-- The status that validation gives a command, if any. -/
def State.validate (s : State) (l : Launch) (k : Cmd) : Option Nat :=
  if !s.fieldsOk k then some 1 else if !s.rangesOk l k then some 2 else none

/-! ## Starting (R195, R399) -/

/-- The gate of a command is open: the release of its push is over. -/
def State.gateOpen (s : State) (k : Cmd) : Bool :=
  k.gate = 0 || (match s.group? k.owner with
    | some x => !(x.accs.any (fun a => a.id == k.gate))
    | none => true)

/-- The membership group of a collective command. -/
def State.cmdGroup (s : State) (k : Cmd) : Option MGroup :=
  match k.eng with
  | .collective _ => s.mgroup? (cmdField k.words 0x1C 2)
  | _ => none

/-- Started commands of a membership group on this package. -/
def State.collsOf (s : State) (group : Nat) : List Cmd :=
  s.cmds.filter (fun k => k.coll.isSome && k.stage == .started && ((s.cmdGroup k).map (fun m => m.no)) == some group)

/-- A collective command may start now: fewer than four of its group run, and no agreement stops the group. -/
def State.collFree (s : State) (k : Cmd) : Bool :=
  match s.cmdGroup k with
  | none => true
  | some m => !m.stopped && m.pausing.isNone && (s.collsOf m.no).length < 4

/-- Launch commands whose children have not started yet. -/
def State.childless (s : State) : List Cmd := s.cmds.filter (fun k => k.eng == .launchQueue && k.stage == .started && k.child.isNone)

/-- The launch queue may start a command: class G before class H, and otherwise in enqueue order (R298). -/
def State.childFree (s : State) (k : Cmd) : Bool := k.eng != .launchQueue || s.childless.all (fun j => j.classH && !k.classH)

/-- The first command of a queue that may start: commands of one group keep their order. -/
def State.startable (s : State) (q : List Nat) : Option Cmd :=
  let ks := q.filterMap (fun id => s.cmd? id)
  ks.find? (fun k => k.stage == .queued && s.gateOpen k && s.collFree k && s.childFree k && !(s.silenced k.part) &&
    ks.all (fun j => k.id ≤ j.id || j.owner != k.owner))

/-- Take a command out of the queues of its engine. -/
def State.unqueue (s : State) (k : Cmd) : State :=
  s.modEngine k.eng (fun e => { e with queueG := e.queueG.filter (fun i => i != k.id), queueH := e.queueH.filter (fun i => i != k.id) })

/-- The collective state of a command that starts. -/
def Coll.start (m : MGroup) (pushed : Nat) (reweigh : Bool) : Coll :=
  { view := m.view, members := m.members, pushed := pushed, finals := [], sources := [], added := [], bad := [], sent := false,
    stopped := false, fetching := false, reweigh := reweigh }

/-- A storage command is submitted to its drive (R348). -/
def State.toDrive (s : State) (k : Cmd) : State :=
  match k.eng with
  | .storage e =>
    let b := (k.blocks).getD (e, cmdField k.words 8 4, 0, 0)
    s.submit k.eng { work := .cmd k.id, classH := k.classH, nsid := b.2.1, lba := b.2.2.1, n := b.2.2.2 }
  | _ => s

/-- Start a command: validate it, and let its work begin. -/
def State.startCmd (s : State) (k : Cmd) : State :=
  let s := s.unqueue k
  match s.launch? k.owner.lid with
  | none => s.endCmd k.id 5
  | some l =>
    match s.validate l k with
    | some status => s.endCmd k.id status
    | none =>
      -- one that a view installation met in its queue runs re-weighted (R405)
      let coll := (s.cmdGroup k).map (fun m => match k.coll with
        | some c => Coll.start m c.pushed c.reweigh
        | none => Coll.start m (membersOf m.members).length false)
      let s := s.modCmd k.id (fun k => { k with stage := .started, ran := true, coll := coll })
      let s := s.toDrive k
      match s.cmd? k.id with
      | some k => s.postWork k
      | none => s

/-- The explicit command that an engine starts next: class G first. A storage engine starts one while its queue pair has room, before
any page work of class H (R348, R361). -/
def State.nextCmd (s : State) (e : EngineId) (x : Engine) : Option Cmd :=
  match e with
  | .storage _ =>
    (if x.driveRoom false false then s.startable x.queueG else none).or
      (if x.pageH.isEmpty || !x.driveRoom true true then (if x.driveRoom true false then s.startable x.queueH else none) else none)
  | _ => (s.startable x.queueG).or (s.startable x.queueH)

/-- The page work that a storage engine submits next: class G before everything, class H after the explicit commands of class G
(R348). -/
def Engine.nextPage (x : Engine) (classH : Bool) : Option DriveIo :=
  if x.driveRoom classH true then (if classH then x.pageH else x.pageG).head? else none

/-- Submit page work. -/
def State.submitPage (s : State) (e : EngineId) (io : DriveIo) : State :=
  let cut (l : List DriveIo) : List DriveIo := removeFirst io l
  (((s.modEngine e (fun x => { x with pageG := cut x.pageG, pageH := cut x.pageH })).submit e io).postDrive io.work).post
    (.engineCommandStart e)

/-- An engine starts the next command, class G first; a storage engine takes paging before explicit commands of a class. -/
def execEngineCommandStart (e : EngineId) (s : State) : Host.Outcome State Fault Refusal :=
  .next (match s.engine? e with
    | none => s
    | some x =>
      match x.nextPage false, s.nextCmd e x, x.nextPage true with
      | some io, _, _ => s.submitPage e io
      | none, some k, _ => (s.startCmd k).post (.engineCommandStart e)
      | none, none, some io => s.submitPage e io
      | none, none, none => s)

/-! ## Pages of a command (R335, R342) -/

/-- What a command's access meets at a page. -/
inductive PageAns where
  | ok (pa : Nat)
  /-- The bytes go to the larder under a record. -/
  | larder (recId : Nat)
  | away (pa : Nat)
  | hold
  | onRec (recId : Nat)
  | walk
  deriving DecidableEq, Repr

/-- The open record that an access to a page joins (R335). -/
def State.openRec? (s : State) (vif va : Nat) (need : BitVec 4) : Option FaultRec :=
  let find (kind ipa : Nat) : Option FaultRec :=
    s.recs.find? (fun r => r.vif == vif && r.kind == kind && r.page == faultPage kind va ipa)
  match (s.walkEnv? vif).map (fun w => s.walkTables w va need) with
  | some (.fault kind _ _ ipa _) => find kind ipa
  | some (.storage e _) => find (if ptePerm e &&& need == need then 5 else 2) 0
  | _ => none

/-- A request in the name of a command, under the cache policy of a handle (R250). -/
def Cmd.req (k : Cmd) (policy : Nat := 0) : Req :=
  { vif := k.vif, part := k.part, kdom := k.kdom, classH := k.classH, core := k.core, policy := policy }

def State.enginePage (s : State) (k : Cmd) (va : Nat) (need : BitVec 4) : PageAns :=
  let write := need.getLsbD 1
  match s.larder? k.vif (va / 65536) with
  | some l => if write then .larder l.recId else .onRec l.recId
  | none =>
    match s.agentPa k.vif va need with
    | some pa =>
      if s.homeUnavailable pa then .away pa
      else if s.quiesced k.req pa || s.silenced k.part then .hold
      else .ok pa
    | none =>
      match s.openRec? k.vif va need with
      | some r =>
        if write && (r.kind == 1 || r.kind == 3 || r.kind == 5) && s.larder.length < s.larderSlots then .larder r.id
        else .onRec r.id
      | none => .walk

/-- A range of virtual addresses that a command reads or writes, with the cache policy of its handle. -/
structure Touch where
  va : Nat
  n : Nat
  write : Bool
  policy : Nat
  deriving DecidableEq, Repr

def Touch.need (t : Touch) : BitVec 4 := if t.write then needWrite else needRead

/-- The pages of a list of touches, each once: first byte of the page, and whether it is written. -/
def touchPages (ts : List Touch) : List (Nat × Bool) :=
  (ts.flatMap (fun t => if t.n = 0 then [] else (pagesOf t.va t.n).map (fun p => (alignDown p 65536, t.write)))).eraseDups

/-- Make a command wait on a record. -/
def State.joinRec (s : State) (k : Cmd) (id : Nat) : State :=
  (s.modRec id (fun r => if r.waiters.contains (.command k.id) then r else { r with waiters := r.waiters ++ [.command k.id] })).modCmd
    k.id (fun k => { k with waiting := true })

/-- What a page that stops a command brings about. -/
def State.stopAt (s : State) (k : Cmd) (va : Nat) (write : Bool) (a : PageAns) : State :=
  match a with
  | .away pa => s.countUnavailable pa
  | .onRec id | .larder id => s.joinRec k id
  | .walk =>
    (s.requestWalk k.vif (dieOf k.core) none va ((if write then accWrite else accRead) ||| accEngine) k.core k.classH k.owner.lid
      k.owner.cid 0xFFFF (.command k.id)).modCmd k.id (fun k => { k with waiting := true })
  | _ => s

/-- The state in which a command waits for its pages, or none when every page can be accessed. -/
def State.engineStop (s : State) (k : Cmd) (ts : List Touch) : Option State :=
  let pages := (touchPages ts).map (fun p => (p, s.enginePage k p.1 (if p.2 then needWrite else needRead)))
  let stops := pages.filter (fun p => match p.2 with
    | .ok _ | .larder _ => false
    | _ => true)
  let fresh := pages.filter (fun p => match p.2 with
    | .larder _ => (s.larder? k.vif (p.1.1 / 65536)).isNone
    | _ => false)
  let extra := fresh.drop (s.larderSlots - s.larder.length)
  if stops.isEmpty && extra.isEmpty then none
  else some ((stops ++ extra).foldl (fun s p => s.stopAt k p.1.1 p.1.2 p.2) s)

/-- AGENT of an engine (Table 19.7). -/
def engineAgent : EngineId → Nat
  | .copy _ => 1
  | .tstream _ => 2
  | .collective _ => 3
  | .storage _ => 4
  | .launchQueue => 9

/-- The translations of a command's touches are logged (R376). -/
def State.logTouches (s : State) (k : Cmd) (ts : List Touch) : Option State :=
  let pages := touchPages ts
  let ok (write : Bool) : List (Nat × Nat × Nat) := pages.filterMap (fun p =>
    if p.2 != write then none
    else match s.enginePage k p.1 (if write then needWrite else needRead) with
      | .ok pa => some (p.1, pa, 65536)
      | _ => none)
  (s.logPages k.part k.vif k.owner.lid (engineAgent k.eng) (accRead ||| accEngine) needRead (ok false)).bind (fun s =>
    s.logPages k.part k.vif k.owner.lid (engineAgent k.eng) (accWrite ||| accEngine) needWrite (ok true))

/-! ## Data accesses -/

/-- A byte in transit, with the poison that it carries (R386). -/
abbrev PByte := Byte × Option Poison

/-- Parts of a range on its pages, as (VA, length). -/
def pageParts (va n : Nat) : List (Nat × Nat) :=
  (pagesOf va n).map (fun p => (p, min (va + n) (alignDown p 65536 + 65536) - p))

/-- The state in which a command waits for the tokens and allowances of its lines (R362, R364), or none. -/
def State.tokenStop (s : State) (k : Cmd) (ts : List Touch) : Option State :=
  let lines (t : Touch) : List Nat := (if t.n = 0 then [] else pageParts t.va t.n).flatMap (fun p =>
    match s.enginePage k p.1 t.need with
    | .ok pa => (linesOf pa p.2).filter (fun a =>
        let q := k.req t.policy
        (t.write || !(s.rdcHit q a || s.replicaHit q a)) && !s.hasToken q a)
    | _ => [])
  let lacks := ts.flatMap lines
  if lacks.isEmpty then none else some (s.awaitTokens k.req lacks)

/-- A write of an engine at its home (R258); what a core's copy engine writes leaves the core's own L1 (R255). -/
def State.engineStore (s : State) (k : Cmd) (q : Req) (pa : Nat) (bs : List Byte) : State :=
  match k.eng with
  | .copy _ => s.agentStore q pa bs
  | _ => s.homeStore q pa bs

/-- The request of a command's access to a page. -/
def State.pageReq (s : State) (k : Cmd) (va policy : Nat) : Req := { k.req policy with movable := s.leafMovable k.vif va }

/-- Read a range at its home, or in the die's RDC, with poison. -/
def State.engineRead (s : State) (k : Cmd) (va n policy : Nat) : State × List PByte :=
  if n = 0 then (s, [])
  else (pageParts va n).foldl (fun acc p =>
    match acc.1.agentPa k.vif p.1 needRead with
    | none => (acc.1, acc.2 ++ List.replicate p.2 (0, none))
    | some pa =>
      let q := acc.1.pageReq k p.1 policy
      let s := acc.1.agentReach q pa p.2 false
      let bs := s.agentBytes q [(p.1, pa, p.2)]
      (s, acc.2 ++ (List.range p.2).map (fun i => (bs.getD i 0, s.poisonAt k.kdom (pa + i))))) (s, [])

/-- Poison the sectors of memory that poisoned bytes were written to. -/
def State.markPoison (s : State) (pa : Nat) (bs : List PByte) : State :=
  (List.range bs.length).foldl (fun s i =>
    match (bs.getD i (0, none)).2 with
    | some p => s.modSector (pa + i) (fun x => { x with poison := some p })
    | none => s) s

/-- Write a range at its home (R258), or into the larder (R342). -/
def State.engineWrite (s : State) (k : Cmd) (va policy : Nat) (bs : List PByte) : State :=
  if bs.isEmpty then s
  else (pageParts va bs.length).foldl (fun s p =>
    let part := (bs.drop (p.1 - va)).take p.2
    match s.enginePage k p.1 needWrite with
    -- the write counts as performed: an answer finds the command no more (R342, R344)
    | .larder id => ((s.larderWrite k.vif k.kdom id p.1 (part.map (fun b => b.1))).getD s).modRec id
        (fun r => { r with waiters := r.waiters.filter (fun w => w != .command k.id) })
    | .ok pa =>
      let q := s.pageReq k p.1 policy
      ((s.agentReach q pa p.2 true).engineStore k q pa (part.map (fun b => b.1))).markPoison pa part
    | _ => s) s

/-- A cohort that has left its core: an access to a mapped sector waits for the restore. -/
def State.scratchAway (s : State) (k : Cmd) (rows : List (Nat × Nat)) : Bool :=
  match s.cohort? (GRefCohort k.owner) with
  | none => false
  | some c => !(match c.phase with
      | .resident | .draining _ => true
      | _ => false) && rows.any (fun r =>
      (List.range ((r.1 % 128 + r.2 + 127) / 128)).any (fun i => (c.mapAt (max r.1 (alignDown r.1 128 + 128 * i))).isSome))

/-- The state in which a command waits for mapped sectors, or none. A sector that it would write whole is not taken while a
first-touch fill of it is under way (R241). -/
def State.scratchStop (s : State) (l : Launch) (k : Cmd) : Option State :=
  let use := l.scratchUse k
  if s.scratchAway k (use.1 ++ use.2) then some s
  else
    match s.cohort? (GRefCohort k.owner) with
    | none => none
    | some c =>
      match c.sectorsNeeded use.1 use.2 with
      | [] => if use.2.any (fun r => c.fillingIn r.1 r.2) then some s else none
      | need => some (s.startFills c.ref need)

/-- Read scratchpad bytes of the owner's cohort. -/
def State.scratchRead (s : State) (k : Cmd) (o n : Nat) : List PByte :=
  match s.cohort? (GRefCohort k.owner) with
  | none => []
  | some c => (List.range n).map (fun i => (c.scratch.byte (o + i), c.scrPoisoned (o + i) 1))

/-- Poison the units that poisoned bytes were written to. -/
def Cohort.markPoison (c : Cohort) (o : Nat) (bs : List PByte) : Cohort :=
  (List.range bs.length).foldl (fun c i =>
    match (bs.getD i (0, none)).2 with
    | some p => c.setScrPoison (o + i) 1 (some p)
    | none => c) c

/-- Write scratchpad bytes: sectors, granules, poison (R239, R241). -/
def State.scratchWrite (s : State) (k : Cmd) (o : Nat) (bs : List PByte) : State :=
  if bs.isEmpty then s
  else
    let put (c : Cohort) : Cohort := ((c.deliver o (bs.map (fun b => b.1))).markPoison o bs).unpark
    (s.modCohort (GRefCohort k.owner) put).wakeOne (GRefCohort k.owner)

/-- Do the work of a started command once everything it touches can be accessed. -/
def State.engineDo (s : State) (id : Nat) (ts : Launch → Cmd → List Touch) (f : Launch → Cmd → State → State) : State :=
  match s.cmd? id with
  | none => s
  | some k =>
    if k.stage ≠ .started ∨ k.waiting then s
    else
      match s.launch? k.owner.lid with
      | none => s.endCmd id 5
      | some l =>
        match s.engineStop k (ts l k) with
        | some s => s
        | none =>
          match s.scratchStop l k with
          | some s => s
          | none =>
            match s.tokenStop k (ts l k) with
            | some s => s
            | none =>
              match s.logTouches k (ts l k) with
              | none => s
              | some s => (f l k s).wake

/-! ## Copies and fills (Table 11.4) -/

/-- One end of a copy row: GLOBAL or SCRATCH address. -/
structure CopyEnd where
  scratch : Bool
  addr : Nat
  policy : Nat
  deriving DecidableEq, Repr

def copyEnd (h : Handle) (off : Nat) : CopyEnd := { scratch := h.space == 1, addr := h.base + off, policy := h.policy }

def State.readEnd (s : State) (k : Cmd) (e : CopyEnd) (n : Nat) : State × List PByte :=
  if e.scratch then (s, s.scratchRead k e.addr n) else s.engineRead k e.addr n e.policy

def State.writeEnd (s : State) (k : Cmd) (e : CopyEnd) (bs : List PByte) : State :=
  if e.scratch then s.scratchWrite k e.addr bs else s.engineWrite k e.addr e.policy bs

/-- The GLOBAL touches of a copy command. -/
def State.copyTouches (s : State) (l : Launch) (k : Cmd) : List Touch :=
  let f := cmdField k.words
  let sh := l.handle (f 8 1)
  let dh := l.handle (f 9 1)
  (copyRowOffsets k.words).flatMap (fun r =>
    (if k.op = 1 ∧ sh.space = 0 then [⟨sh.base + r.1, f 0x14 4, false, sh.policy⟩] else []) ++
      (if dh.space = 0 then [⟨dh.base + r.2, f 0x14 4, true, dh.policy⟩] else []))

/-- Bytes of a copy in order: source and destination address of each, with the old source byte. -/
structure CopyByte where
  src : Nat
  dst : Nat
  val : PByte
  deriving DecidableEq, Repr

/-- One pass over the bytes of an overlapping copy: a byte whose source has been written takes the old or the new byte. -/
def overlapPass (free : Nat → Bool) (bs : List CopyByte) : List CopyByte :=
  (bs.zipIdx.foldl (fun acc x =>
    match acc.2.find? (fun w => w.1 == x.1.src) with
    | some w => (acc.1 ++ [{ x.1 with val := if free x.2 then w.2 else x.1.val }],
        (x.1.dst, if free x.2 then w.2 else x.1.val) :: acc.2)
    | none => (acc.1 ++ [x.1], (x.1.dst, x.1.val) :: acc.2)) (([], []) : List CopyByte × List (Nat × PByte))).1

/-- The bytes that an overlapping copy writes: free choices in a rising and then a falling pass. -/
def State.overlapped (s : State) (bs : List CopyByte) : List CopyByte :=
  let free (i : Nat) : Bool := Config.freeNat (s.fresh + i) % 2 == 1
  let back (i : Nat) : Bool := Config.freeNat (s.fresh + bs.length + i) % 2 == 1
  (overlapPass back (overlapPass free bs).reverse).reverse

/-- Copy rows: every source byte is read, then every destination byte is written. -/
def State.copyWork (s : State) (l : Launch) (k : Cmd) : State :=
  let f := cmdField k.words
  let n := f 0x14 4
  let sh := l.handle (f 8 1)
  let dh := l.handle (f 9 1)
  let rows := copyRowOffsets k.words
  let go (acc : State × List CopyByte) (r : Nat × Nat) : State × List CopyByte :=
    let (s, bs) := acc.1.readEnd k (copyEnd sh r.1) n
    (s, acc.2 ++ (List.range n).map (fun i => CopyByte.mk (sh.base + r.1 + i) (dh.base + r.2 + i) (bs.getD i (0, none))))
  let (s, bs) := rows.foldl go (s, [])
  let meets := sh.space == dh.space && bs.any (fun b => bs.any (fun c => b.src == c.dst))
  let out := if meets then s.overlapped bs else bs
  let s : State := { s with fresh := s.fresh + 2 * bs.length }
  let s := (List.range rows.length).foldl (fun s i =>
    s.writeEnd k (copyEnd dh (rows.getD i (0, 0)).2) (((out.drop (n * i)).take n).map (fun b => b.val))) s
  s.endCmd k.id 0

def execCopyRows (cmd : Nat) (s : State) : Host.Outcome State Fault Refusal :=
  .next (s.engineDo cmd s.copyTouches (fun l k s => s.copyWork l k))

/-- Fill rows with PAT from each row's first byte. -/
def State.fillWork (s : State) (l : Launch) (k : Cmd) : State :=
  let f := cmdField k.words
  let dh := l.handle (f 9 1)
  let pat := leBytes (f 0x24 4) 4
  let row : List PByte := (List.range (f 0x14 4)).map (fun i => (pat.getD (i % 4) 0, none))
  ((copyRowOffsets k.words).foldl (fun s r => s.writeEnd k (copyEnd dh r.2) row) s).endCmd k.id 0

def execFillRows (cmd : Nat) (s : State) : Host.Outcome State Fault Refusal :=
  .next (s.engineDo cmd s.copyTouches (fun l k s => s.fillWork l k))

/-! ## Tensor streams (R201) -/

/-- The GLOBAL rows of a box, as addresses. -/
def State.boxTouches (s : State) (l : Launch) (k : Cmd) : List Touch :=
  let h := shapeOf k.words
  let g := l.handle h.ghnd
  ((boxRows h k.coords).map (BoxRow.global h)).filterMap (fun r => if r.2 = 0 then none else some ⟨g.base + r.1, r.2, h.dir, g.policy⟩)

/-- DIR 0: elements inside the tensor from memory, zero elsewhere. -/
def State.loadBox (s : State) (l : Launch) (k : Cmd) : State :=
  let h := shapeOf k.words
  let g := l.handle h.ghnd
  let go (s : State) (r : BoxRow) : State :=
    let x := r.global h
    let (s, bs) := if r.lo = r.hi then (s, []) else s.engineRead k (g.base + x.1) x.2 g.policy
    let zeros (n : Nat) : List PByte := List.replicate n (0, none)
    let row := if r.lo = r.hi then zeros h.rowBytes
      else zeros (r.lo * h.esz) ++ bs ++ zeros (h.rowBytes - r.hi * h.esz)
    s.scratchWrite k r.s row
  ((boxRows h k.coords).foldl go s).endCmd k.id 0

def execTstreamLoad (cmd : Nat) (s : State) : Host.Outcome State Fault Refusal :=
  .next (s.engineDo cmd s.boxTouches (fun l k s => s.loadBox l k))

/-- DIR 1: the elements inside the tensor are written. -/
def State.storeBox (s : State) (l : Launch) (k : Cmd) : State :=
  let h := shapeOf k.words
  let g := l.handle h.ghnd
  let go (s : State) (r : BoxRow) : State :=
    if r.lo = r.hi then s
    else
      let from_ := r.scratch h
      s.engineWrite k (g.base + (r.global h).1) g.policy (s.scratchRead k from_.1 from_.2)
  ((boxRows h k.coords).foldl go s).endCmd k.id 0

def execTstreamStore (cmd : Nat) (s : State) : Host.Outcome State Fault Refusal :=
  .next (s.engineDo cmd s.boxTouches (fun l k s => s.storeBox l k))

/-! ## Storage commands (R349) -/

/-- The memory range of a storage command. -/
def State.storageTouches (s : State) (l : Launch) (k : Cmd) : List Touch :=
  let f := cmdField k.words
  let h := l.handle (f 0x0C 1)
  [⟨h.base + f 0x10 4, 4096 * f 0x14 4, k.op == 1, h.policy⟩]

/-- The blocks of a command wait for earlier commands of the drive. -/
def State.driveBusy (s : State) (k : Cmd) : Bool := s.driveBusyFor k.eng (.cmd k.id)

/-- Read or write the blocks. -/
def State.storageWork (s : State) (l : Launch) (k : Cmd) (ok : Bool) : State :=
  if s.driveBusy k then s
  else if !ok then (s.leaveDrive k.eng (.cmd k.id)).endCmd k.id 3
  else
    let f := cmdField k.words
    let h := l.handle (f 0x0C 1)
    let va := h.base + f 0x10 4
    match k.blocks with
    | none => (s.leaveDrive k.eng (.cmd k.id)).endCmd k.id 0
    | some (e, nsid, lba, n) =>
      let s := if k.op = 1 then s.engineWrite k va h.policy ((s.readBlocks e nsid lba n k.kdom).map (fun b => (b, none)))
        else
          let (s, bs) := s.engineRead k va (4096 * n) h.policy
          s.writeBlocks e nsid lba n k.kdom (bs.map (fun b => b.1))
      (s.leaveDrive k.eng (.cmd k.id)).endCmd k.id 0

def execStorageRead (cmd : Nat) (ok : Bool) (s : State) : Host.Outcome State Fault Refusal :=
  .next (s.engineDo cmd s.storageTouches (fun l k s => s.storageWork l k ok))

def execStorageWrite (cmd : Nat) (ok : Bool) (s : State) : Host.Outcome State Fault Refusal :=
  .next (s.engineDo cmd s.storageTouches (fun l k s => s.storageWork l k ok))

/-- A flush: what earlier writes of the drive have written is already durable. -/
def execStorageFlush (cmd : Nat) (ok : Bool) (s : State) : Host.Outcome State Fault Refusal :=
  .next (s.engineDo cmd (fun _ _ => []) (fun _ k s => (s.leaveDrive k.eng (.cmd k.id)).endCmd k.id (if ok then 0 else 3)))

/-! ## Completion (R196 to R198) -/

/-- The flags, handle and offset of a command's completion record: (CNTV, STV, CHND, COFF). -/
def Cmd.completion (k : Cmd) : Bool × Bool × Nat × Nat :=
  match k.eng with
  | .tstream _ =>
    let h := shapeOf k.words
    (h.cntv, h.stv, h.chnd % 64, k.coff)
  | _ =>
    let f := cmdFlags k.words
    (bitOf f 0, bitOf f 1, cmdField k.words 2 1 % 64, cmdField k.words 4 4)

/-- Destination ranges of a command, as (SCRATCH, address, length). -/
def State.destinations (s : State) (l : Launch) (k : Cmd) : List (Bool × Nat × Nat) :=
  let scr := (l.scratchUse k).2.map (fun r => (true, r.1, r.2))
  let glob := match k.eng with
    | .copy _ => (s.copyTouches l k).filterMap (fun t => if t.write then some (false, t.va, t.n) else none)
    | .tstream _ => (s.boxTouches l k).filterMap (fun t => if t.write then some (false, t.va, t.n) else none)
    | .storage _ => if k.op = 1 then (s.storageTouches l k).map (fun t => (false, t.va, t.n)) else []
    | .collective _ =>
      (match k.coll with
       | none => []
       | some c =>
         let ms := membersOf c.members
         let rs := collRanges k.words ms.length ((ms.findIdx? (fun p => p == s.pkg)).getD 0)
         (rs.filter (fun r => r.2.2.2)).map (fun r => (false, (l.handle (r.1 % 64)).base + r.2.1, r.2.2.1)))
    | .launchQueue => []
  scr ++ glob

/-- A command that had started and did not finish leaves its destination bytes unpredictable (R198, R405, R426). -/
def State.scramble (s : State) (l : Launch) (k : Cmd) : State :=
  (s.destinations l k).foldl (fun s d =>
    let bs : List PByte := (List.range d.2.2).map (fun i => (Config.freeByte (s.fresh + i), none))
    let s : State := { s with fresh := s.fresh + d.2.2 }
    if d.1 then
      (if (s.cohort? (GRefCohort k.owner)).isSome then
        s.modCohort (GRefCohort k.owner) (fun c => { c with scratch := c.scratch.putBytes d.2.1 (bs.map (fun b => b.1)) })
       else s)
    else s.engineWrite k d.2.1 0 bs) s

/-- A status that leaves the destination unpredictable. -/
def unfinished (status : Nat) : Bool :=
  let low := status % 256
  low == 2 || low == 3 || low == 5 || low == 6 || (low == 4 && status / 256 % 256 != 1)

/-- Free a command's range-lock entries. -/
def State.freeLocks (s : State) (id : Nat) : State :=
  { s with cores := s.cores.map (fun (c : Core) => { c with locks := c.locks.filter (fun k => k.cmd != id) }) }

/-- Where a completion record lies: no place, SCRATCH offset, or VA. -/
inductive RecordPlace where
  | gone
  | scratch (o : Nat)
  | global (va : Nat)
  deriving DecidableEq, Repr

def State.recordPlace (s : State) (l : Launch) (k : Cmd) : RecordPlace :=
  let (cntv, stv, hnd, off) := k.completion
  let h := l.handle hnd
  if k.lost || !(cntv || stv) || !h.bound then .gone
  else if h.space = 1 then (if (s.cohort? (GRefCohort k.owner)).isSome then .scratch (h.base + off) else .gone)
  else if h.space ≠ 0 then .gone
  else if (s.walkEnv? k.vif).isNone then .gone
  else .global (h.base + off)

/-- Steps 3 and 4 of R197 on the eight bytes of the record: the status, then the counter. -/
def recordBytes (cntv stv : Bool) (status : Word) (old : List Byte) : List Byte :=
  let c := leNat (old.take 4)
  (if cntv then leBytes ((c + 1) % 2 ^ 32) 4 else old.take 4) ++ (if stv then leBytes status.toNat 4 else (old.drop 4).take 4)

/-- Write a completion record, or the state in which the command waits to do so. -/
def State.writeRecord (s : State) (l : Launch) (k : Cmd) (status : Word) : Except State State :=
  let (cntv, stv, hnd, _) := k.completion
  match s.recordPlace l k with
  | .gone => .ok s
  | .scratch o =>
    if s.scratchAway k [(o, 8)] then .error s
    else
      let need := ((s.cohort? (GRefCohort k.owner)).map (fun c => c.unfilled o 8)).getD []
      if !need.isEmpty then .error (s.startFills (GRefCohort k.owner) need)
      else
        let old := (s.scratchRead k o 8).map (fun b => b.1)
        let new := recordBytes cntv stv status old
        let put (c : Cohort) : Cohort :=
          let c := if stv then c.scrWrite (o + 4) (new.drop 4) true else c
          (if cntv then c.scrWrite o (new.take 4) true else c).unpark
        .ok ((s.modCohort (GRefCohort k.owner) put).wakeOne (GRefCohort k.owner))
  | .global va =>
    match s.enginePage k va needWrite with
    | .ok pa =>
      -- a completion write is a reply: it waits for no token and spends none (R363)
      (match s.logTouches k [⟨va, 8, true, (l.handle hnd).policy⟩] with
       | none => .error s
       | some s =>
         let q := { s.pageReq k va (l.handle hnd).policy with pay := 1 }
         let s := s.agentReach q pa 8 true
         -- what the core itself has stored there goes first (R257)
         let s := match k.eng with
           | .copy _ => s.evictRange q pa 8
           | _ => s
         let new := recordBytes cntv stv status (s.homeBytes pa 8)
         let s := if stv then s.engineStore k q (pa + 4) (new.drop 4) else s
         .ok (if cntv then s.engineStore k q pa (new.take 4) else s))
    | a => .error (s.stopAt k va true a)

/-- The child slot or the quota of a launch command is free again, once (R202, R298). -/
def State.freeChild (s : State) (k : Cmd) : State :=
  match k.eng with
  | .launchQueue =>
    let s := s.modCmd k.id (fun k => { k with freed := true })
    if k.freed then s
    else if k.reserved then
      s.modCohort (GRefCohort k.owner) (fun c => if c.child = some k.id then { c with child := none } else c)
    else
      (match s.launch? k.owner.lid with
       | some l => s.modQueue l.qid (fun q => { q with quotaUsed := q.quotaUsed - 1 })
       | none => s)
  | _ => s

/-- A collective command that ends by its own fault or its launch's end aborts the operation elsewhere (R426). -/
def State.sendAborts (s : State) (k : Cmd) (status : Nat) : State :=
  match k.coll, s.cmdGroup k with
  | some c, some m =>
    if (status % 256 = 2 || status % 256 = 5 || status % 256 = 3) && c.view = m.view then
      let p : AbortPacket := { part := k.part, group := m.no, bucket := cmdField k.words 0x1E 2, tag := BitVec.ofNat 16 c.view,
                               cause := if status % 256 = 5 then 1 else 0 }
      ((membersOf c.members).filter (fun d => d != s.pkg)).foldl (fun s d => s.sendPacket k.part k.classH 1 (.abortColl d p)) s
    else s
  | _, _ => s

/-- Post trap 0x20 to the groups of a settled command, once for each installation (R406). -/
def State.tellGroups (s : State) (k : Cmd) : State :=
  match k.notify, s.cmdGroup k with
  | some (view, waiting), some m =>
    let gs := (k.owner :: waiting).eraseDups.filter (fun g => view != m.view || !m.told.contains g)
    let s := gs.foldl (fun s g =>
      (s.modGroup g (fun x => if x.retired then x else { x with posted := x.posted ++ [⟨0x20, view % 256, none⟩] })).post
        (.asyncTrapDelivery g)) s
    s.modMGroup m.no (fun m => if view = m.view then { m with told := m.told ++ gs } else m)
  | _, _ => s

/-- A command leaves its engine, and what waited for it goes on. -/
def State.dropCmd (s : State) (k : Cmd) : State :=
  let s := s.unqueue k
  let s : State := { s with cmds := s.cmds.filter (fun c => c.id != k.id),
                            frames := s.frames.map (fun (f : Frame) => { f with cmds := f.cmds.filter (fun i => i != k.id) }) }
  let s := (s.wake.post (.engineCommandStart k.eng))
  match s.cohort? (GRefCohort k.owner) with
  | some c => (match c.phase with
      | .draining _ => s.post (.cohortRetire c.ref)
      | _ => s)
  | none => s

/-- A storage command that its launch's end has met at the drive is not recalled: the drive completes it, and the data of a read is
discarded (R198). What a write reads of memory that can no longer be reached is free. -/
def State.driveFinish (s : State) (l : Launch) (k : Cmd) : State :=
  let write (s : State) (b : Nat × Nat × Nat × Nat) : State :=
    let n := b.2.2.2
    let r := if (s.engineStop k (s.storageTouches l k)).isNone then
        s.engineRead k ((l.handle (cmdField k.words 0x0C 1)).base + cmdField k.words 0x10 4) (4096 * n) 0
      else (({ s with fresh := s.fresh + 4096 * n } : State), (s.freeBytes (4096 * n)).map (fun b => (b, none)))
    r.1.writeBlocks b.1 b.2.1 b.2.2.1 n k.kdom (r.2.map (fun b => b.1))
  if (s.onDrive? k.eng (.cmd k.id)).isNone then s
  else
    (match k.blocks with
    | some b => if k.op = 2 then write s b else s
    | none => s).leaveDrive k.eng (.cmd k.id)

/-- The steps of R197, in order. -/
def State.completeCmd (s : State) (k : Cmd) (status : Word) : State :=
  match s.launch? k.owner.lid with
  | none => (((s.freeLocks k.id).freeChild k).leaveDrive k.eng (.cmd k.id)).dropCmd k
  | some l =>
    if s.driveBusy k then s
    else
      let s := s.driveFinish l k
      let s := if k.ran && unfinished status.toNat && !k.lost then s.scramble l k else s
      -- the bytes are left unpredictable once, whatever the record waits for
      let s := ((s.freeLocks k.id).modCmd k.id (fun k => { k with ran := false })).freeChild k
      match s.writeRecord l k status with
      | .error s => s
      | .ok s => ((s.sendAborts k status.toNat).tellGroups k).dropCmd k

end Sys2Proof.Machine
end

