-- ==== Sys2Proof/Machine/Integer.lean ====
section
/-!
DEFINITION. The integer, bit, compare, select and move instructions (07, R108 to R118), predicates (R119), exchanges
(R111, R120) and votes (R121).
-/
namespace Sys2Proof.Machine

/-! ## Forms -/

/-- Next state of a word. -/
abbrev Out := Host.Outcome State Fault Refusal

/-- Specification of a V-form word with the sources given. -/
def specV (i : Instr) (o : FmtV) (ss : List SrcOp) (ds : List DstOp) : WordSpec :=
  { plainSpec i o.guard with srcs := ss, dsts := ds }

/-- Specification of an I-form word: SA and a destination. -/
def specI (i : Instr) (o : FmtI) (ds : List DstOp) : WordSpec :=
  { plainSpec i o.guard with srcs := [src o.sa o.ea], dsts := ds }

def srcsA (o : FmtV) : List SrcOp := [src o.sa o.ea]
def srcsAB (o : FmtV) : List SrcOp := [src o.sa o.ea, src o.sb o.eb]
def srcsABC (o : FmtV) : List SrcOp := [src o.sa o.ea, src o.sb o.eb, src o.sc o.ec]

/-- A source read under R108: signed for VAR 0xC and 0xE, else unsigned. -/
def typed (var : BitVec 4) (n x : Nat) : Int := if var == 0xC || var == 0xE then sextNat x n else (x % 2 ^ n : Nat)

/-- The result of an arithmetic word (R113): saturated when asked, then wrapped to n bits. -/
def arith (var : BitVec 4) (sat : Bool) (n : Nat) (x : Int) : Nat :=
  wrapNat (if sat then (if var == 0xC || var == 0xE then satS x n else satZ x n) else x) n

/-- A 32-bit word of format V whose result is a function of its typed sources. -/
def State.intV (s : State) (i : Instr) (o : FmtV) (ss : List SrcOp) (f : Int → Int → Int → Int) : Out :=
  .next (s.runLanes (specV i o ss [dst o.dst 1]) o.dst.toNat (fun x l =>
    [w32 (arith o.var o.sat 32 (f (typed o.var 32 (x.val o.sa l)) (typed o.var 32 (x.val o.sb l))
      (typed o.var 32 (x.val o.sc l))))]))

/-- Its I form: B is IMM16, extended under R108. -/
def State.intI (s : State) (i : Instr) (o : FmtI) (f : Int → Int → Int) : Out :=
  .next (s.runLanes (specI i o [dst o.dst 1]) o.dst.toNat (fun x l =>
    [w32 (arith o.var o.sat 32 (f (typed o.var 32 (x.val o.sa l)) (typed o.var 16 o.imm.toNat)))]))

/-- A V-form word over bit patterns. -/
def State.bitV (s : State) (i : Instr) (o : FmtV) (ss : List SrcOp) (f : Nat → Nat → Nat → Nat) : Out :=
  .next (s.runLanes (specV i o ss [dst o.dst 1]) o.dst.toNat (fun x l =>
    [w32 (f (x.val o.sa l) (x.val o.sb l) (x.val o.sc l))]))

/-- Its I form: IMM16 is zero-extended. -/
def State.bitI (s : State) (i : Instr) (o : FmtI) (f : Nat → Nat → Nat) : Out :=
  .next (s.runLanes (specI i o [dst o.dst 1]) o.dst.toNat (fun x l => [w32 (f (x.val o.sa l) o.imm.toNat)]))

/-! ## Integer arithmetic (Table 7.2) -/

/-- `iadd` (Table 7.2): A + B. -/
def execIadd (o : FmtV) (s : State) : Out := s.intV (.iadd o) o (srcsAB o) (fun a b _ => a + b)

/-- `iadd` with an immediate. -/
def execIaddImm (o : FmtI) (s : State) : Out := s.intI (.iaddImm o) o (fun a b => a + b)

/-- `isub` (Table 7.2): A - B. -/
def execIsub (o : FmtV) (s : State) : Out := s.intV (.isub o) o (srcsAB o) (fun a b _ => a - b)

/-- `imul` (Table 7.2): A * B. -/
def execImul (o : FmtV) (s : State) : Out := s.intV (.imul o) o (srcsAB o) (fun a b _ => a * b)

/-- `imul` with an immediate. -/
def execImulImm (o : FmtI) (s : State) : Out := s.intI (.imulImm o) o (fun a b => a * b)

/-- `imin` (Table 7.2): min(A, B). -/
def execImin (o : FmtV) (s : State) : Out := s.intV (.imin o) o (srcsAB o) (fun a b _ => min a b)

/-- `imin` with an immediate. -/
def execIminImm (o : FmtI) (s : State) : Out := s.intI (.iminImm o) o (fun a b => min a b)

/-- `imax` (Table 7.2): max(A, B). -/
def execImax (o : FmtV) (s : State) : Out := s.intV (.imax o) o (srcsAB o) (fun a b _ => max a b)

/-- `imax` with an immediate. -/
def execImaxImm (o : FmtI) (s : State) : Out := s.intI (.imaxImm o) o (fun a b => max a b)

/-- `imulhi`: the high half of the product. -/
def execImulhi (o : FmtV) (s : State) : Out := s.intV (.imulhi o) o (srcsAB o) (fun a b _ => (a * b).fdiv (2 ^ 32))

/-- `imad`. -/
def execImad (o : FmtV) (s : State) : Out := s.intV (.imad o) o (srcsABC o) (fun a b c => a * b + c)

/-- `iadd64`: pairs (R48), low half to DST. -/
def execIadd64 (o : FmtV) (s : State) : Out :=
  .next (s.runLanes (specV (.iadd64 o) o [srcPair o.sa o.ea, srcPair o.sb o.eb] [dst o.dst 2]) o.dst.toNat (fun x l =>
    wordsOf (arith o.var o.sat 64 (typed o.var 64 (x.valN o.sa 2 l) + typed o.var 64 (x.valN o.sb 2 l))) 2))

/-- `iabs`. -/
def execIabs (o : FmtV) (s : State) : Out := s.intV (.iabs o) o (srcsA o) (fun a _ _ => (a.natAbs : Int))

/-- `ineg`. -/
def execIneg (o : FmtV) (s : State) : Out := s.intV (.ineg o) o (srcsA o) (fun a _ _ => -a)

/-! ## Shifts and bit operations (Table 7.3) -/

/-- Shift amounts are whole 32-bit values, never taken modulo 32 (R114). -/
def shl (a k : Nat) : Nat := if k < 32 then a * 2 ^ k % 2 ^ 32 else 0
def shr (a k : Nat) : Nat := if k < 32 then a / 2 ^ k else 0
def sar (a k : Nat) : Nat :=
  if k < 32 then wrapNat ((sextNat a 32).fdiv (2 ^ k)) 32 else if bitOf a 31 then 2 ^ 32 - 1 else 0
def rot (a k : Nat) : Nat := (a * 2 ^ (k % 32) % 2 ^ 32) + a / 2 ^ (32 - k % 32)

/-- Number of 1 bits, of leading and of trailing 0 bits. -/
def popCount (a : Nat) : Nat := ((List.range 32).filter (fun i => bitOf a i)).length
def leadingZeros (a : Nat) : Nat := ((List.range 32).takeWhile (fun i => !bitOf a (31 - i))).length
def trailingZeros (a : Nat) : Nat := ((List.range 32).takeWhile (fun i => !bitOf a i)).length
def reverseBits (a : Nat) : Nat := (List.range 32).foldl (fun r i => r + (if bitOf a (31 - i) then 2 ^ i else 0)) 0

/-- One operator of `lop3` on 32-bit patterns (Table 7.3a). -/
def lopOp (code : Nat) (x y : Word) : Word :=
  match code with
  | 0 => x &&& y
  | 1 => x ||| y
  | 2 => x ^^^ y
  | 3 => x &&& ~~~y
  | 4 => x ||| ~~~y
  | 5 => ~~~(x ^^^ y)
  | 6 => ~~~(x &&& y)
  | _ => ~~~(x ||| y)

/-- `ishl`. -/
def execIshl (o : FmtV) (s : State) : Out := s.bitV (.ishl o) o (srcsAB o) (fun a b _ => shl a b)

/-- `ishl` with an immediate. -/
def execIshlImm (o : FmtI) (s : State) : Out := s.bitI (.ishlImm o) o shl

/-- `ishr`. -/
def execIshr (o : FmtV) (s : State) : Out := s.bitV (.ishr o) o (srcsAB o) (fun a b _ => shr a b)

/-- `ishr` with an immediate. -/
def execIshrImm (o : FmtI) (s : State) : Out := s.bitI (.ishrImm o) o shr

/-- `isar`. -/
def execIsar (o : FmtV) (s : State) : Out := s.bitV (.isar o) o (srcsAB o) (fun a b _ => sar a b)

/-- `isar` with an immediate. -/
def execIsarImm (o : FmtI) (s : State) : Out := s.bitI (.isarImm o) o sar

/-- `irot`. -/
def execIrot (o : FmtV) (s : State) : Out := s.bitV (.irot o) o (srcsAB o) (fun a b _ => rot a b)

/-- `irot` with an immediate. -/
def execIrotImm (o : FmtI) (s : State) : Out := s.bitI (.irotImm o) o rot

/-- `and`. -/
def execAnd (o : FmtV) (s : State) : Out := s.bitV (.and o) o (srcsAB o) (fun a b _ => a &&& b)

/-- `and` with an immediate. -/
def execAndImm (o : FmtI) (s : State) : Out := s.bitI (.andImm o) o (fun a b => a &&& b)

/-- `or`. -/
def execOr (o : FmtV) (s : State) : Out := s.bitV (.or o) o (srcsAB o) (fun a b _ => a ||| b)

/-- `or` with an immediate. -/
def execOrImm (o : FmtI) (s : State) : Out := s.bitI (.orImm o) o (fun a b => a ||| b)

/-- `xor`. -/
def execXor (o : FmtV) (s : State) : Out := s.bitV (.xor o) o (srcsAB o) (fun a b _ => a ^^^ b)

/-- `xor` with an immediate. -/
def execXorImm (o : FmtI) (s : State) : Out := s.bitI (.xorImm o) o (fun a b => a ^^^ b)

/-- `andn`. -/
def execAndn (o : FmtV) (s : State) : Out := s.bitV (.andn o) o (srcsAB o) (fun a b _ => (w32 a &&& ~~~(w32 b)).toNat)

/-- `popc`. -/
def execPopc (o : FmtV) (s : State) : Out := s.bitV (.popc o) o (srcsA o) (fun a _ _ => popCount a)

/-- `clz`. -/
def execClz (o : FmtV) (s : State) : Out := s.bitV (.clz o) o (srcsA o) (fun a _ _ => leadingZeros a)

/-- `ctz`. -/
def execCtz (o : FmtV) (s : State) : Out := s.bitV (.ctz o) o (srcsA o) (fun a _ _ => trailingZeros a)

/-- `brev`. -/
def execBrev (o : FmtV) (s : State) : Out := s.bitV (.brev o) o (srcsA o) (fun a _ _ => reverseBits a)

/-- `lop3`: OP1 on a and b, then OP2 with c. -/
def execLop3 (o : FmtV) (s : State) : Out :=
  s.bitV (.lop3 o) o (srcsABC o) (fun a b c =>
    (lopOp (bitsOf o.fx.toNat 7 4) (lopOp (bitsOf o.fx.toNat 3 0) (w32 a) (w32 b)) (w32 c)).toNat)

/-! ## Bit fields (R115) -/

/-- pos and len of a control value. -/
def fieldPos (ctl : Nat) : Nat := ctl % 256
def fieldLen (ctl : Nat) : Nat := min (bitsOf ctl 15 8) 32

/-- `bfx` of a value under a control. -/
def extractField (signed : Bool) (a ctl : Nat) : Nat :=
  let f := a / 2 ^ fieldPos ctl % 2 ^ fieldLen ctl
  if signed && 0 < fieldLen ctl then wrapNat (sextNat f (fieldLen ctl)) 32 else f

/-- `bfi` of a base, a field and a control. -/
def insertField (a b ctl : Nat) : Nat :=
  let m := w32 ((2 ^ fieldLen ctl - 1) * 2 ^ fieldPos ctl)
  ((w32 a &&& ~~~m) ||| (w32 (b * 2 ^ fieldPos ctl) &&& m)).toNat

/-- `bfx` with the control in SB. -/
def execBfx (o : FmtV) (s : State) : Out := s.bitV (.bfx o) o (srcsAB o) (fun a b _ => extractField (o.var == 0xC) a b)

/-- `bfx` with the control in IMM16. -/
def execBfxImm (o : FmtI) (s : State) : Out := s.bitI (.bfxImm o) o (extractField (o.var == 0xC))

/-- `bfi`: base SA, field SB, control SC. -/
def execBfi (o : FmtV) (s : State) : Out := s.bitV (.bfi o) o (srcsABC o) insertField

/-! ## Compare, select and moves (R116 to R118) -/

/-- Comparison code of Table 7.2's `icmp`. -/
def compares (code : Nat) (a b : Int) : Bool :=
  match code with
  | 0 => a == b
  | 1 => a != b
  | 2 => decide (a < b)
  | 3 => decide (a ≤ b)
  | 4 => decide (b < a)
  | _ => decide (b ≤ a)

/-- `icmp`: a predicate. -/
def execIcmp (o : FmtV) (s : State) : Out :=
  .next (s.runPreds (specV (.icmp o) o (srcsAB o) [.pred o.dst.toNat]) o.dst.toNat (fun x _ l =>
    compares (o.fx.toNat % 8) (typed o.var 32 (x.val o.sa l)) (typed o.var 32 (x.val o.sb l))))

/-- `icmp` with an immediate. -/
def execIcmpImm (o : FmtI) (s : State) : Out :=
  .next (s.runPreds (specI (.icmpImm o) o [.pred o.dst.toNat]) o.dst.toNat (fun x _ l =>
    compares (o.fx.toNat % 8) (typed o.var 32 (x.val o.sa l)) (typed o.var 16 o.imm.toNat)))

/-- `sel`: SA where the predicate in SC is 1, else SB; both are read. -/
def execSel (o : FmtV) (s : State) : Out :=
  .next (s.runLanes (specV (.sel o) o ((srcsAB o) ++ [.pred o.sc.toNat]) [dst o.dst 1]) o.dst.toNat (fun x l =>
    [w32 (if x.predVal o.sc l then x.val o.sa l else x.val o.sb l)]))

/-- `mov`. -/
def execMov (o : FmtV) (s : State) : Out := s.bitV (.mov o) o (srcsA o) (fun a _ _ => a)

/-- `movi`: IMM32. -/
def execMovi (o : FmtW) (s : State) : Out :=
  .next (s.runLanes { plainSpec (.movi o) o.guard with dsts := [dst o.dst 1] } o.dst.toNat (fun _ _ => [o.imm]))

/-- `nop`. -/
def execNop (o : FmtV) (s : State) : Out := .next (s.runWord (plainSpec (.nop o) o.guard) (fun _ _ s => .done s []))

/-! ## Predicates (R119) -/

/-- A word over predicates. -/
def State.predV (s : State) (i : Instr) (o : FmtV) (ss : List SrcOp) (f : Bool → Bool → Bool) : Out :=
  .next (s.runPreds (specV i o ss [.pred o.dst.toNat]) o.dst.toNat (fun x _ l => f (x.predVal o.sa l) (x.predVal o.sb l)))

/-- `pand`. -/
def execPand (o : FmtV) (s : State) : Out :=
  s.predV (.pand o) o [.pred o.sa.toNat, .pred o.sb.toNat] (fun a b => a && b)

/-- `por`. -/
def execPor (o : FmtV) (s : State) : Out :=
  s.predV (.por o) o [.pred o.sa.toNat, .pred o.sb.toNat] (fun a b => a || b)

/-- `pxor`. -/
def execPxor (o : FmtV) (s : State) : Out :=
  s.predV (.pxor o) o [.pred o.sa.toNat, .pred o.sb.toNat] (fun a b => a != b)

/-- `pnot`. -/
def execPnot (o : FmtV) (s : State) : Out := s.predV (.pnot o) o [.pred o.sa.toNat] (fun a _ => !a)

/-- `pmov`. -/
def execPmov (o : FmtV) (s : State) : Out := s.predV (.pmov o) o [.pred o.sa.toNat] (fun a _ => a)

/-! ## Exchanges (R111, R120) -/

/-- The value of SA in a peer lane: an empty register of a lane that is not live reads 0. -/
def Ctx.peerValue (x : Ctx) (f : BitVec 8) (j : Nat) : Nat :=
  if f.toNat < 0xE0 && x.g.r.isEmpty f.toNat j && !x.g.r.live.getLsbD j then 0 else x.val f j

/-- A live peer whose register is empty: the word waits. -/
def Ctx.peerWaits (x : Ctx) (f : BitVec 8) (j : Nat) : Bool :=
  f.toNat < 0xE0 && x.g.r.isEmpty f.toNat j && x.g.r.live.getLsbD j

/-- An exchange: lane i reads SA of the peer that `peer` names. -/
def State.exchange (s : State) (i : Instr) (o : FmtV) (ss : List SrcOp) (peer : Ctx → Nat → Nat) : Out :=
  .next (s.runWord (specV i o ss [dst o.dst 1]) (fun x lanes s =>
    let waits := ((maskLanes lanes).map (peer x)).filter (fun j => x.peerWaits o.sa j)
    if !waits.isEmpty then .park s ⟨x.i.lanes, waits.map (fun j => (o.sa.toNat, j)), none, [], false⟩
    else
      match (maskLanes lanes).findSome? (fun l =>
        if o.sa.toNat < 0xE0 then x.g.poisonAt (unitKey o.sa.toNat (peer x l)) else none) with
      | some b => .poison .uncorrectable b
      | none =>
        .done (s.modGroup x.ref.g (fun y => (maskLanes lanes).foldl (fun y l =>
          y.put (x.active o.guard) o.dst.toNat l [w32 (x.peerValue o.sa (peer x l))]) y)) []))

/-- `qxch`: the peer in the quad. -/
def execQxch (o : FmtV) (s : State) : Out := s.exchange (.qxch o) o (srcsA o) (fun _ i => i ^^^ (o.var.toNat + 1))

/-- `qbcast`. -/
def execQbcast (o : FmtV) (s : State) : Out :=
  s.exchange (.qbcast o) o (srcsAB o) (fun x i => i / 4 * 4 + x.val o.sb i % 4)

/-- `gshf` (Table 7.4). -/
def execGshf (o : FmtV) (s : State) : Out :=
  s.exchange (.gshf o) o (srcsAB o) (fun x i =>
    let b := x.val o.sb i
    match o.var.toNat with
    | 0 => b % 16
    | 1 => if b ≤ i then i - b else i
    | 2 => if i + b ≤ 15 then i + b else i
    | _ => i ^^^ (b % 16))

/-! ## Vote, match and elect (R121) -/

/-- `vote`: a predicate, or the ballot in a register. -/
def execVote (o : FmtV) (s : State) : Out :=
  let votes (x : Ctx) (lanes : Mask) : Mask := maskWhere (fun i => lanes.getLsbD i && x.predVal o.sa i)
  if o.var = 2 then
    .next (s.runWord (specV (.vote o) o [.pred o.sa.toNat] [dst o.dst 1]) (fun x lanes s =>
      .done (s.modGroup x.ref.g (fun y => (maskLanes lanes).foldl (fun y i =>
        y.put (x.active o.guard) o.dst.toNat i [(votes x lanes).setWidth 32]) y)) []))
  else
    .next (s.runPreds (specV (.vote o) o [.pred o.sa.toNat] [.pred o.dst.toNat]) o.dst.toNat (fun x lanes _ =>
      let v := votes x lanes
      match o.var.toNat with
      | 0 => v == lanes
      | 1 => v != 0
      | _ => v == lanes || v == 0))

/-- `match`: lanes that hold an equal value. A lane that takes trap 0x06 on its own source is in no other lane's mask (DESIGN CHOICE,
notes/assumptions/43.md). -/
def execMatchWord (o : FmtV) (s : State) : Out :=
  let n := if o.var = 1 then 2 else 1
  .next (s.runWord (specV (.matchWord o) o [.reg o.sa.toNat o.ea n] [dst o.dst 1]) (fun x lanes s =>
    let same (i : Nat) : Mask := maskWhere (fun j => lanes.getLsbD j && x.valN o.sa n j == x.valN o.sa n i)
    .done (s.modGroup x.ref.g (fun y => (maskLanes lanes).foldl (fun y i =>
      y.put (x.active o.guard) o.dst.toNat i [(same i).setWidth 32]) y)) []))

/-- `elect`: the first active lane. -/
def execElect (o : FmtV) (s : State) : Out :=
  .next (s.runPreds (specV (.elect o) o [] [.pred o.dst.toNat]) o.dst.toNat (fun _ lanes i => firstLane lanes == some i))

end Sys2Proof.Machine
end

