-- ==== Sys2Proof/Machine/Flags.lean ====
section
/-!
DEFINITION. The floating-point control and status registers (Tables 2.2, 2.3): rounding mode, flush to zero, enabled flags
(R29 to R35), and the shape of a word that raises flags: results by lane, sticky flags, trap 0x07 (R30, R31, R131).
-/
namespace Sys2Proof.Machine

/-- FPCR.RM. -/
def fpcrRM (r : Regs) : Nat := r.fpcr.toNat % 4

/-- FPCR.FTZ. -/
def fpcrFTZ (r : Regs) : Bool := r.fpcr.getLsbD 2

/-- The flags whose enable bit is set, in FPSR bit order. -/
def fpcrEnabled (r : Regs) : Nat := bitsOf r.fpcr.toNat 8 4

/-- Mode(RND) (R69). -/
def roundMode (r : Regs) (rnd : BitVec 3) : Nat := if rnd = 0 then fpcrRM r else rnd.toNat - 1

/-- What one lane computed: a pattern and the flags raised. -/
structure LaneRes where
  lane : Nat
  pat : Nat
  flags : Nat
  deriving DecidableEq, Repr

/-- FPSR takes the flags of every lane. -/
def Regs.raise (r : Regs) (rs : List LaneRes) : Regs :=
  { r with fpsr := r.fpsr ||| w32 (rs.foldl (fun m x => m ||| x.flags) 0) }

/-- The lanes that raised an enabled flag take trap 0x07 with the flags raised (R31). -/
def flagTraps (r : Regs) (rs : List LaneRes) : List LaneTrap :=
  (rs.filter (fun x => x.flags &&& fpcrEnabled r != 0)).map (fun x => ⟨x.lane, 0x07, x.flags⟩)

/-- The lanes that complete. -/
def completing (r : Regs) (rs : List LaneRes) : List LaneRes :=
  rs.filter (fun x => x.flags &&& fpcrEnabled r == 0)

/-- A word whose results have a fixed latency: n registers from d in each lane. -/
def State.runFlags (s : State) (w : WordSpec) (d n : Nat) (f : Ctx → Mask → Nat → FRes) : State :=
  s.runWord w (fun x lanes s =>
    let rs := (maskLanes lanes).map (fun i => let r := f x lanes i; LaneRes.mk i r.pat r.flags)
    let ok := completing x.g.r rs
    .done (s.modGroup x.ref.g (fun y =>
      ok.foldl (fun y r => y.put (x.active w.guard) d r.lane (wordsOf r.pat n)) { y with r := y.r.raise rs })) (flagTraps x.g.r rs))

/-- A word whose destination is empty until its fill (R51, Table 6.3). A trapping lane's destination stays as it was, and while
FPCR enables a flag the lanes that go on issue no further word until the fill lands (R131). -/
def State.runLate (s : State) (w : WordSpec) (d : Nat) (f : Ctx → Mask → Nat → FRes) : State :=
  s.runWord w (fun x lanes s =>
    let rs := (maskLanes lanes).map (fun i => let r := f x lanes i; LaneRes.mk i r.pat r.flags)
    let ok := completing x.g.r rs
    let go := maskOf (ok.map (fun r => r.lane))
    -- a w register is written by the first active lane alone (R65)
    let vals := ok.map (fun r => (r.lane, [w32 r.pat]))
    let vals := if d < 0xC0 then vals else vals.filter (fun p => firstLane (x.active w.guard) == some p.1)
    let s := s.modGroup x.ref.g (fun y =>
      let r := y.r.raise rs
      { y with r := if vals.isEmpty then r else r.setEmpty d go true })
    let held : Mask := if fpcrEnabled x.g.r = 0 then 0 else x.i.lanes &&& ~~~(lanes &&& ~~~go)
    .done (s.addFillHeld x.ref.g d 1 (x.active w.guard) vals x.g.r.inReg none held) (flagTraps x.g.r rs))

/-- A word that writes a predicate and raises flags. -/
def State.runFlagPred (s : State) (w : WordSpec) (p : Nat) (f : Ctx → Nat → Bool × Nat) : State :=
  s.runWord w (fun x lanes s =>
    let rs := (maskLanes lanes).map (fun i => let r := f x i; LaneRes.mk i (if r.1 then 1 else 0) r.2)
    let ok := completing x.g.r rs
    .done (s.modRegs x.ref.g (fun r => ok.foldl (fun r x => r.setPred p x.lane (x.pat == 1)) (r.raise rs)))
      (flagTraps x.g.r rs))

end Sys2Proof.Machine
end

