-- ==== Sys2Proof/Machine/Transcend.lean ====
section
/-!
DEFINITION. The transcendental functions of FP32 (02, R37, Table 2.6; 08, R140): the exact mathematical value rounded
once. Each function is enclosed between two dyadic numbers by integer arithmetic with p fraction bits, p growing until
both ends round to one pattern; where the value is known to lie strictly between a representable number and the nearest
rounding boundary, a sticky bit stands for it.
-/
namespace Sys2Proof.Machine

/-- Two numbers lo ≤ x ≤ hi in units of 2^-p. -/
structure Enclosure where
  lo : Int
  hi : Int
  deriving DecidableEq, Repr

/-- Widen by k units on both sides. -/
def Enclosure.widen (a : Enclosure) (k : Nat) : Enclosure := ⟨a.lo - k, a.hi + k⟩

/-- Round the two ends; if both give the same result, that is the result of every value between them. -/
def Enclosure.round (a : Enclosure) (mode : Nat) (ftz : Bool) (p : Nat) : Option FRes :=
  let r (x : Int) : FRes := fmtF32.round mode false ftz (x < 0) x.natAbs (-(p : Int))
  -- a represented end is no proof: the value itself is never representable
  let lo := r a.lo
  let hi := r a.hi
  if lo.pat = hi.pat ∧ 0 < a.lo * a.hi then some ⟨lo.pat, lo.flags ||| hi.flags ||| flagIX⟩ else none

/-! ## Constants and series, in units of 2^-p -/

/-- Sum of z^(2k+1) / (2k+1) for the numerator z and its square, alternating when `alt`. -/
def oddSeries (p : Nat) (alt : Bool) (z2 : Nat) : Nat → Nat → Nat → Int → Int
  | 0, _, _, acc => acc
  | fuel + 1, k, t, acc =>
    let term : Int := ((t / (2 * k + 1) : Nat) : Int)
    oddSeries p alt z2 fuel (k + 1) (t * z2 / 2 ^ p) (if alt && k % 2 == 1 then acc - term else acc + term)

/-- atan(1/n). -/
def atanInv (p n : Nat) : Int := oddSeries p true (2 ^ p / (n * n)) (p / 2) 0 (2 ^ p / n) 0

/-- π, by Machin's formula. -/
def piFixed (p : Nat) : Enclosure :=
  let v := 4 * (4 * atanInv p 5 - atanInv p 239)
  (Enclosure.mk v v).widen (64 * (p + 1))

/-- ln 2 = 2 atanh(1/3). -/
def ln2Fixed (p : Nat) : Enclosure :=
  let v := 2 * oddSeries p false (2 ^ p / 9) (p / 2) 0 (2 ^ p / 3) 0
  (Enclosure.mk v v).widen (4 * (p + 1))

/-- exp of y in [0, 1), by its Taylor series. -/
def expSeries (p y : Nat) : Nat → Nat → Nat → Nat → Nat
  | 0, _, _, acc => acc
  | fuel + 1, k, t, acc => expSeries p y fuel (k + 1) (t * y / 2 ^ p / (k + 1)) (acc + t)

def expFixed (p : Nat) (y : Nat) : Nat := expSeries p y (p / 2 + 16) 0 (2 ^ p) 0

/-- Alternating series of sine (first term y, k from 1) or cosine (first term 1, k from 0). -/
def trigSeries (p y2 : Nat) : Nat → Nat → Nat → Bool → Int → Int
  | 0, _, _, _, acc => acc
  | fuel + 1, k, t, neg, acc =>
    trigSeries p y2 fuel (k + 2) (t * y2 / 2 ^ p / ((k + 1) * (k + 2))) (!neg) (if neg then acc - t else acc + t)

def sinFixed (p y : Nat) : Int := trigSeries p (y * y / 2 ^ p) (p / 4 + 16) 1 y false 0
def cosFixed (p y : Nat) : Int := trigSeries p (y * y / 2 ^ p) (p / 4 + 16) 0 (2 ^ p) false 0

/-- m 2^e in units of 2^-p, truncated; the second part says whether bits were lost. -/
def fixedOf (p m : Nat) (e : Int) : Nat :=
  if 0 ≤ e + p then m * 2 ^ (e + p).toNat else m / 2 ^ (-(e + p)).toNat

/-- Quotient of two enclosures of positive numbers. -/
def Enclosure.divPos (a b : Enclosure) (p : Nat) : Enclosure :=
  ⟨a.lo * 2 ^ p / b.hi, a.hi * 2 ^ p / b.lo + 1⟩

/-! ## Each function at a precision -/

/-- 2^x for a nonzero x that is no integer, |x| < 256. -/
def exp2At (p : Nat) (neg : Bool) (m : Nat) (e : Int) : Enclosure × Int :=
  -- x = n + f with f in [0, 1), exact because p covers every bit of x
  let x : Int := if neg then -(fixedOf p m e : Int) else fixedOf p m e
  let n := x / 2 ^ p
  let f := x % 2 ^ p
  let l := ln2Fixed p
  let ylo := (f * l.lo / 2 ^ p).toNat
  let yhi := (f * l.hi / 2 ^ p + 1).toNat
  ((Enclosure.mk (expFixed p ylo) (expFixed p yhi)).widen (2 * p + 64), n)

/-- log2 of m 2^e with m not a power of two. -/
def log2At (p : Nat) (m : Nat) (e : Int) : Enclosure :=
  let k := Nat.log2 m
  -- m / 2^k = (1 + z) / (1 - z), z = (m - 2^k) / (m + 2^k)
  let z := (m - 2 ^ k) * 2 ^ p / (m + 2 ^ k)
  let v := 2 * oddSeries p false (z * z / 2 ^ p) (p / 2) 0 z 0
  let ln := (Enclosure.mk v v).widen (4 * (p + 1))
  let l := ln2Fixed p
  let q : Enclosure := ⟨ln.lo * 2 ^ p / l.hi - 1, ln.hi * 2 ^ p / l.lo + 1⟩
  let c := (e + (k : Int)) * 2 ^ p
  ⟨c + q.lo, c + q.hi⟩

/-- x reduced by π/2: the quadrant and the rest, x in exact units of 2^-p. -/
def reduceAt (p m : Nat) (e : Int) : Nat × Enclosure :=
  -- bits enough that k × (error of π) stays small
  let p' := p + 160
  let x : Int := (fixedOf p' m e : Nat)
  let pi := piFixed p'
  let k := 2 * x / pi.lo
  let lo := x - k * pi.hi / 2 - 1
  let hi := x - k * pi.lo / 2 + 1
  (((k % 4).toNat), ⟨lo / 2 ^ 160, hi / 2 ^ 160 + 1⟩)

/-- sin (`cos` false) or cos of |x| = m 2^e. -/
def trigAt (p : Nat) (cos : Bool) (m : Nat) (e : Int) : Enclosure :=
  let (k, r) := reduceAt p m e
  let k' := if cos then k + 1 else k
  let lo := (max r.lo 0).toNat
  let hi := (max r.hi 0).toNat
  let a := if k' % 2 = 0 then (Enclosure.mk (sinFixed p lo) (sinFixed p hi))
    else (Enclosure.mk (cosFixed p hi) (cosFixed p lo))
  let b := a.widen (p + 64)
  if k' % 4 < 2 then b else ⟨-b.hi, -b.lo⟩

/-- tanh of m 2^e, m 2^e < 32: 1 - 2/(exp(2x) + 1). -/
def tanhAt (p : Nat) (m : Nat) (e : Int) : Enclosure :=
  let y : Int := fixedOf p m (e + 1)
  let l := ln2Fixed p
  let n := (y / l.hi).toNat
  let rlo := (max (y - n * l.hi) 0).toNat
  let rhi := (max (y - n * l.lo) 0).toNat
  let elo : Int := ((expFixed p rlo : Int) - (2 * p + 64)) * 2 ^ n
  let ehi : Int := ((expFixed p rhi : Int) + (2 * p + 64)) * 2 ^ n
  let one : Int := 2 ^ p
  ⟨one - 2 * one * one / (elo + one) - 1, one - 2 * one * one / (ehi + one) + 1⟩

/-- Try rising precisions until an enclosure rounds to one result. -/
def roundRising (f : Nat → Option FRes) : List Nat → FRes
  | [] => ⟨0, flagIX⟩
  | [p] => (f p).getD ⟨0, flagIX⟩
  | p :: rest =>
    match f p with
    | some r => r
    | none => roundRising f rest

/-- Precisions tried: each covers every bit of an FP32 argument that is not handled by a bound. -/
def precisions : List Nat := [192, 320, 640, 1280]

/-- A number just above or below m 2^e in magnitude, nearer than any rounding boundary. -/
def nearly (mode : Nat) (ftz neg below : Bool) (m : Nat) (e : Int) : FRes :=
  fmtF32.round mode false ftz neg (if below then m * 2 ^ 60 - 1 else m * 2 ^ 60 + 1) (e - 60)

/-! ## The instructions on one FP32 pattern -/

/-- Which function. -/
inductive TFun where
  | rcp | rsq | sqrt | exp2 | log2 | sin | cos | tanh
  deriving DecidableEq, Repr

/-- A signed zero. -/
def zeroF32 (neg : Bool) : Nat := fmtF32.signed neg 0

/-- A signed infinity. -/
def infF32 (neg : Bool) : Nat := fmtF32.signed neg fmtF32.infPat

/-- +1 or -1. -/
def oneF32 (neg : Bool) : Nat := fmtF32.signed neg 0x3F800000

/-- The result for a finite nonzero (-1)^neg m 2^e. -/
def TFun.finite (t : TFun) (mode : Nat) (ftz neg : Bool) (m : Nat) (e : Int) : FRes :=
  let lead := e + (Nat.log2 m : Int)
  let invalid : FRes := fmtF32.deliverNan true
  match t with
  | .rcp => let (q, k) := recipDyadic m e; fmtF32.round mode false ftz neg q k
  | .rsq => if neg then invalid else let (q, k) := rsqrtDyadic m e; fmtF32.round mode false ftz false q k
  | .sqrt => if neg then invalid else let (q, k) := sqrtDyadic m e; fmtF32.round mode false ftz false q k
  | .exp2 =>
    if 8 ≤ lead then fmtF32.round mode false ftz false 1 (if neg then -4000 else 4000)
    else if lead < -32 then nearly mode ftz false neg 1 0
    else if 0 ≤ e ∨ m % 2 ^ (-e).toNat = 0 then
      let n : Int := (fixedOf 0 m e : Nat)
      fmtF32.round mode false ftz false 1 (if neg then -n else n)
    else roundRising (fun p =>
      let (a, n) := exp2At p neg m e
      -- the scale 2^n moves the binary point
      let r (x : Int) : FRes := fmtF32.round mode false ftz false x.natAbs (n - (p : Int))
      if (r a.lo).pat = (r a.hi).pat then some ⟨(r a.lo).pat, (r a.lo).flags ||| (r a.hi).flags ||| flagIX⟩ else none)
      precisions
  | .log2 =>
    if neg then invalid
    else if m = 2 ^ Nat.log2 m then
      if lead = 0 then ⟨0, 0⟩ else fmtF32.round mode false ftz (lead < 0) lead.natAbs 0
    else roundRising (fun p => (log2At p m e).round mode ftz p) precisions
  | .sin =>
    if lead < -14 then nearly mode ftz neg true m e
    else roundRising (fun p =>
      let a := trigAt p false m e
      (if neg then Enclosure.mk (-a.hi) (-a.lo) else a).round mode ftz p) precisions
  | .cos =>
    if lead < -14 then nearly mode ftz false true 1 0
    else roundRising (fun p => (trigAt p true m e).round mode ftz p) precisions
  | .tanh =>
    if lead < -14 then nearly mode ftz neg true m e
    else if 5 ≤ lead then nearly mode ftz neg true 1 0
    else roundRising (fun p =>
      let a := tanhAt p m e
      (if neg then Enclosure.mk (-a.hi) (-a.lo) else a).round mode ftz p) precisions

/-- R37 with Table 2.6: the function of an FP32 pattern, rounded once, with its flags. -/
def TFun.apply (t : TFun) (mode : Nat) (ftz : Bool) (x : Nat) : FRes :=
  let invalid : FRes := fmtF32.deliverNan true
  match fmtF32.decode ftz x with
  | .nan s => fmtF32.deliverNan s
  | .inf n =>
    match t with
    | .rcp => ⟨zeroF32 n, 0⟩
    | .rsq => if n then invalid else ⟨0, 0⟩
    | .sqrt => if n then invalid else ⟨infF32 false, 0⟩
    | .exp2 => if n then ⟨0, 0⟩ else ⟨infF32 false, 0⟩
    | .log2 => if n then invalid else ⟨infF32 false, 0⟩
    | .sin | .cos => invalid
    | .tanh => ⟨oneF32 n, 0⟩
  | .num n m e =>
    if m = 0 then
      match t with
      | .rcp | .rsq => ⟨infF32 n, flagDZ⟩
      | .sqrt | .sin | .tanh => ⟨zeroF32 n, 0⟩
      | .exp2 | .cos => ⟨oneF32 false, 0⟩
      | .log2 => ⟨infF32 true, flagDZ⟩
    else t.finite mode ftz n m e

end Sys2Proof.Machine
end

