-- ==== Sys2Proof/Machine/FloatWords.lean ====
section
/-!
DEFINITION. The floating-point instructions (08): arithmetic (R134, R135), minimum and sign (R136, R137), comparison and
classification (R138, R139), transcendentals (R140), conversion and packing (R141 to R143), packed 16-bit operations
(R144, R145) and the block scale (R146).
-/
namespace Sys2Proof.Machine

/-! ## Operands (Table 8.1) -/

/-- Registers of an operand of a VAR. -/
def fltRegs (var : BitVec 4) : Nat := if var = 1 then 2 else 1

/-- A float source field: an `.f64` pair is read as two sources with the same policy bit (R129). -/
def fltSrc (var : BitVec 4) (f : BitVec 8) (e : Bool) : List SrcOp :=
  if f.toNat < 0xE0 then (List.range (fltRegs var)).map (fun k => .reg (f.toNat + k) e 1) else [src f e]

/-- Its pattern in a lane: the low half of the register for the 16-bit types. -/
def Ctx.fltPat (x : Ctx) (var : BitVec 4) (f : BitVec 8) (i : Nat) : Nat :=
  let v := x.valN f (fltRegs var) i
  if 2 ≤ var.toNat then v % 65536 else v

/-- Its value, after FTZ. -/
def Ctx.fltVal (x : Ctx) (var : BitVec 4) (f : BitVec 8) (i : Nat) : FVal :=
  (fmtOfCode var.toNat).decode (fpcrFTZ x.g.r) (x.fltPat var f i)

/-- Specification of a float word with the given sources. -/
def specF (i : Instr) (o : FmtV) (ss : List SrcOp) : WordSpec := specV i o ss [dst o.dst (fltRegs o.var)]

def fltA (o : FmtV) : List SrcOp := fltSrc o.var o.sa o.ea
def fltAB (o : FmtV) : List SrcOp := fltA o ++ fltSrc o.var o.sb o.eb
def fltABC (o : FmtV) : List SrcOp := fltAB o ++ fltSrc o.var o.sc o.ec

/-- A word that rounds a function of its values to its own format. -/
def State.fltV (s : State) (i : Instr) (o : FmtV) (ss : List SrcOp) (f : FFmt → Nat → Bool → FVal → FVal → FVal → FRes) :
    Out :=
  .next (s.runFlags (specF i o ss) o.dst.toNat (fltRegs o.var) (fun x _ l =>
    f (fmtOfCode o.var.toNat) (roundMode x.g.r o.rnd) (fpcrFTZ x.g.r) (x.fltVal o.var o.sa l) (x.fltVal o.var o.sb l)
      (x.fltVal o.var o.sc l)))

/-! ## Arithmetic (Table 8.3) -/

/-- a × b + c as two terms, with the ∞ × 0 case. -/
def fusedSum (f : FFmt) (mode : Nat) (sat ftz : Bool) (a b c : FVal) : FRes :=
  f.sum mode sat ftz (a.mul b).2 [(a.mul b).1, c]

/-- `fadd`. -/
def execFadd (o : FmtV) (s : State) : Out :=
  s.fltV (.fadd o) o (fltAB o) (fun f m z a b _ => f.sum m o.sat z false [a, b])

/-- `fsub`. -/
def execFsub (o : FmtV) (s : State) : Out :=
  s.fltV (.fsub o) o (fltAB o) (fun f m z a b _ => f.sum m o.sat z false [a, b.flip])

/-- `fmul`. -/
def execFmul (o : FmtV) (s : State) : Out :=
  s.fltV (.fmul o) o (fltAB o) (fun f m z a b _ => f.product m o.sat z a b)

/-- `fma`. -/
def execFma (o : FmtV) (s : State) : Out :=
  s.fltV (.fma o) o (fltABC o) (fun f m z a b c => fusedSum f m o.sat z a b c)

/-- a × 2^n. -/
def scaled (f : FFmt) (mode : Nat) (sat ftz : Bool) (a : FVal) (n : Int) : FRes :=
  match a with
  | .num g m e => f.deliver mode sat ftz (.num g m (e + n))
  | .inf g => ⟨f.signed g f.infPat, 0⟩
  | .nan q => f.deliverNan q

/-- `fscale`: SB is one 32-bit integer register. -/
def execFscale (o : FmtV) (s : State) : Out :=
  .next (s.runFlags (specF (.fscale o) o (fltA o ++ [src o.sb o.eb])) o.dst.toNat (fltRegs o.var) (fun x _ l =>
    scaled (fmtOfCode o.var.toNat) (roundMode x.g.r o.rnd) o.sat (fpcrFTZ x.g.r) (x.fltVal o.var o.sa l)
      (sextNat (x.val o.sb l) 32)))

/-- The integral value of a source in its own format (R135). -/
def roundIntegral (f : FFmt) (mode : Nat) (a : FVal) : FRes :=
  match a with
  | .nan q => f.deliverNan q
  | .inf g => ⟨f.signed g f.infPat, 0⟩
  | .num g m e =>
    let (r, inexact) := roundShift mode g m e
    ⟨(f.deliver 0 false false (.num g r 0)).pat, flagIf (inexact && m != 0) flagIX⟩

/-- `fround`. -/
def execFround (o : FmtV) (s : State) : Out := s.fltV (.fround o) o (fltA o) (fun f m _ a _ _ => roundIntegral f m a)

/-! ## Minimum, maximum, absolute value, negation -/

/-- A value that is one of the operands, as its own pattern. -/
def FFmt.same (f : FFmt) (v : FVal) : Nat := (f.deliver 0 false false v).pat

/-- The smaller or larger of two values (R136); `number` delivers the operand that is not NaN. -/
def pickOne (f : FFmt) (number larger : Bool) (a b : FVal) : FRes :=
  let iv := flagIf (a.isSnan || b.isSnan) flagIV
  if a.isNan || b.isNan then
    if number && !(a.isNan && b.isNan) then ⟨f.same (if a.isNan then b else a), iv⟩ else ⟨f.nanPat, iv⟩
  else ⟨f.same (if (a.below b) != larger then a else b), iv⟩

/-- `fmin`. -/
def execFmin (o : FmtV) (s : State) : Out := s.fltV (.fmin o) o (fltAB o) (fun f _ _ a b _ => pickOne f false false a b)

/-- `fmax`. -/
def execFmax (o : FmtV) (s : State) : Out := s.fltV (.fmax o) o (fltAB o) (fun f _ _ a b _ => pickOne f false true a b)

/-- `fminn`. -/
def execFminn (o : FmtV) (s : State) : Out := s.fltV (.fminn o) o (fltAB o) (fun f _ _ a b _ => pickOne f true false a b)

/-- `fmaxn`. -/
def execFmaxn (o : FmtV) (s : State) : Out := s.fltV (.fmaxn o) o (fltAB o) (fun f _ _ a b _ => pickOne f true true a b)

/-- A value with its sign set (R137). -/
def withSign (f : FFmt) (a : FVal) (neg : Bool) : FRes :=
  match a with
  | .nan q => f.deliverNan q
  | .inf _ => ⟨f.signed neg f.infPat, 0⟩
  | .num _ m e => ⟨f.same (.num neg m e), 0⟩

/-- `fabs`. -/
def execFabs (o : FmtV) (s : State) : Out := s.fltV (.fabs o) o (fltA o) (fun f _ _ a _ _ => withSign f a false)

/-- `fneg`. -/
def execFneg (o : FmtV) (s : State) : Out := s.fltV (.fneg o) o (fltA o) (fun f _ _ a _ _ => withSign f a (!a.neg))

/-! ## Comparison and classification -/

/-- A condition of Table 8.4 and the flags it raises. -/
def fltCompare (code : Nat) (a b : FVal) : Bool × Nat :=
  let un := a.isNan || b.isNan
  let quiet := flagIf (a.isSnan || b.isSnan) flagIV
  let c := a.compare b
  match code with
  | 0 => (!un && c == 0, quiet)
  | 1 => (un || c != 0, quiet)
  | 2 => (!un && c < 0, flagIf un flagIV)
  | 3 => (!un && c ≤ 0, flagIf un flagIV)
  | 4 => (!un && 0 < c, flagIf un flagIV)
  | 5 => (!un && 0 ≤ c, flagIf un flagIV)
  | 6 => (un, quiet)
  | _ => (!un, quiet)

/-- `fcmp`. -/
def execFcmp (o : FmtV) (s : State) : Out :=
  .next (s.runFlagPred (specV (.fcmp o) o (fltAB o) [.pred o.dst.toNat]) o.dst.toNat (fun x l =>
    fltCompare (bitsOf o.fx.toNat 3 0) (x.fltVal o.var o.sa l) (x.fltVal o.var o.sb l)))

/-- The class of a value: bit number of R139's table. -/
def classOf (f : FFmt) (a : FVal) : Nat :=
  match a with
  | .nan q => if q then 0 else 1
  | .inf g => if g then 2 else 9
  | .num g m e =>
    if m = 0 then (if g then 5 else 6)
    else
      let normal := decide (f.emin ≤ e + (Nat.log2 m : Int))
      if g then (if normal then 3 else 4) else (if normal then 8 else 7)

/-- `fclass`: a one-hot word in a v or w register. -/
def execFclass (o : FmtV) (s : State) : Out :=
  .next (s.runFlags (specV (.fclass o) o (fltA o) [dst o.dst 1]) o.dst.toNat 1 (fun x _ l =>
    let a := x.fltVal o.var o.sa l
    ⟨2 ^ classOf (fmtOfCode o.var.toNat) a, flagIf a.isSnan flagIV⟩))

/-! ## Transcendental functions (R37, R140) -/

/-- A word of the transcendental pipe. -/
def State.transV (s : State) (i : Instr) (o : FmtV) (t : TFun) : Out :=
  .next (s.runLate (specV i o (fltA o) [dst o.dst 1]) o.dst.toNat (fun x _ l =>
    t.apply (roundMode x.g.r o.rnd) (fpcrFTZ x.g.r) (x.val o.sa l)))

/-- `frcp`. -/
def execFrcp (o : FmtV) (s : State) : Out := s.transV (.frcp o) o .rcp

/-- `frsq`. -/
def execFrsq (o : FmtV) (s : State) : Out := s.transV (.frsq o) o .rsq

/-- `fsqrt`. -/
def execFsqrt (o : FmtV) (s : State) : Out := s.transV (.fsqrt o) o .sqrt

/-- `fexp2`. -/
def execFexp2 (o : FmtV) (s : State) : Out := s.transV (.fexp2 o) o .exp2

/-- `flog2`. -/
def execFlog2 (o : FmtV) (s : State) : Out := s.transV (.flog2 o) o .log2

/-- `fsin`. -/
def execFsin (o : FmtV) (s : State) : Out := s.transV (.fsin o) o .sin

/-- `fcos`. -/
def execFcos (o : FmtV) (s : State) : Out := s.transV (.fcos o) o .cos

/-- `ftanh`. -/
def execFtanh (o : FmtV) (s : State) : Out := s.transV (.ftanh o) o .tanh

/-! ## Conversion (R141 to R143) -/

/-- Registers of a type code of Table 5.2: 64-bit types take a pair. -/
def typeRegs (code : Nat) : Nat := if code = 1 ∨ code = 14 ∨ code = 15 then 2 else 1

/-- `cvt`: destination type in VAR, source type in FX[3:0]. -/
def execCvt (o : FmtV) (s : State) : Out :=
  let st := bitsOf o.fx.toNat 3 0
  let dt := o.var.toNat
  .next (s.runFlags (specV (.cvt o) o [.reg o.sa.toNat o.ea (typeRegs st)] [dst o.dst (typeRegs dt)]) o.dst.toNat
    (typeRegs dt) (fun x _ l =>
      convert dt st (roundMode x.g.r o.rnd) o.sat (fpcrFTZ x.g.r) (x.valN o.sa (typeRegs st) l)))

/-- Two elements packed below what SC holds (Table 8.6). -/
def packed (code a b c : Nat) : Nat :=
  match code with
  | 4 | 5 => a + 256 * b + 65536 * (c % 65536)
  | 6 => a + 16 * b + 256 * (c % 2 ^ 24)
  | _ => a + 65536 * b

/-- `fpk`: two FP32 sources to a narrow type. -/
def execFpk (o : FmtV) (s : State) : Out :=
  let t := o.var.toNat
  let ss := [src o.sa o.ea, src o.sb o.eb] ++ (if 4 ≤ t then [src o.sc o.ec] else [])
  .next (s.runFlags (specV (.fpk o) o ss [dst o.dst 1]) o.dst.toNat 1 (fun x _ l =>
    let m := roundMode x.g.r o.rnd
    let z := fpcrFTZ x.g.r
    let a := convert t 0 m o.sat z (x.val o.sa l)
    let b := convert t 0 m o.sat z (x.val o.sb l)
    ⟨packed t a.pat b.pat (x.val o.sc l), a.flags ||| b.flags⟩))

/-! ## Packed 16-bit operations (R144, R145) -/

/-- Element j of a source. -/
def halfVal (x : Ctx) (var : BitVec 4) (f : BitVec 8) (j l : Nat) : FVal :=
  (fmtOfCode var.toNat).decode (fpcrFTZ x.g.r) (x.val f l / 65536 ^ j % 65536)

/-- Both elements, each rounded on its own. -/
def State.halfV (s : State) (i : Instr) (o : FmtV) (ss : List SrcOp) (f : FFmt → Nat → Bool → FVal → FVal → FVal → FRes) :
    Out :=
  .next (s.runFlags (specV i o ss [dst o.dst 1]) o.dst.toNat 1 (fun x _ l =>
    let e (j : Nat) : FRes := f (fmtOfCode o.var.toNat) (roundMode x.g.r o.rnd) (fpcrFTZ x.g.r) (halfVal x o.var o.sa j l)
      (halfVal x o.var o.sb j l) (halfVal x o.var o.sc j l)
    ⟨(e 0).pat + 65536 * (e 1).pat, (e 0).flags ||| (e 1).flags⟩))

/-- `hadd2`. -/
def execHadd2 (o : FmtV) (s : State) : Out :=
  s.halfV (.hadd2 o) o (srcsAB o) (fun f m z a b _ => f.sum m o.sat z false [a, b])

/-- `hmul2`. -/
def execHmul2 (o : FmtV) (s : State) : Out :=
  s.halfV (.hmul2 o) o (srcsAB o) (fun f m z a b _ => f.product m o.sat z a b)

/-- `hfma2`. -/
def execHfma2 (o : FmtV) (s : State) : Out :=
  s.halfV (.hfma2 o) o (srcsABC o) (fun f m z a b c => fusedSum f m o.sat z a b c)

/-- `fdot2`: c + a0 b0 + a1 b1, rounded once to FP32. -/
def execFdot2 (o : FmtV) (s : State) : Out :=
  .next (s.runFlags (specV (.fdot2 o) o (srcsABC o) [dst o.dst 1]) o.dst.toNat 1 (fun x _ l =>
    let z := fpcrFTZ x.g.r
    let p (j : Nat) : FVal × Bool := (halfVal x o.var o.sa j l).mul (halfVal x o.var o.sb j l)
    fmtF32.sum (roundMode x.g.r o.rnd) o.sat z ((p 0).2 || (p 1).2)
      [fmtF32.decode z (x.val o.sc l), (p 0).1, (p 1).1]))

/-! ## Block scale (R42, R146) -/

/-- The largest-finite exponent of an element format. -/
def blockExp (code : Nat) : Int := if code = 4 then 8 else if code = 5 then 15 else 2

/-- The scale of the largest magnitude among values. -/
def blockScale (code : Nat) (vs : List FVal) : Nat :=
  if vs.any (fun v => v.isNan || v.isInf) then 0xFF
  else
    let lead := vs.foldl (fun (acc : Option Int) v => match v with
      | .num _ m e => if m = 0 then acc else
          let k := e + (Nat.log2 m : Int)
          (match acc with
           | none => some k
           | some a => some (max a k))
      | _ => acc) none
    match lead with
    | none => 0x7F
    | some k => (min (max (k - blockExp code) (-127)) 127 + 127).toNat

/-- `qmx`: over the active lanes of the issue set. A lane that takes trap 0x06 on its own source adds nothing to the block's maximum
(DESIGN CHOICE, notes/assumptions/43.md). -/
def execQmx (o : FmtV) (s : State) : Out :=
  .next (s.runLate (specV (.qmx o) o (srcsAB o) [dst o.dst 1]) o.dst.toNat (fun x lanes l =>
    let v (f : BitVec 8) (i : Nat) : FVal := fmtF32.decode (fpcrFTZ x.g.r) (x.val f i)
    let vs := (maskLanes lanes).flatMap (fun i => [v o.sa i, v o.sb i])
    ⟨blockScale o.var.toNat vs, flagIf ((v o.sa l).isSnan || (v o.sb l).isSnan) flagIV⟩))

end Sys2Proof.Machine
end

