-- ==== Sys2Proof/Machine/Collective.lean ====
section
/-!
DEFINITION. Collective operations on this member (R398, R399, R425): the elements and their reduction, the ring of reductions and of
forwarded data, data packets with their tags (R400), aborts (R426), the re-weighted result (R405), and their completion.
-/
namespace Sys2Proof.Machine

/-! ## Elements (R425) -/

/-- The format of a floating-point TYPE. -/
def collFmt (type : Nat) : FFmt := if type = 1 then fmtBF16 else fmtF32

/-- One ⊕ of a TYPE and ROP. -/
def collOp (type rop a b : Nat) : Nat :=
  if type = 2 then
    let x := sextNat a 32
    let y := sextNat b 32
    match rop with
    | 0 => (a + b) % 2 ^ 32
    | 1 => if x ≤ y then a else b
    | _ => if x ≤ y then b else a
  else
    let f := collFmt type
    let x := f.decode false a
    let y := f.decode false b
    match rop with
    | 0 => (f.sum 0 false false false [x, y]).pat
    | 1 => (pickOne f false false x y).pat
    | _ => (pickOne f false true x y).pat

/-- Element by element. -/
def collAll (type rop : Nat) (a b : List Word) : List Word :=
  (a.zip b).map (fun p => w32 (collOp type rop p.1.toNat p.2.toNat))

/-- RNE(y × m / m'), formed exactly and rounded once to TYPE (R405). -/
def reweighed (type m m' y : Nat) : Nat :=
  let f := collFmt type
  match f.decode false y with
  | .num neg mant e =>
    if mant = 0 then y
    else
      let x := mant * m * 2 ^ 64
      (f.roundNonzero 0 false false neg (sticky (x / max m' 1) (decide (x % max m' 1 ≠ 0))) (e - 65)).pat
  | _ => f.same (f.decode false y)

/-- Elements of bytes, and bytes of elements. -/
def collElems (size : Nat) (bs : List Byte) : List Word :=
  (List.range (bs.length / size)).map (fun i => w32 (leNat ((bs.drop (size * i)).take size)))
def collBytes (size : Nat) (es : List Word) : List Byte := es.flatMap (fun e => leBytes e.toNat size)

/-- A chunk of a list of elements among m (R398). -/
def chunkElems (m k : Nat) (es : List Word) : List Word :=
  let c := chunkOf es.length (max m 1) k
  (es.drop c.1).take (c.2 - c.1)

/-! ## The place of a member in its ring -/

/-- Members of a running command, with this package's rank. -/
structure Ring where
  members : List Nat
  m : Nat
  rank : Nat
  deriving DecidableEq, Repr

def Coll.ring (c : Coll) (pkg : Nat) : Ring :=
  let ms := membersOf c.members
  { members := ms, m := ms.length, rank := (ms.findIdx? (fun p => p == pkg)).getD 0 }

/-- The next package of the ring. -/
def Ring.next (r : Ring) : Nat := r.members.getD ((r.rank + 1) % max r.m 1) 0

/-- The rank that follows this one. -/
def Ring.nextRank (r : Ring) : Nat := (r.rank + 1) % max r.m 1

/-- Change the collective state of a command. -/
def State.modColl (s : State) (id : Nat) (f : Coll → Coll) : State :=
  s.modCmd id (fun k => { k with coll := k.coll.map f })

/-- Send a body to a package under the tag of the command's view (R400), with the allowance of the command's class (R364). -/
def State.sendColl (s : State) (k : Cmd) (c : Coll) (dest : Nat) (b : CollBody) : State :=
  let n := match b with
    | .partialSum _ es | .finalSum _ es | .source _ es => es.length
  s.sendPacket k.part k.classH (max 1 (n * collSize (cmdField k.words 8 1)))
    (.coll dest { part := k.part, group := cmdField k.words 0x1C 2, bucket := cmdField k.words 0x1E 2, tag := BitVec.ofNat 16 c.view,
                  sender := s.pkg, body := b })

def insertKeyed (k : Nat) (x : List Word) (l : List (Nat × List Word)) : List (Nat × List Word) :=
  if l.any (fun p => p.1 == k) then l else l ++ [(k, x)]

/-- A chunk is final here: it is kept, and forwarded under an all-reduce. -/
def State.finalChunk (s : State) (k : Cmd) (c : Coll) (chunk : Nat) (es : List Word) : State :=
  let r := c.ring s.pkg
  let s := s.modColl k.id (fun c => { c with finals := insertKeyed chunk es c.finals })
  if k.op = 1 && !c.fetching && r.nextRank != chunk && r.m != 1 then s.sendColl k c r.next (.finalSum chunk es) else s

/-- Take one data packet of a running command. -/
def State.takeBody (s : State) (k : Cmd) (b : CollBody) : State :=
  match k.coll with
  | none => s
  | some c =>
    let r := c.ring s.pkg
    let f := cmdField k.words
    match b with
    | .partialSum chunk es =>
      (match c.sources.find? (fun (p : Nat × List Word) => p.1 == r.rank) with
       | none => s
       | some src =>
         if c.added.contains chunk || 3 ≤ k.op || c.fetching then s
         else
           let y := collAll (f 8 1) (f 9 1) es (chunkElems r.m chunk src.2)
           let s := s.modColl k.id (fun c => { c with added := c.added ++ [chunk] })
           if r.rank = chunk then s.finalChunk k c chunk y else s.sendColl k c r.next (.partialSum chunk y))
    | .finalSum chunk es => if c.finals.any (fun p => p.1 == chunk) then s else s.finalChunk k c chunk es
    | .source rank es =>
      if c.sources.any (fun p => p.1 == rank) then s
      else
        let s := s.modColl k.id (fun c => { c with sources := insertKeyed rank es c.sources })
        if !c.fetching && r.nextRank != rank then s.sendColl k c r.next (.source rank es) else s

/-! ## A member's steps -/

/-- The handle range of a collective as an address. -/
def State.collAddr (s : State) (l : Launch) (k : Cmd) (dest : Bool) : Nat :=
  let f := cmdField k.words
  if dest then (l.handle (f 0x0B 1)).base + f 0x10 4 else (l.handle (f 0x0A 1)).base + f 0x0C 4

/-- The cache policy of its source or destination handle. -/
def Launch.collPolicy (l : Launch) (k : Cmd) (dest : Bool) : Nat := (l.handle (cmdField k.words (if dest then 0x0B else 0x0A) 1)).policy

/-- Whether this member reads its source. -/
def readsSource (k : Cmd) (r : Ring) : Bool := k.op != 4 || cmdField k.words 0x20 2 == r.rank

/-- The first touch: the source. -/
def State.sourceTouches (s : State) (l : Launch) (k : Cmd) : List Touch :=
  match k.coll with
  | none => []
  | some c =>
    let f := cmdField k.words
    if c.sent || !readsSource k (c.ring s.pkg) then []
    else [⟨s.collAddr l k false, f 0x14 4 * collSize (f 8 1), false, l.collPolicy k false⟩]

/-- Read the source and send the first packet of this member. -/
def State.sendFirst (s : State) (l : Launch) (k : Cmd) (c : Coll) : State :=
  let f := cmdField k.words
  let size := collSize (f 8 1)
  let r := c.ring s.pkg
  let (s, bs) := if readsSource k r then s.engineRead k (s.collAddr l k false) (f 0x14 4 * size) (l.collPolicy k false) else (s, [])
  let es := collElems size (bs.map (fun b => b.1))
  let bad := (List.range es.length).filter (fun i => ((bs.drop (size * i)).take size).any (fun b => b.2.isSome))
  let own (c : Coll) : Coll :=
    { c with sent := true, bad := bad, sources := if readsSource k r then insertKeyed r.rank es c.sources else c.sources }
  let s := s.modColl k.id own
  let first := (r.rank + r.m - 1) % max r.m 1
  if k.op ≤ 2 then
    let part := chunkElems r.m first es
    if r.m = 1 then s.finalChunk k { c with sent := true } 0 part
    else (s.modColl k.id (fun c => { c with added := c.added ++ [first] })).sendColl k c r.next (.partialSum first part)
  else if readsSource k r && r.m != 1 then s.sendColl k c r.next (.source r.rank es)
  else s

/-- Packets that arrived before the command ran here. -/
def State.takeHeld (s : State) (k : Cmd) : State :=
  match s.cmdGroup k with
  | none => s
  | some m =>
    let mine (p : CollPacket) : Bool := p.bucket == cmdField k.words 0x1E 2
    let s := s.modMGroup m.no (fun m => { m with held := m.held.filter (fun p => !mine p) })
    (m.held.filter mine).foldl (fun s p => match s.cmd? k.id with
      | some k => s.takeBody k p.body
      | none => s) s

/-- The elements that this member writes, once it has them all. -/
def Coll.result (c : Coll) (k : Cmd) (pkg : Nat) : Option (List Word) :=
  let r := c.ring pkg
  let f := cmdField k.words
  let get (l : List (Nat × List Word)) (i : Nat) : Option (List Word) := (l.find? (fun p => p.1 == i)).map (fun p => p.2)
  let all (l : List (Nat × List Word)) : Option (List Word) :=
    ((List.range r.m).mapM (fun i => get l i)).map (fun x => x.flatten)
  match k.op with
  | 1 => all c.finals
  | 2 => if c.fetching || r.m ≤ c.added.length || r.m = 1 then get c.finals r.rank else none
  | 3 => all c.sources
  | _ => get c.sources (f 0x20 2)

/-- The status of a command whose data is complete. -/
def collStatus (k : Cmd) (c : Coll) : Nat := if c.reweigh then 4 + 256 + 65536 * cmdField k.words 0x1E 2 else 0

/-- The bytes to write: re-weighted if so, with the poison that this member's source feeds (R386). -/
def State.collOut (s : State) (k : Cmd) (c : Coll) (es : List Word) : List PByte :=
  let f := cmdField k.words
  let size := collSize (f 8 1)
  let r := c.ring s.pkg
  let m' := r.m
  let es := if c.reweigh then es.map (fun e => w32 (reweighed (f 8 1) c.pushed m' e.toNat)) else es
  let base := match k.op with
    | 2 => (chunkOf (f 0x14 4) (max r.m 1) r.rank).1
    | _ => 0
  let bad (i : Nat) : Bool := match k.op with
    | 3 => r.rank * f 0x14 4 ≤ i && c.bad.contains (i - r.rank * f 0x14 4)
    | _ => c.bad.contains (base + i)
  (List.range es.length).flatMap (fun i =>
    (leBytes (es.getD i 0).toNat size).map (fun b => (b, if bad i then some Poison.uncorrectable else none)))

/-- Write the result and end the command. -/
def State.collFinish (s : State) (l : Launch) (k : Cmd) : State :=
  match k.coll with
  | none => s
  | some c =>
    match c.result k s.pkg with
    | none => s
    | some es =>
      let out := s.collOut k c es
      let va := s.collAddr l k true
      let t : List Touch := [⟨va, out.length, true, l.collPolicy k true⟩]
      match s.engineStop k t with
      | some s => s
      | none =>
        match s.tokenStop k t with
        | some s => s
        | none =>
          match s.logTouches k t with
          | none => s
          | some s => (s.engineWrite k va (l.collPolicy k true) out).endCmd k.id (collStatus k c)

/-- One move of a collective command: its first packet, the packets that waited for it, and its result. -/
def State.collStep (s : State) (id : Nat) : State :=
  s.engineDo id s.sourceTouches (fun l k s =>
    match k.coll with
    | none => s.endCmd id 1
    | some c =>
      if c.stopped then s
      else
        let s := if c.sent then s else s.sendFirst l k c
        let s := match s.cmd? id with
          | some k => s.takeHeld k
          | none => s
        match s.cmd? id with
        | some k => s.collFinish l k
        | none => s)

def execAllReduce (cmd : Nat) (s : State) : Host.Outcome State Fault Refusal := .next (s.collStep cmd)

def execReduceScatter (cmd : Nat) (s : State) : Host.Outcome State Fault Refusal := .next (s.collStep cmd)

def execAllGather (cmd : Nat) (s : State) : Host.Outcome State Fault Refusal := .next (s.collStep cmd)

def execBroadcast (cmd : Nat) (s : State) : Host.Outcome State Fault Refusal := .next (s.collStep cmd)

/-! ## Packets (R400, R426) -/

/-- The started command of a group and BUCKET. -/
def State.collOf (s : State) (group bucket : Nat) : Option Cmd :=
  (s.collsOf group).find? (fun k => cmdField k.words 0x1E 2 == bucket)

/-- A data packet: one of a partition that is not formed is answered with an error reply (R365); discarded unless its tag is the
current view's; held until its command runs. -/
def execViewDataPacket (p : CollPacket) (s : State) : Host.Outcome State Fault Refusal :=
  .next (if s.silenced p.part then s.send (.errorReply p.part) else match s.mgroup? p.group with
    | none => s
    | some m =>
      if p.tag ≠ BitVec.ofNat 16 m.view || m.view = 0 || !m.members.getLsbD s.pkg then s
      else
        match s.collOf p.group p.bucket with
        | some k =>
          if (k.coll.map (fun c => c.stopped || !c.sent || c.view != m.view)).getD true then
            s.modMGroup p.group (fun m => { m with held := m.held ++ [p] })
          else
            let s := s.takeBody k p.body
            match s.cmd? k.id with
            | some k => s.postWork k
            | none => s
        | none => s.modMGroup p.group (fun m => { m with held := m.held ++ [p] }))

/-- An abort of another member: the command completes with status 6. -/
def execCollectiveAbort (p : AbortPacket) (s : State) : Host.Outcome State Fault Refusal :=
  .next (if s.silenced p.part then s.send (.errorReply p.part) else match s.mgroup? p.group with
    | none => s
    | some m =>
      if p.tag ≠ BitVec.ofNat 16 m.view || m.view = 0 then s
      else
        let s := s.modMGroup p.group (fun m => { m with held := m.held.filter (fun x => x.bucket != p.bucket) })
        match s.cmds.find? (fun k => (s.cmdGroup k).map (fun g => g.no) == some p.group && cmdField k.words 0x1E 2 == p.bucket &&
            (match k.stage with
             | .done _ => false
             | _ => true)) with
        | some k => (s.unqueue k).endCmd k.id (6 + 256 * (p.cause % 256) + 65536 * p.bucket)
        | none => s)

end Sys2Proof.Machine
end

