-- ==== Sys2Proof/Machine/Views.lean ====
section
/-!
DEFINITION. Membership (25): groups and views (R397), suspicion (R402), agreement (R403, R404), settling commands at a view's
installation (R405, R406), exclusion and rejoin (R407, R408).
-/
namespace Sys2Proof.Machine

/-! ## Groups (R397) -/

/-- No leader is followed. -/
def noLeader : Nat := 288

/-- Packages in a map. -/
def mapCount (m : BitVec 288) : Nat := (membersOf m).length

/-- The bit of a package. -/
def pkgBit (p : Nat) : BitVec 288 := 1#288 <<< p

/-- Firmware defines a group at this package: view 1 with the whole list. -/
def execMembershipGroupDefinition (group : Nat) (members : BitVec 288) (self : Nat) (s : State) : Host.Outcome State Fault Refusal :=
  let m : MGroup :=
    { no := group, defined := members, view := 1, members := members, suspects := 0, accepted := [], leading := none,
      follows := noLeader, stopped := false, suspt := 2000000, joining := [], pausing := none, held := [], told := [] }
  .next { s with pkg := self, mgroups := s.mgroups.filter (fun x => x.no != group) ++ [m] }

/-! ## The commands of a group -/

/-- The unfinished commands of a group. -/
def State.groupCmds (s : State) (group : Nat) : List Cmd :=
  s.cmds.filter (fun k => (s.cmdGroup k).map (fun m => m.no) == some group && (match k.stage with
    | .done _ => false
    | _ => true))

/-- The map of final chunk sums that a member holds for a command: an all-gather counts the sources that it holds, a broadcast the
root's. -/
def Coll.heldMap (c : Coll) (k : Cmd) : BitVec 288 :=
  let all (l : List (Nat × List Word)) : BitVec 288 := l.foldl (fun b p => b ||| pkgBit p.1) 0
  match k.op with
  | 1 | 2 => all c.finals
  | 3 => all c.sources
  | _ => if c.sources.any (fun p => p.1 == cmdField k.words 0x20 2) then
      (List.range (mapCount c.members)).foldl (fun b i => b ||| pkgBit i) 0 else 0

/-- The CMDS entries of this member. -/
def State.groupMaps (s : State) (group : Nat) : List (Nat × BitVec 288) :=
  (s.collsOf group).filterMap (fun k => k.coll.map (fun c => (cmdField k.words 0x1E 2, c.heldMap k)))

/-- OR two lists of entries by BUCKET. -/
def orMaps (a b : List (Nat × BitVec 288)) : List (Nat × BitVec 288) :=
  b.foldl (fun a e =>
    if a.any (fun x => x.1 == e.1) then updateWhere (fun x => x.1 == e.1) (fun x => (x.1, x.2 ||| e.2)) a else a ++ [e]) a

/-- Stop the in-flight commands of a group (R403). -/
def State.stopGroup (s : State) (group : Nat) : State :=
  let s := s.modMGroup group (fun m => { m with stopped := true })
  (s.collsOf group).foldl (fun s k => s.modColl k.id (fun c => { c with stopped := true })) s

/-! ## Settling (R405, R406) -/

/-- Groups of a launch with a lane whose `waitc` on a place is not satisfied. -/
def State.waitersOn (s : State) (k : Cmd) (l : Launch) : List GRef :=
  match s.recordPlace l k with
  | .global va =>
    let same (x : Nat) : Bool := x == va || (match s.residentPa k.vif x, s.residentPa k.vif va with
      | some p, some q => p == q
      | _, _ => false)
    (s.allCohorts.filter (fun c => c.ref.lid == k.owner.lid)).flatMap (fun c => (c.groups.filter (fun x =>
      x.pendingAccs.any (fun a => a.opc == opWaitc && a.space == 0 && a.addr.any (fun p => same p.2)))).map
        (fun x => GRef.mk c.ref.lid c.ref.cid x.gid))
  | _ => []

/-- Mark a command as settled at the installation of a view. -/
def State.settled (s : State) (k : Cmd) (view : Nat) : State :=
  let gs := ((s.launch? k.owner.lid).map (fun l => s.waitersOn k l)).getD []
  s.modCmd k.id (fun k => { k with notify := some (view, gs) })

/-- Status 4 with an OUTCOME. -/
def viewStatus (k : Cmd) (outcome : Nat) : Nat := 4 + 256 * outcome + 65536 * cmdField k.words 0x1E 2

/-- Every survivor holds part of the sums: this member sends what it holds to the others under the new tag. -/
def State.shareFinals (s : State) (k : Cmd) (c : Coll) (others : List Nat) : State :=
  let bodies := if k.op ≤ 2 then c.finals.map (fun p => CollBody.finalSum p.1 p.2) else c.sources.map (fun p => CollBody.source p.1 p.2)
  others.foldl (fun s d => bodies.foldl (fun s b => s.sendColl k c d b) s) s

/-- Settle one command of a group at the installation of a view with members. -/
def State.settleCmd (s : State) (m : MGroup) (join : Bool) (maps : List (Nat × BitVec 288)) (k : Cmd) : State :=
  let s := s.settled k m.view
  let policy := cmdField k.words 0x23 1
  match k.stage, k.coll with
  | .started, some c =>
    let map := ((maps.find? (fun e => e.1 == cmdField k.words 0x1E 2)).map (fun e => e.2)).getD 0
    let n := mapCount c.members
    let full := (List.range n).all (fun i => map.getLsbD i)
    if full && !c.reweigh then
      let c := { c with view := m.view, fetching := true, stopped := false }
      ((s.modCmd k.id (fun k => { k with coll := some c })).shareFinals k c
        ((membersOf m.members).filter (fun d => d != s.pkg))).resumeCmd k.id
    else if policy = 1 then
      (s.modCmd k.id (fun k => { k with coll := some (Coll.start m c.pushed true) })).resumeCmd k.id
    else s.endCmd k.id (viewStatus k 0)
  | _, _ =>
    if policy = 1 && !join then
      -- not started: run later under the new view, re-weighted from the view it was pushed under
      let pushed := ((k.coll.map (fun c => c.pushed))).getD (((s.mgroup? m.no).map (fun o => mapCount o.members)).getD 0)
      s.modCmd k.id (fun k => { k with coll := some (Coll.start m pushed true) })
    else (s.unqueue k).endCmd k.id (viewStatus k 0)

/-- Install a view (R403 step 4, R405). -/
def State.installView (s : State) (m : MGroup) (view : Nat) (members : BitVec 288) (maps : List (Nat × BitVec 288)) : State :=
  let join := (members &&& ~~~m.members) != 0
  let new : MGroup := { m with view := view, members := members, suspects := 0, leading := none, follows := noLeader,
                               stopped := false, joining := [], pausing := none, held := [], told := [] }
  -- packets of earlier views that have not left are discarded (R400)
  let old (o : Outgoing) : Bool := match o.msg with
    | .coll _ p => p.group == m.no
    | _ => false
  let s : State := { s with outq := s.outq.filter (fun o => !old o) }
  let s := (s.groupCmds m.no).foldl (fun s k => s.settleCmd new join maps k) s
  let s := s.modMGroup m.no (fun _ => new)
  let s := (s.engines.filter (fun e => match e.eng with
    | .collective _ => true
    | _ => false)).foldl (fun s e => s.post (.engineCommandStart e.eng)) s
  -- joiners that waited have the leader's next agreement (R408 step 2)
  m.joining.foldl (fun s j => s.post (.joinreq { group := m.no, view := 0, sender := j, leader := 0, members := 0, suspect := 0,
                                                 cmds := [] })) s

/-- Act as excluded: the commands complete with status 4, OUTCOME 2, and the view becomes 0 (R404, R407). -/
def State.exclude (s : State) (m : MGroup) : State :=
  let s := (s.groupCmds m.no).foldl (fun s k => ((s.settled k 0).unqueue k).endCmd k.id (viewStatus k 2)) s
  s.modMGroup m.no (fun m => { m with view := 0, suspects := 0, leading := none, follows := noLeader, stopped := false,
                                      pausing := none, held := [], told := [], joining := [] })

/-! ## Agreement (R402 to R404, R408) -/

/-- The number of a new proposal: above the view and above every number accepted. -/
def MGroup.nextView (m : MGroup) : Nat := m.accepted.foldl (fun n v => max n v) m.view + 1

/-- Who leads: the lowest member that is not suspected. -/
def MGroup.leader (m : MGroup) : Option Nat := (membersOf (m.members &&& ~~~m.suspects)).head?

/-- The view packet of this package. -/
def State.viewPacket (s : State) (m : MGroup) (view leader : Nat) (members : BitVec 288) (cmds : List (Nat × BitVec 288)) : ViewPacket :=
  { group := m.no, view := view, sender := s.pkg, leader := leader, members := members, suspect := m.suspects, cmds := cmds }

/-- Send a view packet to packages, this one apart. -/
def State.sendView (s : State) (type : Nat) (p : ViewPacket) (dests : List Nat) : State :=
  (dests.filter (fun d => d != s.pkg)).foldl (fun s d => s.send (.view type d p)) s

/-- The leader has every ACCEPT: it commits, installs, and excludes. -/
def State.tryCommit (s : State) (no : Nat) : State :=
  match s.mgroup? no with
  | none => s
  | some m =>
    match m.leading with
    | none => s
    | some a =>
      if a.members &&& ~~~a.accepted ≠ 0 then s
      else
        let p := s.viewPacket m a.view s.pkg a.members a.maps
        let gone := m.members &&& ~~~a.members
        let s := s.sendView 4 p (membersOf a.members)
        let s := s.sendView 6 p (membersOf gone)
        s.installView m a.view a.members a.maps

/-- A started command of a group has not yet completed. -/
def State.collLeft (s : State) (group : Nat) : Bool :=
  s.cmds.any (fun k => k.coll.isSome && k.stage != .queued && (s.cmdGroup k).map (fun m => m.no) == some group)

/-- This package accepts its own proposal: at once for a removal, when its started commands have completed for a join. -/
def State.acceptOwn (s : State) (no : Nat) (join : Bool) : State :=
  let self := pkgBit s.pkg
  if join && s.collLeft no then s
  else
    let s := s.stopGroup no
    let maps := s.groupMaps no
    let own (a : Agreement) : Agreement := { a with accepted := a.accepted ||| self, maps := orMaps a.maps maps }
    (s.modMGroup no (fun m => { m with leading := m.leading.map own, pausing := none })).tryCommit no

/-- Propose the members of the view without the suspects, with a joiner if there is one. A side without a majority is excluded. -/
def State.lead (s : State) (no : Nat) (joiner : Option Nat) : State :=
  match s.mgroup? no with
  | none => s
  | some m =>
    let joined := match joiner with
      | some j => m.members ||| pkgBit j
      | none => m.members
    let proposed := joined &&& ~~~m.suspects
    if mapCount proposed * 2 ≤ mapCount m.members then s.exclude m
    else
      let view := m.nextView
      let join := (proposed &&& ~~~m.members) != 0
      let p := s.viewPacket m view s.pkg proposed []
      let a : Agreement := { view := view, members := proposed, accepted := 0, maps := [], joiner := if join then joiner else none }
      let s := s.modMGroup no (fun m => { m with leading := some a, accepted := m.accepted ++ [view], follows := s.pkg,
                                                  pausing := if join then some p else none })
      let s := s.sendView 1 p (membersOf joined)
      (s.post (.agreementTimeout no)).acceptOwn no join

/-- This package has come to suspect packages of a group. -/
def State.suspect (s : State) (no : Nat) (bits : BitVec 288) : State :=
  match s.mgroup? no with
  | none => s
  | some m =>
    let new := bits &&& m.members &&& ~~~m.suspects &&& ~~~(pkgBit s.pkg)
    if m.view = 0 || new = 0 then s
    else
      let m' := { m with suspects := m.suspects ||| new }
      let s := s.modMGroup no (fun _ => m')
      if mapCount (m.members &&& ~~~m'.suspects) * 2 ≤ mapCount m.members then s.exclude m'
      else if m'.leader = some s.pkg then s.lead no ((m.leading.bind (fun a => a.joiner)))
      else s

/-- The ports report every port of a package down (R402). -/
def execRafterPortsDown (pkg : Nat) (s : State) : Host.Outcome State Fault Refusal :=
  .next ((s.mgroups.map (fun m => m.no)).foldl (fun s no => s.suspect no (pkgBit pkg)) s)

/-- A ring step that a package owes has not arrived within SUSPT (R402). -/
def execRingStepTimeout (group pkg : Nat) (s : State) : Host.Outcome State Fault Refusal := .next (s.suspect group (pkgBit pkg))

/-- Answer a proposal: ACCEPT with this member's maps. -/
def State.sendAccept (s : State) (p : ViewPacket) : State :=
  match s.mgroup? p.group with
  | none => s
  | some m =>
    let s := s.stopGroup p.group
    (s.modMGroup p.group (fun m => { m with pausing := none })).sendView 2
      (s.viewPacket m p.view p.leader p.members (s.groupMaps p.group)) [p.leader]

/-- A PROPOSE (R403 step 2, R408 step 3). -/
def execPropose (p : ViewPacket) (s : State) : Host.Outcome State Fault Refusal :=
  .next (match s.mgroup? p.group with
    | none => s
    | some m =>
      if !p.members.getLsbD s.pkg || p.view ≤ m.view then s
      else if m.accepted.contains p.view || m.follows < p.leader then
        s.sendView 3 (s.viewPacket m p.view (if m.follows < noLeader then m.follows else p.leader) p.members []) [p.leader]
      else
        -- the excluded package that joins has no commands
        let join := m.view != 0 && (p.members &&& ~~~m.members) != 0
        let s := s.modMGroup p.group (fun m => { m with accepted := m.accepted ++ [p.view], follows := p.leader, leading := none,
                                                        pausing := if join then some p else none })
        if join && s.collLeft p.group then s else s.sendAccept p)

/-- An ACCEPT reaches the leader. -/
def execAccept (p : ViewPacket) (s : State) : Host.Outcome State Fault Refusal :=
  .next (match (s.mgroup? p.group).bind (fun m => m.leading) with
    | none => s
    | some a =>
      if a.view ≠ p.view || !a.members.getLsbD p.sender then s
      else
        let add (a : Agreement) : Agreement := { a with accepted := a.accepted ||| pkgBit p.sender, maps := orMaps a.maps p.cmds }
        (s.modMGroup p.group (fun m => { m with leading := m.leading.map add })).tryCommit p.group)

/-- The leader proposes again without some packages. -/
def State.leadAgain (s : State) (m : MGroup) (a : Agreement) (out : BitVec 288) : State :=
  let joiner := a.joiner.bind (fun j => if out.getLsbD j then none else some j)
  (s.modMGroup m.no (fun m => { m with suspects := m.suspects ||| (out &&& m.members &&& ~~~(pkgBit s.pkg)), leading := none })).lead m.no joiner

/-- A REFUSE reaches the leader. -/
def execRefuse (p : ViewPacket) (s : State) : Host.Outcome State Fault Refusal :=
  .next (match s.mgroup? p.group with
    | none => s
    | some m =>
      match m.leading with
      | none => s
      | some a => if a.view ≠ p.view then s else s.leadAgain m a (pkgBit p.sender ||| p.suspect))

/-- 3,000,000 I/O die cycles of silence. -/
def execAgreementTimeout (group : Nat) (s : State) : Host.Outcome State Fault Refusal :=
  .next (match s.mgroup? group with
    | none => s
    | some m =>
      match m.leading with
      | none => s
      | some a => s.leadAgain m a (a.members &&& ~~~a.accepted))

/-- A COMMIT: a proposed member that accepted the number installs the view. -/
def execCommit (p : ViewPacket) (s : State) : Host.Outcome State Fault Refusal :=
  .next (match s.mgroup? p.group with
    | none => s
    | some m =>
      if p.members.getLsbD s.pkg && m.accepted.contains p.view && m.view < p.view then s.installView m p.view p.members p.cmds else s)

/-- A JOINREQ: sent by this package itself, forwarded to the leader, or taken by the leader. -/
def execJoinreq (p : ViewPacket) (s : State) : Host.Outcome State Fault Refusal :=
  .next (match s.mgroup? p.group with
    | none => s
    | some m =>
      if p.sender = s.pkg then s.sendView 5 p (membersOf m.defined)
      else if m.view = 0 || m.members.getLsbD p.sender then s
      else
        match m.leader with
        | none => s
        | some l =>
          if l ≠ s.pkg then s.sendView 5 p [l]
          else if m.leading.isSome then
            s.modMGroup p.group (fun m => { m with joining := if m.joining.contains p.sender then m.joining else m.joining ++ [p.sender] })
          else s.lead p.group (some p.sender))

/-- An EXCLUDE: the view becomes 0 (R407). -/
def execExclude (p : ViewPacket) (s : State) : Host.Outcome State Fault Refusal :=
  .next (match s.mgroup? p.group with
    | none => s
    | some m => if m.view = 0 then s else s.exclude m)

/-! ## After a command of a group completes -/

/-- A member whose started commands have completed answers the join that it was asked for, and a leader goes on with its own. -/
def State.resumeJoin (s : State) (no : Nat) : State :=
  match s.mgroup? no with
  | none => s
  | some m =>
    match m.pausing with
    | none => s
    | some p => if s.collLeft no then s else if p.leader = s.pkg then s.acceptOwn no true else s.sendAccept p

def execCommandCompletion (cmd : Nat) (s : State) : Host.Outcome State Fault Refusal :=
  .next (match s.cmd? cmd with
    | none => s
    | some k =>
      match k.stage with
      | .done status =>
        if k.waiting then s
        else
          let s := s.completeCmd k status
          match s.cmdGroup k with
          | some m => s.resumeJoin m.no
          | none => s
      | _ => s)

end Sys2Proof.Machine
end

