-- ==== Sys2Proof/Machine/Dispenser.lean ====
section
/-!
DEFINITION. The dispensers (R219): grants (R203), steals and exhaustion (R220, R221), tiles returned by vacated groups (R221, R317),
and the evacuation of a die (R421).
-/
namespace Sys2Proof.Machine

/-! ## Ranges -/

/-- Give a range to a cluster's dispenser: a launch's ranges stand in the order in which they are granted. -/
def State.addRange (s : State) (cluster lid lo hi : Nat) : State :=
  if hi ≤ lo then s else s.modCluster cluster (fun c => { c with ranges := c.ranges ++ [⟨lid, lo, hi⟩] })

/-- The ranges of a shipment. -/
def State.addRanges (s : State) (cluster lid : Nat) (rs : List (Nat × Nat)) : State :=
  rs.foldl (fun s t => s.addRange cluster lid t.1 t.2) s

/-- The low end of a dispenser takes a range: it is granted first (R221). -/
def State.addLow (s : State) (cluster lid lo hi : Nat) : State :=
  if hi ≤ lo then s else s.modCluster cluster (fun c => { c with ranges := ⟨lid, lo, hi⟩ :: c.ranges })

/-- What is left of a range stands in its place. -/
def replaceRange (t : TileRange) (left : List TileRange) : List TileRange → List TileRange
  | [] => []
  | u :: rest => if u = t then left ++ rest else u :: replaceRange t left rest

/-- Tiles of a launch in a cluster. -/
def Cluster.tiles (c : Cluster) (lid : Nat) : Nat :=
  c.ranges.foldl (fun n t => if t.lid = lid then n + (t.hi - t.lo) else n) 0

/-- Split a dispenser's ranges after the lowest k tiles of a launch. -/
def splitLow (lid : Nat) : Nat → List TileRange → List TileRange × List TileRange
  | _, [] => ([], [])
  | k, t :: rest =>
    if t.lid ≠ lid then let (a, b) := splitLow lid k rest; (t :: a, b)
    else if k = 0 then ([], t :: rest)
    else if t.hi - t.lo ≤ k then let (a, b) := splitLow lid (k - (t.hi - t.lo)) rest; (t :: a, b)
    else ([{ t with hi := t.lo + k }], { t with lo := t.lo + k } :: rest)

/-! ## Grants (R203) -/

/-- The four words of a grant of m tiles from L. -/
def grantWords (l : Launch) (L m : Nat) : List Word :=
  if m = 0 then [0xFFFFFFFF, 0, 0xFFFFFFFF, 0xFFFFFFFF]
  else
    let x := L % max 1 l.tilesX
    let y := L / max 1 l.tilesX % max 1 l.tilesY
    [w32 L, w32 m, w32 (x % 65536 + 65536 * (y % 65536)), w32 (L / max 1 l.tilesX / max 1 l.tilesY)]

/-- Answer a request. -/
def State.answerTiles (s : State) (r : TileReq) (L m : Nat) : State :=
  match s.launch? r.g.lid with
  | none => s
  | some l =>
    let s := if m = 0 then s else s.modGroup r.g (Group.modBoth (fun x => { x with grant := some ⟨L, m, r.dst⟩ }))
    s.addFill r.g r.dst 4 0xFFFF [(0, grantWords l L m)] false none

/-- Serve the waiting requests of a launch at a cluster from its ranges, in order of arrival, at most n of them. -/
def State.serveTiles (s : State) (cluster lid : Nat) : Nat → State
  | 0 => s
  | n + 1 =>
    match s.cluster? cluster with
    | none => s
    | some c =>
      match c.waiting.find? (fun w => w.g.lid == lid), c.ranges.find? (fun t => t.lid == lid) with
      | some w, some t =>
        let m := min (max w.n 1) (t.hi - t.lo)
        let left : List TileRange := if t.lo + m < t.hi then [{ t with lo := t.lo + m }] else []
        let s := s.modCluster cluster (fun c => { c with
          waiting := removeFirst w c.waiting, ranges := replaceRange t left c.ranges })
        (s.answerTiles w t.lo m).serveTiles cluster lid n
      | _, _ => s

/-! ## Steals (R220, R221) -/

def Cluster.steal? (c : Cluster) (lid : Nat) : Option Steal := c.steals.find? (fun t => t.lid == lid)

/-- Change a cluster's steal for a launch. -/
def State.modSteal (s : State) (cluster lid : Nat) (f : Steal → Steal) : State :=
  s.modCluster cluster (fun c => { c with steals := updateWhere (fun t => t.lid == lid) f c.steals })

def State.dropSteal (s : State) (cluster lid : Nat) : State :=
  s.modCluster cluster (fun c => { c with steals := c.steals.filter (fun t => t.lid != lid) })

/-- A request of the launch still waits at a cluster. -/
def Cluster.waits (c : Cluster) (lid : Nat) : Bool := c.waiting.any (fun w => w.g.lid == lid)

/-- Serve what the range allows, and steal for what is left. -/
def State.dispense (s : State) (cluster lid : Nat) : State :=
  let n := ((s.cluster? cluster).map (fun c => c.waiting.length)).getD 0
  let s := s.serveTiles cluster lid n
  match s.cluster? cluster with
  | none => s
  | some c =>
    if !c.waits lid || (c.steal? lid).isSome then s
    else (s.modCluster cluster (fun c => { c with steals := c.steals ++ [Steal.mk lid 0 .asking] })).post (.stealRequest cluster lid)

/-- A `fetcht` request reaches its dispenser. -/
def execDispenserRequest (cluster lid : Nat) (s : State) : Host.Outcome State Fault Refusal := .next (s.dispense cluster lid)

/-- Whether the waits that start at a victim lead back to a thief: then none of them has a tile, and neither would ever be
answered. -/
def State.waitRing (s : State) (thief : Nat) : Nat → Nat → Bool
  | 0, _ => false
  | n + 1, at_ =>
    if at_ = thief then true
    else match (s.cluster? at_).bind (fun c => c.steals.find? (fun t => t.st == .wait)) with
      | some t => s.waitRing thief n ((victims at_).getD t.victim at_)
      | none => false

/-- The clusters of a die in reset are not asked (R421). -/
def State.clusterAway (s : State) (cluster : Nat) : Bool := s.dieAway (cluster / 8)

/-- A steal request reaches its victim. -/
def execStealRequest (thief lid : Nat) (s : State) : Host.Outcome State Fault Refusal :=
  .next (match (s.cluster? thief).bind (fun c => c.steal? lid) with
    | none => s
    | some t =>
      let victim := (victims thief).getD t.victim 0
      let answer (s : State) (a : StealState) : State := (s.modSteal thief lid (fun t => { t with st := a })).post (.stealAnswer thief lid)
      match s.cluster? victim with
      | none => answer s .empty
      | some v =>
        if s.clusterAway victim then answer s .empty
        else if !v.steals.isEmpty && !(s.waitRing thief 32 victim) then answer s .wait
        else
          let r := v.tiles lid
          if r = 0 then answer s .empty
          else
            let (kept, top) := splitLow lid (r / 2) v.ranges
            let mine := top.filter (fun t => t.lid == lid)
            let s := s.modCluster victim (fun c => { c with ranges := kept ++ top.filter (fun t => t.lid != lid) })
            answer s (.shipped (mine.map (fun t => (t.lo, t.hi)))))

/-- Every cluster at which requests of the launch wait tries again. -/
def State.wakeDispensers (s : State) (lid : Nat) : State :=
  (s.clusters.filter (fun c => c.waits lid)).foldl (fun s c => s.post (.dispenserRequest c.no lid)) s

/-- Every victim has answered "empty": the requests are exhausted, unless a tile is still unstarted in the package or a spatial
pre-emption of the launch is in progress (R203, R221). -/
def State.exhausted (s : State) (thief lid : Nat) : State :=
  let busy := s.tilesLeft lid ≠ 0 ∨ ((s.launch? lid).map (fun l => !l.spatial.isEmpty)).getD false
  let s := s.dropSteal thief lid
  if busy then s
  else
    let reqs := ((s.cluster? thief).map (fun c => c.waiting.filter (fun w => w.g.lid == lid))).getD []
    let s := s.modCluster thief (fun c => { c with waiting := c.waiting.filter (fun w => w.g.lid != lid) })
    reqs.foldl (fun s w => s.answerTiles w 0 0) s

/-- A dispenser holds a range only for a launch with a cohort in its cluster (R219): when the last has gone, what is left goes to the first
cluster, in the order of R220, that has one; with none it stays (notes/assumptions/46.md). -/
def State.rehome (s : State) (cluster lid : Nat) : State :=
  let here (k : Nat) : Bool := s.cohorts.any (fun c => c.ref.lid == lid && clusterOf c.core == k)
  match s.cluster? cluster, (victims cluster).find? here with
  | some c, some dest =>
    if here cluster then s
    else
      let s := s.modCluster cluster (fun c => { c with ranges := c.ranges.filter (fun t => t.lid != lid) })
      (s.addRanges dest lid ((c.ranges.filter (fun t => t.lid == lid)).map (fun t => (t.lo, t.hi)))).wakeDispensers lid
  | _, _ => s

/-- The answer reaches the thief. Where its cluster's last cohort has gone meanwhile, the range goes on (R219). -/
def execStealAnswer (thief lid : Nat) (s : State) : Host.Outcome State Fault Refusal :=
  .next (match (s.cluster? thief).bind (fun c => c.steal? lid) with
    | none => s
    | some t =>
      match t.st with
      | .asking => s
      | .wait => (s.modSteal thief lid (fun t => { t with st := .asking })).post (.stealRequest thief lid)
      | .shipped rs => ((((s.dropSteal thief lid).addRanges thief lid rs).dispense thief lid).wakeDispensers lid).rehome thief lid
      | .empty =>
        if t.victim + 1 < (victims thief).length then
          (s.modSteal thief lid (fun t => { t with st := .asking, victim := t.victim + 1 })).post (.stealRequest thief lid)
        else s.exhausted thief lid)

/-! ## Returned tiles and evacuated dies (R221, R317, R421) -/

/-- A group's in-flight run goes back to the low end of its cluster's dispenser. -/
def State.returnRun (s : State) (g : GRef) : State :=
  match s.cohort? (GRefCohort g), (s.group? g).bind (fun x => x.r.grant) with
  | some c, some k =>
    ((s.addLow (clusterOf c.core) g.lid k.first (k.first + k.count)).modRegs g (fun r => { r with grant := none })).wakeDispensers g.lid
  | _, _ => s

/-- The cluster that the ranges of a launch go to from a die. -/
def State.evacuateTo (s : State) (die lid : Nat) : Nat :=
  let order := [(die + 1) % 4, (die + 3) % 4, (die + 2) % 4]
  8 * ((order.find? (fun e => s.cohorts.any (fun c => c.ref.lid == lid && dieOf c.core == e))).getD ((die + 1) % 4))

/-- A steal to or from a die that has been shipped is adopted before its step 2. -/
def State.settleSteals (s : State) : State :=
  s.clusters.foldl (fun s c => c.steals.foldl (fun s t => match t.st with
    | .shipped rs => (s.dropSteal c.no t.lid).addRanges c.no t.lid rs
    | _ => s) s) s

/-- The dispensers of a die ship every range, with the requests that wait. -/
def State.evacuate (s : State) (die : Nat) : State :=
  let s := s.settleSteals
  (s.clusters.filter (fun c => c.no / 8 == die)).foldl (fun s c =>
    let lids := ((c.ranges.map (fun t => t.lid)) ++ (c.waiting.map (fun w => w.g.lid))).eraseDups
    let s := s.modCluster c.no (fun c => { c with ranges := [], waiting := [], steals := [] })
    lids.foldl (fun s lid =>
      let dest := s.evacuateTo die lid
      let s := (c.ranges.filter (fun t => t.lid == lid)).foldl (fun s t => s.addRange dest lid t.lo t.hi) s
      let s := s.modCluster dest (fun k => { k with waiting := k.waiting ++ c.waiting.filter (fun w => w.g.lid == lid) })
      s.post (.dispenserRequest dest lid)) s) s

end Sys2Proof.Machine
end

