-- ==== Sys2Proof/Machine/Queue.lean ====
section
/-!
DEFINITION. Queues and launches (17): kicks (R291 to R293, R368, R370), taking and checking launch records (R294, R296, R297, R273,
R274), child launches (R199, R298), completion entries (R295), and the retirement of groups, cohorts and launches (R127, R217, R218).
-/
namespace Sys2Proof.Machine

/-! ## Reads and writes in the name of a queue -/

/-- The request of a queue. -/
def Queue.req (q : Queue) (v : Vif) : Req :=
  { v.req with vif := q.vif, part := fieldLE q.shadow 2 1, kdom := fieldLE q.shadow 3 1, core := 96 * 4, policy := 2 }

/-- Pages of a range for the queue reader, or the state in which the queue waits for them. -/
def State.queuePages (s : State) (q : Queue) (v : Vif) (use : QueueUse) (va n : Nat) (write : Bool) :
    Except State (State × List (Nat × Nat × Nat)) :=
  let need := if write then needWrite else needRead
  let acc := if write then accWrite else accRead
  match s.agentPages q.vif va n need with
  | none =>
    .error (((pagesOf va n).filter (fun p => (s.agentPa q.vif p need).isNone)).foldl (fun s p =>
      s.requestWalk q.vif 0 none p acc 0 (fieldLE q.shadow 0 1 == 1) 0 0xFFFFFFFF 0xFFFF (.queue q.qid use)) s)
  | some ps =>
    match ps.find? (fun p => s.homeUnavailable p.2.1) with
    | some p => .error (s.countUnavailable p.2.1)
    | none =>
      -- what completes a launch is a reply: it waits for no token and spends none (R363)
      let r := { q.req v with pay := if use == .entry then 1 else 0 }
      if ps.any (fun p => s.quiesced r p.2.1) || (s.silenced v.part && use != .entry) then .error s
      else if !s.agentReady r ps write then .error (s.awaitTokens r (ps.flatMap (fun p => linesOf p.2.1 p.2.2)))
      else .ok (ps.foldl (fun s p => s.agentReach { r with movable := s.leafMovable q.vif p.1 } p.2.1 p.2.2 write) s, ps)

/-- Pages of a range, by their first byte, PA and length. -/
abbrev Pages := List (Nat × Nat × Nat)

/-- The PA of an address on one of some pages. -/
def Pages.pa (ps : Pages) (va : Nat) : Nat :=
  ((ps.find? (fun p => p.1 ≤ va && va < p.1 + p.2.2)).map (fun p => p.2.1 + (va - p.1))).getD 0

/-- Bytes as a device reads them at their homes. -/
def State.pageData (s : State) (ps : Pages) (va n : Nat) : List Byte := (List.range n).map (fun k => s.homeByte (ps.pa (va + k)))

/-- Write bytes at their homes, page by page. -/
def State.pageStore (s : State) (r : Req) (ps : Pages) (va : Nat) (bs : List Byte) : State :=
  ps.foldl (fun s p =>
    let lo := max va p.1
    let hi := min (va + bs.length) (p.1 + p.2.2)
    if hi ≤ lo then s else s.homeStore r (p.2.1 + (lo - p.1)) ((bs.drop (lo - va)).take (hi - lo))) s

/-- STATUS is zeroed once after queue creation, when the QCB first translates (Table 17.2, R8). -/
def State.clearStatus (s : State) (q : Queue) (v : Vif) (ps : Pages) : State :=
  if ((s.queue? q.qid).map (fun q => q.cleared)).getD true then s
  else (s.modQueue q.qid (fun q => { q with cleared := true })).pageStore (q.req v) ps (q.qcb + 0x4C) (leBytes 0 4)

/-- The pages of a queue's QCB. -/
def State.qcbPages (s : State) (q : Queue) (v : Vif) (use : QueueUse) : Except State (State × Pages) :=
  (s.queuePages q v use q.qcb 256 true).map (fun r => (r.1.clearStatus q v r.2, r.2))

/-- A field of the QCB. -/
def State.qcbNat (s : State) (q : Queue) (ps : Pages) (off n : Nat) : Nat := leNat (s.pageData ps (q.qcb + off) n)

/-- Write a field of the QCB. -/
def State.qcbPut (s : State) (q : Queue) (v : Vif) (ps : Pages) (off : Nat) (bs : List Byte) : State :=
  s.pageStore (q.req v) ps (q.qcb + off) bs

/-- OR bits into QCB.STATUS at its home (R292). -/
def State.orStatus (s : State) (q : Queue) (v : Vif) (ps : Pages) (bits : Nat) : State :=
  s.qcbPut q v ps 0x4C (leBytes (s.qcbNat q ps 0x4C 4 ||| bits) 4)

/-! ## Kicks (R291, R293) -/

/-- STATUS bits of the privileged fields that differ from the shadow: PRIVW and PMASK (Table 17.2). -/
def privBits (shadow seen : List Byte) : Nat :=
  let d (off n k : Nat) : Nat := if fieldLE shadow off n = fieldLE seen off n then 0 else 2 ^ k
  if shadow.take 32 = seen then 0
  else 1 + d 0 1 1 + d 1 1 2 + d 2 1 3 + d 3 1 4 + d 4 1 5 + d 8 4 6 + d 0x0C 4 7

/-- A field that a kick reads breaks Table 17.1. -/
def State.badRing (s : State) (q : Queue) (ps : Pages) : Bool :=
  let f (off n : Nat) : Nat := s.qcbNat q ps off n
  f 0x20 8 % 64 != 0 || decide (12 < f 0x28 1) || f 0x38 8 % 32 != 0 || decide (12 < f 0x40 1)

/-- The ring fields are read from the QCB. -/
def State.readRing (s : State) (q : Queue) (ps : Pages) : State :=
  let f (off n : Nat) : Nat := s.qcbNat q ps off n
  s.modQueue q.qid (fun q => { q with ring := f 0x20 8, rlog := f 0x28 1, cring := f 0x38 8, clog := f 0x40 1, chead := f 0x48 4,
                                      reread := false })

/-- One kick, the QCB on some pages. -/
def State.kickAt (s : State) (q : Queue) (v : Vif) (ps : Pages) (value : DWord) (ignored : Bool) : State :=
  if ignored || q.disabled then s.orStatus q v ps (2 ^ 10)
  else
    let priv := privBits q.shadow (s.pageData ps q.qcb 32)
    let s := if priv = 0 then s else (s.qcbPut q v ps 0 (q.shadow.take 32)).orStatus q v ps priv
    if s.badRing q ps then s.orStatus q v ps (2 ^ 11)
    else
      let rlog := s.qcbNat q ps 0x28 1
      let s := s.readRing q ps
      let tail := value.toNat % 2 ^ 32
      let ahead (a b : Nat) : Nat := (a + 2 ^ 32 - b) % 2 ^ 32
      if 2 ^ 32 ≤ value.toNat ∨ 2 ^ rlog < ahead tail q.head ∨ 2 ^ 31 ≤ ahead tail q.tail then s.orStatus q v ps (2 ^ 8)
      else
        let s := (s.modQueue q.qid (fun q => { q with tail := tail })).post (.launchRecordTake q.qid)
        if q.compl.isEmpty then s else s.post (.completionEntryWrite q.qid)

/-- Act on the kicks that have reached a queue, in order, at most n. -/
def State.runKicks (s : State) (qid : Nat) : Nat → State
  | 0 => s
  | n + 1 =>
    match s.queue? qid with
    | none => s
    | some q =>
      match q.kicks, s.vif? q.vif with
      | (value, ignored) :: rest, some v =>
        let drop (s : State) : State := s.modQueue qid (fun q => { q with kicks := rest, refusedKick := false })
        -- the fault on its QCB was refused: the kick is lost
        if q.refusedKick then (drop s).runKicks qid n
        else
          match s.qcbPages q v .kick with
          | .error s => s
          | .ok (s, ps) =>
            match s.logPages v.part v.no 0 9 accWrite needWrite ps with
            | none => s
            | some s => ((drop s).kickAt q v ps value ignored).runKicks qid n
      | _, _ => s

/-- A queue that has come by migration reads its ring fields again before it uses them, as a kick that repeats the last TAIL would
(notes/assumptions/19.md); one whose fields are not valid waits for a kick. -/
def State.renewRing (s : State) (q : Queue) (v : Vif) : State :=
  if !q.reread then s
  else
    match s.qcbPages q v .kick with
    | .error s => s
    | .ok (s, ps) =>
      if s.badRing q ps then s
      else if q.compl.isEmpty then s.readRing q ps else (s.readRing q ps).post (.completionEntryWrite q.qid)

/-- A kick reaches the device: judged by the interface's present state (R368 to R370). -/
def State.kickIn (s : State) (vif slot : Nat) (value : DWord) : State :=
  match s.vif? vif, s.queues.find? (fun q => q.vif == vif && q.slot == slot) with
    | some v, some q =>
      if v.mig = .stopping ∨ v.mig = .stopped ∨ v.mig = .resuming then
        s.modVif vif (fun v => { v with heldKicks := v.heldKicks ++ [(slot, value)] })
      else
        let ignored := v.tdisp == .locked || v.tdisp == .error
        (s.modQueue q.qid (fun q => { q with kicks := q.kicks ++ [(value, ignored)] })).runKicks q.qid (q.kicks.length + 1)
    | _, _ => s

def execKick (vif slot : Nat) (value : DWord) (s : State) : Host.Outcome State Fault Refusal := .next (s.kickIn vif slot value)

/-! ## Launch records (R296, R297) -/

/-- Bytes of the band block (R273). -/
def bandBlock : Nat := 256

/-- The checks of codes 0x01 to 0x09 on the 64 bytes of a record. -/
def recordCode (bs : List Byte) : Option Nat :=
  let f := fieldLE bs
  let blk := f 0x22 1
  let S := 2 ^ (blk % 4)
  let up (a b : Nat) : Nat := (a + b - 1) / max b 1
  let X := up (f 0x10 4) (f 0x1C 2)
  let Y := up (f 0x14 4) (f 0x1E 2)
  let Z := up (f 0x18 4) (f 0x20 2)
  let fp := footprint (f 0x28 2) (f 0x2A 1) (f 0x2B 1)
  if 4 ≤ blk ∨ 8 ≤ f 0x23 1 ∨ f 0x31 3 ≠ 0 ∨ f 0x38 8 ≠ 0 then some 0x01
  else if f 0 8 % 8 ≠ 0 ∨ 2 ^ 57 ≤ f 0 8 then some 0x02
  else if f 8 8 % 256 ≠ 0 then some 0x03
  else if f 0x10 4 = 0 ∨ f 0x14 4 = 0 ∨ f 0x18 4 = 0 ∨ f 0x1C 2 = 0 ∨ f 0x1E 2 = 0 ∨ f 0x20 2 = 0 ∨ 65536 < X ∨ 65536 < Y ∨
      2 ^ 32 - 1 < X * Y * Z then some 0x04
  else if blk = 3 ∨ f 0x24 4 = 0 ∨ f 0x24 4 % S ≠ 0 then some 0x05
  else if f 0x28 2 = 0 ∨ 256 < f 0x28 2 ∨ f 0x2A 1 % 8 ≠ 0 ∨ f 0x2A 1 < 8 ∨ 128 < f 0x2A 1 ∨ 64 < f 0x2B 1 ∨ f 0x2C 4 % 128 ≠ 0 ∨
      8 < f 0x30 1 then some 0x06
  else if 1048576 < fp then some 0x07
  else if 2031616 < fp + f 0x2C 4 then some 0x08
  else if 64 < f 0x28 2 * f 0x30 1 then some 0x09
  else none

/-- Band declarations of a block: the present ones, or none when one fails R274. -/
def bandDecls (bs : List Byte) (classH : Bool) : Option (List BandDecl) :=
  let one (k : Nat) : List Byte := (bs.drop (16 * k)).take 16
  let here := (List.range 16).filter (fun k => bitOf (fieldLE (one k) 0 1) 0)
  let decl (k : Nat) : BandDecl :=
    let f := fieldLE (one k)
    { band := f 1 1, maxm := f 2 1, soff := f 4 4, hold := f 8 4 }
  let ok (k : Nat) : Bool :=
    let f := fieldLE (one k)
    let d := decl k
    f 0 1 == 1 && f 3 1 == 0 && f 0x0C 4 == 0 && d.band < 64 && (decide (32 ≤ d.band) == classH) && 1 ≤ d.maxm && d.maxm ≤ 96 &&
      d.soff % 128 == 0 && d.soff < 2097152 && 1 ≤ d.hold && d.hold < 2 ^ 24
  let ds := here.map decl
  if here.all ok && (ds.map (fun d => d.band)).eraseDups.length == ds.length then some ds else none

/-- Cores that a partition owns. -/
def Partition.coresOwned (p : Partition) : Nat := 12 * p.clusters.length

/-- The launch of a record with its tables, or its refusal code. -/
def State.readLaunch (s : State) (q : Queue) (lid idx : Nat) (rcd tables : List Byte) : Except Nat Launch :=
  let f := fieldLE rcd
  let classH := fieldLE q.shadow 0 1 == 1
  let part := fieldLE q.shadow 2 1
  let up (a b : Nat) : Nat := (a + b - 1) / max b 1
  match bandDecls (tables.drop 2048) classH with
  | none => .error 0x0A
  | some ds =>
    let table := fieldLE rcd 8 8
    if ((s.part? part).map Partition.coresOwned).getD 0 < f 0x24 4 then .error 0x0C
    else .ok
      { lid := lid, qid := q.qid, vif := q.vif, part := part, kdom := fieldLE q.shadow 3 1, classH := classH, idx := idx, tag := f 0x34 4,
        entry := w64 (f 0 8), handles := (List.range 64).map (fun k => BitVec.ofNat 256 (fieldLE tables (32 * k) 32)), bands := ds,
        -- the firmware shadow of this handle table (R249)
        sysMarks := (((s.vif? q.vif).map (fun v => v.sysWins)).getD []).filterMap (fun m => if m.1 = table then some m.2 else none),
        tilesX := up (f 0x10 4) (f 0x1C 2), tilesY := up (f 0x14 4) (f 0x1E 2), tilesZ := up (f 0x18 4) (f 0x20 2), blk := f 0x22 1,
        cores := f 0x24 4, grp := f 0x28 2, breg := f 0x2A 1, xreg := f 0x2B 1, scr := f 0x2C 4, acc := f 0x30 1,
        chk := bitOf (f 0x23 1) 0, trs := bitOf (f 0x23 1) 1, ser := bitOf (f 0x23 1) 2, budget := fieldLE q.shadow 0x0C 4,
        parent := none, parentLid := none, phase := .running, placed := false, bound := 0, retired := 0, mismatchCores := [],
        grants := [], spatial := [], cring := q.cring, clog := q.clog }

/-- An index of a queue's ring precedes another. -/
def ringBefore (a b : Nat) : Bool := a != b && decide ((b + 2 ^ 32 - a) % 2 ^ 32 < 2 ^ 31)

/-- An earlier record of the queue has not completed, or its entry, a refused one's too, is not written (R294). -/
def State.earlierOpen (s : State) (l : Launch) : Bool :=
  s.launches.any (fun k => k.qid == l.qid && k.parentLid.isNone && k.lid < l.lid && k.phase != .over) ||
    ((s.queue? l.qid).map (fun q => q.compl.any (fun e => ringBefore e.idx l.idx))).getD false

/-- Launches of a queue start in ring order; one with SER waits for all before it. -/
def State.startWaiting (s : State) (qid : Nat) : State :=
  let ls := s.launches.filter (fun l => l.qid == qid && l.phase == .waiting)
  ls.foldl (fun s l =>
    let blocked := (l.ser && s.earlierOpen l) ||
      s.launches.any (fun k => k.qid == qid && k.phase == .waiting && k.lid < l.lid)
    if blocked then s else s.modLaunch l.lid (fun l => { l with phase := .running })) s

/-- The QCB's pages, to write HEAD; none when the fault met there was refused, and HEAD stands in the device alone. -/
def State.headPages (s : State) (q : Queue) (v : Vif) : Except State (State × Option Pages) :=
  if q.refusedHead then .ok (s, none) else (s.qcbPages q v .head).map (fun r => (r.1, some r.2))

/-- HEAD advances, and the device writes it to the QCB. -/
def State.advanceHead (s : State) (q : Queue) (v : Vif) (ps : Option Pages) : State :=
  let head := (q.head + 1) % 2 ^ 32
  let s := s.modQueue q.qid (fun q => { q with head := head, refusedHead := false })
  let s := match ps with
    | some ps => s.qcbPut q v ps 0x30 (leBytes head 4)
    | none => s
  if head = q.tail then s else s.post (.launchRecordTake q.qid)

/-- A queue waits for nothing more of a record. -/
def State.leaveRecord (s : State) (qid : Nat) : State :=
  { s with
    recs := s.recs.map (fun (r : FaultRec) => { r with waiters := r.waiters.filter (fun w => w != .queue qid .record) })
    walks := s.walks.map (fun (w : Walk) => { w with waiters := w.waiters.filter (fun x => x.2 != .queue qid .record) }) }

/-- A refused launch: its completion entry (Table 17.3). What else its record's pages still wait for is of no concern any more. -/
def State.refuseLaunch (s : State) (q : Queue) (tag code : Nat) : State :=
  let e : Completion :=
    { cring := q.cring, clog := q.clog, idx := q.head, stat := 1, code := code, left := 0, tag := tag, tpc := 0, taddr := 0 }
  ((s.leaveRecord q.qid).modQueue q.qid (fun q => { q with compl := q.compl ++ [e], waitRec := none, refusedRead := false })).post
    (.completionEntryWrite q.qid)

/-- Take the next record: read it, check it, and copy its tables. -/
def State.takeRecord (s : State) (q : Queue) (v : Vif) : State :=
  let va := q.ring + 64 * (q.head % 2 ^ q.rlog)
  match s.headPages q v with
  | .error s => s
  | .ok (s, qs) =>
    -- a refused read of the record or of its tables
    if q.refusedRead then
      let tag := ((s.agentPages q.vif va 64 needRead).map (fun ps => fieldLE (s.pageData ps va 64) 0x34 4)).getD 0
      (s.refuseLaunch q tag 0x0B).advanceHead q v qs
    else
      match s.queuePages q v .record va 64 false with
      | .error s => s
      | .ok (s, ps) =>
        let rcd := s.pageData ps va 64
        match recordCode rcd with
        | some code => (s.refuseLaunch q (fieldLE rcd 0x34 4) code).advanceHead q v qs
        | none =>
          let ta := fieldLE rcd 8 8
          match s.queuePages q v .record ta (2048 + bandBlock) false with
          | .error s => s
          | .ok (s, ts) =>
            match s.logPages v.part v.no 0 9 accRead needRead (ps ++ ts) with
            | none => s
            | some s =>
              match s.readLaunch q s.nextId q.head rcd (s.pageData ts ta (2048 + bandBlock)) with
              | .error code => (s.refuseLaunch q (fieldLE rcd 0x34 4) code).advanceHead q v qs
              | .ok l =>
                let s : State := { s with nextId := s.nextId + 1, launches := s.launches ++ [{ l with phase := .waiting }] }
                (s.advanceHead q v qs).startWaiting q.qid

def execLaunchRecordTake (qid : Nat) (s : State) : Host.Outcome State Fault Refusal :=
  let s := match (s.queue? qid).bind (fun q => (s.vif? q.vif).map (fun v => (q, v))) with
    | some (q, v) => s.renewRing q v
    | none => s
  let s := s.runKicks qid (((s.queue? qid).map (fun q => q.kicks.length)).getD 0)
  .next (match s.queue? qid with
    | none => s
    | some q =>
      match s.vif? q.vif with
      | none => s
      | some v =>
        if q.head = q.tail ∨ q.reread ∨ q.waitRec.isSome ∨ !q.kicks.isEmpty ∨ !(v.mig == .running || v.mig == .precopy) ∨
            !(v.tdisp == .unlocked || v.tdisp == .run) then s
        else s.takeRecord q v)

/-! ## Child launches (R199, R298) -/

/-- The ranges that a launch command reads: its record, and once that is readable its tables. -/
def State.childTouches (s : State) (l : Launch) (k : Cmd) : List Touch :=
  let va := (l.handle (cmdField k.words 8 1)).base + cmdField k.words 0x0C 4
  let tables := match s.agentPages k.vif va 64 needRead with
    | some ps =>
      let rcd := s.agentBytes k.req ps
      if (recordCode rcd).isSome then [] else [Touch.mk (fieldLE rcd 8 8) (2048 + bandBlock) false 0]
    | none => []
  ⟨va, 64, false, (l.handle (cmdField k.words 8 1)).policy⟩ :: tables

/-- Read and check the child's record, and start it. -/
def State.startChild (s : State) (l : Launch) (k : Cmd) : State :=
  if k.child.isSome then s
  else
    let va := (l.handle (cmdField k.words 8 1)).base + cmdField k.words 0x0C 4
    let bytes (a n : Nat) : List Byte := ((s.agentPages k.vif a n needRead).map (s.agentBytes k.req)).getD []
    let rcd := bytes va 64
    match recordCode rcd, s.queue? l.qid with
    | some code, _ => s.endCmd k.id (1 + 256 * code)
    | none, none => s.endCmd k.id 5
    | none, some q =>
      match s.readLaunch q s.nextId 0 rcd (bytes (fieldLE rcd 8 8) (2048 + bandBlock)) with
      | .error code => s.endCmd k.id (1 + 256 * code)
      | .ok child =>
        let child := { child with cring := l.cring, clog := l.clog, parent := some k.id, parentLid := some l.lid, classH := l.classH, part := l.part, kdom := l.kdom }
        let s : State := { s with nextId := s.nextId + 1, launches := s.launches ++ [child] }
        -- the launch queue goes on with the next command
        (s.modCmd k.id (fun k => { k with child := some child.lid })).post (.engineCommandStart .launchQueue)

/-- A class H command waits for the class G ones that the launch queue has started (R298). -/
def execLaunchCommand (cmd : Nat) (s : State) : Host.Outcome State Fault Refusal :=
  .next (if ((s.cmd? cmd).map (fun k => k.classH && s.childless.any (fun j => !j.classH))).getD false then s
    else
      let s := s.engineDo cmd s.childTouches (fun l k s => s.startChild l k)
      (s.childless.filter (fun j => j.id != cmd && !j.waiting)).foldl (fun s j => s.postWork j) s)

/-! ## Completion entries (R295) -/

/-- The 32 bytes of an entry. -/
def Completion.toBytes (e : Completion) : List Byte :=
  leBytes e.idx 4 ++ leBytes e.stat 1 ++ leBytes e.code 1 ++ leBytes 0 2 ++ leBytes e.left 4 ++ leBytes e.tag 4 ++
    leBytes e.tpc.toNat 8 ++ leBytes e.taddr.toNat 8

/-- Write the oldest waiting entry, if the ring of its record has room. -/
def State.writeEntry (s : State) (q : Queue) (v : Vif) (e : Completion) : State :=
  let rest (s : State) : State := s.modQueue q.qid (fun q => { q with compl := q.compl.drop 1, refusedEntry := false })
  if q.refusedEntry then (rest s).startWaiting q.qid
  else
    match s.qcbPages q v .entry with
    | .error s => s
    | .ok (s, qs) =>
      let chead := s.qcbNat q qs 0x48 4
      let s := s.modQueue q.qid (fun q => { q with chead := chead })
      if 2 ^ e.clog ≤ (q.ctail + 2 ^ 32 - chead) % 2 ^ 32 then
        if (s.qcbNat q qs 0x4C 4).testBit 9 then s else s.orStatus q v qs (2 ^ 9)
      else
        let va := e.cring + 32 * (q.ctail % 2 ^ e.clog)
        match s.queuePages q v .entry va 32 true with
        | .error s => s
        | .ok (s, ps) =>
          match s.logPages v.part v.no 0 9 accWrite needWrite ps with
          | none => s
          | some s =>
            let s := s.pageStore (q.req v) ps va e.toBytes
            let ctail := (q.ctail + 1) % 2 ^ 32
            let s := (s.modQueue q.qid (fun q => { q with ctail := ctail })).qcbPut q v qs 0x44 (leBytes ctail 4)
            let s := ((rest s).signal q.vif q.vector).startWaiting q.qid
            if (q.compl.drop 1).isEmpty then s else s.post (.completionEntryWrite q.qid)

def execCompletionEntryWrite (qid : Nat) (s : State) : Host.Outcome State Fault Refusal :=
  .next (match s.queue? qid with
    | none => s
    | some q =>
      match q.compl, s.vif? q.vif with
      | e :: _, some v => if q.reread then s.post (.launchRecordTake qid) else s.writeEntry q v e
      | _, _ => s)

/-! ## Retirement (R127, R217, R218) -/

/-- The band entries of a launch on a die, when no cohort of it is there, are free (R274). -/
def State.freeBands (s : State) (lid die : Nat) : State :=
  if s.cohorts.any (fun c => c.ref.lid == lid && dieOf c.core == die) ||
      s.cores.any (fun k => dieOf k.no == die && k.held.any (fun h => h.lid == lid)) then s
  else s.modDie die (fun d => { d with bands := Band.release (fun x => x == lid) d.bands,
                                       bandFills := d.bandFills.filter (fun f => !(d.bands.any (fun b => b.lid == lid && b.no == f.band))) })

/-- A launch completes when no cohort of it is left and no tile, or when its cohorts have all retired (R218). -/
def State.launchDone (s : State) (lid : Nat) : State :=
  match s.launch? lid with
  | none => s
  | some l =>
    if l.phase ≠ .running || l.bound = 0 || s.allCohorts.any (fun c => c.ref.lid == lid) ||
        s.cores.any (fun k => k.held.any (fun h => h.lid == lid)) then s
    else
      let s := match l.parent with
        | none => s.complete l 0 0 0 0
        | some cmd => s.endCmd cmd 0
      let dead (x : Nat) : Bool := x == lid
      { s with
        launches := updateWhere (fun x => x.lid == lid) (fun x => { x with phase := .over }) s.launches
        clusters := s.clusters.map (fun (c : Cluster) => { c with
          ranges := c.ranges.filter (fun t => t.lid != lid), steals := c.steals.filter (fun t => t.lid != lid) })
        dies := s.dies.map (fun (d : Die) => { d with bands := Band.release dead d.bands }) }

/-- Every `bandl` fill bound for a cohort has landed. -/
def State.asksDone (s : State) (c : Cohort) : Bool :=
  s.dies.all (fun d => d.bands.all (fun b => b.lid != c.ref.lid || !b.asks.any (fun a => a.core == c.core)))

/-- Commands of a cohort that R217 waits for. -/
def State.cohortCmds (s : State) (r : CRef) : List Cmd := s.cmds.filter (fun k => GRefCohort k.owner == r && k.eng != .launchQueue)

/-- The dirty sectors of every bound entry go to memory, write-backs that were accepted before the identifier given; false while some
remain. -/
def State.flushMaps (s : State) (c : Cohort) (since : Nat) : State × Bool :=
  match s.launch? c.ref.lid with
  | none => (s, true)
  | some l =>
    let s := (List.range 8).foldl (fun s e => match s.cohort? c.ref with
      | some c => if (c.mapEntry e).bound then s.mapWriteback l c e since 0 else s
      | none => s) s
    (s, (List.range 8).all (fun e => s.mapClean c.ref e))

/-- A cohort leaves its core for good. -/
def State.releaseCohort (s : State) (c : Cohort) : State :=
  let die := dieOf c.core
  let s := ((s.die? die).map (fun d => (d.bands.filter (fun b => b.lid == c.ref.lid && (b.members &&& coreBit c.core) != 0)).map (fun b => b.no))).getD []
    |>.foldl (fun s b => s.bandLeave die b c.core) s
  let live := s.blockHolder c.ref.lid c.bid == some c.ref
  let bbars := c.bbars
  let s : State := { s with cohorts := s.cohorts.filter (fun x => x.ref != c.ref) }
  -- the block barriers stay with the block's cohort of lowest cid
  let s := if live then
      (match s.blockHolder c.ref.lid c.bid with
       | some h => s.modCohort h (fun x => { x with bbars := bbars })
       | none => s)
    else s
  let cut (k : Lock) : Bool := k.space == 1 && k.cohort == c.ref
  let s := s.modCore c.core (fun k => { k with locks := k.locks.filter (fun x => !cut x) })
  let s := s.modLaunch c.ref.lid (fun l => { l with retired := l.retired + 1, spatial := l.spatial.filter (fun x => x != c.ref) })
  let s := (List.range 4).foldl (fun s id => s.settleBarb c.ref.lid c.bid id) s
  let s := ((s.freeBands c.ref.lid die).rehome (clusterOf c.core) c.ref.lid).wakeDispensers c.ref.lid
  (s.wake.launchDone c.ref.lid)

/-- R217: when groups, commands, band fills and map write-backs are done. -/
def execCohortRetire (r : CRef) (s : State) : Host.Outcome State Fault Refusal :=
  .next (match s.cohorts.find? (fun c => c.ref == r) with
    | none => s
    | some c =>
      if !(c.groups.all (fun g => g.retired)) || !(s.cohortCmds r).isEmpty || !s.asksDone c then s
      else
        let since := match c.phase with
          | .draining k => k
          | _ => s.nextId
        match s.flushMaps c since with
        | (s, false) => s
        | (s, true) => match s.cohorts.find? (fun c => c.ref == r) with
          | some c => s.releaseCohort c
          | none => s)

/-- A group retires once its sent operations are complete (R127): it releases its extended set, and the barriers that counted it
are settled. -/
def execGroupRetire (g : GRef) (s : State) : Host.Outcome State Fault Refusal :=
  .next (match s.cohort? (GRefCohort g) with
    | none => s
    | some c =>
      match c.group? g.gid with
      | none => s
      | some x =>
        if x.r.live ≠ 0 || x.retired || !x.accs.isEmpty || !x.slots.isEmpty || !x.sending.isEmpty || x.run1.isSome || x.run2.isSome || !x.tileOps.isEmpty ||
            s.clusters.any (fun k => k.waiting.any (fun w => w.g == g)) then s
        else
          -- a vacated group that ended in its handler gives its run back (R317)
          let s := if c.spatial && x.r.inTrap && x.r.tcause.toNat % 256 == 0x38 then s.returnRun g else s
          let s := s.modGroup g (fun x => { x with retired := true, fills := [], posted := [],
                                                   r := { x.r with xheld := false, inTrap := false, handler := 0, grant := none } })
          let s := s.modCohort c.ref (fun c => (List.range 16).foldl (fun c id => c.settleBar id) c)
          let s := (List.range 4).foldl (fun s id => s.settleBarb g.lid c.bid id) s
          match s.cohort? c.ref with
          | none => s
          | some c =>
            if c.groups.all (fun g => g.retired) then
              let drain (x : Cohort) : Cohort := if x.phase = .resident then { x with phase := .draining s.nextId, budget := none } else x
              (s.modCohort c.ref drain).post (.cohortRetire c.ref)
            else if c.budget.isSome then s.post (.saveComplete c.ref) else s)

end Sys2Proof.Machine
end

