-- ==== Sys2Proof/Machine/Save.lean ====
section
/-!
DEFINITION. Leaving a core (18): what a save keeps of a group (R307, R308), the context frame (R319) and its place in the attic (R309, R310),
departure (R284, R311), the write-back from the attic (R311), saves (R314, R315), and the swap of a faulting cohort (R339).
-/
namespace Sys2Proof.Machine

/-! ## The image of a group (R307, R308) -/

/-- An outstanding `waitc` is saved as a slot (R192), made last; one inside the region goes with the attempt. -/
def Group.slotWaits (x : Group) (made : Nat) : Group :=
  let x := { x with accs := x.accs.filter (fun a => !(a.opc == opWaitc && a.noFill)) }
  (x.accs.filter (fun a => a.opc == opWaitc)).foldl (fun x a =>
    let used := x.slots.map (fun t => t.idx)
    let idx := ((List.range 32).find? (fun k => !used.contains k)).getD 0
    x.placeSlot { a with released := 0, resv := false } (a.addr.map (fun p => p.1)) [] idx made) x

/-- A wait that a save ends: `sleep` and `yield` (R308), and `xrel`, whose holder is saved as it stands after the word. -/
def Wait.endsAtSave : Wait → Bool
  | .sleep _ _ | .yield | .xrel => true
  | _ => false

/-- The group as a frame keeps it: restarted inside a region, else at its lanes' current PCs. Trap 0x38 is satisfied by the save. -/
def Group.image (x : Group) (made : Nat) : Group :=
  let x := x.halt
  let x := if x.r.inReg then x.restart else x
  let r := { x.r with wait := x.r.wait.drop Wait.endsAtSave, outer := x.r.outer.drop Wait.endsAtSave,
                      xheld := x.r.xheld && !(x.r.wait.has (fun w => w == .xrel)) }
  { x with r := r, tileOps := [], spin := Spin.zero, unsent := [], ck := none, replaying := false
           posted := x.posted.filter (fun p => p.code != 0x38) }.slotWaits made

/-- What a light frame omits reads as zero with every bit full (R314). -/
def Group.light (x : Group) : Group :=
  { x with r := { x.r with v := [], w := [], ev := [], ew := 0, acc := [], shadow := [] }, poison := [] }

/-! ## The frame (R319) -/

/-- FBYTES: the areas of Table 18.3, each at a multiple of 128. -/
def frameBytes (kind g b x acc scr nslot ndef ncmd masks : Nat) : Nat :=
  let areas := [16 * ndef, 64 * ncmd, 512 * nslot] ++
    (if kind = 3 then [] else [footprint g b x, scr + 16 * masks, 4096 * g * acc])
  areas.foldl (fun n a => if a = 0 then n else alignUp n 128 + a) (256 + 1024 * g)

/-- FBYTES from a frame's own header. -/
def Frame.size (f : Frame) : Nat := frameBytes f.kind f.g f.b f.x f.acc f.scr f.nslot f.ndef (f.cmdBytes.length / 64) f.masks

/-- The scratchpad as a frame keeps it: the bytes of mapped sectors are left out (R311). -/
def Cohort.savedScratch (c : Cohort) : Memory :=
  c.scratch.filter (fun b => !((List.range 8).any (fun e => let m := c.mapEntry e; m.bound && m.s ≤ b.1 && b.1 < m.s + m.n)))

/-- Dirty mapped bytes with their global addresses. -/
def Cohort.dirtyMapped (c : Cohort) : List (Nat × Byte) :=
  (List.range 8).flatMap (fun e =>
    let m := c.mapEntry e
    if m.bound then m.dirty.map (fun o => (m.va + (o - m.s), c.scratch.byte o)) else [])

/-- The cohort as a frame of a kind keeps it. -/
def Cohort.image (c : Cohort) (kind made : Nat) : Cohort :=
  let unfill (m : MapEntry) : MapEntry := { m with filled := [], dirty := [], filling := [] }
  let keep (x : Group) : Group := if kind = 3 then (x.image made).light else x.image made
  { c with
    groups := c.groups.map keep
    scratch := if kind = 3 then [] else c.savedScratch
    granEmpty := if kind = 3 then [] else c.granEmpty
    scrPoison := if kind = 3 then [] else c.scrPoison
    maps := c.maps.map unfill
    phase := .saved
    budget := none
    spatial := false
    saves := c.saves + 1 }

/-- Commands of a cohort, launch commands among them, that have not completed. -/
def State.pendingCmds (s : State) (r : CRef) : List Cmd := s.cmds.filter (fun k => GRefCohort k.owner == r)

/-- The address of the attic of a die (R309). -/
def State.atticBase (s : State) (die : Nat) : Nat := s.pkg * 2 ^ 41 + die * 2 ^ 39 + ((s.die? die).map (fun d => d.atticAt)).getD 0

/-- A free place for n bytes in a die's attic: the first behind its base or another frame that meets none (DESIGN CHOICE,
notes/assumptions/5.md: the scheduling core chooses it). -/
def State.atticPlace (s : State) (die n : Nat) : Nat :=
  let fs := s.frames.filter (fun f => f.die == die)
  let base := s.atticBase die
  let ends := base :: fs.map (fun f => alignUp (f.pa + f.fbytes) 128)
  (minNat? (ends.filter (fun p => base ≤ p && !(fs.any (fun f => rangesMeet p n f.pa f.fbytes))))).getD base

/-- The 64 bytes of a command as pushed. -/
def Cmd.toBytes (k : Cmd) : List Byte := exactly 64 (k.words.flatMap (fun w => leBytes w.toNat 4))

/-- The lines of a frame pass its home slices and their stack in the name of class G, written or read (R310). -/
def State.atticTraffic (s : State) (l : Launch) (f : Frame) (write : Bool) : State :=
  let q : Req := { vif := l.vif, part := l.part, kdom := f.kdom, classH := false, core := 96 * f.die }
  (linesOf f.pa f.fbytes).foldl (fun s a =>
    let s := s.homeTouch q a
    if write then { s with l2 := updateWhere (fun (x : L2Line) => x.line == a / 128) (fun x => { x with dirty := true, cls := false }) s.l2 } else s) s

/-- The frame of a cohort. -/
def State.frameOf (s : State) (l : Launch) (c : Cohort) (kind : Nat) : Frame :=
  let image := c.image kind s.nextId
  -- a fetch that waits at a fault's service is answered while the cohort is away (R340)
  let stuck (x : Group) : List DWord := (((s.core? c.core).map (fun k => k.fetches)).getD []).filterMap (fun f =>
    if f.stuck && f.lid == c.ref.lid && x.waitsFetch f.slot f.pc then some f.pc else none)
  let image := { image with groups := image.groups.map (fun x => { x with awaits := stuck x }) }
  let pending := s.pendingCmds c.ref
  let cmds := pending.map (fun k => k.id)
  let locks := ((s.core? c.core).map (fun k => k.locks.filter (fun x => cmds.contains x.cmd))).getD []
  let nslot := (image.groups.map (fun g => g.slots.length)).foldl (· + ·) 0
  -- one mask for each sector of the scratchpad, where a mapped sector is dirty (R304, R311)
  let masks := if c.dirtyMapped.isEmpty then 0 else (l.scr + 127) / 128
  let n := frameBytes kind l.grp l.breg l.xreg l.acc l.scr nslot c.deferred.length cmds.length masks
  { id := s.nextId, die := dieOf c.core, kind := kind, g := l.grp, b := l.breg, x := l.xreg, acc := l.acc, scr := l.scr, fbytes := n,
    pa := s.atticPlace (dieOf c.core) n, kdom := l.kdom, cmdBytes := pending.flatMap Cmd.toBytes, cohort := image, cmds := cmds, locks := locks, nslot := nslot, ndef := c.deferred.length, masks := masks,
    mapDirty := c.dirtyMapped }

/-- `.pkg` (Table 3.6). -/
def scopePkg : Nat := 4

/-- The frame takes the cohort's place: its range-lock entries and its core's resources are free. -/
def State.intoFrame (s : State) (l : Launch) (c : Cohort) (kind : Nat) : State :=
  let f := s.frameOf l c kind
  let gone (x : Lock) : Bool := f.cmds.contains x.cmd
  let s := s.modCore c.core (fun k => { k with locks := k.locks.filter (fun x => !gone x) })
  let s := s.modLaunch l.lid (fun l => { l with spatial := l.spatial.filter (fun x => x != c.ref) })
  let s : State := { s with nextId := s.nextId + 1, cohorts := s.cohorts.filter (fun x => x.ref != c.ref), frames := s.frames ++ [f] }
  let s := s.atticTraffic l f true
  let s := if f.mapDirty.isEmpty then s else s.post (.mapAtticWriteback f.id)
  ((s.rehome (clusterOf c.core) l.lid).wake).wakeDispensers l.lid

/-- A cohort leaves its core for a frame of a kind: its bands (R284), its release (Table 14.2), its place. -/
def State.leaveCore (s : State) (r : CRef) (kind : Nat) : State :=
  let s := s.bandDepart r
  match s.cohorts.find? (fun c => c.ref == r), s.launch? r.lid with
  | some c, some l =>
    let s := s.releaseActions (l.req c) scopePkg
    (match s.cohorts.find? (fun c => c.ref == r) with
     | some c => s.intoFrame l c kind
     | none => s)
  | _, _ => s

/-! ## The write-back from the attic (R311) -/

/-- Store the dirty bytes of one page, when it translates and nothing holds them; the write-backs were accepted at the save (R252). -/
def State.atticPage (s : State) (l : Launch) (f : Frame) (page : Nat) : State :=
  let bs := f.mapDirty.filter (fun b => b.1 / 65536 == page)
  let va := 65536 * page
  -- the faulting address is that of the lowest dirty sector (R244)
  let sec := alignDown ((minNat? (bs.map (fun b => b.1))).getD va) 128
  let c := f.cohort
  let q := l.req c
  let locked := ((s.core? c.core).map (fun k => bs.any (fun b => k.lockedByte l.vif b.1 f.id))).getD false
  match s.agentPa l.vif va needWrite with
  | none => s.requestWalk l.vif (dieOf c.core) none sec (accWrite ||| accMap) c.core c.classH l.lid c.ref.cid 0
      (.mapWriteback c.ref sec)
  | some pa =>
    let at_ (b : Nat × Byte) : Nat := pa + b.1 % 65536
    if locked || s.homeUnavailable pa || s.quiesced q pa then s
    else if !bs.all (fun b => s.hasToken q (at_ b)) then s.awaitTokens q (bs.map at_)
    else
      match s.logPages l.part l.vif l.lid 6 (accWrite ||| accMap) needWrite [(va, pa, 65536)] with
      | none => s
      | some s =>
        let s := bs.foldl (fun s b => (s.reachHome { q with movable := s.leafMovable l.vif va } (at_ b) true).homeStore q (at_ b) [b.2]) s
        { s with frames := updateWhere (fun (x : Frame) => x.id == f.id)
                   (fun x => { x with mapDirty := x.mapDirty.filter (fun b => b.1 / 65536 != page) }) s.frames }

/-- The map unit stores the dirty bytes of a frame to their global addresses. -/
def execMapAtticWriteback (frame : Nat) (s : State) : Host.Outcome State Fault Refusal :=
  .next (match s.frames.find? (fun f => f.id == frame) with
    | none => s
    | some f =>
      match s.launch? f.cohort.ref.lid with
      | none => s
      | some l =>
        let s := ((f.mapDirty.map (fun b => b.1 / 65536)).eraseDups).foldl (fun s p => s.atticPage l f p) s
        if s.cohorts.any (fun c => c.ref == f.cohort.ref) then s.post (.restoreFrameReadDone f.cohort.ref) else s)

/-! ## Cooperative pre-emption (R313 to R315) -/

/-- A group has ended its handler: it has retired or is parked. -/
def Group.handlerOver (x : Group) : Bool := x.retired || (x.stopped && !x.r.inTrap)

/-- No unfilled `bandl` of a cohort is left. -/
def State.noAsks (s : State) (c : Cohort) : Bool := s.asksDone c && c.deferred.isEmpty

/-- The conditions of R314 for a light save. -/
def State.lightOk (s : State) (c : Cohort) : Bool :=
  s.noAsks c && c.groups.all (fun x =>
    !x.r.inReg && x.slots.isEmpty && !(x.accs.any (fun a => a.opc == opWaitc)) &&
      (x.r.live == 0 || (x.r.ew == 0 && x.r.ev.all (fun e => e.2 &&& x.r.live == 0))))

/-- The light save of a cohort, once its dirty mapped sectors have been written back (R242). -/
def State.lightSave (s : State) (c : Cohort) (since : Nat) : State :=
  match s.flushMaps c since with
  | (s, false) => s.modCohort c.ref (fun c => { c with phase := .flushing since })
  | (s, true) => s.leaveCore c.ref 3

/-- A save goes on: a forced save writes its frame; at the end of a budget's handlers the cohort leaves by a light save, whose dirty
sectors are written back first (R242), or by a forced one. -/
def execSaveComplete (r : CRef) (s : State) : Host.Outcome State Fault Refusal :=
  .next (match s.cohorts.find? (fun c => c.ref == r) with
    | none => s
    | some c =>
      match c.phase with
      | .saving kind => s.leaveCore r kind
      | .resident =>
        if c.budget.isNone || !(c.groups.all Group.handlerOver) || c.groups.all (fun x => x.retired) then s
        else if !(s.lightOk c) then (s.startSave r 2).leaveCore r 2
        else
          s.lightSave c s.nextId
      | .flushing since => s.lightSave c since
      | _ => s)

/-- Post trap 0x38 to every group of a cohort that has not retired, and start the budget, if none runs. -/
def State.requestLeave (s : State) (r : CRef) (info budget : Nat) : State :=
  let tell (x : Group) : Group := if x.retired || x.r.live == 0 then x else { x with posted := x.posted ++ [⟨0x38, info, none⟩] }
  let s := s.modSeated r (fun c => { c with groups := c.groups.map tell, budget := some (c.budget.getD budget), spatial := info == 1 })
  let gids := ((s.cohort? r).map (fun c => c.groups.map (fun x => x.gid))).getD []
  (gids.foldl (fun s gid => s.post (.asyncTrapDelivery ⟨r.lid, r.cid, gid⟩)) s).post (.budgetOverrun r)

/-- A group that is still in its handler at the overrun of a vacated cohort: its run goes back and it ends (R317). -/
def State.vacateGroup (s : State) (g : GRef) : State :=
  let s := s.returnRun g
  let stop (x : Group) : Group :=
    let y := x.halt
    { y with r := { y.r with live := 0 }, posted := [], late := [] }
  (s.modGroup g stop).settleGroup g

/-- A group runs the handler of trap 0x38. -/
def Group.inLeaveHandler (x : Group) : Bool := !x.retired && x.r.inTrap && x.r.tcause.toNat % 256 == 0x38

/-! ## Swapping a faulting cohort (R339) -/

/-- A register in a lane waits on a replay slot of its group. -/
def Group.slotHolds (x : Group) (n lane : Nat) : Bool :=
  x.slots.any (fun t => !t.acc.noFill && t.acc.dst ≤ n && n < t.acc.dst + t.acc.regs && t.acc.addr.any (fun p => p.1 == lane))

/-- No lane of a group can issue for want of a service: each stands parked on a register that a replay slot holds, or at a fetch under
service. -/
def State.unserved (s : State) (c : Cohort) (x : Group) : Bool :=
  let stuck (i : Nat) : Bool := (((s.core? c.core).map (fun k => k.fetches)).getD []).any (fun f =>
    f.stuck && f.lid == c.ref.lid && f.slot == x.gidx % 4 && f.pc == (x.r.lane i).pc)
  x.r.live != 0 && (maskLanes x.r.live).all (fun i => stuck i ||
    x.parks.any (fun p => p.lanes.getLsbD i && p.regs.any (fun r => r.2 == i && x.slotHolds r.1 i)))

/-- A group cannot issue: it is unserved itself, or waits in `bar` or `barb` for a group that is. -/
def State.starved (s : State) (c : Cohort) (l : Launch) (x : Group) : Bool :=
  let among (cs : List Cohort) : Bool := cs.any (fun k => k.groups.any (fun y => !y.retired && s.unserved k y))
  x.retired || (x.run1.isNone && x.run2.isNone && (s.eligibleSets l c x).isEmpty && (s.unserved c x || x.r.wait.has (fun w => match w with
    | .bar _ _ _ => among [c]
    | .barb _ _ _ => among (s.cohorts.filter (fun k => k.ref.lid == c.ref.lid && k.bid == c.bid))
    | _ => false)))

/-- An open record serves a cohort. -/
def Cohort.servedBy (c : Cohort) (r : FaultRec) : Bool :=
  r.waiters.any (fun w => match w with
    | .access g _ => GRefCohort g == c.ref
    | .fetch core slot lid pc _ => core == c.core && lid == c.ref.lid && c.groups.any (fun x => x.waitsFetch slot pc)
    | _ => false) || c.groups.any (fun x => x.slots.any (fun t => t.recs.contains r.id))

/-- SWAPW cycles of CYC have passed without an issue: the cohort is saved. -/
def execCohortSwap (r : CRef) (s : State) : Host.Outcome State Fault Refusal :=
  .next (match s.cohorts.find? (fun c => c.ref == r), s.launch? r.lid with
    | some c, some l =>
      if c.phase = .resident && c.groups.any (fun x => !x.retired) && c.groups.all (s.starved c l) && s.recs.any c.servedBy then
        let wait := ((s.part? l.part).map (fun p => p.swapw)).getD 16384
        (s.modCluster (clusterOf c.core) (fun k => { k with cyc := k.cyc + wait })).startSave r 2
      else s
    | _, _ => s)

end Sys2Proof.Machine
end

