-- ==== Sys2Proof/Machine/Bind.lean ====
section
/-!
DEFINITION. The slot table (17, 18): what a bind record names and when it is refused (R301, R303, R304, R216, R225, R236, R274, R285),
dispatch of a fresh cohort (R215, R302, R219), the start of an eviction and its end (R305, R306), restores (R312, R320, R285), and requests
to leave a core (R313 to R318).
-/
namespace Sys2Proof.Machine

/-! ## What a cohort names on its core -/

/-- Places on a core: register region, scratchpad, group-table indices, accumulator slot pairs, each as base and length, and the entry of
the slot table. -/
structure Claim where
  reg : Nat × Nat
  scr : Nat × Nat
  idx : Nat × Nat
  acc : Nat × Nat
  slot : Nat
  deriving DecidableEq, Repr

/-- What a launch takes from given bases. -/
def claimOf (l : Launch) (regb scrb gidx accb slot : Nat) : Claim :=
  { reg := (regb, footprint l.grp l.breg l.xreg), scr := (scrb, l.scr), idx := (gidx, l.grp), acc := (accb, l.grp * l.acc), slot := slot }

def recClaim (r : BindRec) (l : Launch) : Claim := claimOf l r.regb r.scrb r.gidx r.accb r.slot
def Cohort.claim (c : Cohort) (l : Launch) : Claim := claimOf l c.regb c.scrb c.gidx c.accb c.slot

/-- Two ranges meet. -/
def meets (a b : Nat × Nat) : Bool := rangesMeet a.1 a.2 b.1 b.2

/-- Overlap in R301: a byte of store, a group index or a slot pair; and the same entry of the slot table. -/
def Claim.overlaps (a b : Claim) : Bool :=
  meets a.reg b.reg || meets a.reg b.scr || meets a.scr b.reg || meets a.scr b.scr || meets a.idx b.idx || meets a.acc b.acc ||
    a.slot == b.slot

/-- The stripes that a range touches (R236). -/
def stripesOf (r : Nat × Nat) : List Nat := (List.range 32).filter (fun k => meets (65536 * k, 65536) r)

def Claim.stripes (a : Claim) : List Nat := (stripesOf a.reg ++ stripesOf a.scr).eraseDups

/-- Overlap in R305: a stripe, a group index, a cohort slot or a slot pair. -/
def Claim.names (a b : Claim) : Bool :=
  a.stripes.any (fun k => b.stripes.contains k) || meets a.idx b.idx || meets a.acc b.acc || a.slot == b.slot

/-- Numbers of a range. -/
def numbersOf (r : Nat × Nat) : List Nat := (List.range r.2).map (fun k => r.1 + k)

/-- It names something of four sets. -/
def Claim.inSets (a : Claim) (stripes gidx accPairs slots : List Nat) : Bool :=
  a.stripes.any (fun k => stripes.contains k) || (numbersOf a.idx).any (fun k => gidx.contains k) ||
    (numbersOf a.acc).any (fun k => accPairs.contains k) || slots.contains a.slot

/-- It names something of a reserve (R303). -/
def Claim.inReserve (a : Claim) (r : Reserve) : Bool := a.inSets r.stripes r.gidx r.accPairs r.slots

/-- It names something that a spill has not released (R306). -/
def Claim.inSpill (a : Claim) (x : Spill) : Bool := a.inSets x.stripes x.gidx x.accPairs x.slots

/-- Fields of a record that lie within the tables (Table 17.6), and the class of its launch's queue (R224). Reserved bits that are not
zero refuse the record, though R301 does not list them (DESIGN CHOICE, notes/assumptions/43.md). -/
def recInBounds (r : BindRec) (l : Launch) : Bool :=
  let c := recClaim r l
  r.valid && r.resv == 0 && r.slot < 16 && r.classH == l.classH && r.regb % 128 == 0 && r.scrb % 128 == 0 && decide (r.gidx + l.grp ≤ 256) && decide (r.accb + l.grp * l.acc ≤ 64) &&
    decide (c.reg.1 + c.reg.2 ≤ 2097152) && decide (c.scr.1 + c.scr.2 ≤ 2097152) && r.blk == l.blk && (r.restore || r.frame == 0)

/-- The limits of R225 and R236 over the claims of a core. -/
def claimsFit (cs : List Claim) : Bool :=
  let regs := (cs.flatMap (fun c => stripesOf c.reg)).eraseDups
  let scrs := (cs.flatMap (fun c => stripesOf c.scr)).eraseDups
  decide ((cs.map (fun c => c.reg.2)).foldl (· + ·) 0 ≤ 1048576) && decide (regs.length ≤ 16) &&
    decide (regs.length + scrs.length ≤ 31) && !(regs.any (fun k => scrs.contains k))

/-- FMAX (R304). -/
def frameMax (l : Launch) : Nat :=
  footprint l.grp l.breg l.xreg + l.scr + l.scr / 8 + 4096 * l.grp * l.acc + 1024 * l.grp + 19712

/-- The cohorts of a core with their launches. -/
def State.onCore (s : State) (core : Nat) : List (Cohort × Launch) :=
  (s.cohorts.filter (fun c => c.core == core)).filterMap (fun c => (s.launch? c.ref.lid).map (fun l => (c, l)))

/-- Class H cohorts of a core that a class G record evicts (R305). -/
def State.victims (s : State) (r : BindRec) (l : Launch) : List CRef :=
  if r.classH then []
  else ((s.onCore r.core).filter (fun x => x.1.classH && (recClaim r l).names (x.1.claim x.2))).map (fun x => x.1.ref)

/-- What a record names is still being spilled, or it would leave the L1 no way until the spill is over. -/
def State.spilling (s : State) (r : BindRec) (l : Launch) : Bool :=
  let c := recClaim r l
  ((s.core? r.core).map (fun k => k.spills.any c.inSpill || (!k.spills.isEmpty &&
    decide (31 < (s.usedStripes r.core ++ c.stripes).eraseDups.length)))).getD false

/-! ## Bands of a launch on a die (R274, R285) -/

/-- A launch has a cohort on a die, or a record for one. -/
def State.onDie (s : State) (lid die : Nat) : Bool :=
  s.cohorts.any (fun c => c.ref.lid == lid && dieOf c.core == die) ||
    s.cores.any (fun k => dieOf k.no == die && k.held.any (fun h => h.lid == lid))

/-- An entry is free for a launch on a die: unallocated, its own, or of a launch with no cohort there. -/
def State.bandsFree (s : State) (l : Launch) (die : Nat) : Bool :=
  l.bands.all (fun d => match s.band? die d.band with
    | none => true
    | some b => b.lid == l.lid || !(s.onDie b.lid die))

/-- Allocate the entries of a launch on a die. -/
def State.allocBands (s : State) (l : Launch) (die : Nat) : State :=
  l.bands.foldl (fun s d =>
    if ((s.band? die d.band).map (fun b => b.lid == l.lid)).getD false then s
    else
      let b : Band := { no := d.band, lid := l.lid, classH := decide (32 ≤ d.band), maxm := d.maxm, soff := d.soff, hold := d.hold, members := 0,
                        openHold := none, lastKey := none, served := 0, asks := [], leaving := 0, mism := 0, expr := 0, late := 0,
                        flt := false }
      -- fills of the launch that held the entry before are gone with it
      s.modDie die (fun k => { k with bands := k.bands.filter (fun x => x.no != d.band) ++ [b]
                                      bandFills := k.bandFills.filter (fun f => f.band != d.band) })) s

/-! ## Refusals (R301) -/

def State.frame? (s : State) (id : Nat) : Option Frame := s.frames.find? (fun f => f.id == id)

/-- The frame that a RESTORE record names by its address (Table 17.6). -/
def State.frameAt? (s : State) (pa : Nat) : Option Frame := s.frames.find? (fun f => f.pa == pa)

/-- A reblock under way takes the cluster of a core from its partition (R359). -/
def State.clusterMoves (s : State) (core : Nat) : Bool :=
  (((s.die? (dieOf core)).bind (fun d => d.reblock)).map (fun b => b.clusters.contains (clusterOf core))).getD false

/-- The core, its partition and the launch allow a cohort there. -/
def State.coreOpen (s : State) (r : BindRec) (l : Launch) : Bool :=
  !(s.clusterMoves r.core) &&
  ((s.core? r.core).map (fun k => !k.withdrawn)).getD false && l.phase == .running &&
    ((s.part? l.part).map (fun p => p.formed && p.clusters.contains (clusterOf r.core))).getD false &&
    ((s.vif? l.vif).map (fun v => v.mig == .running || v.mig == .precopy)).getD false && ((s.die? (dieOf r.core)).map (fun d => d.wrstep == 0)).getD false &&
    s.bandsFree l (dieOf r.core)

/-- The attic of a core's die holds its frames and the largest frames of its class H cohorts, n of this launch besides (R304, R309). -/
def State.atticFits (s : State) (core : Nat) (l : Launch) (n : Nat) : Bool :=
  let die := dieOf core
  let frames := ((s.frames.filter (fun f => f.die == die)).map (fun f => f.fbytes)).foldl (· + ·) 0
  let live := ((s.cohorts.filter (fun c => c.classH && dieOf c.core == die)).filterMap (fun c =>
    (s.launch? c.ref.lid).map frameMax)).foldl (· + ·) 0
  decide (frames + live + n * frameMax l ≤ ((s.die? die).map (fun d => d.attic)).getD 0)

/-- One record of a block of n would be refused. -/
def State.refuses (s : State) (r : BindRec) (l : Launch) (n : Nat) : Bool :=
  let c := recClaim r l
  let gone := s.victims r l
  let stay := (s.onCore r.core).filter (fun x => !(gone.contains x.1.ref))
  let held := ((s.core? r.core).map (fun k => k.held)).getD []
  let reserve := ((s.core? r.core).map (fun k => k.reserve)).getD ⟨[], [], [], []⟩
  !(recInBounds r l) || !(s.coreOpen r l) || stay.any (fun x => c.overlaps (x.1.claim x.2)) ||
    held.any (fun h => ((s.launch? h.lid).map (fun k => c.names (recClaim h k))).getD false) ||
    !(claimsFit (c :: stay.map (fun x => x.1.claim x.2))) ||
    (r.classH && (c.inReserve reserve || s.spilling r l || !(s.atticFits r.core l n) ||
      decide (1048576 < frameMax l + ((stay.filter (fun x => x.1.classH)).map (fun x => frameMax x.2)).foldl (· + ·) 0))) ||
    (!r.restore && s.allCohorts.any (fun x => x.ref == ⟨r.lid, r.cid⟩)) ||
    (r.restore && ((s.frameAt? r.frame).map (fun f => decide (s.locksFree r.core < (s.frameLocks f).length) ||
      s.cohorts.any (fun x => x.ref == f.cohort.ref))).getD false)

/-- The records of a block lie as R216 says: one launch, one `bid`, consecutive `cid`, adjacent cores. A restore too brings all of
them, and one that does not, since a mate has retired or is resident, is refused (DESIGN CHOICE, notes/assumptions/43.md). -/
def blockShape (l : Launch) (rs : List BindRec) : Bool :=
  let S := 2 ^ (l.blk % 4)
  match rs with
  | [] => false
  | r :: _ =>
    rs.length == S && r.core % 12 % S == 0 && r.cid % S == 0 &&
      (List.range S).all (fun k => match rs[k]? with
        | some x => x.lid == r.lid && x.bid == r.cid / S && x.cid == r.cid + k && x.core == r.core + k && x.restore == r.restore &&
            x.classH == r.classH && x.checked == r.checked
        | none => false)

/-! ## Frame checks (R320) -/

/-- The frame disagrees with its launch or with its own areas. -/
def Frame.bad (f : Frame) (r : BindRec) (l : Launch) : Bool :=
  f.kind == 0 || decide (4 < f.kind) || f.cohort.ref.lid != r.lid || f.g != l.grp || f.b != l.breg || f.x != l.xreg || f.acc != l.acc ||
    f.scr != l.scr || f.fbytes != f.size || f.reserved

/-- A RESTORE record of the block fails its check; where no frame lies, KIND reads 0. -/
def State.frameBad (s : State) (l : Launch) (r : BindRec) : Bool :=
  r.restore && ((s.frameAt? r.frame).map (fun f => f.bad r l)).getD true

/-! ## Dispatch (R302, R215, R219) -/

/-- Groups that take ages in gid order. -/
def State.takeAges (s : State) (core n : Nat) : State × Nat :=
  let a := ((s.core? core).map (fun k => k.admission)).getD 0
  (s.modCore core (fun k => { k with admission := k.admission + n }), a)

/-- The package's share of the index space goes to the cluster of the first bind record. -/
def State.placeTiles (s : State) (l : Launch) (core : Nat) : State :=
  let s := s.modLaunch l.lid (fun l => { l with placed := true })
  if l.placed then s else s.addRange (clusterOf core) l.lid (l.share s.pkg).1 (l.share s.pkg).2

/-- `cid` of the next fresh cohort of a launch: one that a refused record has given back, else the next value (R216). -/
def Launch.nextCid (l : Launch) : Nat := (minNat? l.freeCids).getD l.bound

/-- What the writing of a record does, be it held or not: a fresh cohort takes its `cid`, the first record of a launch its tiles (R219),
and the first on a die the launch's band entries there (R274, R285). -/
def State.writeBind (s : State) (r : BindRec) : State :=
  match s.launch? r.lid with
  | none => s
  | some l =>
    let s := s.allocBands l (dieOf r.core)
    if r.restore then s
    else
      let take (l : Launch) : Launch :=
        if l.freeCids.contains r.cid then { l with freeCids := l.freeCids.filter (fun c => c != r.cid) } else { l with bound := l.bound + 1 }
      (s.placeTiles l r.core).modLaunch r.lid take

/-- A held record is refused after all: its `cid` is to be bound again, and the scheduling core is told. -/
def State.giveBack (s : State) (r : BindRec) : State :=
  let s := s.send (.bindRefused r.core)
  if r.restore then s else s.modLaunch r.lid (fun l => { l with freeCids := insertNat r.cid l.freeCids })

/-- A fresh cohort is accepted: every register and byte zero and full, every lane live at ENTRY. -/
def State.dispatchFresh (s : State) (r : BindRec) (l : Launch) : State :=
  let c : Cohort :=
    { ref := ⟨r.lid, r.cid⟩, bid := r.bid, core := r.core, slot := r.slot, regb := r.regb, scrb := r.scrb, gidx := r.gidx, accb := r.accb,
      blk := r.blk, groups := (List.range l.grp).map (fun k => Group.start k (r.gidx + k) 0 l.entry), scratch := [], granEmpty := [],
      scrPoison := [], maps := Vector.replicate 8 MapEntry.unbound, bars := Vector.replicate 16 Barrier.zero,
      bbars := Vector.replicate 4 Barrier.zero, child := none, phase := .arriving none, budget := none, spatial := false, saves := 0,
      benr := 0, deferred := [], classH := r.classH, checked := r.checked }
  { s with cohorts := s.cohorts ++ [c] }

/-- The replay slots of some groups take free numbers of a core, in order. -/
def numberSlots (free : List Nat) (gs : List Group) : List Group :=
  (gs.foldl (fun (acc : Nat × List Group) x =>
    (acc.1 + x.slots.length, acc.2 ++ [{ x with slots := x.slots.mapIdx (fun k t => { t with idx := free.getD (acc.1 + k) 0 }) }])) (0, [])).2

/-- A restore is accepted: the cohort takes its place, with its replay slots. Where the core changes, what it still has outstanding reads no
stale copy there, and what it has stored beyond the package is released there (R257, R270). -/
def State.dispatchRestore (s : State) (r : BindRec) (l : Launch) (f : Frame) : State :=
  let regroup (x : Group) : Group := { x with gidx := r.gidx + x.gid, stopped := true }
  let c : Cohort :=
    { f.cohort with core := r.core, slot := r.slot, regb := r.regb, scrb := r.scrb, gidx := r.gidx, accb := r.accb, classH := r.classH,
                    checked := r.checked, phase := .arriving (some f.id), groups := numberSlots (s.freeSlots r.core) (f.cohort.groups.map regroup) }
  let s : State := { s with cohorts := s.cohorts ++ [c] }
  if f.cohort.core = r.core then s else (s.acquireActions r.core scopePkg).rdcAdopt f.cohort.core r.core

/-- Accept one record. A class G cohort makes its cluster's claim for 2.4 GHz a class G claim, which the arbiter sees anew (R417). -/
def State.dispatchOne (s : State) (r : BindRec) : State :=
  let s := if !r.classH && s.boostWaiting.contains (clusterOf r.core) then s.post (.boostClaim (clusterOf r.core)) else s
  match s.launch? r.lid with
  | none => s
  | some l =>
    if r.restore then (match s.frameAt? r.frame with
      | some f => s.dispatchRestore r l f
      | none => s)
    else s.dispatchFresh r l

/-- An accepted cohort starts: its groups take ages (R302), or its frame is read (R312). -/
def State.startCohort (s : State) (r : CRef) : State :=
  match s.cohorts.find? (fun c => c.ref == r) with
  | none => s
  | some c =>
    match c.phase with
    | .arriving none =>
      let (s, age) := s.takeAges c.core c.groups.length
      s.modCohort r (fun c => { c with phase := .resident, groups := c.groups.map (fun x => { x with age := age + x.gid }) })
    | .arriving (some f) => (s.modCohort r (fun c => { c with phase := .restoring f })).post (.restoreFrameReadDone r)
    | _ => s

/-- A cohort with the others of its block. -/
def State.wholeBlock (s : State) (r : CRef) : List CRef :=
  match s.cohorts.find? (fun c => c.ref == r) with
  | none => []
  | some c => if c.blk = 0 then [r] else (s.cohorts.filter (fun x => x.ref.lid == r.lid && x.bid == c.bid)).map (fun x => x.ref)

/-- The cores of some cohorts whose L1 still holds lines in ways that it has given up. -/
def State.shrinking (s : State) (rs : List CRef) : List Nat :=
  ((s.cohorts.filter (fun c => rs.contains c.ref)).map (fun c => c.core)).filter (fun k => !(s.l1Excess k).isEmpty)

/-- The cohorts of a block start in one cycle, once the ways that they take have been written back (R216, R237, R302). -/
def State.startBlock (s : State) (rs : List CRef) : State :=
  match s.shrinking rs with
  | [] => rs.foldl (fun s r => s.startCohort r) s
  | ks => ks.foldl (fun s k => s.post (.l1WayWritebackDone k 0)) s

/-- A cohort that waits on a core for ways of the L1. -/
def Cohort.waitsForWays (c : Cohort) (core : Nat) : Bool :=
  c.core == core && (match c.phase with
    | .arriving _ => true
    | _ => false)

/-- The blocks that wait on a core for ways start, those that can. -/
def State.startWaitingBlocks (s : State) (core : Nat) : State :=
  (s.cohorts.filter (fun c => c.waitsForWays core)).foldl (fun s c => s.startBlock (s.wholeBlock c.ref)) s

/-- The stripe's way leaves the L1; a block that waited for the last one starts. -/
def execL1WayWritebackDone (core stripe : Nat) (s : State) : Host.Outcome State Fault Refusal :=
  .next (if stripe < 32 then (s.l1Shrink core).startWaitingBlocks core else s)

/-! ## Evictions (R305, R306, R308) -/

/-- Class H groups of a core stop (R97, Table 18.1); those that stay vote again after the eviction. -/
def State.stopClassH (s : State) (core : Nat) : State :=
  let stop (c : Cohort) : Cohort := if c.core = core ∧ c.classH then { c with groups := c.groups.map Group.halt } else c
  { s with cohorts := s.cohorts.map stop }

/-- A class H cohort is evicted: the eviction of one that is being restored only abandons the restore. -/
def State.evictOne (s : State) (r : CRef) : State :=
  match s.cohorts.find? (fun c => c.ref == r) with
  | none => s
  | some c =>
    match c.phase with
    | .restoring _ | .arriving (some _) =>
      let s := s.bandDepart r
      let mine := (s.pendingCmds r).map (fun k => k.id)
      let s := s.modCore c.core (fun k => { k with locks := k.locks.filter (fun x => !(mine.contains x.cmd)) })
      let s := s.modLaunch r.lid (fun l => { l with spatial := l.spatial.filter (fun x => x != r) })
      ({ s with cohorts := s.cohorts.filter (fun x => x.ref != r) } : State).wakeDispensers r.lid
    | .evicting => s
    | _ =>
      let s := s.modCohort r (fun c => { c with phase := .evicting, budget := none, groups := c.groups.map (fun x => { (x.halt) with stopped := true }) })
      ((s.bandDepart r).stopClassH c.core).post (.atticWriteAck c.core)

/-- A cohort is cleared off its core at once, with a forced save where it has started; one that is being restored stays in its frame. -/
def State.clearOff (s : State) (c : Cohort) : State :=
  match c.phase with
  | .restoring _ | .arriving (some _) => s.evictOne c.ref
  | .arriving none => (s.startCohort c.ref).leaveCore c.ref 2
  | .evicting => s.leaveCore c.ref 1
  | .saving kind => s.leaveCore c.ref kind
  | _ => s.leaveCore c.ref 2

/-- Hold the records of a block while their victims leave. -/
def State.holdRecords (s : State) (rs : List BindRec) (vs : List CRef) : State :=
  let s := rs.foldl (fun s r => s.modCore r.core (fun k => { k with held := k.held ++ [r] })) s
  let s := ((vs.flatMap (fun v => s.wholeBlock v)).eraseDups).foldl (fun s v => s.evictOne v) s
  rs.foldl (fun s r => s.post (.atticWriteAck r.core)) s

/-- Act on the records of one block: refuse all, fail the launch, hold all, or dispatch all. `again`: they have been held. -/
def State.bind (s : State) (rs : List BindRec) (again : Bool) : State :=
  match rs with
  | [] => s
  | r :: _ =>
    match s.launch? r.lid with
    | none => s.send (.bindRefused r.core)
    | some l =>
      if !(blockShape l rs) || (!again && !r.restore && r.cid != l.nextCid) || rs.any (fun r => s.refuses r l rs.length) then
        (if again then rs.foldl State.giveBack s else s.send (.bindRefused r.core))
      else if rs.any (s.frameBad l) then s.failLaunch l.lid 0x32 0 0 (tcauseOf 0x32 0 0) 0
      else
        let s := if again then s else rs.foldl State.writeBind s
        let vs := (rs.flatMap (fun r => s.victims r l)).eraseDups
        if vs.isEmpty && !rs.any (fun r => s.spilling r l) then
          (rs.foldl (fun s r => s.dispatchOne r) s).startBlock (rs.map (fun r => ⟨r.lid, r.cid⟩))
        else s.holdRecords rs vs

def execBindRecord (rs : List BindRec) (s : State) : Host.Outcome State Fault Refusal := .next (s.bind rs false)

/-- The held blocks whose resources are all free are taken up again. -/
def State.tryHeld (s : State) (core : Nat) : State :=
  let firsts := ((s.core? core).map (fun k => k.held)).getD []
  firsts.foldl (fun s r =>
    let rs := s.cores.flatMap (fun k => k.held.filter (fun x => x.lid == r.lid && x.bid == r.bid))
    let waits := rs.any (fun r => ((s.launch? r.lid).map (fun l => !(s.victims r l).isEmpty || s.spilling r l)).getD false)
    if waits || rs.isEmpty then s
    else
      let cut (k : Core) : Core := { k with held := k.held.filter (fun x => !(x.lid == r.lid && x.bid == r.bid)) }
      ({ s with cores := s.cores.map cut } : State).bind rs true) s

/-- Stripes that the held records of a core name. -/
def State.wantedStripes (s : State) (core : Nat) : List Nat :=
  (((s.core? core).map (fun k => k.held)).getD []).flatMap (fun h => ((s.launch? h.lid).map (fun l => (recClaim h l).stripes)).getD [])

/-- An evicted cohort's frame is on its way to the attic: the cohort holds what it names until the writes are acknowledged, the stripes
that held records name first (R306, R310). -/
def State.spillCohort (s : State) (r : CRef) : State :=
  match s.cohorts.find? (fun c => c.ref == r) with
  | none => s
  | some c =>
    let wanted := s.wantedStripes c.core
    let spill (x : Claim) : Spill :=
      let (first, rest) := x.stripes.partition (fun k => wanted.contains k)
      { stripes := first ++ rest, gidx := numbersOf x.idx, accPairs := numbersOf x.acc, slots := [x.slot] }
    let mine := (s.launch? r.lid).map (fun l => spill (c.claim l))
    (s.leaveCore r 1).modCore c.core (fun k => { k with spills := k.spills ++ mine.toList })

/-- The acknowledgement of the last byte of a stripe: that stripe is free, and at the last of a spill everything else that it holds
(R306, Table 18.1). -/
def ackSpill : List Spill → List Spill
  | [] => []
  | x :: xs => if x.stripes.length ≤ 1 then xs else { x with stripes := x.stripes.drop 1 } :: xs

/-- The attic writes of a core's evicted cohorts are acknowledged, stripe by stripe: a held record is dispatched as soon as what it names
is free, and class H may issue again when all is (Table 18.1). -/
def execAtticWriteAck (core : Nat) (s : State) : Host.Outcome State Fault Refusal :=
  .next (
    let gone := (s.cohorts.filter (fun c => c.core == core && c.phase == .evicting)).map (fun c => c.ref)
    let s := if gone.isEmpty then s.modCore core (fun k => { k with spills := ackSpill k.spills }) else gone.foldl (fun s r => s.spillCohort r) s
    let s := if ((s.core? core).map (fun k => k.spills.isEmpty)).getD true then s else s.post (.atticWriteAck core)
    let cores := (s.cores.filter (fun k => !k.held.isEmpty)).map (fun k => k.no)
    cores.foldl (fun s k => s.tryHeld k) s)

/-! ## Restores (R312, R285) -/

/-- An access of a cohort stands behind one that the restore reissues: it has not been sent. -/
def State.heldInFrame (s : State) (c : Cohort) (x : Group) (a : Access) : Bool :=
  ((s.launch? c.ref.lid).map (fun l => s.accessHeld l c x a)).getD false

/-- An access that only the restore can end: one that has not been sent, or a local one that nothing holds and that waits for a granule, a
sector or a register (DESIGN CHOICE, notes/assumptions/25.md). -/
def State.stays (s : State) (c : Cohort) (x : Group) (a : Access) : Bool :=
  s.heldInFrame c x a || (a.isLocal && ((s.launch? c.ref.lid).map (fun l => s.freeLanes l c x a != 0)).getD true)

/-- FLAGS.REDIR: a redirected fill is still outstanding; one held behind an access that the restore reissues has not been sent. -/
def State.redirected (s : State) (c : Cohort) : Bool :=
  c.groups.any (fun x => !x.fills.isEmpty ||
    x.accs.any (fun a => decide (a.dst < noDst) && !a.noFill && !(s.stays c x a))) ||
    s.clusters.any (fun k => k.waiting.any (fun w => GRefCohort w.g == c.ref))

/-- Enrol a restored cohort once: a refused enrolment leaves it unenrolled (R285). A `bandx` that waited for a fill waits again (R182). -/
def State.enrol (s : State) (c : Cohort) : State :=
  let die := dieOf c.core
  let s := ((List.range 64).filter (fun b => c.benr.getLsbD b)).foldl (fun s b => s.bandJoin die b c.core) s
  let s := (c.deferred.filter (fun d => d.leave)).foldl (fun s d => s.modBand die d.band (fun b =>
    if (b.members &&& coreBit c.core) != 0 then { b with leaving := b.leaving ||| coreBit c.core } else b)) s
  s.modSeated c.ref (fun c => { c with benr := 0 })

/-- The frame that a cohort is restored from. -/
def State.restoreFrame (s : State) (c : Cohort) : Option Frame :=
  match c.phase with
  | .restoring frame => s.frame? frame
  | _ => none

/-- Step 2 of R312: the range-lock entries of the frame's commands that have not completed are registered again, once. -/
def State.relock (s : State) (c : Cohort) : State :=
  match s.restoreFrame c with
  | none => s
  | some f => s.modCore c.core (fun k => { k with
      locks := ((s.frameLocks f).filter (fun x => !(k.locks.any (fun y => y.cmd == x.cmd)))).foldl
        (fun ks x => ks ++ [{ x with idx := freeLock ks }]) k.locks })

/-- The bands of a restored cohort: its enrolments, and each deferred fill made once. -/
def State.rejoinBands (s : State) (c : Cohort) : State :=
  let die := dieOf c.core
  c.deferred.foldl (fun s d =>
    let made := ((s.die? die).map (fun k => k.bandFills.any (fun f =>
      f.deferred && f.band == d.band && f.key == ⟨d.va, d.n⟩ && (f.targets &&& coreBit c.core) != 0))).getD false
    if made then s
    else (s.modBand die d.band (fun b => { b with late := sat127 b.late })).makeFill die d.band ⟨d.va, d.n⟩ (coreBit c.core) true)
    (s.enrol c)

/-- A cohort's frame may be read: FLAGS.REDIR is 0, its dirty bytes are home, and the die of its attic answers (R415). -/
def State.frameReady (s : State) (c : Cohort) : Bool :=
  ((s.restoreFrame c).map (fun f => f.mapDirty.isEmpty && !(s.redirected c) && !(s.dieAway f.die))).getD false

/-- The groups of a restored cohort become eligible together with new ages; the frame is freed. -/
def State.endRestore (s : State) (c : Cohort) : State :=
  let s := s.acquireActions c.core scopePkg
  let (s, age) := s.takeAges c.core c.groups.length
  let wakeUp (x : Group) : Group := { x with stopped := false, age := age + x.gid }
  let s := match s.launch? c.ref.lid, s.restoreFrame c with
    | some l, some f => s.atticTraffic l f false
    | _, _ => s
  let frame := (s.restoreFrame c).map (fun f => f.id)
  let s : State := { s with frames := s.frames.filter (fun f => some f.id != frame) }
  let over_ := c.groups.all (fun x => x.retired)
  let s := s.modCohort c.ref (fun c => { c with phase := if over_ then .draining s.nextId else .resident, groups := c.groups.map wakeUp })
  let s : State := { s with cmds := updateWhere (fun (k : Cmd) => GRefCohort k.owner == c.ref) (fun k => { k with core := c.core }) s.cmds }
  let s := if over_ then s.post (.cohortRetire c.ref) else s
  let s := (c.groups.foldl (fun s x => s.settleGroup ⟨c.ref.lid, c.ref.cid, x.gid⟩) s).wake
  c.groups.foldl (fun s x => s.resumeSends ⟨c.ref.lid, c.ref.cid, x.gid⟩) s

/-- A frame is read once it may be, and then the deferred fills are made; the cohorts of a block end their restores together (R216,
R312) when all have landed. -/
def execRestoreFrameReadDone (r : CRef) (s : State) : Host.Outcome State Fault Refusal :=
  .next (match s.cohorts.find? (fun c => c.ref == r) with
    | none => s
    | some c =>
      if !s.frameReady c then s
      else
        let s := (s.relock c).rejoinBands c
        let block := s.cohorts.filter (fun x => (s.wholeBlock r).contains x.ref)
        if block.all (fun x => s.frameReady x && x.benr == 0 && x.deferred.isEmpty) then
          block.foldl (fun s x => s.endRestore x) s
        else s)

/-! ## Requests to leave (R313 to R318) -/

/-- A cohort stands on its core or is on its way there, and does not leave yet. -/
def Phase.stays : Phase → Bool
  | .resident | .arriving _ | .restoring _ => true
  | _ => false

/-- The cohorts of a launch on some cores, those that start or are restored there included. -/
def State.leavers (s : State) (lid : Nat) (cores : List Nat) : List Cohort :=
  s.cohorts.filter (fun c => c.ref.lid == lid && cores.contains c.core && c.phase.stays)

/-- A cohort leaves by a save of a KIND; one that is being restored stays in its frame. -/
def State.forceSave (s : State) (c : Cohort) (kind : Nat) : State :=
  match c.phase with
  | .restoring _ | .arriving (some _) => s.evictOne c.ref
  | .arriving none => (s.startCohort c.ref).startSave c.ref kind
  | .resident => s.startSave c.ref kind
  | _ => s

/-- A tenant's slice has ended. -/
def execCooperativePreemptRequest (lid : Nat) (cores : List Nat) (s : State) : Host.Outcome State Fault Refusal :=
  .next (match s.launch? lid with
    | none => s
    | some l => ((s.leavers lid cores).filter (fun c => c.budget.isNone)).foldl (fun s c =>
        if l.budget = 0 then s.forceSave c 2 else s.requestLeave c.ref 0 l.budget) s)

/-- The budget has run out. -/
def execBudgetOverrun (r : CRef) (s : State) : Host.Outcome State Fault Refusal :=
  .next (match s.cohorts.find? (fun c => c.ref == r) with
    | none => s
    | some c =>
      if c.budget.isNone || !c.phase.stays then s
      else if !c.spatial || c.phase != .resident then s.forceSave c 2
      else
        let inside := c.groups.filter Group.inLeaveHandler
        let s := s.modCohort r (fun c => { c with budget := some 0 })
        let s := inside.foldl (fun s x => s.vacateGroup ⟨r.lid, r.cid, x.gid⟩) s
        -- a group that the trap has not reached is saved (R315)
        if c.groups.all (fun x => x.handlerOver || x.inLeaveHandler) then s.post (.saveComplete r) else s.startSave r 2)

/-! ## Spatial pre-emption (R316 to R318) -/

/-- The victim's cohorts on the cores are vacated: by trap 0x38 with INFO 1 under TRS, else by a parked frame. -/
def execSpatialPreemptRequest (lid : Nat) (cores : List Nat) (s : State) : Host.Outcome State Fault Refusal :=
  .next (match s.launch? lid with
    | none => s
    | some l =>
      let cs := (s.leavers lid cores).filter (fun c => !c.spatial)
      let s := s.modLaunch lid (fun l => { l with spatial := l.spatial ++ (cs.map (fun c => c.ref)).filter (fun r => !l.spatial.contains r) })
      cs.foldl (fun s c =>
        if !l.trs then s.forceSave c 4
        else if l.budget = 0 then s.forceSave c 2
        else s.requestLeave c.ref 1 l.budget) s)

end Sys2Proof.Machine
end

