-- ==== Sys2Proof/Machine/BandEvents.lean ====
section
/-!
DEFINITION. Events of the band table: asks (R279), the hold timer (R280, R283) and landing fills (R281, R285).
-/
namespace Sys2Proof.Machine

/-- An ask reaches the home slice, unless an earlier acquire or fence of its group still holds it (R268). -/
def execBandAskArrival (die band core : Nat) (s : State) : Host.Outcome State Fault Refusal :=
  .next (match s.band? die band with
    | none => s
    | some b =>
      if (b.asks.filter (fun a => a.core == core && !a.arrived)).any s.askHeld then s else s.askArrive die band core)

/-- HOLD slice cycles have passed: the open hold ends with one fill for its askers. -/
def execBandHoldTimerExpiry (die band : Nat) (s : State) : Host.Outcome State Fault Refusal := .next (s.endHold die band true)

/-- A fill whose range has been read lands in its targets, once no first-touch fill there is under way; one that waited for an
earlier fill reads. A restore that waited for it goes on. -/
def execBandFillLand (die fill : Nat) (s : State) : Host.Outcome State Fault Refusal :=
  .next (match (s.die? die).bind (fun d => d.bandFills.find? (fun f => f.id == fill)) with
    | none => s
    | some f =>
      if f.data.isNone then s.readFill die fill
      else if s.landBlocked die f then s
      else
        let s := (s.landFill die fill).resumeDie die
        if f.deferred then
          (s.cohorts.filter (fun c => (coresOf die f.targets).contains c.core)).foldl (fun s c => s.resumePhase c) s
        else s)

end Sys2Proof.Machine
end

