-- ==== Sys2Proof/Machine/Service.lean ====
section
/-!
DEFINITION. What Hearth and firmware do to partitions: receipts (R395, R396), demand scrubs (R393), log export (R377), reblock (R359),
partition reset and formation (R365, R356), withdrawal and self-test of cores (R17, R384).
-/
namespace Sys2Proof.Machine

/-! ## Receipts (R396) -/

/-- An entry of Table 24.5. -/
structure ScrubEntry where
  struct : Nat
  method : Nat
  die : Nat
  unit : Nat
  count : Nat
  base : Nat
  len : Nat
  errs : Nat
  deriving DecidableEq, Repr

def ScrubEntry.toBytes (e : ScrubEntry) : List Byte :=
  leBytes e.struct 1 ++ leBytes e.method 1 ++ leBytes e.die 1 ++ leBytes e.unit 1 ++ leBytes e.count 4 ++ leBytes e.base 8 ++
    leBytes e.len 8 ++ leBytes e.errs 4 ++ leBytes 0 4

/-- The 64-byte header. -/
def receiptHeader (nent seq reason vif part kdom pkg : Nat) : List Byte :=
  leBytes 1 2 ++ leBytes nent 2 ++ leBytes 0 4 ++ leBytes seq 8 ++ leBytes reason 1 ++ leBytes vif 1 ++ leBytes part 1 ++ leBytes kdom 1 ++
    leBytes pkg 2 ++ leBytes 0 10 ++ exactly 32 Config.keyId

/-- A digest as its 64 bytes, and the signature and padding that follow it. -/
def sealOf (body : List Byte) : List Byte :=
  let d := Config.sha3 body
  leBytes d.toNat 64 ++ exactly 4627 (Config.signature d) ++ leBytes 0 5

/-- A receipt of 4,760 + 32 × NENT bytes. -/
def receiptBytes (seq reason vif part kdom pkg : Nat) (es : List ScrubEntry) : List Byte :=
  let body := receiptHeader es.length seq reason vif part kdom pkg ++ es.flatMap ScrubEntry.toBytes
  body ++ sealOf body

/-- Take the next Hearth sequence number. -/
def State.takeSeq (s : State) : State × Nat :=
  ({ s with hearth := { s.hearth with count := s.hearth.count + 1 } }, s.hearth.seq)

/-- A receipt that no IPA is named for leaves as a message alone (notes/assumptions/43.md). -/
def State.sendReceipt (s : State) (d : ScrubDef) (es : List ScrubEntry) : State :=
  let (s, seq) := s.takeSeq
  s.send (.receipt d.ipa (receiptBytes seq d.reason d.vif d.part d.kdom s.pkg es))

/-- Write a receipt to the IPA of its interface that firmware names, under the owner's key domain; none while that cannot be reached. -/
def State.writeReceipt (s : State) (d : ScrubDef) (es : List ScrubEntry) : Option State :=
  match s.vif? d.vif with
  | none => some (s.sendReceipt d es)
  | some v =>
    let (s, seq) := s.takeSeq
    let bs := receiptBytes seq d.reason d.vif d.part d.kdom s.pkg es
    (s.ipaPut { v with part := d.part, kdom := d.kdom } d.ipa bs).map (fun s => s.send (.receipt d.ipa bs))

/-! ## Demand scrubs (R393, Table 24.4) -/

/-- What an owner's scrub must not find: launches of it that run, with their cohorts; commands; open records. -/
def State.scrubBusy (s : State) (d : ScrubDef) : Bool :=
  let mine (vif part kdom : Nat) : Bool :=
    match d.reason with
    | 2 => kdom == d.kdom
    | 3 => part == d.part
    | _ => vif == d.vif
  let lid (n : Nat) : Bool := ((s.launch? n).map (fun l => mine l.vif l.part l.kdom)).getD false
  s.cohorts.any (fun c => lid c.ref.lid) || s.cmds.any (fun k => mine k.vif k.part k.kdom) ||
    s.recs.any (fun r => ((s.vif? r.vif).map (fun v => mine v.no v.part v.kdom)).getD false)

/-- Zero a range of memory under a fresh key: no owner, no poison. -/
def State.zeroRange (s : State) (pa len : Nat) : State :=
  { s with mem := s.mem.filter (fun c => !(decide (pa ≤ c.1) && decide (c.1 < pa + len)))
           sectors := s.sectors.filter (fun x => !(rangesMeet (64 * x.no) 64 pa len))
           l2 := s.l2.filter (fun l => !(rangesMeet (128 * l.line) 128 pa len)) }

/-- The entry of a range. -/
def rangeEntry (r : Nat × Nat) : ScrubEntry :=
  { struct := if paRgn r.1 = 0 then 6 else 7, method := 1, die := paDie r.1, unit := paStack r.1, count := r.2 / 64, base := r.1, len := r.2,
    errs := 0 }

/-- Reason 1: attic frames, larder slots and fault-ring state of an interface. -/
def State.scrubVif (s : State) (vif : Nat) : State × List ScrubEntry :=
  let mine (f : Frame) : Bool := ((s.launch? f.cohort.ref.lid).map (fun l => l.vif == vif)).getD false
  let frames := s.frames.filter mine
  let bytes := (frames.map (fun f => f.fbytes)).foldl (· + ·) 0
  let first := (frames.head?.map (fun f => (f.die, f.pa))).getD (0, 0)
  let slots := (s.larder.filter (fun l => l.vif == vif)).length
  let s : State := { s with frames := s.frames.filter (fun f => !(mine f)), larder := s.larder.filter (fun l => l.vif != vif) }
  let s := s.modVif vif (fun v => { v with frbase := 0, frlog := 0, ftail := 0, fhead := 0, hbase := 0, hlog := 0, htail := 0, hhead := 0 })
  (s, [{ struct := 8, method := 1, die := first.1, unit := 0, count := bytes / 64, base := first.2, len := bytes, errs := 0 },
       { struct := 9, method := 1, die := 0, unit := 0, count := slots, base := 0, len := 65536 * slots, errs := 0 },
       { struct := 10, method := 1, die := 4, unit := vif, count := 1, base := 0, len := 64, errs := 0 }])

/-- Reason 2: every sector of a key domain, and the cached lines marked with it. -/
def State.scrubDomain (s : State) (kdom : Nat) (ranges : List (Nat × Nat)) : State × List ScrubEntry :=
  let n1 := (s.cores.map (fun c => (c.l1.filter (fun l => l.kdom == kdom)).length)).foldl (· + ·) 0
  let n2 := (s.l2.filter (fun l => l.kdom == kdom)).length
  let n3 := (s.dies.map (fun d => (d.rdc.filter (fun l => l.kdom == kdom)).length)).foldl (· + ·) 0
  let owned := (s.sectors.filter (fun x => x.kdom == some kdom)).map (fun x => (64 * x.no, 64))
  let s := (owned ++ ranges).foldl (fun s r => s.zeroRange r.1 r.2) s
  let s : State := { s with
    cores := s.cores.map (fun (c : Core) => { c with l1 := c.l1.filter (fun l => l.kdom != kdom) })
    dies := s.dies.map (fun (d : Die) => { d with rdc := d.rdc.filter (fun l => l.kdom != kdom) })
    l2 := s.l2.filter (fun l => l.kdom != kdom)
    kdoms := updateWhere (fun (k : KeyDomain) => k.no == kdom) (fun k => { k with scrubbed := true }) s.kdoms }
  (s, ranges.map rangeEntry ++
      [{ struct := 1, method := 3, die := 0, unit := 0, count := n1, base := 0, len := 128 * n1, errs := 0 },
       { struct := 4, method := 3, die := 0, unit := 0, count := n2, base := 0, len := 128 * n2, errs := 0 },
       { struct := 5, method := 3, die := 0, unit := 0, count := n3, base := 0, len := 128 * n3, errs := 0 }])

/-- Reason 3: stores, caches and band entries of a partition. -/
def State.scrubPart (s : State) (part : Nat) : State × List ScrubEntry :=
  match s.part? part with
  | none => (s, [])
  | some p =>
    let mineCore (k : Core) : Bool := p.clusters.contains (clusterOf k.no)
    let s := (s.cores.filter mineCore).foldl (fun s k =>
      s.cleanL1 { vif := 0, part := part, kdom := 0, classH := false, core := k.no }) s
    let q : Req := { vif := 0, part := part, kdom := 0, classH := false, core := 0 }
    let held := s.dies.flatMap (fun d => (d.rdc.filter (fun l => l.part == part)).map (fun l => (d.no, l)))
    let s := held.foldl (fun s x => (s.cleanRdcLine q x.1 x.2).rdcDrop (128 * x.2.line) (fun k => k == x.1)) s
    let cut (k : Core) : Core := if mineCore k then { k with l1 := [], locks := [], clauses := [] } else k
    let gone (l : L2Line) : Bool := p.hbms.contains (paStack (128 * l.line))
    let s : State := { s with cores := s.cores.map cut, l2 := s.l2.filter (fun l => !(gone l)) }
    let mine (lid : Nat) : Bool := ((s.launch? lid).map (fun l => l.part == part)).getD false
    let s : State := { s with dies := s.dies.map (fun (d : Die) => { d with bands := Band.release mine d.bands }) }
    let s := s.modPart part (fun p => { p with unscrubbed := false })
    let perCluster (struct : Nat) (len : Nat) : List ScrubEntry := p.clusters.map (fun c =>
      { struct := struct, method := 2, die := c / 8, unit := c % 8, count := 12 * len / 128, base := 0, len := 12 * len, errs := 0 })
    (s, perCluster 1 2097152 ++ perCluster 2 1048576 ++ perCluster 3 524288 ++
      p.slices.map (fun x => { struct := 4, method := 3, die := x.1, unit := x.2, count := 40960, base := 0, len := 5242880, errs := 0 }) ++
      p.rdcWays.map (fun x => { struct := 5, method := 3, die := x.1, unit := x.2, count := 16384, base := 0, len := 2097152, errs := 0 }) ++
      (((p.clusters.map (fun c => c / 8)).eraseDups).map (fun d =>
        { struct := 11, method := 1, die := d, unit := 0, count := 64, base := 0, len := 0, errs := 0 })))

/-- Scrub an owner's units; the entries of the receipt. -/
def State.scrub (s : State) (d : ScrubDef) : State × List ScrubEntry :=
  match d.reason with
  | 1 => s.scrubVif d.vif
  | 2 => s.scrubDomain d.kdom d.ranges
  | 3 => s.scrubPart d.part
  | _ => (d.ranges.foldl (fun s r => s.zeroRange r.1 r.2) s, d.ranges.map rangeEntry)

/-- A scrub with its receipt; none while the receipt cannot be written. -/
def State.scrubbed (s : State) (d : ScrubDef) : Option State := (s.scrub d).1.writeReceipt d (s.scrub d).2

/-- A demand scrub, once nothing of the owner references the units and its receipt can be written. -/
def execDemandScrub (d : ScrubDef) (s : State) : Host.Outcome State Fault Refusal :=
  .next (if s.scrubBusy d then s else (s.scrubbed d).getD { s with inputs := s.inputs ++ [.demandScrub d] })

/-! ## Log export (R377) -/

/-- How many records an export with room for `cap` takes: the two records of an error go together (R390). -/
def exportCount (log : List LogRec) (cap : Nat) : Nat :=
  let n := min cap log.length
  if n ≠ 0 ∧ fieldLE (log.getD (n - 1) []) 8 1 = 0xFE then n - 1 else n

/-- The bytes of an export: the oldest records, then the trailer. -/
def State.exportBytes (s : State) (v : Vif) (p : Partition) (out : List LogRec) (seq : Nat) : List Byte :=
  let header := receiptHeader out.length seq 5 v.no p.no v.kdom s.pkg
  out.flatten ++ header ++ sealOf (header ++ out.flatten)

/-- An export of n records to a buffer, with DONE last; none while a page of either cannot be reached. -/
def State.exportLog (s : State) (v : Vif) (p : Partition) (buf done n : Nat) : Option State :=
  let out := p.log.take n
  let (s, seq) := s.takeSeq
  let bytes := s.exportBytes v p out seq
  (s.ipaPut v buf bytes).bind (fun s =>
    ((s.modPart p.no (fun p => { p with log := p.log.drop out.length })).ipaPut v done (leBytes 1 8)).map (fun s =>
      s.send (.receipt buf bytes)))

/-- Hearth exports the oldest records of the buffer to the log reader, with a signed trailer. A request whose descriptor, buffer or DONE
cannot be reached for the moment comes again (notes/assumptions/27.md). -/
def execLogreq (vif : Nat) (value : DWord) (s : State) : Host.Outcome State Fault Refusal :=
  .next (match (s.vif? vif).bind (fun v => (s.part? v.part).map (fun p => (v, p))) with
    | none => s
    | some (v, p) =>
      let again (s : State) : State := { s with inputs := s.inputs ++ [.logreq vif value] }
      if p.logReader ≠ vif then s
      else
        match s.ipaReach v value.toNat 24 false with
        | (s, none) => again s
        | (s, some ds) =>
          let d := s.devBytes ds
          let buf := fieldLE d 0 8
          if buf % 4096 ≠ 0 then s
          else
            match s.exportLog v p buf (fieldLE d 16 8) (exportCount p.log (fieldLE d 8 8)) with
            | none => again s
            | some s =>
              let s := s.wake.post (.accessLogRecord p.no)
              s.walks.foldl (fun s w => if w.logging then s.post (.walkComplete w.id) else s) s)

/-! ## Reblock (R359) -/

/-- A line homed on a die in either partition of a reblock. -/
def State.reblockLine (s : State) (d : ReblockDef) (pa : Nat) : Bool :=
  s.local pa && paDie pa == d.die && ((s.ownerOf pa).map (fun p => p.no == d.losing || p.no == d.gaining)).getD false

/-- A partition after it has lost what a reblock moves. -/
def Partition.lose (p : Partition) (d : ReblockDef) : Partition :=
  { p with clusters := p.clusters.filter (fun c => !(d.clusters.contains c))
           hbms := p.hbms.filter (fun k => !(d.hbms.contains k))
           slices := p.slices.filter (fun x => !(x.1 == d.die && d.slices.contains x.2))
           rdcWays := p.rdcWays.filter (fun x => !(x.1 == d.die && d.rdcWays.contains x.2)) }

/-- A partition after it has gained what a reblock moves. -/
def Partition.gain (p : Partition) (d : ReblockDef) : Partition :=
  { p with clusters := d.clusters.foldl (fun l c => insertNat c l) p.clusters
           hbms := d.hbms.foldl (fun l k => insertNat k l) p.hbms
           slices := p.slices ++ d.slices.map (fun x => (d.die, x))
           rdcWays := p.rdcWays ++ d.rdcWays.map (fun x => (d.die, x)) }

/-- On each die where stacks stand there is a slice, and on each where clusters stand an RDC way (Table 21.1). -/
def minimaHold (clusters hbms : List Nat) (slices rdcWays : List (Nat × Nat)) : Bool :=
  hbms.all (fun k => slices.any (fun x => x.1 == k / 8)) && clusters.all (fun c => rdcWays.any (fun x => x.1 == c / 8))

def Partition.minima (p : Partition) : Bool := minimaHold p.clusters p.hbms p.slices p.rdcWays

/-- What moves belongs to the losing partition, and both keep the minima of Table 21.1. -/
def State.reblockOk (s : State) (d : ReblockDef) : Bool :=
  match s.part? d.losing, s.part? d.gaining with
  | some p, some q =>
    (p.lose d).minima && (q.gain d).minima &&
    p.formed && q.formed && d.losing != d.gaining && d.clusters.all (fun c => p.clusters.contains c && c / 8 == d.die) &&
      d.hbms.all (fun k => p.hbms.contains k && k / 8 == d.die) && d.slices.all (fun x => p.slices.contains (d.die, x)) &&
      d.rdcWays.all (fun x => p.rdcWays.contains (d.die, x)) && ((s.die? d.die).map (fun k => k.reblock.isNone)).getD false
  | _, _ => false

/-- Steps 1 and 2: cohorts on moving clusters take a forced save, requests are held, and the lines of both partitions on the die are
flushed. -/
def execReblockOrder (d : ReblockDef) (signed : Bool) (s : State) : Host.Outcome State Fault Refusal :=
  .next (if !signed || !(s.reblockOk d) then s
    else
      let s := (s.cohorts.filter (fun c => d.clusters.contains (clusterOf c.core))).foldl State.clearOff s
      let dirty := s.dies.flatMap (fun k => (k.rdc.filter (fun l => s.reblockLine d (128 * l.line))).map (fun l => (k.no, l)))
      let q : Req := { vif := 0, part := d.losing, kdom := 0, classH := false, core := 0 }
      let s := dirty.foldl (fun s x => (s.cleanRdcLine q x.1 x.2).modDie x.1 (fun k => { k with rdc := k.rdc.filter (fun l => l.line != x.2.line) })) s
      let gone (l : L2Line) : Bool := s.reblockLine d (128 * l.line)
      let s := s.dropL2 gone
      let s := s.modDie d.die (fun k => { k with reblock := some d, counters := k.counters.filter (fun c => !(s.reblockLine d (65536 * c.page))) })
      s.post (.reblockRehash d.die))

/-- Put a held access at its place by the number under which it is held. -/
def insertHeld (x : GRef × Access) : List (GRef × Access) → List (GRef × Access)
  | [] => [x]
  | y :: ys => if x.2.heldAt < y.2.heldAt then x :: y :: ys else y :: insertHeld x ys

/-- Accesses held at requester ports, in the order in which they were held. -/
def State.heldAccesses (s : State) : List (GRef × Access) :=
  (s.cohorts.flatMap (fun c => c.groups.flatMap (fun x =>
    (x.accs.filter (fun a => a.quiesced)).map (fun a => (⟨c.ref.lid, c.ref.cid, x.gid⟩, a))))).foldl (fun l x => insertHeld x l) []

/-- Held requests are released under the new hash, in that order, and reach their homes; then whatever else waited. -/
def State.releasePorts (s : State) : State :=
  let held := s.heldAccesses
  let free (x : Group) : Group := { x with accs := x.accs.map (fun a => { a with quiesced := false }) }
  let all (c : Cohort) : Cohort := { c with groups := c.groups.map free }
  let s : State := { s with cohorts := s.cohorts.map all
                            frames := s.frames.map (fun (f : Frame) => { f with cohort := all f.cohort }) }
  (held.foldl (fun s x => s.tryHome x.1 x.2.id false) s).retry

/-- Step 3: the new lists are loaded, and held requests go on. -/
def execReblockRehash (die : Nat) (s : State) : Host.Outcome State Fault Refusal :=
  .next (match (s.die? die).bind (fun k => k.reblock) with
    | none => s
    | some d =>
      let s := ((s.modPart d.losing (·.lose d)).modPart d.gaining (·.gain d)).modDie die (fun k => { k with reblock := none })
      s.releasePorts)

/-! ## Partition reset and formation (R365, R356) -/

/-- Every launch of the partition ends with STAT 3; its packets stop, and its units are to be scrubbed (R393). -/
def execPartitionReset (part : Nat) (signed : Bool) (s : State) : Host.Outcome State Fault Refusal :=
  .next (match s.part? part with
    | none => s
    | some _ =>
      if !signed then s
      else
        let roots := (s.launches.filter (fun l => l.part == part && l.phase != .over && l.parentLid.isNone)).map (fun l => l.lid)
        let s := roots.foldl (fun s lid => s.endTree lid 3 0 0 0) s
        let s := s.modPart part (fun p => { p with formed := false, unscrubbed := true, watch := Vector.replicate 32 ⟨0, 0⟩, inj := Injector.zero })
        (({ s with drains := insertNat part s.drains } : State).post (.drainExpiry part)).post (.demandScrub (ScrubDef.ofReset part)))

/-- DRAIN has passed: each packet of the partition that a router still holds is discarded and answered with an error reply. -/
def execDrainExpiry (part : Nat) (s : State) : Host.Outcome State Fault Refusal :=
  .next (if s.drains.contains part then
      (s.outq.filter (fun o => o.part == part)).foldl (fun s _ => s.send (.errorReply part))
        { s with drains := s.drains.filter (fun p => p != part), outq := s.outq.filter (fun o => o.part != part) }
    else s)

/-- The addresses that a stack of this package homes (Table 21.1). -/
def stackRange (pkg k : Nat) : Nat × Nat := (pkg * 2 ^ 41 + k * 2 ^ 36, 2 ^ 36)

def rangesOverlap (a b : List (Nat × Nat)) : Bool := a.any (fun x => b.any (fun y => rangesMeet x.1 x.2 y.1 y.2))

/-- The resources of a definition exist and belong to no other formed partition, nor to one whose scrub after its reset is still to be made
(R393); the minima of Table 21.1 hold. -/
def State.partFree (s : State) (d : PartDef) : Bool :=
  let others := s.parts.filter (fun p => p.formed || p.unscrubbed)
  decide (d.part < 256) && decide (1 ≤ d.depth) && decide (d.depth ≤ 256) &&
    d.depths.all (fun x => decide (1 ≤ x.2.2) && decide (x.2.2 ≤ 256)) && d.clusters.all (fun c => decide (c < 32)) &&
    d.hbms.all (fun k => decide (k < 32)) && d.slices.all (fun x => decide (x.1 < 4) && decide (x.2 < 32)) &&
    d.rdcWays.all (fun x => decide (x.1 < 4) && decide (x.2 < 16)) && d.engines.all (fun e => decide (e < 16)) &&
    d.ports.all (fun k => decide (k < 18)) && minimaHold d.clusters d.hbms d.slices d.rdcWays &&
    others.all (fun p => p.no != d.part && !(p.clusters.any d.clusters.contains) && !(p.hbms.any d.hbms.contains) &&
      !(p.slices.any d.slices.contains) && !(p.rdcWays.any d.rdcWays.contains) && !(p.engines.any d.engines.contains) &&
      !(p.ports.any d.ports.contains) && !(p.routes.any (fun r => d.routes.contains r || d.routes.contains (r.2, r.1))) &&
      !(rangesOverlap (p.ranges ++ p.hbms.map (stackRange s.pkg)) (d.ranges ++ d.hbms.map (stackRange s.pkg))))

/-- Firmware forms a partition (step 8 of R418, or later). -/
def execPartitionFormation (d : PartDef) (s : State) : Host.Outcome State Fault Refusal :=
  .next (if s.hearth.step < 8 || !(s.partFree d) then s
    else
      let p : Partition := { Partition.unformed d.part with
        formed := true, clusters := d.clusters, hbms := d.hbms, slices := d.slices, rdcWays := d.rdcWays, engines := d.engines,
        ports := d.ports, ranges := d.ranges, test := d.test, depth := d.depth, depths := d.depths, nsi := d.nsi, routes := d.routes }
      ({ s with parts := s.parts.filter (fun x => x.no != d.part) ++ [p], drains := s.drains.filter (fun x => x != d.part) } : State).retry)

/-! ## Withdrawal and self-test (R17, R384, R413) -/

/-- Cores leave use: no bind record reaches them. -/
def execCoreWithdrawal (cores : List Nat) (signed : Bool) (s : State) : Host.Outcome State Fault Refusal :=
  .next (if !signed then s
    else
      let out (k : Core) : Core := if cores.contains k.no then { k with withdrawn := true } else k
      { s with cores := s.cores.map out })

/-- The pattern on a suspect core: a pass gives it back to use; a failure keeps it withdrawn, with a record. -/
def execSelfTest (core : Nat) (pass : Bool) (s : State) : Host.Outcome State Fault Refusal :=
  .next (match s.core? core with
    | none => s
    | some k =>
      if pass then (if k.suspect then s.modCore core (fun k => { k with suspect := false, withdrawn := false }) else s)
      else
        (s.modCore core (fun k => { k with withdrawn := true })).logError
          { ErrRec.zero with
          etype := 8, action := 6, die := dieOf core, unit := clusterOf core % 8 * 256 + core % 12
          part := (s.parts.find? (fun p => p.formed && p.clusters.contains (clusterOf core))).map (fun p => p.no) })

end Sys2Proof.Machine
end

