-- ==== Sys2Proof/Machine/FrameBytes.lean ====
section
/-!
DEFINITION. The bytes of a context frame (R319, Tables 18.3 to 18.5, R300), and the frame that bytes give back. Frames are kept as data
(notes/assumptions/5.md); the bytes are what a migration delivers (R371).
-/
namespace Sys2Proof.Machine

/-! ## Frame to bytes -/

/-- Areas start at multiples of 128. -/
def padTo128 (bs : List Byte) : List Byte := bs ++ leBytes 0 (alignUp bs.length 128 - bs.length)

/-- Append an area, if it has bytes. -/
def addArea (acc area : List Byte) : List Byte := if area.isEmpty then acc else padTo128 acc ++ area

/-- A barrier in BARR and BBARR. -/
def Barrier.word (b : Barrier) : Nat :=
  b.arrivals % 32768 + (if b.phase then 32768 else 0) + (if b.arrivals ≠ 0 ∧ b.target = 0 then 65536 else 0)

/-- A map entry of MAP. -/
def MapEntry.toBytes (m : MapEntry) : List Byte :=
  if m.bound then leBytes (m.va % 2 ^ 57 + m.policy % 4 * 2 ^ 60 + (if m.readOnly then 2 ^ 62 else 0) + 2 ^ 63) 8 ++ leBytes m.s 4 ++ leBytes m.n 4
  else leBytes 0 16

/-- A descriptor as Table 9.1 lays it out. -/
def Desc.number (d : Desc) : Nat :=
  d.ew.toNat + d.rows.toNat * 2 ^ 26 + d.cols.toNat * 2 ^ 36 + d.base.toNat * 2 ^ 49 + d.stride.toNat * 2 ^ 70 + d.sbase.toNat * 2 ^ 91 +
    d.sstride.toNat * 2 ^ 112

/-- Wait kind and barrier of STAT. -/
def Wait.stat : Wait → Nat
  | .bar id _ _ => 16 + 256 * id
  | .barb id _ _ => 32 + 256 * id
  | .both a b => if a.stat = 0 then b.stat else a.stat
  | _ => 0

/-- HELD. -/
def Regs.heldWord (r : Regs) : Nat :=
  (match r.held20 with
   | some i => 1 + 256 * (i % 256)
   | none => 0) + (match r.held38 with
   | some i => 65536 + 131072 * (i % 2)
   | none => 0)

/-- The record of a group (Table 18.4). `bart`: the targets, in the record of gid 0. -/
def Group.record (x : Group) (bart : List Nat) : List Byte :=
  let r := x.r
  let ls := r.lanes.toList
  let stat := (if r.inTrap then 1 else 0) + (if r.inReg then 2 else 0) + (if r.xheld then 4 else 0) + (if r.grant.isSome then 8 else 0) +
    (if r.wait.stat = 0 then r.outer.stat else r.wait.stat)
  let grant := match r.grant with
    | some k => k.first % 2 ^ 32 + k.count % 2 ^ 32 * 2 ^ 32 + k.dst % 256 * 2 ^ 64
    | none => 0
  ls.flatMap (fun l => leBytes l.pc.toNat 8) ++ leBytes r.live.toNat 2 ++ leBytes r.entryMask.toNat 2 ++
    leBytes (maskWhere (fun i => (r.lane i).tok.isSome)).toNat 2 ++ leBytes stat 2 ++
    ls.flatMap (fun l => leBytes ((l.tok.map (fun t => t.mask.toNat)).getD 0) 2) ++ ls.flatMap (fun l => leBytes l.preds.toNat 1) ++
    leBytes r.heldWord 8 ++
    leBytes r.fpcr.toNat 4 ++ leBytes r.fpsr.toNat 4 ++ leBytes r.mfr.toNat 4 ++
    leBytes (r.racc.toNat % 256 + 256 * r.regMask.toNat) 4 ++ leBytes r.tcause.toNat 4 ++ leBytes r.tskid.toNat 4 ++
    leBytes r.rpc.toNat 8 ++ leBytes r.tpc.toNat 8 ++ leBytes r.taddr.toNat 8 ++ leBytes r.tvec.toNat 8 ++ leBytes grant 16 ++
    r.desc.toList.flatMap (fun d => leBytes d.number 16) ++ leBytes 0 8 ++
    (List.range 192).flatMap (fun n => leBytes (~~~(SMap.get r.ev (0 : Mask) n)).toNat 2) ++ leBytes (~~~r.ew).toNat 4 ++
    ls.flatMap (fun l => leBytes (if r.inTrap then l.resumePc.toNat else 0) 8) ++
    exactly 80 (bart.flatMap (fun t => leBytes t 4)) ++ leBytes 0 28

/-- A replay slot (Table 18.5). A slot that waits for a mapped sector gives the virtual address that the sector is mapped from. -/
def slotBytes (c : Cohort) (gid : Nat) (a : Access) : List Byte :=
  let lane (i : Nat) : Nat :=
    ((a.addr.find? (fun p => p.1 == i)).map (fun p => if a.space = 1 then c.mappedVa p.2 else p.2)).getD 0
  let data (i : Nat) : Nat := ((a.data.find? (fun p => p.1 == i)).map (fun p => p.2.toNat)).getD 0
  let cmp (i : Nat) : Nat := ((a.cmp.find? (fun p => p.1 == i)).map (fun p => p.2.toNat)).getD 0
  leBytes gid 1 ++ leBytes a.opc.toNat 1 ++ leBytes a.var.toNat 1 ++ leBytes (a.scope.toNat + 8 * a.ord.toNat) 1 ++
    leBytes (maskOf (a.addr.map (fun p => p.1))).toNat 2 ++ leBytes (if a.dst < noDst then a.dst else 0) 1 ++ leBytes 0 9 ++
    laneNumbers.flatMap (fun i => leBytes (lane i) 8) ++
    laneNumbers.flatMap (fun i => leBytes (if a.opc == opSt || a.opc == opStf then data i else data i % 2 ^ 64 + cmp i * 2 ^ 64) 16) ++
    leBytes 0 112

/-- The register area with REGB = 0 (R300). -/
def Frame.registers (f : Frame) : List Byte :=
  let word (w : Word) : List Byte := leBytes w.toNat 4
  let base (x : Group) : List Byte := (List.range 32).flatMap (fun n => word (x.r.read (0xC0 + n) 0)) ++
    (List.range f.b).flatMap (fun n => laneNumbers.flatMap (fun i => word (x.r.read n i)))
  let pairs := (List.range ((f.g + 1) / 2)).flatMap (fun k =>
    let gs := f.cohort.groups.filter (fun x => x.gid / 2 == k)
    match (gs.find? (fun x => x.r.xlast)).or gs.head? with
    | some x => (List.range (8 * ((f.x + 7) / 8))).flatMap (fun n => laneNumbers.flatMap (fun i => word (x.r.read (128 + n) i)))
    | none => [])
  f.cohort.groups.flatMap base ++ pairs

/-- The accumulator area: primaries, group-major. -/
def Frame.tiles (f : Frame) : List Byte :=
  f.cohort.groups.flatMap (fun x => (List.range f.acc).flatMap (fun n => (List.range 16).flatMap (fun i => (List.range 64).flatMap (fun j =>
    leBytes (SMap.get x.r.acc 0 (accKey n i j)).toNat 4))))

/-- A replay slot of a group, put at its place in the order of making. -/
def insertSlot (x : Nat × Slot) : List (Nat × Slot) → List (Nat × Slot)
  | [] => [x]
  | y :: ys => if x.2.made < y.2.made then x :: y :: ys else y :: insertSlot x ys

/-- The replay slots of a cohort with their groups, in the order in which they were made. -/
def Cohort.slotsMade (c : Cohort) : List (Nat × Slot) :=
  (c.groups.flatMap (fun x => x.slots.map (fun t => (x.gid, t)))).foldl (fun l t => insertSlot t l) []

/-- The offset of the scratchpad that a mapped address stands at. -/
def Cohort.mappedAt (c : Cohort) (va : Nat) : Option Nat :=
  (c.maps.toList.find? (fun m => m.bound && m.va ≤ va && va < m.va + m.n)).map (fun m => m.s + (va - m.va))

/-- The scratchpad, with the dirty bytes of mapped sectors in their places and their masks after it (R311). -/
def Frame.scratchArea (f : Frame) : List Byte :=
  let dirty := f.mapDirty.filterMap (fun b => (f.cohort.mappedAt b.1).map (fun o => (o, b.2)))
  let mask (k : Nat) : Nat := (dirty.filter (fun b => b.1 / 128 == k)).foldl (fun m b => m ||| 2 ^ (b.1 % 128)) 0
  (dirty.foldl (fun m b => Memory.put m b.1 b.2) f.cohort.scratch).bytes 0 f.scr ++
    (List.range f.masks).flatMap (fun k => leBytes (mask k) 16)

/-- The whole frame. -/
def State.frameToBytes (s : State) (f : Frame) : List Byte :=
  let c := f.cohort
  let bart := c.bars.toList.map (fun b => b.target) ++ c.bbars.toList.map (fun b => b.target)
  let slots := c.slotsMade.map (fun t => slotBytes c t.1 t.2.acc)
  let flags := (if c.classH then 1 else 0) + (if c.checked then 2 else 0) + 4 * (c.blk % 4) + (if s.redirected c then 16 else 0)
  let header := leBytes f.kind 1 ++ leBytes flags 1 ++ leBytes f.g 2 ++ leBytes c.ref.lid 4 ++ leBytes c.ref.cid 4 ++ leBytes c.bid 4 ++
    leBytes f.b 1 ++ leBytes f.x 1 ++ leBytes f.acc 1 ++ leBytes (f.cmdBytes.length / 64) 1 ++ leBytes slots.length 1 ++ leBytes c.deferred.length 1 ++
    leBytes 0 2 ++ leBytes f.scr 4 ++ leBytes f.fbytes 4 ++ c.bars.toList.flatMap (fun b => leBytes b.word 4) ++ leBytes c.benr.toNat 8 ++
    leBytes c.saves 8 ++ c.maps.toList.flatMap MapEntry.toBytes ++ c.bbars.toList.flatMap (fun b => leBytes b.word 4)
  let records := c.groups.flatMap (fun x => x.record (if x.gid = 0 then bart else []))
  let defs := c.deferred.flatMap (fun d => leBytes (d.band % 64 + d.n / 128 * 256) 8 ++ leBytes d.va 8)
  let areas := [defs, f.cmdBytes, slots.flatten] ++ (if f.kind = 3 then [] else [f.registers, f.scratchArea, f.tiles])
  areas.foldl addArea (header ++ records)

/-! ## Bytes to frame -/

/-- The header of the clause that a PC lies in: the PC itself, or the nearest word below it with a header's tag whose body reaches it. -/
def State.hdrOf (s : State) (vif : Nat) (pc : DWord) : DWord :=
  let word (a : DWord) : Option DWord :=
    (s.agentPa vif a.toNat needFetch).map (fun pa => w64 (leNat (s.homeBytes pa 8)))
  let hit (k : Nat) : Bool := match word (pc - w64 (8 * k)) with
    | some w => hdrTag w == 15 && decide (k ≤ hdrCount w + 1)
    | none => false
  match (List.range 17).find? hit with
  | some k => pc - w64 (8 * k)
  | none => pc

/-- A barrier from its word and target. -/
def barrierOf (w t : Nat) : Barrier := ⟨w % 32768, w.testBit 15, t⟩

/-- A map entry from its 16 bytes. -/
def mapOf (bs : List Byte) : MapEntry :=
  let v := fieldLE bs 0 8
  if v.testBit 63 then { MapEntry.unbound with bound := true, va := v % 2 ^ 57, policy := v / 2 ^ 60 % 4, readOnly := v.testBit 62,
                                               s := fieldLE bs 8 4, n := fieldLE bs 12 4 }
  else MapEntry.unbound

/-- A descriptor from its number. -/
def descOf (n : Nat) : Desc :=
  { ew := BitVec.ofNat 3 n, rows := BitVec.ofNat 10 (n / 2 ^ 26), cols := BitVec.ofNat 13 (n / 2 ^ 36), base := BitVec.ofNat 21 (n / 2 ^ 49),
    stride := BitVec.ofNat 21 (n / 2 ^ 70), sbase := BitVec.ofNat 21 (n / 2 ^ 91), sstride := BitVec.ofNat 16 (n / 2 ^ 112) }

/-- The part of a group that its record holds. A token's address is the lane's PC, which RPCS holds while the group is in its handler
(R112, Table 18.4). The barrier word names no lanes: its arrival stands in BARR or BBARR. -/
def State.groupOf (s : State) (vif gid : Nat) (bs : List Byte) : Group :=
  let f := fieldLE bs
  let stat := f 0x86 2
  let lane (i : Nat) : Lane :=
    let pc := w64 (f (8 * i) 8)
    let back := w64 (f (0x314 + 8 * i) 8)
    { pc := pc, hdr := s.hdrOf vif pc, resumePc := back, resumeHdr := s.hdrOf vif back,
      tok := if (f 0x84 2).testBit i then some ⟨if stat.testBit 0 then back else pc, BitVec.ofNat 16 (f (0x88 + 2 * i) 2)⟩ else none,
      preds := BitVec.ofNat 7 (f (0xA8 + i) 1), parked := false }
  let ev := (List.range 192).foldl (fun m n => SMap.set m (0 : Mask) n (~~~(BitVec.ofNat 16 (f (0x190 + 2 * n) 2)))) []
  let held := f 0xB8 8
  let waits : Wait := match stat / 16 % 16 with
    | 1 => .bar (stat / 256 % 16) (BitVec.ofNat 16 (f 0x80 2)) true
    | 2 => .barb (stat / 256 % 16) (BitVec.ofNat 16 (f 0x80 2)) true
    | _ => .none
  let g := Group.start gid gid 0 0
  { g with
    stopped := true
    r := { g.r with
      lanes := Vector.ofFn (fun i => lane i.val)
      live := BitVec.ofNat 16 (f 0x80 2), entryMask := BitVec.ofNat 16 (f 0x82 2), inTrap := stat.testBit 0, inReg := stat.testBit 1,
      xheld := stat.testBit 2,
      handler := if stat.testBit 0 then BitVec.ofNat 16 (f 0x80 2) else 0,
      wait := if stat.testBit 0 then .none else waits,
      outer := if stat.testBit 0 then waits else .none,
      held20 := if held.testBit 0 then some (held / 256 % 256) else none,
      held38 := if held.testBit 16 then some (held / 131072 % 2) else none,
      fpcr := w32 (f 0xC0 4), fpsr := w32 (f 0xC4 4), mfr := w32 (f 0xC8 4), racc := w32 (f 0xCC 1), regMask := BitVec.ofNat 8 (f 0xCD 1),
      tcause := w32 (f 0xD0 4), tskid := w32 (f 0xD4 4), rpc := w64 (f 0xD8 8), tpc := w64 (f 0xE0 8), taddr := w64 (f 0xE8 8),
      tvec := w64 (f 0xF0 8),
      grant := if stat.testBit 3 then some ⟨f 0xF8 4, f 0xFC 4, f 0x100 1⟩ else none,
      desc := Vector.ofFn (fun i => descOf (f (0x108 + 16 * i.val) 16)),
      ev := ev, ew := ~~~(BitVec.ofNat 32 (f 0x310 4)) } }

/-- Bytes per lane of a slot's access: the size of R168 for a load or store, of VAR for an atomic, `b32` or `b64` for a `cas`, and the
word of `promote` and `waitc`. -/
def slotSize (opc : BitVec 8) (var : BitVec 4) : Nat :=
  if opc == opAtom then atomSize var else if opc == opPromote || opc == opWaitc then 4 else memSize var

/-- The access of a slot image, numbered `id`. -/
def slotOf (id : Nat) (bs : List Byte) : Nat × Access :=
  let f := fieldLE bs
  let lanes := maskLanes (BitVec.ofNat 16 (f 4 2))
  let opc := BitVec.ofNat 8 (f 1 1)
  let var := BitVec.ofNat 4 (f 2 1)
  let store := opc == opSt || opc == opStf
  let loads := opc == opLd || opc == opLdw || opc == opAtom || opc == opCas || opc == opWaitc || opc == opPromote
  (f 0 1,
   { id := id, opc := opc, var := var, ord := BitVec.ofNat 2 (f 3 1 / 8), scope := BitVec.ofNat 3 (f 3 1), hnd := 0, space := 0, policy := 0,
     dst := if loads then f 6 1 else noDst,
     size := slotSize opc var,
     addr := lanes.map (fun i => (i, f (0x10 + 8 * i) 8)),
     data := lanes.map (fun i => (i, BitVec.ofNat 128 (if store then f (0x90 + 16 * i) 16 else f (0x90 + 16 * i) 8))),
     cmp := if store then [] else lanes.map (fun i => (i, w64 (f (0x98 + 16 * i) 8))),
     released := 0, resv := false, unavailable := false, quiesced := false, lanes := BitVec.ofNat 16 (f 4 2), pc := 0, hdr := 0, issuedAt := 0,
     inRegion := false, noFill := false, resolved := [], behind := false })

/-- Where the areas of a frame start, from their sizes. -/
def areaStarts (from_ : Nat) : List Nat → List Nat
  | [] => []
  | n :: rest =>
    let at_ := if n = 0 then from_ else alignUp from_ 128
    at_ :: areaStarts (at_ + n) rest

/-- The register contents of a group from the register area. `mine`: the pair's extended set is kept with it (R55). -/
def withRegisters (x : Group) (b xr : Nat) (g : Nat) (mine : Bool) (bs : List Byte) : Group :=
  let at_ := x.gid * (64 * b + 128)
  let ext := g * (64 * b + 128) + x.gid / 2 * (512 * ((xr + 7) / 8))
  let word (o : Nat) : Word := w32 (fieldLE bs o 4)
  let w := (List.range 32).foldl (fun m n => SMap.set m 0 n (word (at_ + 4 * n))) []
  let put (n o : Nat) (m : SMap Word) : SMap Word := laneNumbers.foldl (fun m i => SMap.set m 0 (vKey n i) (word (o + 4 * i))) m
  let v := (List.range b).foldl (fun m n => put n (at_ + 128 + 64 * n) m) []
  let v := if mine then (List.range xr).foldl (fun m n => put (128 + n) (ext + 64 * n) m) v else v
  { x with r := { x.r with w := w, v := v, xlast := mine } }

/-- The primaries of a group from the accumulator area. -/
def withTiles (x : Group) (acc : Nat) (bs : List Byte) : Group :=
  let m := (List.range acc).foldl (fun m n => (List.range 16).foldl (fun m i => (List.range 64).foldl (fun m j =>
    SMap.set m 0 (accKey n i j) (w32 (fieldLE bs (4096 * (x.gid * acc + n) + 256 * i + 4 * j) 4))) m) m) []
  { x with r := { x.r with acc := m } }

/-- The frame that bytes describe, with identifiers from `base` on. -/
def State.frameOfBytes (s : State) (vif base : Nat) (bs : List Byte) : Frame :=
  let f := fieldLE bs
  let kind := f 0 1
  let g := f 2 2
  let b := f 0x10 1
  let x := f 0x11 1
  let acc := f 0x12 1
  let (ncmd, nslot, ndef) := (f 0x13 1, f 0x14 1, f 0x15 1)
  let scr := f 0x18 4
  let masks := if f 0x1C 4 = frameBytes kind g b x acc scr nslot ndef ncmd 0 then 0 else (scr + 127) / 128
  let at_ (k : Nat) : Nat :=
    (areaStarts (256 + 1024 * g) [16 * ndef, 64 * ncmd, 512 * nslot, footprint g b x, scr + 16 * masks, 4096 * g * acc]).getD k 0
  let slots := (List.range nslot).map (fun k => (k, slotOf (base + 1 + k) ((bs.drop (at_ 2 + 512 * k)).take 512)))
  let zero (o n : Nat) : Bool := f o n == 0
  let reserved := !(zero 0x16 2) ||
    (List.range g).any (fun k => let o := 256 + 1024 * k; !(zero (o + 0x101) 7) || !(zero (o + 0x188) 8) || !(zero (o + 0x3E4) 28) ||
      (k != 0 && !(zero (o + 0x394) 80))) ||
    (List.range ndef).any (fun k => !(zero (at_ 0 + 16 * k + 4) 4)) ||
    (List.range nslot).any (fun k => let o := at_ 2 + 512 * k; !(zero (o + 7) 9) || !(zero (o + 0x190) 112))
  let holds (k : Nat) : Bool := (f (256 + 1024 * k + 0x86) 2).testBit 2
  let mine (k : Nat) : Bool := if k % 2 = 1 then decide (k < g) && holds k else !(decide (k + 1 < g) && holds (k + 1))
  let group (k : Nat) : Group :=
    let y := s.groupOf vif k ((bs.drop (256 + 1024 * k)).take 1024)
    let y := if kind = 3 then { y with r := { y.r with xlast := mine k } } else withTiles (withRegisters y b x g (mine k) (bs.drop (at_ 3))) acc (bs.drop (at_ 5))
    { y with slots := (slots.filter (fun t => t.2.1 == k)).map (fun t =>
        { idx := 0, acc := t.2.2, recs := [], refused := none, held := false, made := t.1 }) }
  let target (k : Nat) : Nat := f (256 + 0x394 + 4 * k) 4
  let maps := (List.range 8).map (fun i => mapOf ((bs.drop (0x70 + 16 * i)).take 16))
  let mapped (o : Nat) : Option Nat := (maps.find? (fun m => m.bound && m.s ≤ o && o < m.s + m.n)).map (fun m => m.va + (o - m.s))
  let byte (o : Nat) : Byte := bs.getD (at_ 4 + o) 0
  let scratch := if kind = 3 then [] else ((List.range scr).filter (fun o => (mapped o).isNone)).foldl (fun m o => Memory.put m o (byte o)) []
  let dirty := (List.range masks).flatMap (fun k => (List.range 128).filterMap (fun j =>
    if (f (at_ 4 + scr + 16 * k) 16).testBit j then (mapped (128 * k + j)).map (fun va => (va, byte (128 * k + j))) else none))
  { id := base, die := 0, kind := kind, g := g, b := b, x := x, acc := acc, scr := scr, fbytes := f 0x1C 4, cmds := [], locks := [], nslot := nslot,
    ndef := ndef, masks := masks, mapDirty := dirty, cmdBytes := (bs.drop (at_ 1)).take (64 * ncmd), reserved := reserved,
    cohort :=
      { ref := ⟨f 4 4, f 8 4⟩, bid := f 0x0C 4, core := 0, slot := 0, regb := 0, scrb := 0, gidx := 0, accb := 0, blk := f 1 1 / 4 % 4,
        groups := (List.range g).map group, scratch := scratch, granEmpty := [], scrPoison := [],
        maps := Vector.ofFn (fun i => maps.getD i.val MapEntry.unbound),
        bars := Vector.ofFn (fun i => barrierOf (f (0x20 + 4 * i.val) 4) (target i.val)),
        bbars := Vector.ofFn (fun i => barrierOf (f (0xF0 + 4 * i.val) 4) (target (16 + i.val))),
        child := none, phase := .saved, budget := none, spatial := false, saves := f 0x68 8, benr := BitVec.ofNat 64 (f 0x60 8),
        deferred := (List.range ndef).map (fun k =>
          let o := at_ 0 + 16 * k
          { band := f o 8 % 64, n := f o 8 / 256 % 2 ^ 24 * 128, va := f (o + 8) 8, gid := 0, pc := 0, leave := false }),
        classH := (f 1 1).testBit 0, checked := (f 1 1).testBit 1 } }

end Sys2Proof.Machine
end

