-- ==== Sys2Proof/Machine/Interface.lean ====
section
/-!
DEFINITION. Virtual interfaces (22): creation (R367, R370), the TDISP states (R368, R369), writes to registers that only store their
value (R7, R367 and the registers of 15, 19, 20, 21, 22 and 25 that firmware sets), and key domain loads (R373).
-/
namespace Sys2Proof.Machine

/-! ## Creation -/

/-- An interface as its kick page and migration page stand after creation (Tables 22.1, 22.3b, 20.2). -/
def Vif.created (d : VifDef) : Vif :=
  { no := d.vif, part := d.part, kdom := d.kdom, groot := d.groot, hroot := d.hroot, s1gen := 0, s2gen := 0, tdisp := .unlocked,
    mig := if d.destination then .stopped else .running, frbase := 0, frlog := 0, ftail := 0, fhead := 0, hbase := 0, hlog := 0, htail := 0,
    hhead := 0, flistReg := 0, fnum := 0, flow := 64, pool := { list := [], bad := 0, free := [], used := [], hands := [] }, msix := [],
    sysWins := d.sysWins, heldKicks := [], window := [], chunks := [], migNext := 0, migFull := false, migEnd := false, migRef := false,
    migBadc := false, migMiss := false, dest := d.destination, unlocking := false, faultVector := d.faultVector, receipt := d.receipt }

/-- A queue as it stands after its creation. -/
def Queue.created (vif : Nat) (d : QueueDef) : Queue :=
  { qid := d.qid, vif := vif, slot := d.slot, qcb := d.qcb, shadow := exactly 32 d.shadow, disabled := d.disabled, head := 0, tail := 0,
    ctail := 0, ring := 0, rlog := 0, cring := 0, clog := 0, chead := 0, quotaUsed := 0, kicks := [], waitRec := none, refusedRead := false,
    refusedKick := false, refusedEntry := false, refusedHead := false, reread := false, cleared := false, compl := [], vector := d.vector }

/-- QCB.STATUS is zeroed at queue creation (Table 17.2). The write is the device's own and takes the walk's address alone, with no
permission or bit of the leaves; a QCB that has no address yet is cleared when it first translates (State.clearStatus;
notes/assumptions/43.md). -/
def State.zeroStatus (s : State) (v : Vif) (q : Queue) : State :=
  let at_ (p : Nat) : Option (Nat × Nat × Nat) := (s.walkEnv? v.no).bind (fun w => match s.walkTables w p 0 with
    | .ok _ pa _ _ _ _ _ _ => some (p, pa, min 4 (alignDown p 65536 + 65536 - p))
    | _ => none)
  match (pagesOf (q.qcb + 0x4C) 4).mapM at_ with
  | some ps => s.clearStatus q v ps
  | none => s

/-- A launch or frame of an interface is left, or a command, or it is not unlocked. -/
def State.vifBusy (s : State) (vif : Nat) : Bool :=
  s.launches.any (fun l => l.vif == vif && l.phase != .over) || s.cmds.any (fun k => k.vif == vif)

/-- Firmware creates an interface once the functions have appeared (step 6 of R418). -/
def execInterfaceCreation (d : VifDef) (s : State) : Host.Outcome State Fault Refusal :=
  .next (
    let old := ((s.vif? d.vif).map (fun v => v.tdisp != .unlocked || s.vifBusy d.vif)).getD false
    let taken := s.queues.any (fun q => q.vif != d.vif && d.queues.any (fun k => k.qid == q.qid))
    if s.hearth.step < 6 || 64 ≤ d.vif || 64 ≤ d.kdom || old || taken then s.send (.refusedChange d.vif)
    else
      let v := Vif.created d
      let qs := d.queues.map (Queue.created d.vif)
      let s : State := { s with vifs := s.vifs.filter (fun x => x.no != d.vif) ++ [v],
                                queues := s.queues.filter (fun q => q.vif != d.vif) ++ qs,
                                recs := s.recs.filter (fun r => r.vif != d.vif) }
      qs.foldl (fun s q => s.zeroStatus v q) s)

/-! ## TDISP states (Table 22.2) -/

/-- Locked: firmware and the host may not change the locked items. -/
def Tdisp.guarded : Tdisp → Bool
  | .unlocked => false
  | _ => true

/-- Change the state of an interface when it is in one that the request starts from. -/
def State.tdispMove (s : State) (vif : Nat) (src dst : Tdisp) : State :=
  s.modVif vif (fun v => if v.tdisp = src && !v.unlocking then { v with tdisp := dst } else v)

def execLockInterface (vif : Nat) (s : State) : Host.Outcome State Fault Refusal := .next (s.tdispMove vif .unlocked .locked)

def execStartInterface (vif : Nat) (s : State) : Host.Outcome State Fault Refusal := .next (s.tdispMove vif .locked .run)

/-- The scrub of reason 1, with the fault-ring state: open ring records go, and queues that waited on them go on. None while its receipt
cannot be written to the place that firmware has named. -/
def State.unlockScrub (s : State) (v : Vif) : Option State :=
  let d : ScrubDef := { reason := 1, vif := v.no, part := v.part, kdom := v.kdom, ranges := [], ipa := v.receipt }
  let (s, es) := s.scrub d
  let s : State := { s with
    recs := s.recs.filter (fun r => r.vif != v.no || r.kind == 5)
    queues := updateWhere (fun (q : Queue) => q.vif == v.no) (fun q => { q with waitRec := none }) s.queues }
  s.writeReceipt d es

/-- Leaving RUN stops every launch at once: the interface is CONFIG_LOCKED, and takes no kick, until the scrub that comes before
CONFIG_UNLOCKED. That waits until no cohort and no command references what it clears (DESIGN CHOICE, notes/assumptions/43.md). -/
def execStopInterface (vif : Nat) (s : State) : Host.Outcome State Fault Refusal :=
  .next (match s.vif? vif with
    | none => s
    | some v =>
      if v.tdisp = .unlocked then s
      else
        let s := if v.tdisp = .run then (s.modVif vif (fun v => { v with tdisp := .locked })).vifEnd vif 0x38 else s
        match if s.vifBusy vif then none else s.unlockScrub v with
        | none => s.modVif vif (fun v => { v with unlocking := true })
        | some s => s.modVif vif (fun v => { v with tdisp := .unlocked, unlocking := false }))

/-- A host attempt to change a locked item. -/
def execLockedItemChange (vif : Nat) (s : State) : Host.Outcome State Fault Refusal :=
  .next (match s.vif? vif with
    | none => s
    | some v =>
      match v.tdisp with
      | .locked => s.modVif vif (fun v => { v with tdisp := .error })
      | .run => (s.modVif vif (fun v => { v with tdisp := .error })).vifEnd vif 0x32
      | _ => s)

/-! ## Register writes -/

/-- A register of 8 bytes after a write of `size` bytes at an offset: the other half stays as it reads. -/
def mergeHalf (old value off size : Nat) : Nat :=
  if size = 8 then value % 2 ^ 64
  else if off % 8 = 0 then old / 2 ^ 32 * 2 ^ 32 + value % 2 ^ 32
  else old % 2 ^ 32 + value % 2 ^ 32 * 2 ^ 32

/-- A 4-byte register of the kick page. -/
def State.kickPageWord (s : State) (vif off value : Nat) : State :=
  match off with
  | 0x810 => if 12 < value then s else s.modVif vif (fun v => { v with frlog := value })
  | 0x818 => s.modVif vif (fun v => { v with fhead := value })
  | 0x830 => s.modVif vif (fun v => { v with fnum := value })
  | 0x834 => (s.modVif vif (fun v => { v with flow := value })).postSweeps vif
  | _ => s

/-- An aligned 4-byte or 8-byte write to the kick page (Table 22.1); every other write has no effect. FRBASE is a multiple of 4,096,
and the spec gives no outcome for another value: the low 12 bits are dropped (DESIGN CHOICE, notes/assumptions/43.md). -/
def State.kickPageWrite (s : State) (v : Vif) (off size value : Nat) : State :=
  let whole (old : Nat) : DWord := w64 (mergeHalf old value off size)
  if (size != 4 && size != 8) || off % size != 0 then s
  else if off < 0x800 then
    match s.queues.find? (fun q => q.vif == v.no && q.slot == off / 8) with
    | some q => s.post (.kick v.no (off / 8) (whole q.tail))
    | none => s
  else if 0x1000 ≤ off && off < 0x2000 then
    match v.tdisp with
    | .unlocked => (s.modVif v.no (fun v => { v with msix := v.msix.putBytes (off - 0x1000) (leBytes value size) })).flushMsix v.no
    | .error => s
    | _ => s.post (.lockedItemChange v.no)
  else
    match off / 8 * 8 with
    | 0x800 => s.invreq v.no (whole 0)
    | 0x808 => s.modVif v.no (fun v => { v with frbase := (whole v.frbase).toNat / 4096 * 4096 })
    | 0x820 => s.post (.fresp v.no false (whole 0))
    | 0x828 => s.post (.flist v.no (whole v.flistReg))
    | 0x840 => s.post (.logreq v.no (whole 0))
    | _ =>
      let s := s.kickPageWord v.no off (value % 2 ^ 32)
      if size = 8 then s.kickPageWord v.no (off + 4) (value / 2 ^ 32 % 2 ^ 32) else s

/-- The event that a command of MIGCMD is; another number is no command, a nonzero [63:3] with a legal [2:0] among them
(DESIGN CHOICE, notes/assumptions/43.md). -/
def migEvent (vif n : Nat) : Option Instr :=
  match n with
  | 1 => some (.precopy vif)
  | 2 => some (.stop vif)
  | 3 => some (.resume vif)
  | 4 => some (.abort vif)
  | 5 => some (.finish vif)
  | _ => none

/-- An aligned 4-byte or 8-byte write to the migration page (Table 22.3b); MIGACK goes to the side that the interface is on. Another
value of MIGCMD is a command that Table 22.3 does not allow. -/
def State.migPageWrite (s : State) (v : Vif) (off size value : Nat) : State :=
  let ack (seq : Nat) : State :=
    if v.mig = .resuming then s.post (.migackDestination v.no seq) else s.post (.migackSource v.no seq)
  if (size != 4 && size != 8) || off % size != 0 then s
  else if 65536 ≤ off ∧ off < 131072 then
    s.modVif v.no (fun v => { v with window := v.window.putBytes (off - 65536) (leBytes value size) })
  else
    match off with
    | 0 => (match migEvent v.no (value % 2 ^ (8 * size)) with
      | some e => s.post e
      | none =>
        if v.tdisp = .locked ∨ v.tdisp = .run then s.send (.refusedChange v.no)
        else s.modVif v.no (fun v => { v with migRef := false, migMiss := false, migBadc := true }))
    | 0x08 => if size = 8 then ack (value / 2 ^ 32 % 2 ^ 32) else s
    | 0x0C => ack (value % 2 ^ 32)
    | _ => s

/-- Some interface of a partition is locked, so its watched ranges are. -/
def State.partGuarded (s : State) (part : Nat) : Bool := s.vifs.any (fun v => v.part == part && v.tdisp.guarded)

/-- Half of WATCHi (Table 22.5), reserved bits zero. -/
def Watch.write (w : Watch) (high : Bool) (value : DWord) : Watch :=
  if high then { w with hi := value &&& 0xFFFFFF#64 } else { w with lo := value &&& 0xFFFFFFFFFFFF000F#64 }

/-- A change of firmware to an interface; in ERROR every one is refused (Table 22.2). -/
def State.change (s : State) (vif : Nat) (f : Vif → Vif) : State :=
  if ((s.vif? vif).map (fun v => v.tdisp == .error)).getD false then s.send (.refusedChange vif) else s.modVif vif f

/-- A change of firmware to a locked item (R368). -/
def State.changeItem (s : State) (vif : Nat) (f : State → State) : State :=
  match s.vif? vif with
  | none => s
  | some v => if v.tdisp.guarded then s.send (.refusedChange vif) else f s

/-- A change of firmware to a locked item of a queue. -/
def State.changeQueue (s : State) (qid : Nat) (f : Queue → Queue) : State :=
  match s.queue? qid with
  | none => s
  | some q => s.changeItem q.vif (fun s => s.modQueue qid f)

/-- Firmware binds a new queue to a free slot. A queue number or slot in use is refused (DESIGN CHOICE, notes/assumptions/48.md). -/
def State.bindQueue (s : State) (vif : Nat) (d : QueueDef) : State :=
  s.changeItem vif (fun s =>
    if 256 ≤ d.slot || s.queues.any (fun q => q.qid == d.qid || (q.vif == vif && q.slot == d.slot)) then s.send (.refusedChange vif)
    else
      match s.vif? vif with
      | none => s
      | some v => ({ s with queues := s.queues ++ [Queue.created vif d] } : State).zeroStatus v (Queue.created vif d))

/-- Firmware takes a slot binding back. A queue with a launch or a completion entry left is refused (DESIGN CHOICE,
notes/assumptions/48.md). -/
def State.unbindQueue (s : State) (qid : Nat) : State :=
  match s.queue? qid with
  | none => s
  | some q => s.changeItem q.vif (fun s =>
      if !q.compl.isEmpty || s.launches.any (fun l => l.qid == qid && l.phase != .over) then s.send (.refusedChange q.vif)
      else { s with queues := s.queues.filter (fun x => x.qid != qid) })

/-- Store a register's value; one out of the register's range is not taken, a read-only register ignores the write (R7). A base of the
hypervisor's ring that is no multiple of 4,096 loses its low 12 bits, as FRBASE does (DESIGN CHOICE, notes/assumptions/43.md). -/
def State.writeRegister (s : State) (r : RegName) (value : DWord) : State :=
  let n := value.toNat
  match r with
  | .kickPage vif off size => (match s.vif? vif with
    | some v => s.kickPageWrite v off size n
    | none => s)
  | .window vif off size =>
    if (size = 4 ∨ size = 8) ∧ off % size = 0 ∧ off < 65536 then
      s.modVif vif (fun v => { v with window := v.window.putBytes off (leBytes n size) })
    else s
  | .hypRingBase vif => s.change vif (fun v => { v with hbase := n / 4096 * 4096 })
  | .hypRingLog vif => if 12 < n then s else s.change vif (fun v => { v with hlog := n })
  | .hypRingHead vif => s.change vif (fun v => { v with hhead := n % 2 ^ 32 })
  | .injector part k => s.modPart part (fun p => { p with inj := p.inj.write k value })
  | .msixControl vif => (s.modVif vif (fun v => { v with msixMask := value.getLsbD 14, msixOn := value.getLsbD 15 })).flushMsix vif
  | .config vif off size =>
    if (size = 4 ∨ size = 8) ∧ off % size = 0 ∧ off < 4096 then
      s.modVif vif (fun v => { v with config := v.config.putBytes off (leBytes n size) })
    else s
  | .bindQueue vif d => s.bindQueue vif d
  | .unbindQueue qid => s.unbindQueue qid
  | .qcbAddress qid => s.changeQueue qid (fun q => { q with qcb := n })
  | .qcbShadow qid shadow => s.changeQueue qid (fun q => { q with shadow := exactly 32 shadow })
  | .queueVector qid => if n < 256 then s.changeQueue qid (fun q => { q with vector := n }) else s
  | .faultVector vif => if n < 256 then s.changeItem vif (fun s => s.modVif vif (fun v => { v with faultVector := n })) else s
  | .keyDomain vif => if n < 64 then s.changeItem vif (fun s => s.modVif vif (fun v => { v with kdom := n })) else s
  | .partition vif => if n < 256 then s.changeItem vif (fun s => s.modVif vif (fun v => { v with part := n })) else s
  | .watch part i high =>
    if s.partGuarded part then s.vifs.foldl (fun s v => if v.part = part ∧ v.tdisp.guarded then s.send (.refusedChange v.no) else s) s
    else s.modPart part (fun p => { p with watch := p.watch.mapIdx (fun k w => if k = i then w.write high value else w) })
  | .logReader part =>
    if s.vifs.any (fun v => v.part == part && v.no == n && v.tdisp == .error) then s.send (.refusedChange n)
    else s.modPart part (fun p => { p with logReader := n })
  | .swapw part => if 1024 ≤ n ∧ n ≤ 2 ^ 24 then s.modPart part (fun p => { p with swapw := n }) else s
  | .rgw part => if 4 ≤ n ∧ n ≤ 16 then s.modPart part (fun p => { p with rgw := n }) else s
  | .gref k => { s with hbms := updateWhere (fun (x : Stack) => x.no == k && decide (n + x.href ≤ 16000)) (fun x => { x with gref := n }) s.hbms }
  | .href k => { s with hbms := updateWhere (fun (x : Stack) => x.no == k && decide (n + x.gref ≤ 16000)) (fun x => { x with href := n }) s.hbms }
  | .gal k => { s with ports := updateWhere (fun (x : Port) => x.no == k && decide (n + x.hal ≤ 800)) (fun x => { x with gal := n }) s.ports }
  | .hal k => { s with ports := updateWhere (fun (x : Port) => x.no == k && decide (n + x.gal ≤ 800)) (fun x => { x with hal := n }) s.ports }
  | .suspt g => if 2 ^ 16 ≤ n ∧ n ≤ 2 ^ 31 then s.modMGroup g (fun m => { m with suspt := n }) else s
  | .claim c =>
    if n = 0 ∨ n = 2 ∨ n = 4 then (s.modCluster c (fun k => { k with claim := n })).post (.boostClaim c) else s
  | .larderSlots => if n ≤ 1024 then { s with larderSlots := n } else s
  | .attic die => s.modDie die (fun d => { d with attic := n })
  | .atticBase die => s.modDie die (fun d => { d with atticAt := n / 128 * 128 % 2 ^ 39 })
  | .migration vif off size => (match s.vif? vif with
    | some v => s.migPageWrite v off size n
    | none => s)
  | .wrstat _ | .errorRecord _ | .hypRingTail _ => s
  | .granted lid cores => s.modLaunch lid (fun l => if l.placed then l else { l with grants := cores })
  | .reserve core stripes gidx slots accPairs => s.modCore core (fun c => { c with reserve := ⟨stripes, gidx, slots, accPairs⟩ })
  | .queueDisabled qid =>
    match s.queue? qid with
    | none => s
    | some q =>
      if ((s.vif? q.vif).map (fun v => v.tdisp.guarded)).getD false then s.send (.refusedChange q.vif)
      else s.modQueue qid (fun q => { q with disabled := value.getLsbD 0 })

def execRegisterWrite (r : RegName) (value : DWord) (s : State) : Host.Outcome State Fault Refusal := .next (s.writeRegister r value)

/-! ## Key domains (R373) -/

/-- Hearth loads a domain's keys once memory has been zeroed (R418); a domain that held keys is scrubbed first, and one that a queue
is bound to is refused. -/
def execKeyDomainLoad (kdom key : Nat) (s : State) : Host.Outcome State Fault Refusal :=
  .next (
    let bound := s.queues.filter (fun q => fieldLE q.shadow 3 1 == kdom)
    if !bound.isEmpty then bound.foldl (fun s q => s.send (.refusedChange q.vif)) s
    else if s.hearth.step < 5 || 64 ≤ kdom then s
    else
      let d : ScrubDef := { reason := 2, vif := 0, part := 0, kdom := kdom, ranges := [], ipa := 0 }
      let s := if s.kdoms.any (fun k => k.no == kdom && k.loaded) then (s.scrub d).1.sendReceipt d (s.scrub d).2 else s
      { s with kdoms := s.kdoms.filter (fun k => k.no != kdom) ++ [{ no := kdom, loaded := true, key := key, scrubbed := false }] })

end Sys2Proof.Machine
end

