-- ==== Sys2Proof/Machine/Migrate.lean ====
section
/-!
DEFINITION. Migration of an interface (R370 to R372): the commands of MIGCMD, the automatic step to stopped, and the chunks of the data
window. The layout of a section's own bytes is the model's (notes/assumptions/19.md): each begins with its length.
-/
namespace Sys2Proof.Machine

/-! ## Sections at the source (Table 22.3a) -/

/-- An optional number: a flag byte and 8 bytes. -/
def optBytes (o : Option Nat) : List Byte := leBytes (if o.isSome then 1 else 0) 1 ++ leBytes (o.getD 0) 8

def State.vifQueues (s : State) (vif : Nat) : List Queue := s.queues.filter (fun q => q.vif == vif)

def State.vifFrames (s : State) (vif : Nat) : List Frame :=
  s.frames.filter (fun f => ((s.launch? f.cohort.ref.lid).map (fun l => l.vif == vif)).getD false)

def FaultRec.migBytes (r : FaultRec) : List Byte :=
  leBytes r.kind 1 ++ leBytes r.acc.toNat 1 ++ leBytes r.agent 1 ++ leBytes (if r.classH then 1 else 0) 1 ++ leBytes r.level 1 ++ leBytes r.slot 1 ++
    leBytes r.gid 2 ++ leBytes r.page 8 ++ leBytes r.va 8 ++ leBytes r.ipa 8 ++ leBytes r.lid 4 ++ leBytes r.cid 4 ++
    leBytes r.lanes.toNat 2 ++ leBytes r.pte.toNat 8 ++ leBytes r.nlost 4 ++ leBytes r.s2gen.toNat 2 ++ optBytes r.seq ++ leBytes r.engine 1

/-- What a queue waits for, as a number. -/
def QueueUse.code : QueueUse → Nat
  | .kick => 0
  | .record => 1
  | .entry => 2
  | .head => 3

/-- What a queue waits for, from its number. -/
def queueUseOf (n : Nat) : QueueUse := if n = 0 then .kick else if n = 1 then .record else if n = 2 then .entry else .head

/-- A waiter that a migration carries, a queue by its slot: the slots of frames find their record again when they are reissued (R335). -/
def State.waiterBytes (s : State) (w : Waiter) : List Byte :=
  match w with
  | .queue qid use => leBytes (1 + 16 * use.code) 1 ++ leBytes (((s.queue? qid).map (fun q => q.slot)).getD 0) 8
  | .device vif => leBytes 2 1 ++ leBytes vif 8
  | _ => leBytes 0 1 ++ leBytes 0 8

def Larder.migBytes (l : Larder) : List Byte :=
  leBytes l.page 8 ++ leBytes l.kdom 1 ++ leBytes l.bytes.length 4 ++ l.bytes.flatMap (fun b => leBytes b.1 4 ++ [b.2])

/-! The launches of an interface's frames, as 32-byte numbers: the spec names the frames alone, which the destination could not restore
without them (DESIGN CHOICE, notes/assumptions/19.md). A queue is named by its slot. -/

def numBytes (ns : List Nat) : List Byte := leBytes ns.length 4 ++ ns.flatMap (fun n => leBytes n 32)

/-- A list of rows, its length first. -/
def rowNums (rows : List (List Nat)) : List Nat := rows.length :: rows.flatten

def flag (b : Bool) : Nat := if b then 1 else 0

/-- The tiles that the dispensers still hold of a launch. -/
def State.launchTiles (s : State) (lid : Nat) : List (List Nat) :=
  s.clusters.flatMap (fun k => (k.ranges.filter (fun t => t.lid == lid)).map (fun t => [t.lo, t.hi]))

/-- The requests that wait at dispensers. -/
def State.launchWaits (s : State) (lid : Nat) : List (List Nat) :=
  s.clusters.flatMap (fun k => (k.waiting.filter (fun w => w.g.lid == lid)).map (fun w => [w.g.cid, w.g.gid, w.n, w.dst]))

/-- A launch as numbers: 30 of its own, then its lists. -/
def State.launchNums (s : State) (slot : Nat) (l : Launch) : List Nat :=
  [l.lid, slot, l.part, l.kdom, flag l.classH, l.idx, l.tag, l.entry.toNat, l.tilesX, l.tilesY, l.tilesZ, l.blk, l.cores, l.grp, l.breg, l.xreg,
    l.scr, l.acc, flag l.chk, flag l.trs, flag l.ser, l.budget, flag (l.phase == .waiting), flag l.placed, l.bound, l.retired, l.cring, l.clog, 0, 0] ++
    rowNums (l.handles.map (fun h => [h.toNat])) ++ rowNums (l.sysMarks.map (fun m => [m.1, m.2])) ++
    rowNums (l.bands.map (fun b => [b.band, b.maxm, b.soff, b.hold])) ++ rowNums (l.mismatchCores.map (fun c => [c])) ++
    rowNums (l.grants.map (fun g => [g.1, g.2])) ++ rowNums (s.launchTiles l.lid) ++ rowNums (s.launchWaits l.lid)

/-- The launches of an interface that are not over. -/
def State.launchBytes (s : State) (vif : Nat) : List Byte :=
  let ls := s.launches.filter (fun l => l.vif == vif && l.phase != .over)
  leBytes ls.length 4 ++ ls.flatMap (fun l => numBytes (s.launchNums (((s.queue? l.qid).map (fun q => q.slot)).getD 0) l))

/-- What a queue holds besides its indices: QUOTA in use, and the completion entries that wait. -/
def Queue.restNums (q : Queue) : List Nat :=
  q.quotaUsed :: rowNums (q.compl.map (fun e => [e.cring, e.clog, e.idx, e.stat, e.code, e.left, e.tag, e.tpc.toNat, e.taddr.toNat]))

/-- A held kick (0), or one that has reached its queue (1; 2 where it is ignored). -/
def kickBytes (kind slot : Nat) (value : DWord) : List Byte := leBytes kind 1 ++ leBytes slot 2 ++ leBytes value.toNat 8

/-- The contents of a section. -/
def State.section (s : State) (v : Vif) (sec : Nat) : List Byte :=
  let qs := s.vifQueues v.no
  match sec with
  | 1 => leBytes v.part 1 ++ leBytes v.kdom 1 ++ leBytes v.faultVector 2 ++ leBytes qs.length 4 ++
      qs.flatMap (fun q => leBytes q.slot 2 ++ leBytes q.vector 2 ++ leBytes (if q.disabled then 1 else 0) 1)
  | 2 => qs.flatMap (fun q => leBytes q.qcb 8 ++ exactly 32 q.shadow)
  | 3 => v.msix.bytes 0 4096
  | 4 => leBytes v.flistReg 8 ++ leBytes v.fnum 4 ++ leBytes v.flow 4 ++ v.pool.list.flatMap (fun f => leBytes f 8)
  | 5 => s.launchBytes v.no ++ qs.flatMap (fun q => numBytes q.restNums) ++ leBytes (s.vifFrames v.no).length 4 ++
      (s.vifFrames v.no).flatMap (fun f => let bs := s.frameToBytes f; leBytes f.pa 8 ++ leBytes bs.length 4 ++ bs) ++
      v.pool.used.flatMap (fun f => leBytes f.ipa 8 ++ optBytes f.page ++ optBytes (f.saved.map (fun e => e.toNat)))
  | 6 => qs.flatMap (fun q => leBytes q.head 4 ++ leBytes q.tail 4 ++ leBytes q.ctail 4) ++ leBytes v.ftail 4 ++ leBytes v.fhead 4 ++
      leBytes v.ftail 4 ++ leBytes v.pool.fstat 8
  | 7 => qs.flatMap (fun q => q.kicks.flatMap (fun k => kickBytes (if k.2 then 2 else 1) q.slot k.1)) ++
      v.heldKicks.flatMap (fun k => kickBytes 0 k.1 k.2)
  | _ =>
    let rs := s.recs.filter (fun r => r.vif == v.no)
    leBytes rs.length 4 ++
      rs.flatMap (fun r => r.migBytes ++ leBytes r.waiters.length 4 ++ r.waiters.flatMap s.waiterBytes) ++
      (s.larder.filter (fun l => l.vif == v.no)).flatMap Larder.migBytes

/-- Data bytes of a chunk at most. -/
def chunkMax : Nat := 65504

/-- A section cut into chunks, from OFF 0 upward; its length stands before it. -/
def chunksOf (sec : Nat) (bs : List Byte) : List Chunk :=
  let bs := leBytes bs.length 8 ++ bs
  (List.range ((bs.length + chunkMax - 1) / chunkMax)).map (fun k => ⟨sec, chunkMax * k, (bs.drop (chunkMax * k)).take chunkMax⟩)

/-- Bytes 0x00 to 0x17 of a chunk. -/
def Chunk.head (c : Chunk) (seq : Nat) : List Byte :=
  leBytes seq 4 ++ leBytes c.sec 2 ++ leBytes 0 2 ++ leBytes c.data.length 4 ++ leBytes 0 4 ++ leBytes c.off 8

/-- A chunk as it stands in the window. -/
def Chunk.toBytes (c : Chunk) (vif seq : Nat) : List Byte :=
  c.head seq ++ leBytes (Config.migrationTag vif (c.head seq ++ c.data)).toNat 8 ++ c.data

/-- The device places the next chunk, when the window is free and one is left. -/
def Vif.place (v : Vif) : Vif :=
  match v.migFull, v.chunks with
  | false, c :: _ => { v with window := v.window.putBytes 0 (c.toBytes v.no v.migNext), migFull := true, migNext := v.migNext + 1 }
  | _, _ => v

/-! ## Commands of MIGCMD (R370, R372) -/

/-- A command of MIGCMD: a locked interface refuses it; one that the state does not allow sets BADC. -/
def State.migCmd (s : State) (vif : Nat) (ok : Vif → Bool) (f : Vif → State → State) : State :=
  match s.vif? vif with
  | none => s
  | some v =>
    if v.tdisp = .locked ∨ v.tdisp = .run then s.send (.refusedChange vif)
    else
      let s := s.modVif vif (fun v => { v with migRef := false, migMiss := false, migBadc := !ok v })
      if ok v then f v s else s

/-- The window starts with the stable sections. -/
def execPrecopy (vif : Nat) (s : State) : Host.Outcome State Fault Refusal :=
  .next (s.migCmd vif (fun v => v.mig == .running) (fun v s =>
    let cs := [1, 2, 3, 4].flatMap (fun k => chunksOf k (s.section v k))
    s.modVif vif (fun v =>
      ({ v with mig := .precopy, chunks := cs, migNext := 0, migFull := false, migEnd := false } : Vif).place)))

/-- Cohorts of an interface on cores. -/
def State.vifCohorts (s : State) (vif : Nat) : List Cohort :=
  s.cohorts.filter (fun c => ((s.launch? c.ref.lid).map (fun l => l.vif == vif)).getD false)

def execStop (vif : Nat) (s : State) : Host.Outcome State Fault Refusal :=
  .next (s.migCmd vif (fun v => v.mig == .precopy) (fun _ s =>
    let s := s.modVif vif (fun v => { v with mig := .stopping })
    ((s.vifCohorts vif).foldl (fun s c => s.forceSave c 2) s).post (.migrationStopped vif)))

/-- An access or a fill of a saved cohort is still on its way: its frame is not whole (DESIGN CHOICE, notes/assumptions/19.md). -/
def State.unsettled (s : State) (c : Cohort) : Bool :=
  c.groups.any (fun x => !x.fills.isEmpty || x.accs.any (fun a => !(s.stays c x a)))

/-- Stopped, once no cohort is resident and no command is outstanding: the volatile sections follow. -/
def execMigrationStopped (vif : Nat) (s : State) : Host.Outcome State Fault Refusal :=
  .next (match s.vif? vif with
    | none => s
    | some v =>
      if v.mig ≠ .stopping || !(s.vifCohorts vif).isEmpty || s.cmds.any (fun k => k.vif == vif) ||
          (s.vifFrames vif).any (fun f => !f.mapDirty.isEmpty || s.unsettled f.cohort) then s
      else
        let cs := [5, 6, 7, 8].flatMap (fun k => chunksOf k (s.section v k))
        s.modVif vif (fun v => ({ v with mig := .stopped, chunks := v.chunks ++ cs } : Vif).place))

/-- At the destination, chunks are taken in from the first on. -/
def execResume (vif : Nat) (s : State) : Host.Outcome State Fault Refusal :=
  .next (s.migCmd vif (fun v => v.mig == .stopped && v.dest) (fun _ s =>
    s.modVif vif (fun v => { v with mig := .resuming, chunks := [], migNext := 0, migFull := false })))

/-- Running again: the held kicks are acted on in order, and records may be taken. -/
def State.runVif (s : State) (vif : Nat) : State :=
  let held := ((s.vif? vif).map (fun v => v.heldKicks)).getD []
  let s := s.modVif vif (fun v => { v with mig := .running, heldKicks := [], chunks := [], migFull := false, migEnd := false, dest := false })
  (held.foldl (fun s k => s.kickIn vif k.1 k.2) s).retry

def execAbort (vif : Nat) (s : State) : Host.Outcome State Fault Refusal :=
  .next (s.migCmd vif (fun v => v.mig == .stopped) (fun _ s => s.runVif vif))

/-! ## Chunks -/

/-- Firmware has read chunk `seq` at the source: the next one is placed. -/
def execMigackSource (vif seq : Nat) (s : State) : Host.Outcome State Fault Refusal :=
  .next (s.modVif vif (fun v =>
    let here := v.mig == .precopy || v.mig == .stopping || (v.mig == .stopped && !v.dest)
    if here && v.migFull && seq + 1 == v.migNext then
      let last := (v.chunks.head?.map (fun c => c.sec == 8)).getD false && (v.chunks.drop 1).isEmpty
      ({ v with chunks := v.chunks.drop 1, migFull := false, migEnd := v.migEnd || last } : Vif).place
    else v))

/-- The data of a section that a destination has taken in. -/
def Vif.taken (v : Vif) (sec : Nat) : List Byte := (v.chunks.filter (fun c => c.sec == sec)).flatMap (fun c => c.data)

/-- A section has all its bytes. -/
def Vif.whole (v : Vif) (sec : Nat) : Bool :=
  let bs := v.taken sec
  8 ≤ bs.length && bs.length == 8 + fieldLE bs 0 8

/-- Where the next chunk of a destination starts: section and OFF. -/
def Vif.expects (v : Vif) : Nat × Nat :=
  match (List.range 9).find? (fun k => 1 ≤ k && !v.whole k) with
  | some k => (k, (v.taken k).length)
  | none => (9, 0)

/-- Firmware has written chunk `seq` into the window of a destination: it is checked and taken in, or refused. -/
def execMigackDestination (vif seq : Nat) (s : State) : Host.Outcome State Fault Refusal :=
  .next (s.modVif vif (fun v =>
    if v.mig ≠ .resuming then v
    else
      let v := { v with migRef := false, migBadc := false, migMiss := false }
      let f (off n : Nat) : Nat := v.window.nat off n
      let data := v.window.bytes 32 (min (f 8 4) chunkMax)
      let good := f 0 4 == seq && seq == v.migNext && f 8 4 ≤ chunkMax && (f 4 2, f 0x10 8) == v.expects &&
        w64 (f 0x18 8) == Config.migrationTag v.no (v.window.bytes 0 24 ++ data)
      if good then { v with chunks := v.chunks ++ [⟨f 4 2, f 0x10 8, data⟩], migNext := v.migNext + 1 }
      else { v with migRef := true }))

/-! ## The destination takes over (FINISH) -/

/-- Items of n bytes. -/
def itemsOf (n : Nat) (bs : List Byte) : List (List Byte) := (List.range (bs.length / n)).map (fun k => (bs.drop (n * k)).take n)

/-- An optional number back from its bytes. -/
def optOf (bs : List Byte) (off : Nat) : Option Nat := if fieldLE bs off 1 = 0 then none else some (fieldLE bs (off + 1) 8)

/-- Numbers of a block, and what follows it. -/
def takeNums (bs : List Byte) : List Nat × List Byte :=
  let n := fieldLE bs 0 4
  ((itemsOf 32 ((bs.drop 4).take (32 * n))).map (fun b => fieldLE b 0 32), bs.drop (4 + 32 * n))

/-- Rows of w numbers, and what follows them. -/
def takeRows (w : Nat) (ns : List Nat) : List (List Nat) × List Nat :=
  let n := ns.headD 0
  ((List.range n).map (fun k => (ns.drop (1 + w * k)).take w), ns.drop (1 + w * n))

/-- Queues of sections 1, 2 and 6. A slot bound at the destination keeps its queue number. No queue is created anew: STATUS in guest
memory stays as it has come (DESIGN CHOICE, notes/assumptions/19.md). -/
def State.takeQueues (s : State) (v : Vif) (b1 b2 b6 : List Byte) : State :=
  let old := s.vifQueues v.no
  let n := fieldLE b1 4 4
  let one (k : Nat) : Queue :=
    let b := (b1.drop (8 + 5 * k)).take 5
    let slot := fieldLE b 0 2
    let qid := ((old.find? (fun q => q.slot == slot)).map (fun q => q.qid)).getD (s.nextId + k)
    { Queue.created v.no { qid := qid, slot := slot, qcb := fieldLE b2 (40 * k) 8, shadow := (b2.drop (40 * k + 8)).take 32,
                           disabled := fieldLE b 4 1 == 1, vector := fieldLE b 2 2 } with
      cleared := true, reread := true, head := fieldLE b6 (12 * k) 4, tail := fieldLE b6 (12 * k + 4) 4, ctail := fieldLE b6 (12 * k + 8) 4 }
  { s with nextId := s.nextId + n
           queues := s.queues.filter (fun q => q.vif != v.no) ++ (List.range n).map one }

/-- A launch of section 5 under the number `lid`, with its tiles and the requests that wait for one at the first cluster of its partition. -/
def State.takeLaunch (s : State) (vif lid : Nat) (ns : List Nat) : State :=
  let f (k : Nat) : Nat := ns.getD k 0
  let (handles, ns) := takeRows 1 (ns.drop 30)
  let (marks, ns) := takeRows 2 ns
  let (bands, ns) := takeRows 4 ns
  let (bad, ns) := takeRows 1 ns
  let (grants, ns) := takeRows 2 ns
  let (tiles, ns) := takeRows 2 ns
  let (waits, _) := takeRows 4 ns
  let at_ (r : List Nat) (k : Nat) : Nat := r.getD k 0
  let qid := (((s.vifQueues vif).find? (fun q => q.slot == f 1)).map (fun q => q.qid)).getD 0
  let l : Launch :=
    { lid := lid, qid := qid, vif := vif, part := f 2, kdom := f 3, classH := f 4 == 1, idx := f 5, tag := f 6, entry := w64 (f 7),
      handles := handles.map (fun r => BitVec.ofNat 256 (at_ r 0)), sysMarks := marks.map (fun r => (at_ r 0, at_ r 1)),
      bands := bands.map (fun r => { band := at_ r 0, maxm := at_ r 1, soff := at_ r 2, hold := at_ r 3 }),
      tilesX := f 8, tilesY := f 9, tilesZ := f 10, blk := f 11, cores := f 12, grp := f 13, breg := f 14, xreg := f 15, scr := f 16, acc := f 17,
      chk := f 18 == 1, trs := f 19 == 1, ser := f 20 == 1, budget := f 21, parent := none, parentLid := none,
      phase := if f 22 = 1 then .waiting else .running, placed := f 23 == 1, bound := f 24, retired := f 25,
      mismatchCores := bad.map (fun r => at_ r 0), grants := grants.map (fun r => (at_ r 0, at_ r 1)), spatial := [], cring := f 26, clog := f 27 }
  let s : State := { s with launches := s.launches ++ [l] }
  match (s.part? l.part).bind (fun p => minNat? p.clusters) with
  | none => s
  | some k => s.modCluster k (fun c => { c with
      ranges := c.ranges ++ tiles.map (fun r => { lid := lid, lo := at_ r 0, hi := at_ r 1 })
      waiting := c.waiting ++ waits.map (fun r => { g := ⟨lid, at_ r 0, at_ r 1⟩, n := at_ r 2, dst := at_ r 3 }) })

/-- Launches of section 5: n of them take new numbers here; (old, new) pairs, and the rest of the section. -/
def State.takeLaunches (s : State) (vif : Nat) : Nat → List Byte → State × List (Nat × Nat) × List Byte
  | 0, bs => (s, [], bs)
  | n + 1, bs =>
    let (ns, rest) := takeNums bs
    let lid := s.nextId
    let (s, ms, rest) := (({ s with nextId := lid + 1 } : State).takeLaunch vif lid ns).takeLaunches vif n rest
    (s, (ns.headD 0, lid) :: ms, rest)

/-- The number that a launch has here. -/
def lidHere (ms : List (Nat × Nat)) (lid : Nat) : Nat := ((ms.find? (fun p => p.1 == lid)).map (fun p => p.2)).getD lid

/-- QUOTA in use and waiting completion entries of queues, in the order of section 1; the rest of section 5 follows. -/
def State.takeQueueRests (s : State) : List Queue → List Byte → State × List Byte
  | [], bs => (s, bs)
  | q :: qs, bs =>
    let (ns, rest) := takeNums bs
    let entry (r : List Nat) : Completion :=
      let f (k : Nat) : Nat := r.getD k 0
      { cring := f 0, clog := f 1, idx := f 2, stat := f 3, code := f 4, left := f 5, tag := f 6, tpc := w64 (f 7), taddr := w64 (f 8) }
    (s.modQueue q.qid (fun q => { q with quotaUsed := ns.headD 0, compl := (takeRows 9 (ns.drop 1)).1.map entry })).takeQueueRests qs rest

/-- Frames of section 5 read from their bytes: n of them; the rest of the section follows. -/
def State.takeFrames (s : State) (vif : Nat) (ms : List (Nat × Nat)) : Nat → List Byte → State × List Byte
  | 0, bs => (s, bs)
  | n + 1, bs =>
    let len := fieldLE bs 8 4
    let f := s.frameOfBytes vif s.nextId ((bs.drop 12).take len)
    let ref : CRef := ⟨lidHere ms f.cohort.ref.lid, f.cohort.ref.cid⟩
    let f := { f with pa := fieldLE bs 0 8, kdom := ((s.launch? ref.lid).map (fun l => l.kdom)).getD 0, cohort := { f.cohort with ref := ref } }
    ({ s with nextId := s.nextId + 64, frames := s.frames ++ [f] } : State).takeFrames vif ms n (bs.drop (12 + len))

/-- A frame of the pool in use. -/
def poolFrameOf (bs : List Byte) : PoolFrame :=
  { ipa := fieldLE bs 0 8, saved := (optOf bs 17).map w64, page := optOf bs 8, pinned := false, writing := false, tries := 0 }

/-- Records of section 8: n of them. -/
def State.takeRecords (s : State) (v : Vif) (ms : List (Nat × Nat)) : Nat → List Byte → State × List Byte
  | 0, bs => (s, bs)
  | n + 1, bs =>
    let f := fieldLE bs
    let w := f 66 4
    let ws := (itemsOf 9 ((bs.drop 70).take (9 * w))).filterMap (fun b => match fieldLE b 0 1 % 16 with
      | 1 => ((s.vifQueues v.no).find? (fun q => q.slot == fieldLE b 1 8)).map (fun q => Waiter.queue q.qid (queueUseOf (fieldLE b 0 1 / 16)))
      | 2 => some (Waiter.device v.no)
      | _ => none)
    let r : FaultRec :=
      { id := s.nextId, vif := v.no, kind := f 0 1, page := f 8 8, va := f 16 8, ipa := f 24 8, acc := BitVec.ofNat 8 (f 1 1), agent := f 2 1,
        classH := f 3 1 == 1, level := f 4 1, slot := f 5 1, gid := f 6 2, lid := lidHere ms (f 32 4), cid := f 36 4, lanes := BitVec.ofNat 16 (f 40 2),
        pte := w64 (f 42 8), nlost := f 50 4, s2gen := BitVec.ofNat 16 (f 54 2), seq := optOf bs 56, waiters := ws, engine := f 65 1,
        frame := none, tries := 0, rescued := none }
    ({ s with nextId := s.nextId + 1, recs := s.recs ++ [r] } : State).takeRecords v ms n (bs.drop (70 + 9 * w))

/-- Larder slots of section 8, at most n. -/
def State.takeLarder (s : State) (vif : Nat) : Nat → List Byte → State
  | 0, _ => s
  | n + 1, bs =>
    if bs.isEmpty then s
    else
      let k := fieldLE bs 9 4
      let page := fieldLE bs 0 8
      let rec_ := ((s.recs.find? (fun r => r.vif == vif && r.page == page)).map (fun r => r.id)).getD 0
      let bytes := (itemsOf 5 ((bs.drop 13).take (5 * k))).map (fun b => (fieldLE b 0 4, b.getD 4 0))
      ({ s with larder := s.larder ++ [{ vif := vif, page := page, kdom := fieldLE bs 8 1, recId := rec_, bytes := bytes }] } : State).takeLarder vif n
        (bs.drop (13 + 5 * k))

/-- Everything that the eight sections carry. -/
def State.takeSections (s : State) (v : Vif) : State :=
  let b (k : Nat) : List Byte := (v.taken k).drop 8
  let n := fieldLE (b 1) 4 4
  let s := s.takeQueues v (b 1) (b 2) (b 6)
  let (s, ms, r5) := s.takeLaunches v.no (fieldLE (b 5) 0 4) ((b 5).drop 4)
  let (s, r5) := s.takeQueueRests (s.vifQueues v.no) r5
  let (s, pool) := s.takeFrames v.no ms (fieldLE r5 0 4) (r5.drop 4)
  let used := (itemsOf 26 pool).map poolFrameOf
  let list := (itemsOf 8 ((b 4).drop 16)).map (fun x => fieldLE x 0 8)
  let r6 := (b 6).drop (12 * n)
  let fstat := fieldLE r6 12 8
  let kicks := (itemsOf 11 (b 7)).map (fun x => (fieldLE x 0 1, fieldLE x 1 2, w64 (fieldLE x 3 8)))
  let s := s.modVif v.no (fun v =>
    { v with
      part := fieldLE (b 1) 0 1
      kdom := fieldLE (b 1) 1 1
      faultVector := fieldLE (b 1) 2 2
      msix := Memory.putBytes [] 0 (b 3)
      flistReg := fieldLE (b 4) 0 8
      fnum := fieldLE (b 4) 8 4
      flow := fieldLE (b 4) 12 4
      pool := { list := list, bad := bitsOf fstat 41 21
                free := ((list.filter (fun ipa => !(used.any (fun u => u.ipa == ipa)))).map
                  (fun ipa => { ipa := ipa, saved := none, page := none, pinned := false, writing := false, tries := 0 }))
                used := used, hands := [] }
      ftail := fieldLE r6 0 4
      fhead := fieldLE r6 4 4
      heldKicks := (kicks.filter (fun k => k.1 == 0)).map (fun k => (k.2.1, k.2.2)) ++ v.heldKicks })
  let s := (kicks.filter (fun k => k.1 != 0)).foldl (fun s k =>
    (((s.vifQueues v.no).filter (fun q => q.slot == k.2.1)).map (fun q => q.qid)).foldl (fun s qid =>
      s.modQueue qid (fun q => { q with kicks := q.kicks ++ [(k.2.2, k.1 == 2)] })) s) s
  let (s, rest) := s.takeRecords v ms (fieldLE (b 8) 0 4) ((b 8).drop 4)
  s.takeLarder v.no 1024 rest

/-- FINISH: with every section complete the destination runs; else MISS. -/
def execFinish (vif : Nat) (s : State) : Host.Outcome State Fault Refusal :=
  .next (s.migCmd vif (fun v => v.mig == .resuming) (fun v s =>
    if [1, 2, 3, 4, 5, 6, 7, 8].all v.whole then (s.takeSections v).runVif vif
    else s.modVif vif (fun v => { v with migMiss := true })))

end Sys2Proof.Machine
end

