-- ==== Sys2Proof/Machine/Hearth.lean ====
section
/-!
DEFINITION. Hearth (26): power and bring-up (R418, R411), measured unlock (R409, R410), the watchdog (R412), warm reset of a compute die
(R414, R415, R421), installation of images (R413) and loss of power.
-/
namespace Sys2Proof.Machine

/-! ## Power and bring-up (R418) -/

/-- The package's own HBM4. -/
def State.ownHbm (s : State) (pa : Nat) : Bool := s.local pa && paRgn pa == 0

/-- What is not the package's own HBM4 stays. -/
def State.keepOutside (s : State) : Memory := s.mem.filter (fun c => !(s.ownHbm c.1))

/-- Bring-up stops and reports an order number (R410). -/
def State.stopBringUp (s : State) (order : Nat) : State :=
  ({ s with hearth := { s.hearth with halted := some order } } : State).send (.bringUpStopped order)

/-- Power good: the flash's counter is incremented and gives the epoch; every part of the package starts fresh. -/
def execPowerGood (s : State) : Host.Outcome State Fault Refusal :=
  .next (if s.hearth.step ≠ 0 then s
    else if !s.flash.authentic then (({ s with hearth := { s.hearth with step := 2 } } : State).stopBringUp 0)
    else
      { s with
        flash := { s.flash with counter := s.flash.counter + 1 }
        hearth := { Hearth.off with step := 3, epoch := s.flash.counter + 1 }
        dies := (List.range 4).map Die.fresh
        clusters := (List.range 32).map Cluster.fresh
        cores := (List.range 384).map Core.fresh
        hbms := (List.range 32).map Stack.fresh
        ports := (List.range 18).map Port.fresh })

/-- The processors of an image (Table 26.1). -/
def processorsOf (order : Nat) : List Processor :=
  match order with
  | 1 => [.ioManagement 0, .ioManagement 1]
  | 2 => [.linkControllers]
  | 3 => (List.range 4).map .scheduling
  | 4 => (List.range 16).map .storageEngine ++ (List.range 2).map .collectiveEngine
  | 5 => (List.range 2).map .pager
  | _ => []

/-- The image of an order number on the flash. -/
def State.flashImage (s : State) (order : Nat) : List Byte := ((s.flash.images.find? (fun x => x.1 == order)).map (fun x => x.2)).getD []

/-- Append an image's digest to the measurement log. -/
def State.measure (s : State) (order : Nat) : State :=
  { s with hearth := { s.hearth with measures := s.hearth.measures ++ [Config.sha3 (s.flashImage order)] } }

/-- Steps 4 to 7 of R418: memory is zeroed under fresh keys, the links are trained. -/
def State.trainAll (s : State) : State :=
  { s with mem := s.keepOutside, sectors := s.sectors.filter (fun x => !(s.ownHbm (64 * x.no))), l2 := []
           hearth := { s.hearth with step := 8 } }

/-- The next image of Table 26.1 is read, measured, verified, and its processors are released. -/
def execImageUnlock (s : State) : Host.Outcome State Fault Refusal :=
  .next (
    let order := s.hearth.unlocked + 1
    if s.hearth.step ≠ 3 ∨ s.hearth.halted.isSome then s
    else
      let s' := s.measure order
      if !Config.imageVerifies (s.flashImage order) then s'.stopBringUp order
      else
        let s' := { s' with hearth := { s'.hearth with unlocked := order, released := s'.hearth.released ++ processorsOf order } }
        if order = 5 then s'.trainAll else s')

/-- A signed image replaces the one on the flash. -/
def execImageInstall (order : Nat) (image : List Byte) (signed : Bool) (s : State) : Host.Outcome State Fault Refusal :=
  .next (if !signed || order < 1 || 5 < order then s
    else { s with flash := { s.flash with images := s.flash.images.filter (fun x => x.1 != order) ++ [(order, image)] } })

/-- Power is removed: only what lies outside the package stays (the drives, the flash, the other memories). -/
def execPowerRemoved (s : State) : Host.Outcome State Fault Refusal :=
  .next { State.reset with
    pkg := s.pkg, mem := s.keepOutside, sectors := s.sectors.filter (fun x => !(s.ownHbm (64 * x.no))), drives := s.drives, flash := s.flash,
    sched := s.sched, inputs := s.inputs, out := s.out, fresh := s.fresh, nextId := s.nextId }

/-! ## Watchdog (R412) -/

def execHeartbeat (p : Processor) (s : State) : Host.Outcome State Fault Refusal :=
  .next (if s.hearth.released.contains p && !s.hearth.heard.contains p then
      { s with hearth := { s.hearth with heard := s.hearth.heard ++ [p] } }
    else s)

/-- DIE and UNIT of a processor. -/
def placeOf : Processor → Nat × Nat
  | .ioManagement i => (4 + i, 0)
  | .linkControllers => (4, 0)
  | .scheduling d => (d, 0)
  | .storageEngine e => (4 + e / 8, e % 8)
  | .collectiveEngine i => (4 + i, 0)
  | .pager i => (4 + i, 0)

/-- An engine is reset alone: its outstanding commands complete with status 3. -/
def State.resetEngine (s : State) (e : EngineId) : State :=
  let ids := (s.cmds.filter (fun k => k.eng == e)).map (fun k => k.id)
  ids.foldl (fun s id => (s.endCmd id 3).modCmd id (fun k => { k with coll := none })) s

/-- The images of the I/O die management processors are unlocked again. -/
def State.unlockAgain (s : State) : State :=
  let one (s : State) (order : Nat) : State :=
    let s := s.measure order
    if Config.imageVerifies (s.flashImage order) then s else s.stopBringUp order
  [1, 5].foldl one s

/-- The watchdog of a processor: a heartbeat seen in the interval restarts it; without one the processor is hung. -/
def execWatchdogExpiry (p : Processor) (s : State) : Host.Outcome State Fault Refusal :=
  .next (if !s.hearth.released.contains p then s
    else if s.hearth.heard.contains p then { s with hearth := { s.hearth with heard := s.hearth.heard.filter (fun x => x != p) } }
    else
      let die := match p with
        | .scheduling _ => true
        | _ => false
      let s := s.logError { ErrRec.zero with etype := 10, action := if die then 10 else 9, die := (placeOf p).1, unit := (placeOf p).2 }
      match p with
      | .scheduling d => s.post (.warmResetOrder d 1 true true)
      | .storageEngine e => s.resetEngine (.storage e)
      | .collectiveEngine i => s.resetEngine (.collective i)
      | .ioManagement _ | .pager _ => s.unlockAgain
      | .linkControllers => s)

/-! ## Warm reset (Table 26.2) -/

/-- A warm-reset record of a cohort. -/
def resetRec (l : Launch) (c : Cohort) (action code : Nat) : ErrRec :=
  { ErrRec.zero with etype := 9, code := code, action := action, die := dieOf c.core, unit := clusterOf c.core % 8 * 256 + c.core % 12,
                     lid := l.lid, part := l.part, kdom := l.kdom }

/-- Step 1 for one cohort: saved, or where the cores do not respond restarted from its frame or at RPC, or its launch fails. -/
def State.clearCohort (s : State) (c : Cohort) (responds : Bool) : State :=
  match s.launch? c.ref.lid with
  | none => s
  | some l =>
    let back (x : Group) : Bool := x.retired || x.r.inReg
    match c.phase, responds with
    | .restoring _, false | .arriving (some _), false => (s.evictOne c.ref).logError (resetRec l c 4 0)
    | _, true => s.clearOff c
    | _, false =>
      if c.groups.all back then (s.leaveCore c.ref 2).logError (resetRec l c 4 0)
      else (s.logError (resetRec l c 5 0x30)).failLaunch l.lid 0x30 0 0 (tcauseOf 0x30 0 0) 0

/-- Step 1: the cohorts leave, into the attic of the next die (which other die it is, firmware chooses: DESIGN CHOICE,
notes/assumptions/43.md), and the dispensers' ranges; held bind records are refused. -/
def State.emptyDie (s : State) (d : Nat) (responds : Bool) : State :=
  let first := s.nextId
  let s := (s.cohorts.filter (fun c => dieOf c.core == d)).foldl (fun s c =>
    if s.cohorts.any (fun x => x.ref == c.ref) then s.clearCohort c responds else s) s
  let s := (s.frames.filter (fun f => first ≤ f.id && f.die == d)).foldl (fun s f =>
    let other := (d + 1) % 4
    let pa := s.atticPlace other f.fbytes
    { s with frames := updateWhere (fun (x : Frame) => x.id == f.id) (fun x => { x with die := other, pa := pa }) s.frames }) s
  let here := s.cores.filter (fun k => dieOf k.no == d)
  let s := (here.flatMap (fun k => k.held)).foldl State.giveBack s
  let s := here.foldl (fun s k => s.modCore k.no (fun c => { c with held := [], spills := [] })) s
  s.evacuate d

/-- A device write-back in nobody's name. -/
def deviceReq (core : Nat) : Req := { vif := 0, part := 0, kdom := 0, classH := false, core := core }

/-- Step 3: the RDCs of the other dies write back and drop their lines homed on d. -/
def State.flushOthers (s : State) (d : Nat) : State :=
  (s.dies.filter (fun k => k.no != d)).foldl (fun s k =>
    let ls := k.rdc.filter (fun l => s.local (128 * l.line) && paDie (128 * l.line) == d)
    ls.foldl (fun s l =>
      (s.cleanRdcLine (deviceReq (96 * k.no)) k.no l).modDie k.no (fun k => { k with rdc := k.rdc.filter (fun x => x.line != l.line) })) s) s

/-- A line homed on a die of this package. -/
def State.homedOn (s : State) (d line : Nat) : Bool := s.local (128 * line) && paDie (128 * line) == d

/-- Step 4: d writes back its L1s, its RDC and its L2. -/
def State.flushDie (s : State) (d : Nat) : State :=
  let s := (s.cores.filter (fun k => dieOf k.no == d)).foldl (fun s k => s.cleanL1 (deviceReq k.no)) s
  let s := (((s.die? d).map (fun k => k.rdc)).getD []).foldl (fun s l => s.cleanRdcLine (deviceReq (96 * d)) d l) s
  { s with l2 := updateWhere (fun (l : L2Line) => s.homedOn d l.line) (fun l => { l with dirty := false }) s.l2 }

/-- Step 6: the die starts empty. -/
def State.restartDie (s : State) (d : Nat) : State :=
  let empty (k : Core) : Core :=
    if dieOf k.no = d then { k with l1 := [], locks := [], tlb := [], clauses := [], fetches := [], held := [], spills := [], ahead := [] } else k
  { s with
    l2 := s.l2.filter (fun l => !(s.homedOn d l.line))
    cores := s.cores.map empty
    clusters := updateWhere (fun (c : Cluster) => c.no / 8 == d) (fun c => { c with tlb := [], cyc := 0 }) s.clusters
    dies := updateWhere (fun (k : Die) => k.no == d) (fun k => { k with rdc := [], bands := [], bandFills := [] }) s.dies }

/-- Step 8: the die is readmitted. -/
def State.readmit (s : State) (d : Nat) : State :=
  (s.modDie d (fun k => if k.wrstep = 7 then { k with wrstep := 0, wrcnt := (k.wrcnt + 1) % 2 ^ 16 } else k)).retry

/-- What a step does, once it has been entered. -/
def State.resetStep (s : State) (d step : Nat) (responds : Bool) : State :=
  match step with
  | 1 => s.emptyDie d responds
  | 3 => s.flushOthers d
  | 4 => s.flushDie d
  | 6 => (s.measure 3).restartDie d
  | _ => s

/-- Hearth orders a warm reset and runs its steps in order; an image that fails its check stops it in step 6. -/
def execWarmResetOrder (die step : Nat) (signed responds : Bool) (s : State) : Host.Outcome State Fault Refusal :=
  .next (match s.die? die with
    | none => s
    | some k =>
      if !signed || k.wrstep + 1 ≠ step then s
      else if step = 8 then s.readmit die
      else if 8 < step then s
      else if step = 7 && !Config.imageVerifies (s.flashImage 3) then s.stopBringUp 3
      else
        let s := (s.modDie die (fun k => { k with wrstep := step })).resetStep die step responds
        s.post (.warmResetOrder die (step + 1) true responds))

def execWarmResetReadmit (die : Nat) (s : State) : Host.Outcome State Fault Refusal := .next (s.readmit die)

end Sys2Proof.Machine
end

