-- ==== Sys2Proof/Machine/Boost.lean ====
section
/-!
DEFINITION. Boost permits (R416, Tables 26.4 and 26.5) and the arbiter of the sixteen 2.4 GHz slots (R417).
-/
namespace Sys2Proof.Machine

/-! ## The arbiter (R417) -/

/-- A claim is class H when no class G cohort is resident in the cluster. -/
def State.claimH (s : State) (cluster : Nat) : Bool := !(s.cohorts.any (fun c => clusterOf c.core == cluster && !c.classH))

/-- Grant a slot to a cluster. -/
def State.grantSlot (s : State) (cluster : Nat) : State :=
  { s with boostSlots := { cluster := cluster, classH := s.claimH cluster, revoked := false } :: s.boostSlots
           boostWaiting := s.boostWaiting.filter (fun c => c != cluster)
           boostGranted := cluster :: s.boostGranted.filter (fun c => c != cluster) }

/-- How long ago a cluster was granted a slot, as a place in the list of grants; never counts as longest. -/
def State.grantAge (s : State) (cluster : Nat) : Nat := s.boostGranted.findIdx (fun c => c == cluster)

/-- The claim of a list that was granted least recently, the first of equals. -/
def State.oldestClaim (s : State) : List Nat → Option Nat
  | [] => none
  | c :: rest => match s.oldestClaim rest with
    | none => some c
    | some d => some (if s.grantAge d ≤ s.grantAge c then c else d)

/-- A free slot goes to a waiting claim: class G first, then in least-recently-granted order. -/
def State.grantFree (s : State) : State :=
  if 16 ≤ s.boostSlots.length then s
  else
    match (s.oldestClaim (s.boostWaiting.filter (fun c => !s.claimH c))).or (s.oldestClaim s.boostWaiting) with
    | some c => s.grantSlot c
    | none => s

/-- Revoke the most recently granted class H slot. -/
def revokeFirst : List BoostSlot → List BoostSlot
  | [] => []
  | b :: rest => if b.classH && !b.revoked then { b with revoked := true } :: rest else b :: revokeFirst rest

/-- While more claims of class G wait than slots are revoked, with no slot free, one more class H slot is revoked. -/
def State.revokeFor (s : State) : State :=
  let waiting := (s.boostWaiting.filter (fun c => !s.claimH c)).length
  if s.boostSlots.length < 16 || waiting ≤ (s.boostSlots.filter (fun b => b.revoked)).length then s
  else { s with boostSlots := revokeFirst s.boostSlots }

/-- A claim reaches the arbiter. -/
def State.claimSlot (s : State) (cluster : Nat) : State :=
  if s.boostSlots.any (fun b => b.cluster == cluster) then s
  else if s.boostSlots.length < 16 then s.grantSlot cluster
  else ({ s with boostWaiting := if s.boostWaiting.contains cluster then s.boostWaiting else s.boostWaiting ++ [cluster] } : State).revokeFor

def execBoostClaim (cluster : Nat) (s : State) : Host.Outcome State Fault Refusal :=
  .next (match s.cluster? cluster with
    | none => s
    | some k =>
      if k.claim = 4 then s.claimSlot cluster else { s with boostWaiting := s.boostWaiting.filter (fun c => c != cluster) })

/-! ## Interval boundaries (R416) -/

/-- Permits and the half pair after the interval that ends: +1 at the end of every second consecutive one at 2.0. -/
def Cluster.earned (k : Cluster) : Nat × Bool :=
  if k.setting ≠ 0 then (k.permits, false) else if k.half then (min 64 (k.permits + 1), false) else (k.permits, true)

/-- The first row of Table 26.4 that fits: setting and permits. -/
def nextSetting (claim setting : Nat) (held : Bool) (n : Nat) : Nat × Nat :=
  if claim = 4 ∧ held ∧ 2 ≤ n then (4, n - 2)
  else if setting = 4 then (2, n - min n 1)
  else if (claim = 2 ∨ claim = 4) ∧ 1 ≤ n then (2, n - 1)
  else (0, n)

/-- CYC cycles of an interval at a setting. -/
def intervalCycles (setting : Nat) : Nat := 10000 + 500 * setting

/-- One boundary: permits, the next setting, and the slot of a cluster that is not at 2.4. -/
def execBoostIntervalBoundary (cluster : Nat) (s : State) : Host.Outcome State Fault Refusal :=
  .next (match s.cluster? cluster with
    | none => s
    | some k =>
      let held := s.boostSlots.any (fun b => b.cluster == cluster && !b.revoked)
      let (n, half) := k.earned
      let (setting, permits) := nextSetting k.claim k.setting held n
      let s := s.modCluster cluster (fun k =>
        { k with cyc := k.cyc + intervalCycles k.setting, setting := setting, permits := permits, half := half && setting == 0 })
      if setting = 4 then s
      else
        let kept := s.boostSlots.filter (fun b => b.cluster != cluster)
        if kept.length = s.boostSlots.length then s
        else
          let s : State := { s with boostSlots := kept }
          (if k.claim = 4 then ({ s with boostWaiting := s.boostWaiting.filter (fun c => c != cluster) ++ [cluster] } : State) else s).grantFree.revokeFor)

end Sys2Proof.Machine
end

