-- ==== Sys2Proof/Machine/Control.lean ====
section
/-!
DEFINITION. The control instructions (R123 to R128), `trap` (R205) and `rett` (R207).
-/
namespace Sys2Proof.Machine

/-! ## Targets -/

/-- H + 8 × d, modulo 2^57 (R123). -/
def Ctx.target (x : Ctx) (d : Int) : DWord := va57 ((x.i.hdr.toNat : Int) + 8 * d)

/-- SExt(DISP24, 24). -/
def disp24 (d : BitVec 24) : Int := sextNat d.toNat 24

/-- A 64-bit target with bits [2:0] cleared, modulo 2^57. -/
def wordTarget (v : Nat) : DWord := va57 ((v / 8 * 8 : Nat) : Int)

/-- Specification of a control word with one source. -/
def specK (i : Instr) (o : FmtK) (ss : List SrcOp) (ds : List DstOp) : WordSpec :=
  { plainSpec i o.guard with srcs := ss, dsts := ds }

/-- A test of the present context, false without one. -/
def State.inCtx (s : State) (p : Ctx → Bool) : Bool := (s.ctx?.map p).getD false

/-- Every active lane goes to one target. -/
def toAll (lanes : Mask) (t : DWord) : List (Nat × DWord) := (maskLanes lanes).map (fun i => (i, t))

/-! ## Branches -/

/-- `bra`. One with DISP24 = 0 makes the clause an iteration of the spin detector, which counts it when the clause finishes (R101). -/
def execBra (o : FmtK) (s : State) : Out :=
  .next (s.runWord (specK (.bra o) o [] []) (fun x lanes s =>
    let s := if o.disp = 0 then s.modGroup x.ref.g (fun y =>
        y.setIssue x.ref.second ((y.issue? x.ref.second).map (fun i => { i with loops := true }))) else s
    .jump s [] (toAll lanes (x.target (disp24 o.disp)))))

/-- A pair of `brx`: inverted predicate, predicate, DISP16. -/
def pairHolds (x : Ctx) (p : BitVec 20) (lane : Nat) : Bool := x.g.r.pred (bitsOf p.toNat 18 16) lane != p.getLsbD 19

/-- The pairs that NP declares. -/
def FmtK2pairs (o : FmtK2) : List (BitVec 20) := [o.p0, o.p1, o.p2, o.p3].take (o.np.toNat + 1)

/-- `brx`: the first pair that holds (R124). -/
def execBrx (o : FmtK2) (s : State) : Out :=
  let ps := FmtK2pairs o
  .next (s.runWord { plainSpec (.brx o) o.guard with srcs := ps.map (fun p => .pred (bitsOf p.toNat 18 16)) }
    (fun x lanes s =>
      .jump s [] ((maskLanes lanes).filterMap (fun i => (ps.find? (fun p => pairHolds x p i)).map (fun p =>
        (i, x.target (sextNat p.toNat 16)))))))

/-- `call`: the link pair takes F. -/
def execCall (o : FmtK) (s : State) : Out :=
  .next (s.runWord (specK (.call o) o [] [dst o.dst 2]) (fun x lanes s =>
    let s := s.modGroup x.ref.g (fun y => (maskLanes lanes).foldl (fun y i =>
      y.put (x.active o.guard) o.dst.toNat i (wordsOf x.i.fall.toNat 2)) y)
    .jump s [] (toAll lanes (x.target (disp24 o.disp)))))

/-- `ret`: the lane's pair. -/
def execRet (o : FmtK) (s : State) : Out :=
  .next (s.runWord (specK (.ret o) o [srcPair o.sa o.ea] []) (fun x lanes s =>
    .jump s [] ((maskLanes lanes).map (fun i => (i, wordTarget (x.valN o.sa 2 i))))))

/-- `jmpi`: indexed by the lane's signed a. -/
def execJmpi (o : FmtK) (s : State) : Out :=
  .next (s.runWord (specK (.jmpi o) o [src o.sa o.ea] []) (fun x lanes s =>
    .jump s [] ((maskLanes lanes).map (fun i => (i, x.target (disp24 o.disp + sextNat (x.val o.sa i) 32))))))

/-! ## Rejoin, kill, exit -/

/-- `rejoin`: the active lanes take tokens and stand at the word; the clause's end evaluates (R125). -/
def execRejoin (o : FmtK) (s : State) : Out :=
  .next (s.runWord (specK (.rejoin o) o [src o.sa o.ea] []) (fun x lanes s =>
    let s := s.modRegs x.ref.g (fun r => r.modLanes lanes (fun i l =>
      { l with tok := some ⟨x.i.wordPc, BitVec.ofNat 16 (x.val o.sa i)⟩ }))
    .jump s [] (toAll lanes x.i.wordPc)))

/-- `kill`: the OR of the masks of the active lanes (R128). The word that the other issue set issues in this cycle completes. -/
def execKill (o : FmtK) (s : State) : Out :=
  .next (s.runWord (specK (.kill o) o [src o.sa o.ea] []) (fun x lanes s =>
    let m := (maskLanes lanes).foldl (fun m i => m ||| BitVec.ofNat 16 (x.val o.sa i)) 0
    let wait := m &&& x.g.sameCycle x.ref.second
    let s := s.modGroup x.ref.g (fun y => { y with run2 := y.run2.map (fun i => { i with dying := i.dying ||| wait }) })
    .jump (s.modRegs x.ref.g (fun r => r.removeLanes (m &&& ~~~wait))) [] []))

/-- `exit`: the active lanes leave (R127). -/
def execExit (o : FmtK) (s : State) : Out :=
  .next (s.runWord (specK (.exit o) o [] []) (fun x lanes s =>
    .jump (s.modRegs x.ref.g (fun r => r.removeLanes lanes)) [] []))

/-! ## Traps -/

/-- `trap k`: each active lane takes trap 0x3F with INFO k and resumes at F (R205). -/
def execTrap (o : FmtK) (s : State) : Out :=
  .next (s.runWord (specK (.trap o) o [] []) (fun _ lanes s =>
    .jump s ((maskLanes lanes).map (fun i => ⟨i, 0x3F, o.disp.toNat % 256⟩)) []))

/-- Word number n of a body is the second word of a `brx` (R56). -/
def secondWord : List DWord → Nat → Bool
  | [], _ => false
  | [_], _ => false
  | w :: x :: rest, n =>
    if wordOpc w == 0xD1 then n == 1 || (2 ≤ n && secondWord rest (n - 2)) else 1 ≤ n && secondWord (x :: rest) (n - 1)

/-- The header of the clause that an address lies in, as far as the slot's clause buffer shows it; an address in none of
its clauses, or of the second word of a `brx`, which is never decoded (R90), is taken as a header (R100, R207; DEDUCED,
notes/assumptions/21.md). -/
def Core.headerAt (c : Core) (slot vif : Nat) (pc : DWord) : DWord :=
  let mine := c.clauses.filter (fun (k : Clause) => k.slot == slot && k.vif == vif)
  if mine.any (fun k => k.pc == pc) then pc
  else match mine.find? (fun k => decide (k.pc.toNat < pc.toNat ∧ pc.toNat ≤ k.pc.toNat + 8 * k.words.length) &&
      !secondWord k.words ((pc.toNat - k.pc.toNat) / 8 - 1)) with
    | some k => k.pc
    | none => pc

/-- A handler lane returns, to its saved resume PC or another; a lane whose resume PC changes loses its token. -/
def Lane.returnTo (l : Lane) (to? : Option (DWord × DWord)) : Lane :=
  match to? with
  | none => l
  | some (pc, hdr) => if pc = l.resumePc then l else { l with resumePc := pc, resumeHdr := hdr, tok := none }

/-- `rett`: the lane waits for the other handler lanes; the clause's end makes the return (R207). Outside a handler it
raises trap 0x04. -/
def execRett (o : FmtK) (s : State) : Out :=
  let reg := o.fx.getLsbD 0
  .next (s.runWord { specK (.rett o) o (if reg then [srcPair o.sa o.ea] else []) [] with
      priv := s.inCtx (fun x => !x.g.r.inTrap) } (fun x lanes s =>
    let place (i : Nat) : DWord × DWord :=
      let pc := wordTarget (x.valN o.sa 2 i)
      (pc, ((s.core? x.c.core).map (fun k => k.headerAt (x.g.gidx % 4) x.l.vif pc)).getD pc)
    let s := s.modRegs x.ref.g (fun r =>
      { r.modLanes lanes (fun i l => l.returnTo (if reg then some (place i) else none)) with
        retted := r.retted ||| lanes })
    .jump s [] (toAll lanes x.i.wordPc)))

end Sys2Proof.Machine
end

