-- ==== Sys2Proof/Machine/Matrix.lean ====
section
/-!
DEFINITION. The matrix instructions (09): descriptors and their checks (R149 to R152), MFR (R153, R154), `mma` (R155 to R157,
R43 to R45), tile moves (R158, R159), `mscl` (R160), the tile interlock (R104, R161) and the scratchpad accesses of matrix
words (R162, R163).
-/
namespace Sys2Proof.Machine

/-! ## Descriptors -/

/-- Descriptor n of a group. -/
def Regs.descOf (r : Regs) (n : Nat) : Desc := r.desc.toList.getD n Desc.zero

/-- Element width in bits of an EW value 1 to 4. -/
def ewBits (ew : Nat) : Nat := 2 ^ (ew + 1)

/-- Byte of element (r, k). -/
def Desc.at (d : Desc) (w r k : Nat) : Nat := d.base.toNat + r * d.stride.toNat + k * w / 8

/-- Byte of the scale of row r, block b. -/
def Desc.scaleAt (d : Desc) (r b : Nat) : Nat := d.sbase.toNat + r * d.sstride.toNat + b

/-- What a word needs of a descriptor (R150). -/
structure DescUse where
  n : Nat
  d : Desc
  rows : Nat
  cols : Nat
  ew : Nat
  mx : Bool
  koff : Nat
  /-- Scratchpad bytes touched, as (offset, length). -/
  bytes : List (Nat × Nat)
  deriving DecidableEq, Repr

/-- Checks 1 to 5 of R150, in order. -/
def State.descTrap (s : State) (x : Ctx) (u : DescUse) : Option (Nat × Nat) :=
  let info := 0x40 + u.n
  let w := ewBits u.ew
  let d := u.d
  if d.ew.toNat ≠ u.ew ∨ d.rows.toNat < u.rows ∨ d.cols.toNat < u.cols then some (0x09, info)
  else if x.l.scr < d.base.toNat + (u.rows - 1) * d.stride.toNat + (u.cols * w + 7) / 8 then some (0x09, info)
  else if u.mx ∧ x.l.scr < d.sbase.toNat + (u.rows - 1) * d.sstride.toNat + (u.cols + 31) / 32 then some (0x09, info)
  else if d.base.toNat % 16 ≠ 0 ∨ d.stride.toNat % 16 ≠ 0 ∨ (u.mx ∧ u.koff % 32 ≠ 0) ∨ (w = 4 ∧ u.koff % 2 ≠ 0) then
    some (0x0C, info)
  else
    match minNat? (u.bytes.filterMap (fun p => s.lockHit x.l x.c 1 p.1 p.2)) with
    | some k => some (0x0B, k)
    | none => none

/-! ## Scratchpad accesses of matrix words (R162, R163) -/

/-- The scratchpad as a word of the group sees it: under a checked clause with the rows that `mst` has yet to send. -/
def Ctx.scratch (x : Ctx) : Memory :=
  x.g.queued.foldl (fun m u => match u with
    | .mst rows => rows.foldl (fun m r => m.putBytes r.1 r.2) m
    | _ => m) x.c.scratch

/-- Granules that the group's unsent `mst` words fill. -/
def Ctx.granuleOk (x : Ctx) (k : Nat) : Bool :=
  granuleFull x.c k || x.g.queued.any (fun u => match u with
    | .mst rows => rows.any (fun r => (granulesOf r.1 r.2.length).contains k)
    | _ => false)

/-- Whether the bytes can be accessed now; a touch of an unfilled sector starts its fill (R163). -/
def State.mtxReady (s : State) (x : Ctx) (lanes : Mask) (bytes : List (Nat × Nat)) (read : Bool) : State × Bool :=
  if x.c.mtxHeld x.g lanes then (s, false)
  else
    let miss := (bytes.flatMap (fun p => x.c.unfilled p.1 p.2)).eraseDups
    if !miss.isEmpty then (s.startFills x.c.ref miss, false)
    else (s, !read || bytes.all (fun p => (granulesOf p.1 p.2).all x.granuleOk))

/-- Poisoned bytes among those read. -/
def Ctx.mtxPoison (x : Ctx) (bytes : List (Nat × Nat)) : Option Poison := bytes.findSome? (fun p => x.c.scrPoisoned p.1 p.2)

/-! ## The tile interlock (R104, R161) -/

/-- An operation on a tile is in flight until it retires. -/
def State.startTileOp (s : State) (g : GRef) (tile : Nat) (mma : Bool) : State :=
  let op := 2 * s.nextId + (if mma then 1 else 0)
  ({ s with nextId := s.nextId + 1 }.modGroup g (fun y => { y with tileOps := y.tileOps ++ [(op, tile)] })).post
    (.matrixWordRetire g op)

/-- The specification of a matrix word on a tile. -/
def specX (i : Instr) (o : FmtX) (ss : List SrcOp) (ds : List DstOp) (tile : Nat) (mma : Bool) : WordSpec :=
  { plainSpec i o.guard with srcs := ss, dsts := ds, tile := some (tile, mma) }

/-- Tile or descriptor number in DST[42:40]. -/
def tileOf (d : BitVec 8) : Nat := d.toNat % 8

/-- Trap every lane of a mask alike. -/
def trapAll (lanes : Mask) (code info : Nat) : List LaneTrap := (maskLanes lanes).map (fun i => ⟨i, code, info⟩)

/-- The common course of a word with descriptors: R150, for a store R187, then the scratchpad, then poison, then the effect. R150 gives
no place to trap 0x0A: it comes after 0x0C and 0x0B (DESIGN CHOICE, notes/assumptions/43.md). -/
def State.withDescs (s : State) (x : Ctx) (lanes : Mask) (us : List DescUse) (read : Bool) (f : State → State) : WordRes :=
  let shut := if read then none else us.findSome? (fun u => u.bytes.findSome? (fun p => x.readOnlyHandle p.1 p.2))
  match (us.findSome? (fun u => s.descTrap x u)).or (shut.map (fun k => (0x0A, k))) with
  | some (code, info) => .done s (trapAll lanes code info)
  | none =>
    let bytes := us.flatMap (fun u => u.bytes)
    match s.mtxReady x lanes bytes read with
    | (s', false) =>
      -- it waits for the fills and accesses before it, then for the granules that are not full (R163)
      let held := x.c.mtxHeld x.g lanes || bytes.any (fun p => !(x.c.unfilled p.1 p.2).isEmpty)
      let stop := if held then bytes else
        ((bytes.flatMap (fun p => granulesOf p.1 p.2)).filter (fun k => !x.granuleOk k)).map (fun k => (16 * k, 16))
      .park s' ⟨x.i.lanes, [], none, stop, !held && read⟩
    | (s', true) =>
      match if read then x.mtxPoison bytes else none with
      | some k => .poison k ⟨false, false⟩
      | none => .done (f s') []

/-! ## Changing tiles -/

/-- Change elements of a tile of a group. -/
def State.accWrites (s : State) (g : GRef) (tile : Nat) (vals : List (Nat × Nat × Word)) : State :=
  s.modGroup g (fun x => { x with
    r := vals.foldl (fun r v => r.accWrite tile v.1 v.2.1 v.2.2) x.r
    poison := x.poison.filter (fun p => !(vals.any (fun v => p.1 == x.r.accUnit tile v.1 v.2.1))) })

/-- The 64 columns. -/
def columns : List Nat := List.range 64

/-! ## `mma` -/

/-- K of the pairing in MFR (Table 9.3). -/
def mfrK (mfr : Nat) : Nat := match mfr % 16 with
  | 0 | 1 => 32
  | 2 | 3 | 5 => 64
  | _ => 128

/-- EW of the pairing. -/
def mfrEW (mfr : Nat) : Nat := match mfr % 16 with
  | 0 | 1 => 3
  | 2 | 3 | 5 => 2
  | _ => 1

/-- Floating-point format of an AFMT or BFMT code below 5. -/
def mfrFmt (code : Nat) : FFmt := match code with
  | 0 => fmtBF16
  | 1 => fmtF16
  | 2 => fmtE4M3
  | 3 => fmtE5M2
  | _ => fmtE2M1

/-- Pattern of an element: 4-bit elements take the low or high half of their byte (R149). -/
def elemPat (m : Memory) (d : Desc) (w r k : Nat) : Nat :=
  if w = 4 then (m.byte (d.at w r k)).toNat / 16 ^ (k % 2) % 16 else m.nat (d.at w r k) (w / 8)

/-- Value of an operand element with its scale (R41). -/
def elemVal (m : Memory) (d : Desc) (fmt : Nat) (w r k : Nat) (mx : Bool) : FVal :=
  let v := (mfrFmt fmt).decode false (elemPat m d w r k)
  if mx then (v.mul (e8m0Value (m.byte (d.scaleAt r (k / 32))).toNat)).1 else v

/-- The new accumulator element (R43 to R45). -/
def mmaElem (mfr : Nat) (sat : Bool) (w : Nat) (c : Word) (fa fb : Nat → FVal) (ia ib : Nat → Nat) : Word :=
  let ks := List.range (mfrK mfr)
  if 5 ≤ mfr % 16 then
    let x : Int := sextNat c.toNat 32 + ks.foldl (fun (t : Int) k => t + sextNat (ia k) w * sextNat (ib k) w) 0
    w32 (wrapNat (if sat then satS x 32 else x) 32)
  else
    let ps := ks.map (fun k => (fa k).mul (fb k))
    w32 (fmtF32.sum 0 false false (ps.any (fun p => p.2)) (fmtF32.decode false c.toNat :: ps.map (fun p => p.1))).pat

/-- The descriptor use of an `mma` operand: `rows` rows are needed, those in `used` are read. -/
def mmaUse (r : Regs) (n rows koff mfr : Nat) (mx : Bool) (used : List Nat) : DescUse :=
  let d := r.descOf n
  let w := ewBits (mfrEW mfr)
  let k := mfrK mfr
  { n := n, d := d, rows := rows, cols := koff + k, ew := mfrEW mfr, mx := mx, koff := koff,
    bytes := used.flatMap (fun i => (d.at w i koff, k * w / 8) ::
      (if mx then [(d.scaleAt i (koff / 32), (k + 31) / 32)] else [])) }

/-- `mma`. -/
def execMma (o : FmtX) (s : State) : Out :=
  let tile := tileOf o.dst
  .next (s.runWord (specX (.mma o) o [src o.sa o.ea, src o.sb o.eb, .tile tile] [.tile tile] tile true) (fun x lanes s =>
    let mfr := x.g.r.mfr.toNat
    let ka := x.uniform o.sa
    let kb := x.uniform o.sb
    let mxa := bitOf mfr 8
    let mxb := bitOf mfr 9
    let ua := mmaUse x.g.r o.ta.toNat 16 ka mfr mxa (maskLanes lanes)
    let ub := mmaUse x.g.r o.tb.toNat 64 kb mfr mxb columns
    let w := ewBits (mfrEW mfr)
    s.withDescs x lanes [ua, ub] true (fun s =>
      let m := x.scratch
      let vals := (maskLanes lanes).flatMap (fun i => columns.map (fun j =>
        (i, j, mmaElem mfr o.sat w (x.g.r.accRead tile i j)
          (fun k => elemVal m ua.d (mfr % 16) w i (ka + k) mxa) (fun k => elemVal m ub.d (mfr / 16 % 16) w j (kb + k) mxb)
          (fun k => elemPat m ua.d w i (ka + k)) (fun k => elemPat m ub.d w j (kb + k)))))
      (s.accWrites x.ref.g tile vals).startTileOp x.ref.g tile true)))

/-! ## Tile moves (Table 9.4) -/

/-- `mzero`. -/
def execMzero (o : FmtX) (s : State) : Out :=
  let tile := tileOf o.dst
  .next (s.runWord (specX (.mzero o) o [] [.tile tile] tile false) (fun x lanes s =>
    .done ((s.accWrites x.ref.g tile ((maskLanes lanes).flatMap (fun i => columns.map (fun j => (i, j, (0 : Word)))))).startTileOp
      x.ref.g tile false) []))

/-- The descriptor use of a 64-column access to rows of active lanes. -/
def rowUse (r : Regs) (n ew : Nat) (lanes : Mask) : DescUse :=
  let d := r.descOf n
  let w := ewBits ew
  { n := n, d := d, rows := 16, cols := 64, ew := ew, mx := false, koff := 0,
    bytes := (maskLanes lanes).map (fun i => (d.at w i 0, 8 * w)) }

/-- `mld`. -/
def execMld (o : FmtX) (s : State) : Out :=
  let tile := tileOf o.dst
  .next (s.runWord (specX (.mld o) o [] [.tile tile] tile false) (fun x lanes s =>
    let u := rowUse x.g.r o.ta.toNat 4 lanes
    s.withDescs x lanes [u] true (fun s =>
      let m := x.scratch
      let vals := (maskLanes lanes).flatMap (fun i => columns.map (fun j => (i, j, w32 (m.nat (u.d.at 32 i j) 4))))
      (s.accWrites x.ref.g tile vals).startTileOp x.ref.g tile false)))

/-- conv of `mst` (R159): 32 bits, or one RNE rounding of an FP32 value. -/
def storeConv (type : Nat) (v : Word) : Nat :=
  if type = 0 then v.toNat else ((fmtOfCode type).deliver 0 false false (fmtF32.decode false v.toNat)).pat

/-- `mst`: sent at the commit under checked execution. -/
def execMst (o : FmtX) (s : State) : Out :=
  let tile := tileOf o.dst
  let type := bitsOf o.fx.toNat 3 0
  let ew := if type = 0 then 4 else 3
  .next (s.runWord (specX (.mst o) o [.tile tile] [] tile false) (fun x lanes s =>
    let u := rowUse x.g.r o.ta.toNat ew lanes
    s.withDescs x lanes [u] false (fun s =>
      let w := ewBits ew
      let rows := (maskLanes lanes).map (fun i =>
        (u.d.at w i 0, columns.flatMap (fun j => leBytes (storeConv type (x.g.r.accRead tile i j)) (w / 8))))
      (s.emit x false (.mst rows)).startTileOp x.ref.g tile false)))

/-- Elements of a `mrd` or `mwr`. -/
def moveN (o : FmtX) : Nat := 2 ^ (o.fx.toNat % 4)

/-- The column of a lane, rounded down to a multiple of the count. -/
def moveCol (x : Ctx) (o : FmtX) (n i : Nat) : Nat := x.val o.sa i % 64 / n * n

/-- `mrd`: the destination is empty until its fill. -/
def execMrd (o : FmtX) (s : State) : Out :=
  let tile := o.ta.toNat
  let n := moveN o
  .next (s.runWord (specX (.mrd o) o [.tile tile, src o.sa o.ea] [dst o.dst n] tile false) (fun x lanes s =>
    .done ((s.fillLater x (x.active o.guard) lanes o.dst.toNat n (fun i =>
      (List.range n).map (fun k => x.g.r.accRead tile i (moveCol x o n i + k)))).startTileOp x.ref.g tile false) []))

/-- `mwr`. -/
def execMwr (o : FmtX) (s : State) : Out :=
  let tile := tileOf o.dst
  let n := moveN o
  .next (s.runWord (specX (.mwr o) o [src o.sa o.ea, .reg o.sb.toNat o.eb n] [.tile tile] tile false) (fun x lanes s =>
    let vals := (maskLanes lanes).flatMap (fun i => (List.range n).map (fun k =>
      (i, moveCol x o n i + k, w32 (x.valN o.sb n i / 2 ^ (32 * k)))))
    .done ((s.accWrites x.ref.g tile vals).startTileOp x.ref.g tile false) []))

/-! ## `mscl` (R160) -/

/-- x × σ × τ rounded once in RNE. -/
def scaleElem (int : Bool) (c : Word) (σ τ : FVal) : Word :=
  let x := if int then FVal.ofInt (sextNat c.toNat 32) 0 else fmtF32.decode false c.toNat
  let p := x.mul σ
  let q := p.1.mul τ
  if p.2 || q.2 || x.isNan || σ.isNan || τ.isNan then w32 fmtF32.nanPat
  else w32 (fmtF32.deliver 0 false false q.1).pat

/-- `mscl`. -/
def execMscl (o : FmtX) (s : State) : Out :=
  let tile := tileOf o.dst
  let cols := o.fx.getLsbD 0
  .next (s.runWord (specX (.mscl o) o [src o.sa o.ea, .tile tile] [.tile tile] tile false) (fun x lanes s =>
    let d := x.g.r.descOf o.ta.toNat
    let us : List DescUse := if cols then
        [{ n := o.ta.toNat, d := d, rows := 1, cols := 64, ew := 4, mx := false, koff := 0, bytes := [(d.at 32 0 0, 256)] }]
      else []
    s.withDescs x lanes us cols (fun s =>
      let m := x.scratch
      let τ (j : Nat) : FVal := if cols then fmtF32.decode false (m.nat (d.at 32 0 j) 4) else .num false 1 0
      let vals := (maskLanes lanes).flatMap (fun i =>
        let σ := fmtF32.decode false (x.val o.sa i)
        columns.map (fun j => (i, j, scaleElem (o.fx.getLsbD 1) (x.g.r.accRead tile i j) σ (τ j))))
      (s.accWrites x.ref.g tile vals).startTileOp x.ref.g tile false)))

/-! ## Descriptors and MFR -/

/-- A descriptor with field f (Table 9.1) set to the low bits of a value. -/
def Desc.setField (d : Desc) (f v : Nat) : Desc :=
  match f with
  | 0 => { d with ew := BitVec.ofNat 3 v }
  | 1 => { d with rows := BitVec.ofNat 10 v }
  | 2 => { d with cols := BitVec.ofNat 13 v }
  | 3 => { d with base := BitVec.ofNat 21 v }
  | 4 => { d with stride := BitVec.ofNat 21 v }
  | 5 => { d with sbase := BitVec.ofNat 21 v }
  | _ => { d with sstride := BitVec.ofNat 16 v }

/-- Field f of a descriptor, zero-extended. -/
def Desc.field (d : Desc) (f : Nat) : Nat :=
  match f with
  | 0 => d.ew.toNat
  | 1 => d.rows.toNat
  | 2 => d.cols.toNat
  | 3 => d.base.toNat
  | 4 => d.stride.toNat
  | 5 => d.sbase.toNat
  | _ => d.sstride.toNat

/-- `mtd`: Wrap(src + imm, 32), truncated to the field (R151). -/
def execMtd (o : FmtI) (s : State) : Out :=
  .next (s.runWord (specI (.mtd o) o []) (fun x _ s =>
    let v := (x.uniform o.sa + o.imm.toNat) % 2 ^ 32
    .done (s.modRegs x.ref.g (fun r =>
      { r with desc := r.desc.mapIdx (fun k d => if k = tileOf o.dst then d.setField (o.fx.toNat % 8) v else d) })) []))

/-- `mfd`: empty until its fill (R152). -/
def execMfd (o : FmtI) (s : State) : Out :=
  .next (s.runWord { plainSpec (.mfd o) o.guard with dsts := [dst o.dst 1] } (fun x lanes s =>
    let v := (x.g.r.descOf (o.imm.toNat % 8)).field (o.fx.toNat % 8)
    .done (s.fillLater x (x.active o.guard) lanes o.dst.toNat 1 (fun _ => [w32 v])) []))

/-- `mfmt` (R154): the word that the P2 set issues in the same cycle reads the old value. -/
def execMfmt (o : FmtI) (s : State) : Out :=
  .next (s.runWord (plainSpec (.mfmt o) o.guard) (fun x _ s =>
    .done (s.modGroup x.ref.g (fun y =>
      if x.g.sameCycle x.ref.second != 0 || x.g.mfrNext.isSome then { y with mfrNext := some (o.imm.setWidth 32) }
      else { y with r := { y.r with mfr := o.imm.setWidth 32 } })) []))

/-- A matrix word retires (R104): its tile is free of it, and words parked by the interlock may go on. -/
def execMatrixWordRetire (g : GRef) (op : Nat) (s : State) : Out :=
  .next (s.modGroup g (fun y => { y with tileOps := y.tileOps.filter (fun p => p.1 != op) }.unpark))

end Sys2Proof.Machine
end

