-- ==== Sys2Proof/Machine/MemWords.lean ====
section
/-!
DEFINITION. The memory instructions (10, R167 to R192): their addresses and checks (R169, R170), the access that each one
gives to the load-store unit, prefetch, the band words, the map words and `hld`.
-/
namespace Sys2Proof.Machine

/-! ## Addresses and checks -/

/-- What a word with an address in each lane needs (Tables 10.1 and 10.2). -/
structure MemForm where
  opc : BitVec 8
  /-- SY is an address term. -/
  useSy : Bool
  /-- Bytes of the access in a lane. -/
  size : Ctx → Nat → Nat
  align : Nat
  perms : Perms
  spaces : List Nat
  locks : Bool

/-- The offset o of a lane (R169). -/
def Ctx.offset (x : Ctx) (o : FmtM) (useSy : Bool) (lane : Nat) : Int :=
  (x.val o.sx lane : Int) + sextNat o.disp.toNat 10 + (if useSy then (x.val o.sy lane : Int) else 0)

/-- The address ea of a lane. -/
def Ctx.ea (x : Ctx) (o : FmtM) (h : Handle) (useSy : Bool) (lane : Nat) : Nat :=
  ((h.base : Int) + x.offset o useSy lane).toNat

/-- The cause that a REG access takes (R170). -/
def Ctx.regTrap (x : Ctx) (ea n : Nat) : Option (Nat × Nat) :=
  if 768 < ea + n then some (0x05, 0xFF)
  else
    let bad (k : Nat) : Option (Nat × Nat) := (x.g.r.checkReg x.l.breg x.l.xreg k).map
      (fun code => (code, if code = 0x05 then 0xFF else k))
    let all := (regSpan ea n).filterMap bad
    (all.find? (fun p => p.1 == 0x05)).or all.head?

/-- The checks of a lane (R169, R170, R187). -/
def State.memTrap (s : State) (x : Ctx) (o : FmtM) (f : MemForm) (lane : Nat) : Option (Nat × Nat) :=
  let k := o.hnd.toNat
  let h := x.l.handle k
  let off := x.offset o f.useSy lane
  let n := f.size x lane
  let ea := x.ea o h f.useSy lane
  let h := if (f.opc == opSt || f.opc == opStf) && h.space == 1 && 0 ≤ off && x.readOnly ea n then { h with w := false } else h
  match s.addrTrap x.l x.c h k off n f.align f.perms f.spaces f.locks with
  | some t => some t
  | none =>
    match h.space with
    | 2 => x.regTrap ea n
    | 3 => if n = 4 ∨ n = 8 then none else some (0x0C, k)
    | _ => none

/-! ## The access -/

/-- An access of the word at hand. -/
def Ctx.access (x : Ctx) (o : FmtM) (opc : BitVec 8) (h : Handle) (size : Nat) (lanes : Mask) (addr : List (Nat × Nat)) :
    Access :=
  { id := 0, opc := opc, var := o.var, ord := o.ord, scope := o.scope, hnd := o.hnd.toNat, space := h.space,
    policy := h.policy, dst := noDst, size := size, addr := addr, data := [], cmp := [], released := 0, resv := false,
    unavailable := false, quiesced := false, lanes := lanes, pc := x.i.wordPc, hdr := x.i.hdr, issuedAt := x.g.issued,
    inRegion := x.g.r.inReg, noFill := false, resolved := [], behind := false }

/-- The word reserves a replay slot (R190). -/
def Ctx.reserves (x : Ctx) (a : Access) : Bool :=
  a.slotable && (a.space == 0 || (a.space == 1 && a.addr.any (fun p =>
    (List.range a.size).any (fun k => (x.planned.mapAt (p.2 + k)).isSome))))

/-- Values by lane. -/
def laneData (lanes : Mask) (f : Nat → Nat) : List (Nat × BitVec 128) := (maskLanes lanes).map (fun i => (i, BitVec.ofNat 128 (f i)))

/-- A w destination is written for the first active lane alone (R65): when that lane has trapped, the access returns nothing. -/
def Access.forLanes (a : Access) (act ok : Mask) : Access :=
  if 0xC0 ≤ a.dst && a.dst < noDst && firstLane act != firstLane ok then { a with dst := noDst } else a

/-- A memory word of a group waits in its slot while a `bandx` of the group has not taken effect (R276). -/
def Ctx.sendFirst (x : Ctx) (w : WordRes) : WordRes := if x.g.sending.isEmpty then w else .stall

/-- Run a word that has an address in each lane: lanes that fail a check trap, the others make one access. -/
def State.runMem (s : State) (w : WordSpec) (o : FmtM) (f : MemForm) (early : Bool) (fill : Ctx → Access → Access) : Out :=
  .next (s.runWord w (fun x lanes s =>
    let h := x.l.handle o.hnd.toNat
    let ts := (maskLanes lanes).filterMap (fun i => (s.memTrap x o f i).map (fun t => LaneTrap.mk i t.1 t.2))
    let ok := lanes &&& ~~~maskOf (ts.map (fun t => t.lane))
    let addr := (maskLanes ok).map (fun i => (i, x.ea o h f.useSy i))
    let a := (fill x (x.access o f.opc h (f.size x ((firstLane ok).getD 0)) ok addr)).forLanes (x.active w.guard) ok
    if ok = 0 then .done s ts
    else if x.reserves a && !s.slotFree x.c then .stall
    else x.sendFirst (.done (s.emit x early (.mem a)) ts)))

/-- The specification of a memory word. -/
def specM (i : Instr) (o : FmtM) (ss : List SrcOp) (ds : List DstOp) : WordSpec := { plainSpec i o.guard with srcs := ss, dsts := ds }

/-- Both address terms. -/
def srcsXY (o : FmtM) : List SrcOp := [src o.sx o.ex, src o.sy o.ey]

/-- Stored data in DST under ED. -/
def srcData (o : FmtM) (n : Nat) : SrcOp := .reg o.dst.toNat o.ed n

/-- GLOBAL and SCRATCH. -/
def spacesGS : List Nat := [0, 1]

/-- All four spaces. -/
def spacesAll : List Nat := [0, 1, 2, 3]

/-- A load's form. -/
def loadForm (opc : BitVec 8) (var : BitVec 4) (p : Perms) (spaces : List Nat) : MemForm :=
  { opc := opc, useSy := true, size := fun _ _ => memSize var, align := memSize var, perms := p, spaces := spaces, locks := true }

/-! ## Loads and stores -/

/-- `ld` (R171). -/
def execLd (o : FmtM) (s : State) : Out :=
  s.runMem (specM (.ld o) o (srcsXY o) [dst o.dst (memRegs o.var)]) o (loadForm opLd o.var permRead spacesAll) true
    (fun _ a => { a with dst := o.dst.toNat })

/-- `st`: the data is captured at issue. -/
def execSt (o : FmtM) (s : State) : Out :=
  s.runMem (specM (.st o) o (srcsXY o ++ [srcData o (memRegs o.var)]) []) o (loadForm opSt o.var permWrite spacesAll) false
    (fun x a => { a with data := laneData a.lanes (fun i => x.valN o.dst (memRegs o.var) i) })

/-- `ldw` (R173): it waits for a full granule; `.clr` empties it. -/
def execLdw (o : FmtM) (s : State) : Out :=
  let clr := o.var.getLsbD 3
  s.runMem { specM (.ldw o) o (srcsXY o) [dst o.dst (memRegs o.var)] with region := if clr then some 0x92 else none } o
    (loadForm opLdw o.var ⟨true, clr, false, false⟩ [1]) (!clr) (fun _ a => { a with dst := o.dst.toNat })

/-- `stf` (R174): it sets the granules full. -/
def execStf (o : FmtM) (s : State) : Out :=
  s.runMem (specM (.stf o) o (srcsXY o ++ [srcData o (memRegs o.var)]) []) o (loadForm opStf o.var permWrite [1]) false
    (fun x a => { a with data := laneData a.lanes (fun i => x.valN o.dst (memRegs o.var) i) })

/-! ## Prefetch (R185) -/

/-- Bring one lane's sector in, unless a check, the translation or its home says no. -/
def State.prefetch (s : State) (x : Ctx) (o : FmtM) (f : MemForm) (lane : Nat) : State :=
  let h := x.l.handle o.hnd.toNat
  let va := x.ea o h true lane
  if h.space ≠ 0 ∨ (s.memTrap x o f lane).isSome then s
  else
    match s.tlb? x.c.core x.l.vif va needRead with
    | none => s
    | some t =>
      let q : Req := { x.l.req x.c with policy := h.policy, movable := t.movable }
      let pa := alignDown (t.paOf va) 128
      if s.homeUnavailable pa || s.quiesced q pa || s.silenced x.l.part || (!s.cached q pa 128 && !s.hasToken q pa) then s
      else if o.var = 0 then (s.globalLoad q pa 128).1
      else (s.reachHome q pa false).rdcFetch q pa

/-- `pref`: it never traps beyond step 10, and does nothing in a lane whose operands would. -/
def execPref (o : FmtM) (s : State) : Out :=
  let f : MemForm := { opc := 0x94, useSy := true, size := fun _ _ => 1, align := 1, perms := ⟨false, false, false, false⟩,
                       spaces := [0], locks := false }
  .next (s.runWord { specM (.pref o) o (srcsXY o) [] with quiet := true } (fun x lanes s =>
    .done ((maskLanes lanes).foldl (fun s i => s.prefetch x o f i) s) []))

/-! ## Atomics -/

/-- An atomic's form. -/
def atomForm (opc : BitVec 8) (n : Nat) : MemForm :=
  { opc := opc, useSy := false, size := fun _ _ => n, align := n, perms := permAtomic, spaces := spacesGS, locks := true }

/-- `atom` (R175). -/
def execAtom (o : FmtM) (s : State) : Out :=
  let n := atomSize o.var
  s.runMem { specM (.atom o) o [src o.sx o.ex, .reg o.sy.toNat o.ey (n / 4)] [dst o.dst (n / 4)] with region := some 0x95 } o
    (atomForm opAtom n) false
    (fun x a => { a with dst := o.dst.toNat, data := laneData a.lanes (fun i => x.valN o.sy (n / 4) i) })

/-- `cas` (R176). -/
def execCas (o : FmtM) (s : State) : Out :=
  let n := memSize o.var
  s.runMem { specM (.cas o) o [src o.sx o.ex, .reg o.sy.toNat o.ey (n / 4), srcData o (n / 4)] [dst o.dst (n / 4)] with
      region := some 0x96 } o (atomForm opCas n) false
    (fun x a => { a with dst := o.dst.toNat, data := laneData a.lanes (fun i => x.valN o.dst (n / 4) i),
                         cmp := (maskLanes a.lanes).map (fun i => (i, w64 (x.valN o.sy (n / 4) i))) })

/-! ## Ordering words -/

/-- An access without an address: a fence, or a map word. -/
def Handle.none : Handle :=
  { bound := false, base := 0, limit := 0, space := 0, policy := 0, r := false, w := false, a := false, e := false, win := 0 }

/-- `fence` (R178). -/
def execFence (o : FmtM) (s : State) : Out :=
  .next (s.runWord (specM (.fence o) o [] []) (fun x lanes s =>
    x.sendFirst (.done (s.emit x false (.mem { x.access o opFence Handle.none 0 lanes [] with dst := noDst })) [])))

/-- `promote` (R179). -/
def execPromote (o : FmtM) (s : State) : Out :=
  s.runMem (specM (.promote o) o (srcsXY o) [dst o.dst 1]) o
    { atomForm opPromote 4 with useSy := true, spaces := [0] } false (fun _ a => { a with dst := o.dst.toNat })

/-- `waitc` (R180): the target is captured at issue. -/
def execWaitc (o : FmtM) (s : State) : Out :=
  s.runMem (specM (.waitc o) o (srcsXY o) [dst o.dst 1]) o { atomForm opWaitc 4 with perms := permRead } true
    (fun x a => { a with dst := o.dst.toNat, data := laneData a.lanes (fun i => x.val o.sy i) })

/-! ## Band words (R181 to R183) -/

/-- Trap every active lane of a uniform word. -/
def allLanes (s : State) (lanes : Mask) (t : Nat × Nat) : WordRes :=
  .done s ((maskLanes lanes).map (fun i => ⟨i, t.1, t.2⟩))

/-- The band entry that a word may use (R181). -/
def State.bandFor (s : State) (x : Ctx) (b : Nat) : Option Band :=
  if 64 ≤ b then none
  else (s.band? (dieOf x.c.core) b).bind (fun e => if e.lid == x.l.lid && e.classH == x.c.classH then some e else none)

/-- Whether the core is a member, the operations that a checked clause has buffered included. -/
def Ctx.member (x : Ctx) (e : Band) : Bool :=
  x.g.queued.foldl (fun m u => match u with
    | .bandj n => if n = e.no then true else m
    | .bandx n => if n = e.no then false else m
    | _ => m) ((e.members &&& coreBit x.c.core) != 0)

/-- Whether a `bandl` of the core on the band is unfilled. -/
def Ctx.asking (x : Ctx) (e : Band) : Bool :=
  e.asked x.c.core || x.g.queued.any (fun u => match u with
    | .bandl n _ _ _ _ _ => n == e.no
    | _ => false)

/-- `bandj` (R182). INFO of trap 0x28 is b mod 256, as in `bandx` and `bandl` (DESIGN CHOICE, notes/assumptions/43.md). -/
def execBandj (o : FmtM) (s : State) : Out :=
  .next (s.runWord { specM (.bandj o) o [src o.sx o.ex] [] with region := some 0x9A } (fun x lanes s =>
    let b := x.val o.sx ((firstLane lanes).getD 0)
    match s.bandFor x b with
    | none => allLanes s lanes (0x28, b % 256)
    | some e =>
      if !x.member e && e.maxm ≤ bits96 (e.members &&& ~~~(coreBit x.c.core)) then allLanes s lanes (0x28, b)
      else x.sendFirst (.done (s.emit x false (.bandj b)) [])))

/-- `bandx` waits in its slot until the fills of the core's outstanding `bandl` have landed (R182), and so before the group's next
memory word (R276). -/
def execBandx (o : FmtM) (s : State) : Out :=
  .next (s.runWord { specM (.bandx o) o [src o.sx o.ex] [] with region := some 0x9C } (fun x lanes s =>
    let b := x.val o.sx ((firstLane lanes).getD 0)
    match s.bandFor x b with
    | none => allLanes s lanes (0x28, b % 256)
    | some e => if e.asked x.c.core then .stall else x.sendFirst (.done (s.emit x false (.bandx b)) [])))

/-- `bandl` (R183). -/
def execBandl (o : FmtM) (s : State) : Out :=
  .next (s.runWord (specM (.bandl o) o [src o.sx o.ex, src o.sy o.ey, srcData o 1] []) (fun x lanes s =>
    let first := (firstLane lanes).getD 0
    let b := x.val o.dst first
    let n := x.val o.sy first
    let h := x.l.handle o.hnd.toNat
    match s.addrTrap x.l x.c h o.hnd.toNat (x.offset o false first) n 128 permRead [0] true with
    | some t => allLanes s lanes t
    | none =>
      match s.bandFor x b with
      | none => allLanes s lanes (0x28, b % 256)
      | some e =>
        if n % 128 ≠ 0 ∨ n < 128 ∨ 65536 < n ∨ x.l.scr < e.soff + n then allLanes s lanes (0x28, b)
        else
          match s.lockHit x.l x.c 1 e.soff n with
          | some k => allLanes s lanes (0x0B, k)
          | none =>
            if !x.member e || x.asking e then allLanes s lanes (0x28, b)
            else x.sendFirst <| .done (s.emit x false (.bandl b (x.ea o h false first) n x.i.hdr x.i.wordPc x.g.issued)) []))

/-! ## Write-back and invalidation (R186) -/

/-- The form of `wbr` and `invr`. -/
def rangeForm (opc : BitVec 8) (o : FmtM) : MemForm :=
  { opc := opc, useSy := false, size := fun x i => x.val o.sy i, align := 1, perms := permRead, spaces := [0], locks := false }

/-- `wbr`. -/
def execWbr (o : FmtM) (s : State) : Out :=
  s.runMem (specM (.wbr o) o (srcsXY o) []) o (rangeForm opWbr o) false
    (fun x a => { a with data := laneData a.lanes (fun i => x.val o.sy i) })

/-- `invr`. -/
def execInvr (o : FmtM) (s : State) : Out :=
  s.runMem (specM (.invr o) o (srcsXY o) []) o (rangeForm opInvr o) false
    (fun x a => { a with data := laneData a.lanes (fun i => x.val o.sy i) })

/-! ## Mapped regions (R187, R188) -/

/-- The checks of R187 that follow those of R169. -/
def Ctx.mapTrap (x : Ctx) (hnd entry off n : Nat) : Option (Nat × Nat) :=
  let c := x.planned
  if n = 0 then none
  else if off % 128 ≠ 0 ∨ n % 128 ≠ 0 then some (0x0C, hnd)
  else if x.l.scr < off + n then some (0x09, hnd)
  else if (List.range 8).any (fun k => k != entry && (c.mapEntry k).bound &&
      rangesMeet (c.mapEntry k).s (c.mapEntry k).n off n) then some (0x09, hnd)
  else none

/-- A map word's access: no space of its own, so that only R243 orders it. -/
def Ctx.mapAccess (x : Ctx) (o : FmtM) (opc : BitVec 8) (h : Handle) (lanes : Mask) (addr : List (Nat × Nat)) : Access :=
  { x.access o opc h (o.disp.toNat % 8) lanes addr with space := 4 }

/-- `mapset`. -/
def execMapset (o : FmtM) (s : State) : Out :=
  .next (s.runWord { specM (.mapset o) o [src o.sx o.ex, src o.sy o.ey, srcData o 1] [] with region := some 0x9F }
    (fun x lanes s =>
      let first := (firstLane lanes).getD 0
      let va := x.val o.sx first
      let off := x.val o.sy first
      let n := x.val o.dst first
      let k := o.hnd.toNat
      let h := x.l.handle k
      match (s.addrTrap x.l x.c h k va n 128 permRead [0] true).or (x.mapTrap k (o.disp.toNat % 8) off n) with
      | some t => allLanes s lanes t
      | none =>
        let a := x.mapAccess o opMapset h lanes [(first, h.base + va)]
        x.sendFirst (.done (s.emit x false (.mem { a with data := [(first, BitVec.ofNat 128 off)], cmp := [(first, w64 n)], noFill := !h.w })) [])))

/-- `mapflush`. -/
def execMapflush (o : FmtM) (s : State) : Out :=
  .next (s.runWord (specM (.mapflush o) o [] []) (fun x lanes s =>
    x.sendFirst (.done (s.emit x false (.mem (x.mapAccess o opMapflush Handle.none lanes []))) [])))

/-! ## `hld` (R189) -/

/-- `hld`: bytes 8k to 8k + 7 of the handle entry; the pair is empty until its fill. -/
def execHld (o : FmtM) (s : State) : Out :=
  .next (s.runWord (specM (.hld o) o [] [dst o.dst 2]) (fun x lanes s =>
    let v := bitsOf (x.l.handles.getD o.hnd.toNat 0).toNat (64 * (o.disp.toNat % 4) + 63) (64 * (o.disp.toNat % 4))
    .done (s.fillLater x (x.active o.guard) lanes o.dst.toNat 2 (fun _ => wordsOf v 2)) []))

end Sys2Proof.Machine
end

