-- ==== Sys2Proof/Machine/SysWords.lean ====
section
/-!
DEFINITION. Engine commands and the system instructions (11): `push` (R194 to R196), `tstream` (R200, R201), `fetcht` (R203),
`bar` and `barb` (R204), `mfs` and `mts` (R209), `getc` (R210), `yield` and `sleep` (R211), `xacq` and `xrel` (R212), `inject`
(R213), and a word whose major opcode is unassigned (R90).
-/
namespace Sys2Proof.Machine

/-! ## `push` -/

/-- Registers w(N) to w(N + 15). -/
def Ctx.wBlock (x : Ctx) (f : BitVec 8) : List Word := (List.range 16).map (fun k => w32 (x.value (f.toNat + k) 1 0))

/-- Storage engine that a selector names, unless the partition owns it. -/
def State.foreignStorage (s : State) (part sel : Nat) : Bool :=
  bitsOf sel 15 12 == 2 && !((s.part? part).map (fun p => p.engines.contains (sel % 16))).getD false

/-- The checks of steps 15 and 16 of a command (R195, R196). -/
def State.pushTrap (s : State) (x : Ctx) (sel : Nat) (ws : List Word) : Option (Nat × Nat) :=
  let rec? := if cmdFlags ws % 4 = 0 then none
    else x.l.recordTrap (cmdField ws 2 1) (cmdField ws 4 4) (bitsOf sel 15 12 == 0)
  match rec? with
  | some t => some t
  | none =>
    if bitsOf sel 15 12 = 1 then (s.viewMismatch (cmdField ws 0x1C 2) (cmdField ws 0x18 4)).map (fun v => (0x21, v))
    else none

/-- `push`. -/
def execPush (o : FmtI) (s : State) : Out :=
  let sel := o.imm.toNat
  .next (s.runWord { plainSpec (.push o) o.guard with
      srcs := [.reg o.sa.toNat o.ea 16], dsts := [.pred o.dst.toNat],
      priv := s.inCtx (fun x => s.foreignStorage x.l.part sel), region := some 0xC0 } (fun x lanes s =>
    let ws := x.wBlock o.sa
    match s.pushTrap x sel ws with
    | some t => allLanes s lanes t
    | none => .done (s.emit x false (.push o.dst.toNat lanes sel ws)) []))

/-! ## `tstream` -/

/-- The checks of the shape record's own address (R200). -/
def State.shapeTrap (s : State) (x : Ctx) (hnd off : Nat) : Option (Nat × Nat) :=
  let h := x.l.handle hnd
  (s.addrTrap x.l x.c h hnd off 64 64 permRead [1] true).or (if !h.inScratch off 64 x.l.scr then some (0x09, hnd) else none)

/-- The check of the completion record that a shape names (R201), once the shape has been read. -/
def Ctx.tstreamTrap (x : Ctx) (coff : Nat) (record : List Word) : Option (Nat × Nat) :=
  let k := shapeOf record
  if k.cntv || k.stv then x.l.recordTrap k.chnd coff true else none

/-- `tstream`: one command for each active lane. -/
def execTstream (o : FmtV) (s : State) : Out :=
  let hnd := o.fx.toNat % 64
  .next (s.runWord { specV (.tstream o) o [src o.sa o.ea, .reg o.sb.toNat o.eb 4, src o.sc o.ec] [.pred o.dst.toNat] with
      region := some 0xC1 } (fun x lanes s =>
    let off := x.uniform o.sa
    let coff := x.uniform o.sc
    let at_ := (x.l.handle hnd).base + off
    let record (m : Memory) : List Word := (List.range 16).map (fun k => w32 (m.nat (at_ + 4 * k) 4))
    match s.shapeTrap x hnd off with
    | some t => allLanes s lanes t
    | none =>
      match s.mtxReady x lanes [(at_, 64)] false with
      | (s', false) => .park s' ⟨x.i.lanes, [], none, [(at_, 64)], false⟩
      | (s', true) =>
        if (x.mtxPoison [(at_, 64)]).isSome then .poison ((x.mtxPoison [(at_, 64)]).getD .uncorrectable) ⟨false, false⟩
        else
          match x.tstreamTrap coff (record x.scratch) with
          | some t => allLanes s' lanes t
          | none =>
            .done ((maskLanes lanes).foldl (fun s i =>
              s.emit x false (.tstream o.dst.toNat i (record x.scratch) (wordsOf (x.valN o.sb 4 i) 4) coff)) s') []))

/-! ## `fetcht` -/

/-- `fetcht`. -/
def execFetcht (o : FmtV) (s : State) : Out :=
  .next (s.runWord { specV (.fetcht o) o [src o.sa o.ea] [dst o.dst 4] with region := some 0xC2 } (fun x _ s =>
    .done (s.emit x false (.fetcht (min (max (x.uniform o.sa) 1) 16) o.dst.toNat)) []))

/-! ## Waiting after the clause -/

/-- Add a wait that begins when the clause of the issue set ends (R96). -/
def State.waitAfter (s : State) (x : Ctx) (w : Wait) : State :=
  s.modGroup x.ref.g (fun y =>
    y.setIssue x.ref.second ((y.issue? x.ref.second).map (fun i => { i with after := i.after.join w })))

/-- `bar`: the arrival follows its release, which is made for the lanes of the issue set. -/
def execBar (o : FmtI) (s : State) : Out :=
  let id := o.imm.toNat % 16
  .next (s.runWord { specI (.bar o) o [] with region := some 0xC3 } (fun x _ s =>
    .done ((s.waitAfter x (.bar id x.i.lanes false)).emit x false (.bar id (x.uniform o.sa) x.i.lanes)) []))

/-- `barb`. -/
def execBarb (o : FmtI) (s : State) : Out :=
  let id := o.imm.toNat % 4
  .next (s.runWord { specI (.barb o) o [] with region := some 0xC4 } (fun x _ s =>
    .done ((s.waitAfter x (.barb id x.i.lanes false)).emit x false (.barb id (x.uniform o.sa) x.i.lanes)) []))

/-- `yield`. -/
def execYield (o : FmtS) (s : State) : Out :=
  .next (s.runWord (plainSpec (.yield o) o.guard) (fun x _ s => .done (s.waitAfter x .yield) []))

/-- CYC of a core's cluster. -/
def State.cycOf (s : State) (core : Nat) : Nat := ((s.cluster? (clusterOf core)).map (fun k => k.cyc)).getD 0

/-- `sleep`. -/
def execSleep (o : FmtS) (s : State) : Out :=
  .next (s.runWord { plainSpec (.sleep o) o.guard with srcs := [src o.sa o.ea] } (fun x _ s =>
    let n := x.uniform o.sa
    .done (if n = 0 then s else (s.waitAfter x (.sleep n (s.cycOf x.c.core))).post (.sleepExpiry x.ref.g)) []))

/-! ## System registers (Tables 3.7 to 3.10) -/

/-- XSTAT. -/
def Ctx.xstat (x : Ctx) : Nat :=
  let partner := ((x.c.group? (partnerGid x.g.gid)).map (fun y => y.r.xheld)).getD false
  (x.l.xreg % 256) * 256 + (if partner then 2 else 0) + (if x.g.r.xheld then 1 else 0)

/-- The value of a register of Table 3.7. -/
def State.sysValue (s : State) (x : Ctx) (n : Nat) : Nat :=
  match n with
  | 0x000 => gstat x.l x.c x.g
  | 0x001 => x.g.r.live.toNat
  | 0x002 => x.g.r.fpcr.toNat
  | 0x003 => x.g.r.fpsr.toNat
  | 0x004 => x.g.r.mfr.toNat
  | 0x010 => x.g.r.tcause.toNat
  | 0x011 => x.g.r.tpc.toNat
  | 0x012 => x.g.r.tskid.toNat
  | 0x013 => x.g.r.taddr.toNat
  | 0x014 => x.g.r.tvec.toNat
  | 0x018 => x.g.r.rpc.toNat
  | 0x019 => x.g.r.racc.toNat
  | 0x020 => x.l.budget
  | 0x021 => x.xstat
  | _ => s.cycOf x.c.core

/-- A number from 0x800 up, which `mfs` and `mts` may not reach (R67). -/
def sysPrivileged (n : BitVec 12) : Bool := 0x800 ≤ n.toNat

/-- Cycles pass in a cluster: how many is open. -/
def State.passCycles (s : State) (cluster : Nat) : State :=
  s.tick.modCluster cluster (fun k => { k with cyc := (k.cyc + Config.freeNat s.fresh) % 2 ^ 64 })

/-- `mfs`: CYC is empty until its fill, the others are written at once. -/
def execMfs (o : FmtS) (s : State) : Out :=
  let k := o.sysn.toNat
  let n := if sysIs64 o.sysn then 2 else 1
  .next (s.runWord { plainSpec (.mfs o) o.guard with dsts := [dst o.dst n], priv := sysPrivileged o.sysn } (fun x lanes s =>
    if k = 0x030 then
      let s := s.passCycles (clusterOf x.c.core)
      .done (s.fillLater x (x.active o.guard) lanes o.dst.toNat n (fun _ => wordsOf (s.sysValue x k) n)) []
    else
      let v := wordsOf (s.sysValue x k) n
      .done (s.modGroup x.ref.g (fun y => (maskLanes lanes).foldl (fun y i => y.put (x.active o.guard) o.dst.toNat i v) y)) []))

/-- Whether `mts` to a register takes trap 0x04: read-only ones, MFR, GMASK outside a handler, privileged ones (R209). -/
def Ctx.mtsDenied (x : Ctx) (n : BitVec 12) : Bool :=
  sysPrivileged n || !([0x001, 0x002, 0x003, 0x014, 0x019].contains n.toNat) || (n == 0x001 && !x.g.r.inTrap)

/-- `mts`: the write takes effect when the clause retires. -/
def execMts (o : FmtS) (s : State) : Out :=
  let n := if sysIs64 o.sysn then 2 else 1
  .next (s.runWord { plainSpec (.mts o) o.guard with
      srcs := [.reg o.sa.toNat o.ea n], priv := s.inCtx (fun x => x.mtsDenied o.sysn),
      region := if o.sysn = 0x019 then some 0xC9 else none } (fun x _ s =>
    let v := w64 (x.value o.sa.toNat n 0)
    .done (s.modGroup x.ref.g (fun y => y.setIssue x.ref.second ((y.issue? x.ref.second).map (fun i =>
      { i with sysWrites := i.sysWrites ++ [(o.sysn.toNat, v)] })))) []))

/-! ## `getc` (Table 11.9) -/

/-- An item for a lane; `a` is the source. A group that is not defined reads view 0 (R397). -/
def State.item (s : State) (x : Ctx) (n a lane : Nat) : Nat :=
  let l := x.g.r.lane lane
  match n with
  | 0x000 => if x.g.r.inTrap then l.resumePc.toNat else 0
  | 0x001 => (l.tok.map (fun t => 65536 + t.mask.toNat)).getD 0
  | 0x002 => (l.tok.map (fun t => t.addr.toNat)).getD 0
  | 0x003 => (x.g.slots.filter (fun t => t.acc.addr.any (fun p => p.1 == lane))).length
  | 0x010 => s.clusterTiles (clusterOf x.c.core) x.l.lid
  | 0x011 => dieOf x.c.core * 65536 + clusterOf x.c.core % 8 * 256 + x.c.core % 12
  | 0x012 => ((s.mgroup? a).map (fun m => m.view % 2 ^ 32)).getD 0
  | 0x013 => s.bandStatus x.l x.c.core a
  | _ => s.locksFree x.c.core

/-- `getc`. -/
def execGetc (o : FmtS) (s : State) : Out :=
  let k := o.sysn.toNat
  let n := if k = 0x000 ∨ k = 0x002 then 2 else 1
  .next (s.runWord { plainSpec (.getc o) o.guard with
      srcs := if getcTakesSource o.sysn then [src o.sa o.ea] else [], dsts := [dst o.dst n] } (fun x lanes s =>
    let a := x.uniform o.sa
    if k = 0x013 ∧ 64 ≤ a then allLanes s lanes (0x28, a % 256)
    else .done (s.tick.fillLater x (x.active o.guard) lanes o.dst.toNat n (fun i => wordsOf (s.item x k a i) n)) []))

/-! ## The extended set -/

/-- Whether the group holds the set, buffered operations of a checked clause included. -/
def Ctx.holds (x : Ctx) : Bool :=
  x.g.queued.foldl (fun h u => match u with
    | .xacq _ _ => h || !((x.c.group? (partnerGid x.g.gid)).map (fun y => y.r.xheld)).getD false
    | .xrel => false
    | _ => h) x.g.r.xheld

/-- `xacq`. -/
def execXacq (o : FmtS) (s : State) : Out :=
  .next (s.runWord { plainSpec (.xacq o) o.guard with dsts := [.pred o.dst.toNat] } (fun x lanes s =>
    if x.l.xreg = 0 then allLanes s lanes (0x1A, 0xFE) else .done (s.emit x false (.xacq o.dst.toNat lanes)) []))

/-- `xrel`: it waits for the fills to the extended registers. -/
def execXrel (o : FmtS) (s : State) : Out :=
  .next (s.runWord { plainSpec (.xrel o) o.guard with region := some 0xCE } (fun x lanes s =>
    if x.l.xreg = 0 || !x.holds then allLanes s lanes (0x1A, 0xFE)
    else if x.g.r.extBusy then .stall
    else .done (s.emit x false .xrel) []))

/-! ## `inject` and unassigned opcodes -/

/-- `inject`: trap 0x04 outside a test partition. -/
def execInject (o : FmtS) (s : State) : Out :=
  let n := if sysIs64 o.sysn then 2 else 1
  .next (s.runWord { plainSpec (.inject o) o.guard with
      srcs := [.reg o.sa.toNat o.ea n],
      priv := s.inCtx (fun x => !((s.part? x.l.part).map (fun p => p.test)).getD false) } (fun x _ s =>
    .done (s.emit x false (.inject o.sysn.toNat (w64 (x.value o.sa.toNat n 0)))) []))

/-- A word whose major opcode is unassigned: trap 0x01 with INFO 0x01 (R90, R91). -/
def execIllegalInstruction (guard : Guard) (opc : BitVec 8) (s : State) : Out :=
  .next (s.runWord (plainSpec (.illegalInstruction guard opc) guard) (fun _ lanes s => allLanes s lanes (0x01, 0x01)))

end Sys2Proof.Machine
end

