-- ==== Sys2Proof/Machine/Dispatch.lean ====
section
/-!
DEFINITION. The step of every instruction form and device event: one arm per constructor of Instr, each one direct call
of its meaning.
-/
namespace Sys2Proof.Machine

def exec (i : Instr) (s : State) : Host.Outcome State Fault Refusal :=
  match i with
  | .iadd a => Sys2Proof.Machine.execIadd a s
  | .iaddImm a => Sys2Proof.Machine.execIaddImm a s
  | .isub a => Sys2Proof.Machine.execIsub a s
  | .imul a => Sys2Proof.Machine.execImul a s
  | .imulImm a => Sys2Proof.Machine.execImulImm a s
  | .imulhi a => Sys2Proof.Machine.execImulhi a s
  | .imad a => Sys2Proof.Machine.execImad a s
  | .iadd64 a => Sys2Proof.Machine.execIadd64 a s
  | .iabs a => Sys2Proof.Machine.execIabs a s
  | .ineg a => Sys2Proof.Machine.execIneg a s
  | .imin a => Sys2Proof.Machine.execImin a s
  | .iminImm a => Sys2Proof.Machine.execIminImm a s
  | .imax a => Sys2Proof.Machine.execImax a s
  | .imaxImm a => Sys2Proof.Machine.execImaxImm a s
  | .ishl a => Sys2Proof.Machine.execIshl a s
  | .ishlImm a => Sys2Proof.Machine.execIshlImm a s
  | .ishr a => Sys2Proof.Machine.execIshr a s
  | .ishrImm a => Sys2Proof.Machine.execIshrImm a s
  | .isar a => Sys2Proof.Machine.execIsar a s
  | .isarImm a => Sys2Proof.Machine.execIsarImm a s
  | .irot a => Sys2Proof.Machine.execIrot a s
  | .irotImm a => Sys2Proof.Machine.execIrotImm a s
  | .and a => Sys2Proof.Machine.execAnd a s
  | .andImm a => Sys2Proof.Machine.execAndImm a s
  | .or a => Sys2Proof.Machine.execOr a s
  | .orImm a => Sys2Proof.Machine.execOrImm a s
  | .xor a => Sys2Proof.Machine.execXor a s
  | .xorImm a => Sys2Proof.Machine.execXorImm a s
  | .andn a => Sys2Proof.Machine.execAndn a s
  | .popc a => Sys2Proof.Machine.execPopc a s
  | .clz a => Sys2Proof.Machine.execClz a s
  | .ctz a => Sys2Proof.Machine.execCtz a s
  | .brev a => Sys2Proof.Machine.execBrev a s
  | .lop3 a => Sys2Proof.Machine.execLop3 a s
  | .bfx a => Sys2Proof.Machine.execBfx a s
  | .bfxImm a => Sys2Proof.Machine.execBfxImm a s
  | .bfi a => Sys2Proof.Machine.execBfi a s
  | .sel a => Sys2Proof.Machine.execSel a s
  | .icmp a => Sys2Proof.Machine.execIcmp a s
  | .icmpImm a => Sys2Proof.Machine.execIcmpImm a s
  | .mov a => Sys2Proof.Machine.execMov a s
  | .movi a => Sys2Proof.Machine.execMovi a s
  | .nop a => Sys2Proof.Machine.execNop a s
  | .pand a => Sys2Proof.Machine.execPand a s
  | .por a => Sys2Proof.Machine.execPor a s
  | .pxor a => Sys2Proof.Machine.execPxor a s
  | .pnot a => Sys2Proof.Machine.execPnot a s
  | .pmov a => Sys2Proof.Machine.execPmov a s
  | .qxch a => Sys2Proof.Machine.execQxch a s
  | .qbcast a => Sys2Proof.Machine.execQbcast a s
  | .gshf a => Sys2Proof.Machine.execGshf a s
  | .vote a => Sys2Proof.Machine.execVote a s
  | .matchWord a => Sys2Proof.Machine.execMatchWord a s
  | .elect a => Sys2Proof.Machine.execElect a s
  | .fadd a => Sys2Proof.Machine.execFadd a s
  | .fsub a => Sys2Proof.Machine.execFsub a s
  | .fmul a => Sys2Proof.Machine.execFmul a s
  | .fma a => Sys2Proof.Machine.execFma a s
  | .fscale a => Sys2Proof.Machine.execFscale a s
  | .fround a => Sys2Proof.Machine.execFround a s
  | .fmin a => Sys2Proof.Machine.execFmin a s
  | .fmax a => Sys2Proof.Machine.execFmax a s
  | .fminn a => Sys2Proof.Machine.execFminn a s
  | .fmaxn a => Sys2Proof.Machine.execFmaxn a s
  | .fabs a => Sys2Proof.Machine.execFabs a s
  | .fneg a => Sys2Proof.Machine.execFneg a s
  | .fcmp a => Sys2Proof.Machine.execFcmp a s
  | .fclass a => Sys2Proof.Machine.execFclass a s
  | .frcp a => Sys2Proof.Machine.execFrcp a s
  | .frsq a => Sys2Proof.Machine.execFrsq a s
  | .fsqrt a => Sys2Proof.Machine.execFsqrt a s
  | .fexp2 a => Sys2Proof.Machine.execFexp2 a s
  | .flog2 a => Sys2Proof.Machine.execFlog2 a s
  | .fsin a => Sys2Proof.Machine.execFsin a s
  | .fcos a => Sys2Proof.Machine.execFcos a s
  | .ftanh a => Sys2Proof.Machine.execFtanh a s
  | .cvt a => Sys2Proof.Machine.execCvt a s
  | .fpk a => Sys2Proof.Machine.execFpk a s
  | .hadd2 a => Sys2Proof.Machine.execHadd2 a s
  | .hmul2 a => Sys2Proof.Machine.execHmul2 a s
  | .hfma2 a => Sys2Proof.Machine.execHfma2 a s
  | .fdot2 a => Sys2Proof.Machine.execFdot2 a s
  | .qmx a => Sys2Proof.Machine.execQmx a s
  | .mma a => Sys2Proof.Machine.execMma a s
  | .mzero a => Sys2Proof.Machine.execMzero a s
  | .mld a => Sys2Proof.Machine.execMld a s
  | .mst a => Sys2Proof.Machine.execMst a s
  | .mrd a => Sys2Proof.Machine.execMrd a s
  | .mwr a => Sys2Proof.Machine.execMwr a s
  | .mscl a => Sys2Proof.Machine.execMscl a s
  | .mtd a => Sys2Proof.Machine.execMtd a s
  | .mfd a => Sys2Proof.Machine.execMfd a s
  | .mfmt a => Sys2Proof.Machine.execMfmt a s
  | .ld a => Sys2Proof.Machine.execLd a s
  | .st a => Sys2Proof.Machine.execSt a s
  | .ldw a => Sys2Proof.Machine.execLdw a s
  | .stf a => Sys2Proof.Machine.execStf a s
  | .pref a => Sys2Proof.Machine.execPref a s
  | .atom a => Sys2Proof.Machine.execAtom a s
  | .cas a => Sys2Proof.Machine.execCas a s
  | .fence a => Sys2Proof.Machine.execFence a s
  | .promote a => Sys2Proof.Machine.execPromote a s
  | .waitc a => Sys2Proof.Machine.execWaitc a s
  | .bandj a => Sys2Proof.Machine.execBandj a s
  | .bandl a => Sys2Proof.Machine.execBandl a s
  | .bandx a => Sys2Proof.Machine.execBandx a s
  | .wbr a => Sys2Proof.Machine.execWbr a s
  | .invr a => Sys2Proof.Machine.execInvr a s
  | .mapset a => Sys2Proof.Machine.execMapset a s
  | .mapflush a => Sys2Proof.Machine.execMapflush a s
  | .hld a => Sys2Proof.Machine.execHld a s
  | .push a => Sys2Proof.Machine.execPush a s
  | .tstream a => Sys2Proof.Machine.execTstream a s
  | .fetcht a => Sys2Proof.Machine.execFetcht a s
  | .bar a => Sys2Proof.Machine.execBar a s
  | .barb a => Sys2Proof.Machine.execBarb a s
  | .mfs a => Sys2Proof.Machine.execMfs a s
  | .mts a => Sys2Proof.Machine.execMts a s
  | .getc a => Sys2Proof.Machine.execGetc a s
  | .yield a => Sys2Proof.Machine.execYield a s
  | .sleep a => Sys2Proof.Machine.execSleep a s
  | .xacq a => Sys2Proof.Machine.execXacq a s
  | .xrel a => Sys2Proof.Machine.execXrel a s
  | .inject a => Sys2Proof.Machine.execInject a s
  | .bra a => Sys2Proof.Machine.execBra a s
  | .brx a => Sys2Proof.Machine.execBrx a s
  | .call a => Sys2Proof.Machine.execCall a s
  | .ret a => Sys2Proof.Machine.execRet a s
  | .jmpi a => Sys2Proof.Machine.execJmpi a s
  | .rejoin a => Sys2Proof.Machine.execRejoin a s
  | .kill a => Sys2Proof.Machine.execKill a s
  | .exit a => Sys2Proof.Machine.execExit a s
  | .trap a => Sys2Proof.Machine.execTrap a s
  | .rett a => Sys2Proof.Machine.execRett a s
  | .slotVote a b => Sys2Proof.Machine.execSlotVote a b s
  | .clauseFetchDone a b c d e => Sys2Proof.Machine.execClauseFetchDone a b c d e s
  | .registerFill a b => Sys2Proof.Machine.execRegisterFill a b s
  | .checkedCompare a b => Sys2Proof.Machine.execCheckedCompare a b s
  | .checkedWaitExpiry a => Sys2Proof.Machine.execCheckedWaitExpiry a s
  | .spinDetectLower a => Sys2Proof.Machine.execSpinDetectLower a s
  | .spinReleaseTimeout a => Sys2Proof.Machine.execSpinReleaseTimeout a s
  | .asyncTrapDelivery a => Sys2Proof.Machine.execAsyncTrapDelivery a s
  | .sleepExpiry a => Sys2Proof.Machine.execSleepExpiry a s
  | .waitcReread a b => Sys2Proof.Machine.execWaitcReread a b s
  | .homeSliceRequest a => Sys2Proof.Machine.execHomeSliceRequest a s
  | .releaseActionsDone a b => Sys2Proof.Machine.execReleaseActionsDone a b s
  | .l1WayWritebackDone a b => Sys2Proof.Machine.execL1WayWritebackDone a b s
  | .hbmSectorRead a b c => Sys2Proof.Machine.execHbmSectorRead a b c s
  | .walkStart a => Sys2Proof.Machine.execWalkStart a s
  | .walkComplete a => Sys2Proof.Machine.execWalkComplete a s
  | .faultRecordWrite a => Sys2Proof.Machine.execFaultRecordWrite a s
  | .faultAnswerResolved a => Sys2Proof.Machine.execFaultAnswerResolved a s
  | .faultAnswerRefused a => Sys2Proof.Machine.execFaultAnswerRefused a s
  | .invalidateRange a => Sys2Proof.Machine.execInvalidateRange a s
  | .invalidateContext a => Sys2Proof.Machine.execInvalidateContext a s
  | .invalidationDone a => Sys2Proof.Machine.execInvalidationDone a s
  | .placementCountThreshold a => Sys2Proof.Machine.execPlacementCountThreshold a s
  | .storageFrameTaken a => Sys2Proof.Machine.execStorageFrameTaken a s
  | .storagePageReadDone a b => Sys2Proof.Machine.execStoragePageReadDone a b s
  | .reclaimSweep a b => Sys2Proof.Machine.execReclaimSweep a b s
  | .reclaimWritebackDone a b c => Sys2Proof.Machine.execReclaimWritebackDone a b c s
  | .flist a b => Sys2Proof.Machine.execFlist a b s
  | .engineCommandStart a => Sys2Proof.Machine.execEngineCommandStart a s
  | .copyRows a => Sys2Proof.Machine.execCopyRows a s
  | .fillRows a => Sys2Proof.Machine.execFillRows a s
  | .allReduce a => Sys2Proof.Machine.execAllReduce a s
  | .reduceScatter a => Sys2Proof.Machine.execReduceScatter a s
  | .allGather a => Sys2Proof.Machine.execAllGather a s
  | .broadcast a => Sys2Proof.Machine.execBroadcast a s
  | .storageRead a b => Sys2Proof.Machine.execStorageRead a b s
  | .storageWrite a b => Sys2Proof.Machine.execStorageWrite a b s
  | .storageFlush a b => Sys2Proof.Machine.execStorageFlush a b s
  | .launchCommand a => Sys2Proof.Machine.execLaunchCommand a s
  | .tstreamLoad a => Sys2Proof.Machine.execTstreamLoad a s
  | .tstreamStore a => Sys2Proof.Machine.execTstreamStore a s
  | .commandCompletion a => Sys2Proof.Machine.execCommandCompletion a s
  | .dispenserRequest a b => Sys2Proof.Machine.execDispenserRequest a b s
  | .stealRequest a b => Sys2Proof.Machine.execStealRequest a b s
  | .stealAnswer a b => Sys2Proof.Machine.execStealAnswer a b s
  | .kick a b c => Sys2Proof.Machine.execKick a b c s
  | .launchRecordTake a => Sys2Proof.Machine.execLaunchRecordTake a s
  | .bindRecord a => Sys2Proof.Machine.execBindRecord a s
  | .atticWriteAck a => Sys2Proof.Machine.execAtticWriteAck a s
  | .mapAtticWriteback a => Sys2Proof.Machine.execMapAtticWriteback a s
  | .restoreFrameReadDone a => Sys2Proof.Machine.execRestoreFrameReadDone a s
  | .cooperativePreemptRequest a b => Sys2Proof.Machine.execCooperativePreemptRequest a b s
  | .budgetOverrun a => Sys2Proof.Machine.execBudgetOverrun a s
  | .saveComplete a => Sys2Proof.Machine.execSaveComplete a s
  | .spatialPreemptRequest a b => Sys2Proof.Machine.execSpatialPreemptRequest a b s
  | .cohortSwap a => Sys2Proof.Machine.execCohortSwap a s
  | .groupRetire a => Sys2Proof.Machine.execGroupRetire a s
  | .cohortRetire a => Sys2Proof.Machine.execCohortRetire a s
  | .completionEntryWrite a => Sys2Proof.Machine.execCompletionEntryWrite a s
  | .bandAskArrival a b c => Sys2Proof.Machine.execBandAskArrival a b c s
  | .bandHoldTimerExpiry a b => Sys2Proof.Machine.execBandHoldTimerExpiry a b s
  | .bandFillLand a b => Sys2Proof.Machine.execBandFillLand a b s
  | .firstTouchFillDone a b c => Sys2Proof.Machine.execFirstTouchFillDone a b c s
  | .homeUnavailableRetry a => Sys2Proof.Machine.execHomeUnavailableRetry a s
  | .regulatorRefill a => Sys2Proof.Machine.execRegulatorRefill a s
  | .rafterAllowanceRefill a => Sys2Proof.Machine.execRafterAllowanceRefill a s
  | .patrolScrubRead a b => Sys2Proof.Machine.execPatrolScrubRead a b s
  | .demandScrub a => Sys2Proof.Machine.execDemandScrub a s
  | .reblockOrder a b => Sys2Proof.Machine.execReblockOrder a b s
  | .reblockRehash a => Sys2Proof.Machine.execReblockRehash a s
  | .partitionReset a b => Sys2Proof.Machine.execPartitionReset a b s
  | .drainExpiry a => Sys2Proof.Machine.execDrainExpiry a s
  | .lockInterface a => Sys2Proof.Machine.execLockInterface a s
  | .startInterface a => Sys2Proof.Machine.execStartInterface a s
  | .stopInterface a => Sys2Proof.Machine.execStopInterface a s
  | .lockedItemChange a => Sys2Proof.Machine.execLockedItemChange a s
  | .invreq a b => Sys2Proof.Machine.execInvreq a b s
  | .fresp a b c => Sys2Proof.Machine.execFresp a b c s
  | .logreq a b => Sys2Proof.Machine.execLogreq a b s
  | .accessLogRecord a => Sys2Proof.Machine.execAccessLogRecord a s
  | .registerWrite a b => Sys2Proof.Machine.execRegisterWrite a b s
  | .precopy a => Sys2Proof.Machine.execPrecopy a s
  | .stop a => Sys2Proof.Machine.execStop a s
  | .migrationStopped a => Sys2Proof.Machine.execMigrationStopped a s
  | .resume a => Sys2Proof.Machine.execResume a s
  | .abort a => Sys2Proof.Machine.execAbort a s
  | .finish a => Sys2Proof.Machine.execFinish a s
  | .migackSource a b => Sys2Proof.Machine.execMigackSource a b s
  | .migackDestination a b => Sys2Proof.Machine.execMigackDestination a b s
  | .keyDomainLoad a b => Sys2Proof.Machine.execKeyDomainLoad a b s
  | .rafterPortsDown a => Sys2Proof.Machine.execRafterPortsDown a s
  | .ringStepTimeout a b => Sys2Proof.Machine.execRingStepTimeout a b s
  | .propose a => Sys2Proof.Machine.execPropose a s
  | .accept a => Sys2Proof.Machine.execAccept a s
  | .refuse a => Sys2Proof.Machine.execRefuse a s
  | .commit a => Sys2Proof.Machine.execCommit a s
  | .agreementTimeout a => Sys2Proof.Machine.execAgreementTimeout a s
  | .joinreq a => Sys2Proof.Machine.execJoinreq a s
  | .exclude a => Sys2Proof.Machine.execExclude a s
  | .viewDataPacket a => Sys2Proof.Machine.execViewDataPacket a s
  | .collectiveAbort a => Sys2Proof.Machine.execCollectiveAbort a s
  | .powerGood => Sys2Proof.Machine.execPowerGood s
  | .imageUnlock => Sys2Proof.Machine.execImageUnlock s
  | .heartbeat a => Sys2Proof.Machine.execHeartbeat a s
  | .watchdogExpiry a => Sys2Proof.Machine.execWatchdogExpiry a s
  | .warmResetOrder a b c d => Sys2Proof.Machine.execWarmResetOrder a b c d s
  | .warmResetReadmit a => Sys2Proof.Machine.execWarmResetReadmit a s
  | .selfTest a b => Sys2Proof.Machine.execSelfTest a b s
  | .imageInstall a b c => Sys2Proof.Machine.execImageInstall a b c s
  | .boostIntervalBoundary a => Sys2Proof.Machine.execBoostIntervalBoundary a s
  | .boostClaim a => Sys2Proof.Machine.execBoostClaim a s
  | .illegalInstruction a b => Sys2Proof.Machine.execIllegalInstruction a b s
  | .matrixWordRetire a b => Sys2Proof.Machine.execMatrixWordRetire a b s
  | .powerRemoved => Sys2Proof.Machine.execPowerRemoved s
  | .partitionFormation a => Sys2Proof.Machine.execPartitionFormation a s
  | .membershipGroupDefinition a b c => Sys2Proof.Machine.execMembershipGroupDefinition a b c s
  | .interfaceCreation a => Sys2Proof.Machine.execInterfaceCreation a s
  | .coreWithdrawal a b => Sys2Proof.Machine.execCoreWithdrawal a b s

end Sys2Proof.Machine
end

