-- ==== Sys2Proof/Machine/Fetch.lean ====
section
/-!
DEFINITION. What moves next (the model's schedule, notes/assumptions/3.md), the fetch of a running issue set's next word
(R99), and the placing of a word where the next step fetches it.
-/
namespace Sys2Proof.Machine

/-! ## The next choice -/

/-- A group's issue set is ready. -/
def Group.ready (g : Group) (second : Bool) : Bool := ((g.issue? second).map Issue.ready).getD false

/-- The first issue set of a cohort that is ready. Two sets issue their words in turn, P1 before P2 in each cycle (R99). -/
def Cohort.readyIssue (c : Cohort) : Option Choice :=
  c.groups.findSome? (fun g =>
    let second := if g.ready false then g.p2next && g.ready true else true
    if g.ready second then some (.word ⟨c.ref.lid, c.ref.cid, g.gid⟩ second) else none)

/-- A slot of a core whose vote would move something. -/
def State.openSlot (s : State) : Option Choice :=
  s.cores.findSome? (fun k =>
    if s.cohorts.any (fun c => c.core == k.no) then
      ((List.range 4).find? (s.voteMoves k.no)).map (fun slot => Choice.vote k.no slot)
    else none)

/-- Events that only the passing of time brings about. -/
def Instr.timed : Instr → Bool
  | .spinReleaseTimeout _ | .sleepExpiry _ | .bandHoldTimerExpiry _ _ | .regulatorRefill _ | .rafterAllowanceRefill _
  | .homeUnavailableRetry _ | .agreementTimeout _ | .checkedWaitExpiry _ | .drainExpiry _ | .budgetOverrun _ | .reclaimSweep _ _ => true
  | _ => false

/-- The first pending event that is timed, or the first that is not. -/
def State.pendingIs (s : State) (timed : Bool) : Option Choice :=
  (s.pend.findIdx? (fun i => Instr.timed i == timed)).map Choice.pending

/-- What the next step does: the schedule's head, or the default order of notes/assumptions/3.md. -/
def State.nextChoice (s : State) : Option Choice :=
  match s.sched with
  | c :: _ => some c
  | [] =>
    match s.cohorts.findSome? Cohort.readyIssue with
    | some c => some c
    | none =>
      match s.pendingIs false with
      | some c => some c
      | none =>
        if !s.inputs.isEmpty then some .input
        else if 17 ≤ s.turn then none
        else (if s.turn = 16 then none else s.openSlot).or (s.pendingIs true)

/-! ## Fetching a word -/

/-- The instruction that an issue set executes next, if a word is left. -/
def Issue.instr? (i : Issue) : Option Instr :=
  if i.ended then none
  else
    match i.words.drop i.idx with
    | [] => none
    | w :: rest => some (fetchInstr w (rest.headD 0))

/-- The issue set that a choice names. -/
def State.issueOf (s : State) (g : GRef) (second : Bool) : Option Issue :=
  (s.group? g).bind (fun x => x.issue? second)

/-- The state in which the word of an issue set executes: after the P1 set's word of a cycle comes the P2 set's (R99). -/
def State.atWord (s : State) (g : GRef) (second : Bool) : State :=
  ({ s with sched := s.sched.drop 1, cur := some ⟨g, second⟩ } : State).modGroup g (fun x => { (if second then x else x.takeMfr) with p2next := !second })

/-- The state in which a pending event happens. -/
def State.atPending (s : State) (n : Nat) : State :=
  { s with sched := s.sched.drop 1, cur := none, pend := s.pend.eraseIdx n
           turn := if ((s.pend[n]?).map Instr.timed).getD false then s.turn + 1 else s.turn }

/-- The state in which the next input happens. -/
def State.atInput (s : State) : State :=
  { s with sched := s.sched.drop 1, cur := none, inputs := s.inputs.drop 1 }

/-- The state in which a slot votes. -/
def State.atVote (s : State) : State := { s with sched := s.sched.drop 1, cur := none, turn := s.turn + 1 }

/-- Nothing else is to move, or the choice names nothing: words that wait in their slots, and everything that may have become possible,
are tried again. -/
def State.idle (s : State) : State :=
  let wake (i : Issue) : Issue := { i with waiting := false }
  ({ s with
    sched := s.sched.drop 1
    cur := none
    turn := 0
    cohorts := s.cohorts.map (fun c => { c with groups := c.groups.map (fun g =>
      { g with run1 := g.run1.map wake, run2 := g.run2.map wake }) }) } : State).retry

/-! ## Placing a word -/

/-- CLASS of a major opcode (Table 3.4). -/
def classOfOpc (opc : Nat) : Nat :=
  if opc < 0x40 then 0 else if opc < 0x70 then 1 else if opc < 0x90 then 2 else if opc < 0xC0 then 3
  else if opc < 0xC8 then 4 else if opc < 0xD0 then 5 else 6

/-- The launch under which a placed word runs: every declared count at its largest. -/
def placedLaunch (lid : Nat) : Launch :=
  { lid := lid, qid := 0, vif := 0, part := 0, kdom := 0, classH := false, idx := 0, tag := 0, entry := 0,
    handles := [], sysMarks := [], bands := [], tilesX := 1, tilesY := 1, tilesZ := 1, blk := 0, cores := 1, grp := 1, breg := 128,
    xreg := 64, scr := 65536, acc := 8, chk := false, trs := false, ser := false, budget := 0, parent := none,
    parentLid := none, phase := .running, placed := true, bound := 1, retired := 0, mismatchCores := [], grants := [], spatial := [], cring := 0, clog := 0 }

/-- The issue set of a placed word: a clause of its class at address 0. -/
def placedIssue (words : List DWord) : Issue :=
  let cls := classOfOpc (wordOpc (words.headD 0)).toNat
  { hdr := 0, cls := cls, rx := false, words := words, idx := 0, lanes := 0xFFFF, sysWrites := [], after := .none,
    waiting := false, held := false, why := none, dying := 0, loops := false, ended := false, differs := false }

/-- A fresh cohort of one group on core 0. -/
def placedCohort (lid : Nat) (words : List DWord) : Cohort :=
  let g := Group.start 0 0 0 8
  { ref := ⟨lid, 0⟩, bid := 0, core := 0, slot := 0, regb := 0, scrb := 0, gidx := 0, accb := 0, blk := 0,
    groups := [{ g with run1 := some (placedIssue words) }], scratch := [], granEmpty := [], scrPoison := [],
    maps := Vector.replicate 8 MapEntry.unbound, bars := Vector.replicate 16 Barrier.zero,
    bbars := Vector.replicate 4 Barrier.zero, child := none, phase := .resident, budget := none, spatial := false,
    saves := 0, benr := 0, deferred := [], classH := false, checked := false }

/-- The words of an opcode-table number: one, or two for `brx`. -/
def tableWords (nbits w : Nat) : List DWord :=
  let v := w % 2 ^ nbits
  let w0 := w64 v
  if wordOpc w0 == 0xD1 then [w0, w64 (v / 2 ^ 64)] else [w0]

/-- s with a running issue set that holds the words, chosen as the next step. -/
def State.placeWords (s : State) (words : List DWord) : State :=
  let lid := s.nextId
  { s with
    nextId := lid + 1
    launches := placedLaunch lid :: s.launches
    cohorts := placedCohort lid words :: s.cohorts
    cores := if s.cores.any (fun c => c.no == 0) then s.cores else Core.fresh 0 :: s.cores
    clusters := if s.clusters.any (fun c => c.no == 0) then s.clusters else Cluster.fresh 0 :: s.clusters
    dies := if s.dies.any (fun d => d.no == 0) then s.dies else Die.fresh 0 :: s.dies
    sched := [.word ⟨lid, 0, 0⟩ false] }

end Sys2Proof.Machine
end

