-- ==== Sys2Proof/Machine/Step.lean ====
section
/-!
DEFINITION. One step of the package: the next word of a running issue set, a pending device event, an input or a vote,
as the schedule says.
-/
namespace Sys2Proof.Machine

def step (s : State) : Host.Outcome State Fault Refusal :=
  match s.nextChoice with
  | none => .next s.idle
  | some (.word g second) =>
    match s.issueOf g second with
    | none => .next s.idle
    | some i =>
      match i.instr? with
      | some x => exec x (s.atWord g second)
      | none => if i.ended then .next s.idle else .fault .noWordLeft
  | some (.pending n) =>
    match s.pend[n]? with
    | none => .next s.idle
    | some x => exec x (s.atPending n)
  | some .input =>
    match s.inputs with
    | [] => .next s.idle
    | x :: _ => exec x s.atInput
  | some (.vote core slot) => exec (.slotVote core slot) s.atVote

/-- s with the instruction stored where the next step fetches it: the words of a running issue set, chosen next. -/
def State.withFetchWord (s : State) (nbits w : Nat) : State := s.placeWords (tableWords nbits w)

end Sys2Proof.Machine
end

