-- ==== Sys2Proof/Safety.lean ====
section
/-!
DEFINITION. What counts as a safe run, and the words in which the claims are stated: the canonical form of memory, when a
word goes ahead past the checks of Table 5.6, the values that a word reads, and the ways in which a word leaves its
results.
-/
namespace Sys2Proof.Machine

/-! ## Safe runs -/

/-- The memory keeps its canonical form. -/
def State.memOk (s : State) : Prop := Memory.wf s.mem = true

/-- A step goes on: it answers a next state. -/
def State.goesOn (s : State) : Prop := ∃ t, step s = .next t

/-! ## A word that goes ahead -/

/-- A launch's partition is no test partition (R392): the injector does nothing there. -/
def State.calm (s : State) (part : Nat) : Prop := ∀ p, s.part? part = some p → p.test = false

/-- The word of the present issue, whose specification is `w`, goes ahead in `lanes`: its launch belongs to no test
partition (R392), its issue set is not held back (R107, R131), and steps 10 to 14 of Table 5.6 pass in every active lane. -/
structure State.Goes (s : State) (w : WordSpec) (x : Ctx) (lanes : Mask) : Prop where
  ctx : s.ctx? = some x
  moves : x.waits = false
  quiet : s.calm x.l.part
  check : x.check w = .go lanes []

/-- A word that goes ahead answers the state given, its issue set past the word. Its active lanes are those that go ahead, but for a
word that never traps at its operands (R185). -/
def State.Does (s : State) (w : WordSpec) (x : Ctx) (lanes : Mask) (t : State) : Prop :=
  s.Goes w x lanes → exec w.i s = .next (t.advance x (x.active w.guard))

/-- A control word that goes ahead ends its clause: the lanes listed go to the addresses given, the others of the issue
set to the fall-through header F. -/
def State.Jumps (s : State) (w : WordSpec) (x : Ctx) (lanes : Mask) (t : State) (pcs : List (Nat × DWord)) : Prop :=
  s.Goes w x lanes → exec w.i s = .next (t.leave x lanes pcs)

/-- A word that goes ahead and then takes one trap in every active lane, once the words before it can commit (R106). -/
def State.Traps (s : State) (w : WordSpec) (x : Ctx) (lanes : Mask) (code info : Nat) : Prop :=
  s.Goes w x lanes → exec w.i s = .next (s.trapOr x (s.wordTrap x lanes (trapAll lanes code info) false []))

/-! ## Values -/

/-- The word that a source field holds in a lane. -/
def Ctx.word (x : Ctx) (f : BitVec 8) (l : Nat) : Word := w32 (x.val f l)

/-- The pair that a source field holds in a lane. -/
def Ctx.pair (x : Ctx) (f : BitVec 8) (l : Nat) : DWord := w64 (x.valN f 2 l)

/-- The integer types that are signed: `.s32` and `.s64`. -/
def signedVar (v : BitVec 4) : Bool := v == 0xC || v == 0xE

/-- The integer that a pattern stands for. -/
def asInt {n : Nat} (signed : Bool) (a : BitVec n) : Int := if signed then a.toInt else a.toNat

/-- The nearest integer of the range of an n-bit type. -/
def clampTo (signed : Bool) (n : Nat) (v : Int) : Int :=
  if signed then max (-(2 : Int) ^ (n - 1)) (min v ((2 : Int) ^ (n - 1) - 1)) else max 0 (min v ((2 : Int) ^ n - 1))

/-- An exact integer as an n-bit result: clamped under SAT, then its low n bits. -/
def narrowTo (signed sat : Bool) (n : Nat) (v : Int) : BitVec n := BitVec.ofInt n (if sat then clampTo signed n v else v)

/-! ## Results -/

/-- Each lane of a mask has its words written from register d on, a w register by the first lane alone. -/
def State.wrote (s : State) (x : Ctx) (lanes : Mask) (d : Nat) (f : Nat → List Word) : State :=
  s.modGroup x.ref.g (fun y => (maskLanes lanes).foldl (fun y l => y.put lanes d l (f l)) y)

/-- Each lane of a mask has predicate p written. -/
def State.wrotePred (s : State) (x : Ctx) (lanes : Mask) (p : Nat) (f : Nat → Bool) : State :=
  s.modRegs x.ref.g (fun r => (maskLanes lanes).foldl (fun r l => r.setPred p l (f l)) r)

/-- No lane raises a flag that FPCR enables (R31). -/
def Ctx.noTrap (x : Ctx) (lanes : Mask) (f : Nat → FRes) : Prop :=
  ∀ l, l ∈ maskLanes lanes → (f l).flags &&& fpcrEnabled x.g.r = 0

/-- The flags of every lane of a mask. -/
def raisedBy (lanes : Mask) (f : Nat → FRes) : Word := w32 ((maskLanes lanes).foldl (fun m l => m ||| (f l).flags) 0)

/-- FPSR takes the flags of every lane, and each lane has the n words of its pattern written. -/
def State.wroteFlt (s : State) (x : Ctx) (lanes : Mask) (d n : Nat) (f : Nat → FRes) : State :=
  s.modGroup x.ref.g (fun y => (maskLanes lanes).foldl (fun y l => y.put lanes d l (wordsOf (f l).pat n))
    { y with r := { y.r with fpsr := y.r.fpsr ||| raisedBy lanes f } })

/-- FPSR takes the flags, and the destination is empty until a fill brings each lane's pattern (R51). While FPCR enables a flag the
issue set issues no further word until the fill lands (R131). -/
def State.wroteLate (s : State) (x : Ctx) (lanes : Mask) (d : Nat) (f : Nat → FRes) : State :=
  (s.modGroup x.ref.g (fun y =>
    { y with r := ({ y.r with fpsr := y.r.fpsr ||| raisedBy lanes f } : Regs).setEmpty d lanes true })).addFillHeld
      x.ref.g d 1 lanes ((maskLanes lanes).map (fun l => (l, [w32 (f l).pat]))) x.g.r.inReg none
      (if fpcrEnabled x.g.r = 0 then 0 else x.i.lanes)

/-- The registers are empty until a fill brings each lane's words (R51). -/
def State.awaits (s : State) (x : Ctx) (lanes : Mask) (d n : Nat) (f : Nat → List Word) : State :=
  (s.modGroup x.ref.g (fun y => { y with r := y.r.setEmptyN d n lanes true })).addFill x.ref.g d n lanes
    ((maskLanes lanes).map (fun l => (l, f l))) x.g.r.inReg none

/-- FPSR takes the flags of every lane, and each lane has a predicate written. -/
def State.wroteFltPred (s : State) (x : Ctx) (lanes : Mask) (p : Nat) (c : Nat → Bool × Nat) : State :=
  s.modRegs x.ref.g (fun r => (maskLanes lanes).foldl (fun r l => r.setPred p l (c l).1)
    { r with fpsr := r.fpsr ||| w32 ((maskLanes lanes).foldl (fun m l => m ||| (c l).2) 0) })

/-! ## Tiles -/

/-- The descriptors that a word uses pass R150, the bytes that it stores lie in no read-only mapped region (R187), its scratchpad bytes
can be accessed now (R162), and none that it reads is poisoned (R387). -/
structure State.Reaches (s : State) (x : Ctx) (lanes : Mask) (us : List DescUse) (read : Bool) : Prop where
  descs : ∀ u, u ∈ us → s.descTrap x u = none
  writable : read = false → ∀ u, u ∈ us → ∀ p, p ∈ u.bytes → x.readOnlyHandle p.1 p.2 = none
  ready : s.mtxReady x lanes (us.flatMap (fun u => u.bytes)) read = (s, true)
  clean : read = true → x.mtxPoison (us.flatMap (fun u => u.bytes)) = none

/-- Elements of a tile take values, and an operation on the tile is in flight (R104, R161). -/
def State.changesTile (s : State) (x : Ctx) (tile : Nat) (mma : Bool) (vals : List (Nat × Nat × Word)) : State :=
  (s.accWrites x.ref.g tile vals).startTileOp x.ref.g tile mma

/-! ## Accesses -/

/-- The access that a word with an address in each lane makes. -/
def Ctx.asks (x : Ctx) (o : FmtM) (f : MemForm) (h : Handle) (lanes : Mask) : Access :=
  x.access o f.opc h (f.size x ((firstLane lanes).getD 0)) lanes ((maskLanes lanes).map (fun l => (l, x.ea o h f.useSy l)))

/-- The word sends an access when every lane passes its checks (R169, R170) and a replay slot is free if it may need one
(R190), and nothing of the group waits behind a `bandx` to be sent (R276). `early`: under checked execution it is sent as soon as the word compares
(R106). -/
def State.Sends (s : State) (w : WordSpec) (x : Ctx) (lanes : Mask) (o : FmtM) (f : MemForm) (early : Bool) (a : Access) :
    Prop :=
  (∀ l, l ∈ maskLanes lanes → s.memTrap x o f l = none) → (x.reserves a = true → s.slotFree x.c = true) →
  x.g.sending = [] →
  (s.emit x early (.mem a)).calm x.l.part → s.Does w x lanes (s.emit x early (.mem a))

/-! ## Groups -/

/-- A group stands in its cohort and launch. -/
structure State.Stands (s : State) (g : GRef) (l : Launch) (c : Cohort) (x : Group) : Prop where
  cohort : s.cohort? (GRefCohort g) = some c
  launch : s.launch? g.lid = some l
  group : c.group? g.gid = some x

/-! ## Commands -/

/-- A started command can do its work: it waits for nothing, every page and mapped sector that it touches can be accessed, and
its lines have their tokens, and its translations have been logged, which left the state `t` (R195, R241, R342, R362, R376). -/
structure State.Works (s : State) (k : Cmd) (l : Launch) (ts : List Touch) (t : State) : Prop where
  cmd : s.cmd? k.id = some k
  started : k.stage = .started
  free : k.waiting = false
  launch : s.launch? k.owner.lid = some l
  pages : s.engineStop k ts = none
  sectors : s.scratchStop l k = none
  tokens : s.tokenStop k ts = none
  logged : s.logTouches k ts = some t

/-! ## Frames -/

/-- The words of chapter 7 in formats V and I that write one or two registers: each with its first destination register and their
number. -/
def registerWords (o : FmtV) (p : FmtI) : List (WordSpec × Nat × Nat) :=
  let v (i : Instr) (ss : List SrcOp) (n : Nat) : WordSpec × Nat × Nat := (specV i o ss [dst o.dst n], o.dst.toNat, n)
  let m (i : Instr) : WordSpec × Nat × Nat := (specI i p [dst p.dst 1], p.dst.toNat, 1)
  [v (.iadd o) (srcsAB o) 1, v (.isub o) (srcsAB o) 1, v (.imul o) (srcsAB o) 1, v (.imulhi o) (srcsAB o) 1, v (.imad o) (srcsABC o) 1,
    v (.iadd64 o) [srcPair o.sa o.ea, srcPair o.sb o.eb] 2, v (.iabs o) (srcsA o) 1, v (.ineg o) (srcsA o) 1, v (.imin o) (srcsAB o) 1,
    v (.imax o) (srcsAB o) 1, v (.ishl o) (srcsAB o) 1, v (.ishr o) (srcsAB o) 1, v (.isar o) (srcsAB o) 1, v (.irot o) (srcsAB o) 1,
    v (.popc o) (srcsA o) 1, v (.clz o) (srcsA o) 1, v (.ctz o) (srcsA o) 1, v (.brev o) (srcsA o) 1, v (.and o) (srcsAB o) 1,
    v (.or o) (srcsAB o) 1, v (.xor o) (srcsAB o) 1, v (.andn o) (srcsAB o) 1, v (.lop3 o) (srcsABC o) 1, v (.bfx o) (srcsAB o) 1,
    v (.bfi o) (srcsABC o) 1, v (.sel o) (srcsAB o ++ [.pred o.sc.toNat]) 1, v (.mov o) (srcsA o) 1, m (.iaddImm p), m (.imulImm p),
    m (.iminImm p), m (.imaxImm p), m (.ishlImm p), m (.ishrImm p), m (.isarImm p), m (.irotImm p), m (.andImm p), m (.orImm p),
    m (.xorImm p), m (.bfxImm p)]

/-- The words of chapter 7 that write a predicate. -/
def predicateWords (o : FmtV) (p : FmtI) : List (WordSpec × Nat) :=
  let v (i : Instr) (ss : List SrcOp) : WordSpec × Nat := (specV i o ss [.pred o.dst.toNat], o.dst.toNat)
  [v (.icmp o) (srcsAB o), (specI (.icmpImm p) p [.pred p.dst.toNat], p.dst.toNat), v (.pand o) [.pred o.sa.toNat, .pred o.sb.toNat],
    v (.por o) [.pred o.sa.toNat, .pred o.sb.toNat], v (.pxor o) [.pred o.sa.toNat, .pred o.sb.toNat], v (.pnot o) [.pred o.sa.toNat],
    v (.pmov o) [.pred o.sa.toNat], v (.elect o) []]

/-- Registers n from d on keep their values but in the lanes of a mask, and all others keep theirs everywhere; of a w register
every lane reads the one value. -/
def Regs.keepsBut (a b : Regs) (lanes : Mask) (d n : Nat) : Prop :=
  ∀ r l, l < 16 → ¬ (d ≤ r ∧ r < d + n ∧ (0xC0 ≤ r ∨ lanes.getLsbD l = true)) → b.read r l = a.read r l

/-- Predicates keep their values but predicate p in the lanes of a mask. -/
def Regs.keepsPredsBut (a b : Regs) (lanes : Mask) (p : Nat) : Prop :=
  ∀ q l, ¬ (q = p ∧ lanes.getLsbD l = true) → b.pred q l = a.pred q l

/-- Every status and special register, accumulator and descriptor of a group keeps its value, and its live lanes. -/
structure Regs.SameSpecials (a b : Regs) : Prop where
  live : b.live = a.live
  fpcr : b.fpcr = a.fpcr
  fpsr : b.fpsr = a.fpsr
  mfr : b.mfr = a.mfr
  tcause : b.tcause = a.tcause
  tskid : b.tskid = a.tskid
  tpc : b.tpc = a.tpc
  taddr : b.taddr = a.taddr
  tvec : b.tvec = a.tvec
  rpc : b.rpc = a.rpc
  racc : b.racc = a.racc
  inReg : b.inReg = a.inReg
  inTrap : b.inTrap = a.inTrap
  xheld : b.xheld = a.xheld
  desc : b.desc = a.desc
  acc : b.acc = a.acc
  shadow : b.shadow = a.shadow
  empty : b.ev = a.ev ∧ b.ew = a.ew

/-- A word that is not the last of its clause, in a cycle in which a `kill` of the group's other issue set removes no lane of it
(R128). -/
def Ctx.inner (x : Ctx) : Prop := x.i.idx + 1 < x.i.words.length ∧ x.i.dying = 0

end Sys2Proof.Machine
end

