-- ==== Sys2Proof/Certificates/Slice0/Obligations.lean ====
section
/-!
DEFINITION. The statements for the provers, in the words of Safety: the words of each chapter, the events of each unit, checks, frames,
traps, decoding and memory.
-/
open Sys2Proof Sys2Proof.Machine

/-! ## Words of chapter 7 -/

/-- R113, Table 7.2: each integer arithmetic word writes its exact result, clamped under SAT and wrapped to 32 bits (64 for
`iadd64`), in every lane that goes ahead. -/
def Obligations.IntegerArithmeticWords : Prop :=
  ∀ (s : State) (x : Ctx) (lanes : Mask) (o : FmtV) (p : FmtI),
    let A := fun l => asInt (signedVar o.var) (x.word o.sa l)
    let B := fun l => asInt (signedVar o.var) (x.word o.sb l)
    let C := fun l => asInt (signedVar o.var) (x.word o.sc l)
    let put := fun (f : Nat → Int) => s.wrote x lanes o.dst.toNat (fun l => [narrowTo (signedVar o.var) o.sat 32 (f l)])
    let P := fun l => asInt (signedVar p.var) (x.word p.sa l)
    let I := asInt (signedVar p.var) p.imm
    let putI := fun (f : Nat → Int) => s.wrote x lanes p.dst.toNat (fun l => [narrowTo (signedVar p.var) p.sat 32 (f l)])
    s.Does (specV (.iadd o) o (srcsAB o) [dst o.dst 1]) x lanes (put fun l => A l + B l) ∧
    s.Does (specV (.isub o) o (srcsAB o) [dst o.dst 1]) x lanes (put fun l => A l - B l) ∧
    s.Does (specV (.imul o) o (srcsAB o) [dst o.dst 1]) x lanes (put fun l => A l * B l) ∧
    s.Does (specV (.imulhi o) o (srcsAB o) [dst o.dst 1]) x lanes (put fun l => (A l * B l) / 2 ^ 32) ∧
    s.Does (specV (.imad o) o (srcsABC o) [dst o.dst 1]) x lanes (put fun l => A l * B l + C l) ∧
    s.Does (specV (.iabs o) o (srcsA o) [dst o.dst 1]) x lanes (put fun l => ((A l).natAbs : Int)) ∧
    s.Does (specV (.ineg o) o (srcsA o) [dst o.dst 1]) x lanes (put fun l => -(A l)) ∧
    s.Does (specV (.imin o) o (srcsAB o) [dst o.dst 1]) x lanes (put fun l => min (A l) (B l)) ∧
    s.Does (specV (.imax o) o (srcsAB o) [dst o.dst 1]) x lanes (put fun l => max (A l) (B l)) ∧
    s.Does (specI (.iaddImm p) p [dst p.dst 1]) x lanes (putI fun l => P l + I) ∧
    s.Does (specI (.imulImm p) p [dst p.dst 1]) x lanes (putI fun l => P l * I) ∧
    s.Does (specI (.iminImm p) p [dst p.dst 1]) x lanes (putI fun l => min (P l) I) ∧
    s.Does (specI (.imaxImm p) p [dst p.dst 1]) x lanes (putI fun l => max (P l) I) ∧
    s.Does (specV (.iadd64 o) o [srcPair o.sa o.ea, srcPair o.sb o.eb] [dst o.dst 2]) x lanes
      (s.wrote x lanes o.dst.toNat (fun l =>
        let v := narrowTo (signedVar o.var) o.sat 64
          (asInt (signedVar o.var) (x.pair o.sa l) + asInt (signedVar o.var) (x.pair o.sb l))
        [v.extractLsb' 0 32, v.extractLsb' 32 32]))

/-- Table 7.3, R114: each bitwise word writes its pattern.

R114: a shift uses its whole 32-bit amount: 32 or more gives 0, or copies of the sign for `isar`; a rotation uses it
modulo 32.

R115: `bfx` takes min(len, 32) bits from position pos of A, signed for `.s32`; `bfi` puts the low min(len, 32) bits of B
at position pos of A. pos is bits [7:0] of the control and len bits [15:8]. -/
def Obligations.BitWords : Prop :=
  (∀ (s : State) (x : Ctx) (lanes : Mask) (o : FmtV) (p : FmtI),
     let A := fun l => x.word o.sa l
     let B := fun l => x.word o.sb l
     let put := fun (f : Nat → Word) => s.wrote x lanes o.dst.toNat (fun l => [f l])
     let P := fun l => x.word p.sa l
     let I : Word := p.imm.setWidth 32
     let putI := fun (f : Nat → Word) => s.wrote x lanes p.dst.toNat (fun l => [f l])
     s.Does (specV (.and o) o (srcsAB o) [dst o.dst 1]) x lanes (put fun l => A l &&& B l) ∧
     s.Does (specV (.or o) o (srcsAB o) [dst o.dst 1]) x lanes (put fun l => A l ||| B l) ∧
     s.Does (specV (.xor o) o (srcsAB o) [dst o.dst 1]) x lanes (put fun l => A l ^^^ B l) ∧
     s.Does (specV (.andn o) o (srcsAB o) [dst o.dst 1]) x lanes (put fun l => A l &&& ~~~(B l)) ∧
     s.Does (specI (.andImm p) p [dst p.dst 1]) x lanes (putI fun l => P l &&& I) ∧
     s.Does (specI (.orImm p) p [dst p.dst 1]) x lanes (putI fun l => P l ||| I) ∧
     s.Does (specI (.xorImm p) p [dst p.dst 1]) x lanes (putI fun l => P l ^^^ I) ∧
     s.Does (specV (.popc o) o (srcsA o) [dst o.dst 1]) x lanes
       (put fun l => BitVec.ofNat 32 ((List.range 32).filter (fun i => (A l).getLsbD i)).length) ∧
     s.Does (specV (.clz o) o (srcsA o) [dst o.dst 1]) x lanes (put fun l => (A l).clz) ∧
     s.Does (specV (.ctz o) o (srcsA o) [dst o.dst 1]) x lanes (put fun l => (A l).reverse.clz) ∧
     s.Does (specV (.brev o) o (srcsA o) [dst o.dst 1]) x lanes (put fun l => (A l).reverse) ∧
     s.Does (specV (.lop3 o) o (srcsABC o) [dst o.dst 1]) x lanes
       (put fun l => lopOp (o.fx.extractLsb' 4 4).toNat (lopOp (o.fx.extractLsb' 0 4).toNat (A l) (B l)) (x.word o.sc l))) ∧
  (∀ (s : State) (x : Ctx) (lanes : Mask) (o : FmtV) (p : FmtI),
     let A := fun l => x.word o.sa l
     let k := fun l => (x.word o.sb l).toNat
     let put := fun (f : Nat → Word) => s.wrote x lanes o.dst.toNat (fun l => [f l])
     let P := fun l => x.word p.sa l
     let i := p.imm.toNat
     let putI := fun (f : Nat → Word) => s.wrote x lanes p.dst.toNat (fun l => [f l])
     s.Does (specV (.ishl o) o (srcsAB o) [dst o.dst 1]) x lanes (put fun l => A l <<< k l) ∧
     s.Does (specV (.ishr o) o (srcsAB o) [dst o.dst 1]) x lanes (put fun l => A l >>> k l) ∧
     s.Does (specV (.isar o) o (srcsAB o) [dst o.dst 1]) x lanes (put fun l => (A l).sshiftRight (k l)) ∧
     s.Does (specV (.irot o) o (srcsAB o) [dst o.dst 1]) x lanes (put fun l => (A l).rotateLeft (k l)) ∧
     s.Does (specI (.ishlImm p) p [dst p.dst 1]) x lanes (putI fun l => P l <<< i) ∧
     s.Does (specI (.ishrImm p) p [dst p.dst 1]) x lanes (putI fun l => P l >>> i) ∧
     s.Does (specI (.isarImm p) p [dst p.dst 1]) x lanes (putI fun l => (P l).sshiftRight i) ∧
     s.Does (specI (.irotImm p) p [dst p.dst 1]) x lanes (putI fun l => (P l).rotateLeft i)) ∧
  (∀ (s : State) (x : Ctx) (lanes : Mask) (o : FmtV) (p : FmtI),
     let len := fun (c : Nat) => min (c / 256 % 256) 32
     let field := fun (signed : Bool) (a : Word) (c : Nat) =>
       if len c = 0 then (0 : Word)
       else if signed then ((a >>> (c % 256)).setWidth (len c)).signExtend 32 else ((a >>> (c % 256)).setWidth (len c)).setWidth 32
     let mask := fun (c : Nat) => ((BitVec.allOnes 32) >>> (32 - len c)) <<< (c % 256)
     s.Does (specV (.bfx o) o (srcsAB o) [dst o.dst 1]) x lanes
       (s.wrote x lanes o.dst.toNat (fun l => [field (o.var == 0xC) (x.word o.sa l) (x.word o.sb l).toNat])) ∧
     s.Does (specI (.bfxImm p) p [dst p.dst 1]) x lanes
       (s.wrote x lanes p.dst.toNat (fun l => [field (p.var == 0xC) (x.word p.sa l) p.imm.toNat])) ∧
     s.Does (specV (.bfi o) o (srcsABC o) [dst o.dst 1]) x lanes
       (s.wrote x lanes o.dst.toNat (fun l =>
         let m := mask (x.word o.sc l).toNat
         [(x.word o.sa l &&& ~~~m) ||| ((x.word o.sb l <<< ((x.word o.sc l).toNat % 256)) &&& m)])))

/-- R116: `icmp` and its immediate form write a predicate: the comparison that FX[2:0] names, on the sources read under
R108. -/
def Obligations.CompareWords : Prop :=
  ∀ (s : State) (x : Ctx) (lanes : Mask) (o : FmtV) (p : FmtI),
    let holds := fun (code : Nat) (a b : Int) =>
      (code = 0 ∧ a = b) ∨ (code = 1 ∧ a ≠ b) ∨ (code = 2 ∧ a < b) ∨ (code = 3 ∧ a ≤ b) ∨ (code = 4 ∧ a > b) ∨ (5 ≤ code ∧ a ≥ b)
    (∀ f : Nat → Bool,
      (∀ l, f l = true ↔ holds (o.fx.toNat % 8) (asInt (signedVar o.var) (x.word o.sa l)) (asInt (signedVar o.var) (x.word o.sb l))) →
      s.Does (specV (.icmp o) o (srcsAB o) [.pred o.dst.toNat]) x lanes (s.wrotePred x lanes o.dst.toNat f)) ∧
    (∀ f : Nat → Bool,
      (∀ l, f l = true ↔ holds (p.fx.toNat % 8) (asInt (signedVar p.var) (x.word p.sa l)) (asInt (signedVar p.var) p.imm)) →
      s.Does (specI (.icmpImm p) p [.pred p.dst.toNat]) x lanes (s.wrotePred x lanes p.dst.toNat f))

/-- R117 to R119: `sel` takes SA where its predicate is 1 and SB where it is 0; `mov` and `movi` write their source; `nop`
writes nothing; the predicate words combine predicates. -/
def Obligations.MoveAndPredicateWords : Prop :=
  ∀ (s : State) (x : Ctx) (lanes : Mask) (o : FmtV) (w : FmtW),
    let a := fun l => x.g.r.pred o.sa.toNat l
    let b := fun l => x.g.r.pred o.sb.toNat l
    let one : List SrcOp := [.pred o.sa.toNat]
    let two : List SrcOp := [.pred o.sa.toNat, .pred o.sb.toNat]
    let d : List DstOp := [.pred o.dst.toNat]
    let put := fun (f : Nat → Bool) => s.wrotePred x lanes o.dst.toNat f
    s.Does (specV (.sel o) o (srcsAB o ++ [.pred o.sc.toNat]) [dst o.dst 1]) x lanes
      (s.wrote x lanes o.dst.toNat (fun l => [if x.g.r.pred o.sc.toNat l then x.word o.sa l else x.word o.sb l])) ∧
    s.Does (specV (.mov o) o (srcsA o) [dst o.dst 1]) x lanes (s.wrote x lanes o.dst.toNat (fun l => [x.word o.sa l])) ∧
    s.Does { plainSpec (.movi w) w.guard with dsts := [dst w.dst 1] } x lanes (s.wrote x lanes w.dst.toNat (fun _ => [w.imm])) ∧
    s.Does (plainSpec (.nop o) o.guard) x lanes s ∧
    s.Does (specV (.pand o) o two d) x lanes (put fun l => a l && b l) ∧
    s.Does (specV (.por o) o two d) x lanes (put fun l => a l || b l) ∧
    s.Does (specV (.pxor o) o two d) x lanes (put fun l => a l != b l) ∧
    s.Does (specV (.pnot o) o one d) x lanes (put fun l => !a l) ∧
    s.Does (specV (.pmov o) o one d) x lanes (put fun l => a l)

/-- R111, R120, Table 7.4: an exchange gives lane i the value that its peer lane holds in SA, when no peer waits for a fill or
is poisoned; an empty register of a lane that is not live reads 0.

R121: `vote` gives every lane that goes ahead the same answer about the predicates of those lanes, or their ballot;
`match` gives each lane the mask of the lanes that hold its value; `elect` marks the first lane. -/
def Obligations.LaneWords : Prop :=
  (∀ (s : State) (x : Ctx) (lanes : Mask) (o : FmtV),
     let free := fun (peer : Nat → Nat) => ∀ l, l ∈ maskLanes lanes →
       ¬ (o.sa.toNat < 0xE0 ∧ x.g.r.isEmpty o.sa.toNat (peer l) = true ∧ x.g.r.live.getLsbD (peer l) = true) ∧
       (o.sa.toNat < 0xE0 → SMap.find? x.g.poison (unitKey o.sa.toNat (peer l)) = none)
     let got := fun (peer : Nat → Nat) => s.wrote x lanes o.dst.toNat (fun l =>
       [if o.sa.toNat < 0xE0 ∧ x.g.r.isEmpty o.sa.toNat (peer l) = true ∧ x.g.r.live.getLsbD (peer l) = false then 0
        else x.word o.sa (peer l)])
     let b := fun l => (x.word o.sb l).toNat
     (∀ peer : Nat → Nat, free peer → (∀ l, l < 16 → peer l = l ^^^ (o.var.toNat + 1)) →
       s.Does (specV (.qxch o) o (srcsA o) [dst o.dst 1]) x lanes (got peer)) ∧
     (∀ peer : Nat → Nat, free peer → (∀ l, l < 16 → peer l = l / 4 * 4 + b l % 4) →
       s.Does (specV (.qbcast o) o (srcsAB o) [dst o.dst 1]) x lanes (got peer)) ∧
     (∀ peer : Nat → Nat, free peer →
       (∀ l, l < 16 → o.var = 0 → peer l = b l % 16) →
       (∀ l, l < 16 → o.var = 1 → peer l = if b l ≤ l then l - b l else l) →
       (∀ l, l < 16 → o.var = 2 → peer l = if l + b l ≤ 15 then l + b l else l) →
       (∀ l, l < 16 → o.var = 3 → peer l = l ^^^ (b l % 16)) →
       s.Does (specV (.gshf o) o (srcsAB o) [dst o.dst 1]) x lanes (got peer))) ∧
  (∀ (s : State) (x : Ctx) (lanes : Mask) (o : FmtV),
     let yes := fun l => x.g.r.pred o.sa.toNat l
     let all := (maskLanes lanes).all yes
     let any := (maskLanes lanes).any yes
     let vote := specV (.vote o) o [.pred o.sa.toNat] [.pred o.dst.toNat]
     (o.var = 0 → s.Does vote x lanes (s.wrotePred x lanes o.dst.toNat (fun _ => all))) ∧
     (o.var = 1 → s.Does vote x lanes (s.wrotePred x lanes o.dst.toNat (fun _ => any))) ∧
     (o.var = 3 → s.Does vote x lanes (s.wrotePred x lanes o.dst.toNat (fun _ => all || !any))) ∧
     (o.var = 2 → s.Does (specV (.vote o) o [.pred o.sa.toNat] [dst o.dst 1]) x lanes
       (s.wrote x lanes o.dst.toNat (fun _ => [(maskOf ((maskLanes lanes).filter yes)).setWidth 32]))) ∧
     (o.var = 0 → s.Does (specV (.matchWord o) o [.reg o.sa.toNat o.ea 1] [dst o.dst 1]) x lanes
       (s.wrote x lanes o.dst.toNat (fun l =>
         [(maskOf ((maskLanes lanes).filter (fun j => x.word o.sa j == x.word o.sa l))).setWidth 32]))) ∧
     (o.var = 1 → s.Does (specV (.matchWord o) o [.reg o.sa.toNat o.ea 2] [dst o.dst 1]) x lanes
       (s.wrote x lanes o.dst.toNat (fun l =>
         [(maskOf ((maskLanes lanes).filter (fun j => x.pair o.sa j == x.pair o.sa l))).setWidth 32]))) ∧
     s.Does (specV (.elect o) o [] [.pred o.dst.toNat]) x lanes
       (s.wrotePred x lanes o.dst.toNat (fun l => decide (∀ j, j < l → lanes.getLsbD j = false))))

/-- R117: where a source register of `sel` is empty in an active lane and its policy bit is 0, the word waits; where the bit is 1 that
lane takes trap 0x06 with the field as INFO and the others go on; else SA is written where the predicate in SC is 1, and SB in
the other active lanes. -/
def Obligations.SelectWord : Prop :=
  ∀ (s : State) (x : Ctx) (o : FmtV),
    let w := specV (.sel o) o (srcsAB o ++ [.pred o.sc.toNat]) [dst o.dst 1]
    let act := x.active o.guard
    let empty := fun (f : BitVec 8) (l : Nat) => f.toNat < 0xE0 ∧ x.g.r.isEmpty f.toNat l = true
    let waits := fun (l : Nat) => (empty o.sa l ∧ o.ea = false) ∨ (¬ empty o.sa l ∧ empty o.sb l ∧ o.eb = false)
    let traps := fun (l : Nat) => (empty o.sa l ∧ o.ea = true) ∨ (¬ empty o.sa l ∧ empty o.sb l ∧ o.eb = true)
    s.ctx? = some x → x.waits = false → s.calm x.l.part → act ≠ 0 → (Instr.sel o).encInfo = none → x.bounds w.srcs w.dsts = none → x.g.queued = [] →
    (∀ n l, x.g.unsentResult n l = false) →
    x.g.poison = [] → (∀ l, l ∈ maskLanes act → x.g.outstanding o.dst.toNat l = false) →
    ((∃ l, l ∈ maskLanes act ∧ waits l) →
      exec (.sel o) s = .next ((s.parkWord x ⟨x.i.lanes, x.awaited act w.srcs, none, [], false⟩).reap x |>.endCycle x)) ∧
    ((∀ l, l ∈ maskLanes act → ¬ waits l) →
      ∀ ls : List Nat, (∀ l, l ∈ ls ↔ (l ∈ maskLanes act ∧ traps l)) → ls = (maskLanes act).filter (fun l => ls.contains l) →
        let lanes := act &&& ~~~maskOf ls
        let t := s.modGroup x.ref.g (fun y => (maskLanes lanes).foldl (fun y l =>
          y.put act o.dst.toNat l [if x.g.r.pred o.sc.toNat l then x.word o.sa l else x.word o.sb l]) y)
        (ls = [] → exec (.sel o) s = .next (t.advance x act)) ∧
        (ls ≠ [] → exec (.sel o) s =
          .next (s.trapOr x (t.wordTrap x act
            (ls.map (fun l => ⟨l, 0x06, if x.g.r.isEmpty o.sa.toNat l ∧ o.sa.toNat < 0xE0 then o.sa.toNat else o.sb.toNat⟩)) false []))))

/-- R123 to R125, R127, R128, R207: each control word sends its lanes where the spec says and ends its clause.

R205, R90, R91: `trap k` takes trap 0x3F with INFO k in every lane that goes ahead, and these lanes resume at the
fall-through header; a word of an unassigned major opcode takes trap 0x01 with INFO 0x01 in every active lane. -/
def Obligations.ControlWords : Prop :=
  (∀ (s : State) (x : Ctx) (lanes : Mask) (o : FmtK) (q : FmtK2),
     let near := fun (d : Int) => va57 ((x.i.hdr.toNat : Int) + 8 * d)
     let disp : Int := o.disp.toInt
     let all := fun (t : DWord) => (maskLanes lanes).map (fun l => (l, t))
     (o.disp ≠ 0 → s.Jumps (specK (.bra o) o [] []) x lanes s (all (near disp))) ∧
     (o.disp = 0 → s.Jumps (specK (.bra o) o [] []) x lanes (s.modGroup x.ref.g (fun y =>
       y.setIssue x.ref.second ((y.issue? x.ref.second).map (fun i => { i with loops := true })))) (all (near 0))) ∧
     s.Jumps { plainSpec (.brx q) q.guard with srcs := (FmtK2pairs q).map (fun p => .pred (p.toNat / 65536 % 8)) } x lanes s
       ((maskLanes lanes).filterMap (fun l =>
         ((FmtK2pairs q).find? (fun p => x.g.r.pred (p.toNat / 65536 % 8) l != p.getLsbD 19)).map (fun p =>
           (l, near (p.setWidth 16).toInt)))) ∧
     s.Jumps (specK (.call o) o [] [dst o.dst 2]) x lanes
       (s.wrote x lanes o.dst.toNat (fun _ => [x.i.fall.extractLsb' 0 32, x.i.fall.extractLsb' 32 32])) (all (near disp)) ∧
     s.Jumps (specK (.ret o) o [srcPair o.sa o.ea] []) x lanes s
       ((maskLanes lanes).map (fun l => (l, va57 ((x.pair o.sa l &&& ~~~7#64).toNat : Int)))) ∧
     s.Jumps (specK (.jmpi o) o [src o.sa o.ea] []) x lanes s
       ((maskLanes lanes).map (fun l => (l, near (disp + (x.word o.sa l).toInt)))) ∧
     s.Jumps (specK (.rejoin o) o [src o.sa o.ea] []) x lanes
       (s.modRegs x.ref.g (fun r => r.modLanes lanes (fun l y => { y with tok := some ⟨x.i.wordPc, (x.word o.sa l).setWidth 16⟩ })))
       (all x.i.wordPc) ∧
     (let named : Mask := (maskLanes lanes).foldl (fun m l => m ||| (x.word o.sa l).setWidth 16) 0
      -- lanes of the other set leave after the word that it issues in this cycle
      let later := named &&& x.g.sameCycle x.ref.second
      s.Jumps (specK (.kill o) o [src o.sa o.ea] []) x lanes
        ((s.modGroup x.ref.g (fun y => { y with run2 := y.run2.map (fun i => { i with dying := i.dying ||| later }) })).modRegs x.ref.g
          (fun r => r.removeLanes (named &&& ~~~later))) []) ∧
     s.Jumps (specK (.exit o) o [] []) x lanes (s.modRegs x.ref.g (fun r => r.removeLanes lanes)) [] ∧
     (let w : WordSpec := { specK (.rett o) o (if o.fx.getLsbD 0 then [srcPair o.sa o.ea] else []) [] with
        priv := s.inCtx (fun x => !x.g.r.inTrap) }
      let pc := fun l => va57 ((x.pair o.sa l &&& ~~~7#64).toNat : Int)
      let hdr := fun l => ((s.core? x.c.core).map (fun k => k.headerAt (x.g.gidx % 4) x.l.vif (pc l))).getD (pc l)
      let back := fun (f : Nat → Option (DWord × DWord)) => s.modRegs x.ref.g (fun r =>
        { r.modLanes lanes (fun l y => y.returnTo (f l)) with retted := r.retted ||| lanes })
      (o.fx.getLsbD 0 = false → s.Jumps w x lanes (back fun _ => none) (all x.i.wordPc)) ∧
      (o.fx.getLsbD 0 = true → s.Jumps w x lanes (back fun l => some (pc l, hdr l)) (all x.i.wordPc)))) ∧
  (∀ (s : State) (x : Ctx) (lanes : Mask) (o : FmtK) (guard : Guard) (opc : BitVec 8),
     (s.Goes (specK (.trap o) o [] []) x lanes →
       exec (.trap o) s = .next (s.trapOr x (s.wordTrap x lanes (trapAll lanes 0x3F (o.disp.toNat % 256)) true []))) ∧
     s.Traps (plainSpec (.illegalInstruction guard opc) guard) x lanes 0x01 0x01)

/-! ## Words of chapter 8 -/

/-- R134 to R137, Table 8.3: with no enabled flag raised, each arithmetic word writes one rounding, in FPCR's or the word's own
mode, of its exact result, and FPSR takes the flags of every lane.

R138 to R146: comparisons write a predicate, `fclass` a one-hot word, conversions and packed words one rounding of each
element, with no enabled flag raised. -/
def Obligations.FloatWords : Prop :=
  (∀ (s : State) (x : Ctx) (lanes : Mask) (o : FmtV),
     let F := fmtOfCode o.var.toNat
     let m := roundMode x.g.r o.rnd
     let z := fpcrFTZ x.g.r
     let A := fun l => x.fltVal o.var o.sa l
     let B := fun l => x.fltVal o.var o.sb l
     let C := fun l => x.fltVal o.var o.sc l
     let does := fun (i : Instr) (ss : List SrcOp) (f : Nat → FRes) => x.noTrap lanes f →
       s.Does (specV i o ss [dst o.dst (fltRegs o.var)]) x lanes (s.wroteFlt x lanes o.dst.toNat (fltRegs o.var) f)
     does (.fadd o) (fltAB o) (fun l => F.sum m o.sat z false [A l, B l]) ∧
     does (.fsub o) (fltAB o) (fun l => F.sum m o.sat z false [A l, (B l).flip]) ∧
     does (.fmul o) (fltAB o) (fun l => F.product m o.sat z (A l) (B l)) ∧
     does (.fma o) (fltABC o) (fun l => fusedSum F m o.sat z (A l) (B l) (C l)) ∧
     does (.fscale o) (fltA o ++ [src o.sb o.eb]) (fun l => scaled F m o.sat z (A l) (x.word o.sb l).toInt) ∧
     does (.fround o) (fltA o) (fun l => roundIntegral F m (A l)) ∧
     does (.fmin o) (fltAB o) (fun l => pickOne F false false (A l) (B l)) ∧
     does (.fmax o) (fltAB o) (fun l => pickOne F false true (A l) (B l)) ∧
     does (.fminn o) (fltAB o) (fun l => pickOne F true false (A l) (B l)) ∧
     does (.fmaxn o) (fltAB o) (fun l => pickOne F true true (A l) (B l)) ∧
     does (.fabs o) (fltA o) (fun l => withSign F (A l) false) ∧
     does (.fneg o) (fltA o) (fun l => withSign F (A l) (!(A l).neg))) ∧
  (∀ (s : State) (x : Ctx) (lanes : Mask) (o : FmtV),
     let F := fmtOfCode o.var.toNat
     let m := roundMode x.g.r o.rnd
     let z := fpcrFTZ x.g.r
     let does := fun (i : Instr) (ss : List SrcOp) (n : Nat) (f : Nat → FRes) => x.noTrap lanes f →
       s.Does (specV i o ss [dst o.dst n]) x lanes (s.wroteFlt x lanes o.dst.toNat n f)
     let half := fun (j : Nat) (f : BitVec 8) (l : Nat) => F.decode z (x.val f l / 65536 ^ j % 65536)
     let both := fun (e : Nat → Nat → FRes) (l : Nat) =>
       (⟨(e 0 l).pat + 65536 * (e 1 l).pat, (e 0 l).flags ||| (e 1 l).flags⟩ : FRes)
     (∀ c : Nat → Bool × Nat, (∀ l, c l = fltCompare (o.fx.toNat % 16) (x.fltVal o.var o.sa l) (x.fltVal o.var o.sb l)) →
       (∀ l, l ∈ maskLanes lanes → (c l).2 &&& fpcrEnabled x.g.r = 0) →
       s.Does (specV (.fcmp o) o (fltAB o) [.pred o.dst.toNat]) x lanes
         (s.wroteFltPred x lanes o.dst.toNat c)) ∧
     does (.fclass o) (fltA o) 1 (fun l => ⟨2 ^ classOf F (x.fltVal o.var o.sa l), flagIf (x.fltVal o.var o.sa l).isSnan flagIV⟩) ∧
     (let st := o.fx.toNat % 16
      does (.cvt o) [.reg o.sa.toNat o.ea (typeRegs st)] (typeRegs o.var.toNat)
        (fun l => convert o.var.toNat st m o.sat z (x.valN o.sa (typeRegs st) l))) ∧
     (let t := o.var.toNat
      does (.fpk o) ([src o.sa o.ea, src o.sb o.eb] ++ (if 4 ≤ t then [src o.sc o.ec] else [])) 1 (fun l =>
        let a := convert t 0 m o.sat z (x.val o.sa l)
        let b := convert t 0 m o.sat z (x.val o.sb l)
        ⟨packed t a.pat b.pat (x.val o.sc l), a.flags ||| b.flags⟩)) ∧
     does (.hadd2 o) (srcsAB o) 1 (both fun j l => F.sum m o.sat z false [half j o.sa l, half j o.sb l]) ∧
     does (.hmul2 o) (srcsAB o) 1 (both fun j l => F.product m o.sat z (half j o.sa l) (half j o.sb l)) ∧
     does (.hfma2 o) (srcsABC o) 1 (both fun j l => fusedSum F m o.sat z (half j o.sa l) (half j o.sb l) (half j o.sc l)) ∧
     does (.fdot2 o) (srcsABC o) 1 (fun l =>
       let p := fun j => (half j o.sa l).mul (half j o.sb l)
       fmtF32.sum m o.sat z ((p 0).2 || (p 1).2) [fmtF32.decode z (x.val o.sc l), (p 0).1, (p 1).1]))

/-- R140, R146, R51: a transcendental word, and `qmx`, leave their destination empty until a fill brings the function's
value rounded once (for `qmx` the block scale of the lanes that go ahead), with no enabled flag raised. -/
def Obligations.FloatLateWords : Prop :=
  ∀ (s : State) (x : Ctx) (lanes : Mask) (o : FmtV),
    let does := fun (i : Instr) (ss : List SrcOp) (f : Nat → FRes) => x.noTrap lanes f →
      s.Does (specV i o ss [dst o.dst 1]) x lanes (s.wroteLate x lanes o.dst.toNat f)
    let F := fun (t : TFun) (l : Nat) => t.apply (roundMode x.g.r o.rnd) (fpcrFTZ x.g.r) (x.val o.sa l)
    does (.frcp o) (fltA o) (F .rcp) ∧
    does (.frsq o) (fltA o) (F .rsq) ∧
    does (.fsqrt o) (fltA o) (F .sqrt) ∧
    does (.fexp2 o) (fltA o) (F .exp2) ∧
    does (.flog2 o) (fltA o) (F .log2) ∧
    does (.fsin o) (fltA o) (F .sin) ∧
    does (.fcos o) (fltA o) (F .cos) ∧
    does (.ftanh o) (fltA o) (F .tanh) ∧
    (let v := fun (f : BitVec 8) (l : Nat) => fmtF32.decode (fpcrFTZ x.g.r) (x.val f l)
     does (.qmx o) (srcsAB o) (fun l =>
       ⟨blockScale o.var.toNat ((maskLanes lanes).flatMap (fun i => [v o.sa i, v o.sb i])),
        flagIf ((v o.sa l).isSnan || (v o.sb l).isSnan) flagIV⟩))

/-- R30, R31, R131: lanes of `fadd` that raise an enabled flag take trap 0x07 with the flags raised as INFO; FPSR takes every
lane's flags, and the other lanes write their results. -/
def Obligations.FloatEnabledFlagTraps : Prop :=
  ∀ (s : State) (x : Ctx) (lanes : Mask) (o : FmtV),
    let f := fun l => (fmtOfCode o.var.toNat).sum (roundMode x.g.r o.rnd) o.sat (fpcrFTZ x.g.r) false
      [x.fltVal o.var o.sa l, x.fltVal o.var o.sb l]
    let hit := fun l => (f l).flags &&& fpcrEnabled x.g.r != 0
    s.Goes (specF (.fadd o) o (fltAB o)) x lanes → (maskLanes lanes).any hit = true →
    exec (.fadd o) s = .next (s.trapOr x ((s.modGroup x.ref.g (fun y =>
        ((maskLanes lanes).filter (fun l => !hit l)).foldl (fun y l => y.put lanes o.dst.toNat l (wordsOf (f l).pat (fltRegs o.var)))
          { y with r := { y.r with fpsr := y.r.fpsr ||| raisedBy lanes f } })).wordTrap x lanes
      (((maskLanes lanes).filter hit).map (fun l => ⟨l, 0x07, (f l).flags⟩)) false []))

/-! ## Words of chapters 9 to 11 -/

/-- R155 to R160, R43 to R45: each word of a tile gives the elements of the rows that go ahead their new values, and its
operation on the tile is in flight.

R151, R152, R154: `mtd` sets one field of a descriptor to the low bits of its source plus IMM16, `mfd` reads one field
back by a fill, `mfmt` writes MFR, at the end of the cycle where the P2 set still issues a word in it. -/
def Obligations.MatrixWords : Prop :=
  (∀ (s : State) (x : Ctx) (lanes : Mask) (o : FmtX),
     let tile := tileOf o.dst
     let rows := fun (f : Nat → Nat → Word) => (maskLanes lanes).flatMap (fun i => columns.map (fun j => (i, j, f i j)))
     let m := x.scratch
     (let mfr := x.g.r.mfr.toNat
      let ka := x.uniform o.sa
      let kb := x.uniform o.sb
      let ua := mmaUse x.g.r o.ta.toNat 16 ka mfr (bitOf mfr 8) (maskLanes lanes)
      let ub := mmaUse x.g.r o.tb.toNat 64 kb mfr (bitOf mfr 9) columns
      let w := ewBits (mfrEW mfr)
      s.Reaches x lanes [ua, ub] true →
      s.Does (specX (.mma o) o [src o.sa o.ea, src o.sb o.eb, .tile tile] [.tile tile] tile true) x lanes
        (s.changesTile x tile true (rows fun i j => mmaElem mfr o.sat w (x.g.r.accRead tile i j)
          (fun k => elemVal m ua.d (mfr % 16) w i (ka + k) (bitOf mfr 8))
          (fun k => elemVal m ub.d (mfr / 16 % 16) w j (kb + k) (bitOf mfr 9))
          (fun k => elemPat m ua.d w i (ka + k)) (fun k => elemPat m ub.d w j (kb + k))))) ∧
     s.Does (specX (.mzero o) o [] [.tile tile] tile false) x lanes (s.changesTile x tile false (rows fun _ _ => 0)) ∧
     (let u := rowUse x.g.r o.ta.toNat 4 lanes
      s.Reaches x lanes [u] true →
      s.Does (specX (.mld o) o [] [.tile tile] tile false) x lanes
        (s.changesTile x tile false (rows fun i j => w32 (m.nat (u.d.at 32 i j) 4)))) ∧
     (let type := o.fx.toNat % 16
      let ew := if type = 0 then 4 else 3
      let u := rowUse x.g.r o.ta.toNat ew lanes
      let bytes := (maskLanes lanes).map (fun i => (u.d.at (ewBits ew) i 0,
        columns.flatMap (fun j => leBytes (storeConv type (x.g.r.accRead tile i j)) (ewBits ew / 8))))
      s.Reaches x lanes [u] false →
      s.Does (specX (.mst o) o [.tile tile] [] tile false) x lanes
        ((s.emit x false (.mst bytes)).startTileOp x.ref.g tile false)) ∧
     (let n := 2 ^ (o.fx.toNat % 4)
      let at' := fun l k => x.val o.sa l % 64 / n * n + k
      let from' := o.ta.toNat
      s.Does (specX (.mrd o) o [.tile from', src o.sa o.ea] [dst o.dst n] from' false) x lanes
        ((s.awaits x lanes o.dst.toNat n (fun l => (List.range n).map (fun k => x.g.r.accRead from' l (at' l k)))).startTileOp
          x.ref.g from' false) ∧
      s.Does (specX (.mwr o) o [src o.sa o.ea, .reg o.sb.toNat o.eb n] [.tile tile] tile false) x lanes
        (s.changesTile x tile false ((maskLanes lanes).flatMap (fun l => (List.range n).map (fun k =>
          (l, at' l k, w32 (x.valN o.sb n l / 2 ^ (32 * k)))))))) ∧
     (let d := x.g.r.descOf o.ta.toNat
      let u : DescUse := { n := o.ta.toNat, d := d, rows := 1, cols := 64, ew := 4, mx := false, koff := 0, bytes := [(d.at 32 0 0, 256)] }
      let sigma := fun i => fmtF32.decode false (x.val o.sa i)
      let w := specX (.mscl o) o [src o.sa o.ea, .tile tile] [.tile tile] tile false
      let int := o.fx.getLsbD 1
      (o.fx.getLsbD 0 = true → s.Reaches x lanes [u] true →
        s.Does w x lanes (s.changesTile x tile false (rows fun i j =>
          scaleElem int (x.g.r.accRead tile i j) (sigma i) (fmtF32.decode false (m.nat (d.at 32 0 j) 4))))) ∧
      (o.fx.getLsbD 0 = false → s.Reaches x lanes [] false →
        s.Does w x lanes (s.changesTile x tile false (rows fun i j =>
          scaleElem int (x.g.r.accRead tile i j) (sigma i) (.num false 1 0)))))) ∧
  (∀ (s : State) (x : Ctx) (lanes : Mask) (o : FmtI),
     let f := o.fx.toNat % 8
     s.Does (specI (.mtd o) o []) x lanes
       (let v := (x.uniform o.sa + o.imm.toNat) % 2 ^ 32
        s.modRegs x.ref.g (fun r => { r with desc := r.desc.mapIdx (fun k d => if k = o.dst.toNat % 8 then d.setField f v else d) })) ∧
     s.Does { plainSpec (.mfd o) o.guard with dsts := [dst o.dst 1] } x lanes
       (s.awaits x lanes o.dst.toNat 1 (fun _ => [w32 ((x.g.r.descOf (o.imm.toNat % 8)).field f)])) ∧
     (x.g.sameCycle x.ref.second = 0 → x.g.mfrNext = none →
       s.Does (plainSpec (.mfmt o) o.guard) x lanes (s.modGroup x.ref.g (fun y => { y with r := { y.r with mfr := o.imm.setWidth 32 } }))) ∧
     (x.g.sameCycle x.ref.second ≠ 0 →
       s.Does (plainSpec (.mfmt o) o.guard) x lanes (s.modGroup x.ref.g (fun y => { y with mfrNext := some (o.imm.setWidth 32) }))))

/-- R169 to R180, R186: each word with an address in every lane sends one access of its kind, with its addresses, captured data
and destination, when every lane passes its checks and a replay slot is free. -/
def Obligations.AddressWords : Prop :=
  ∀ (s : State) (x : Ctx) (lanes : Mask) (o : FmtM),
    let h := x.l.handle o.hnd.toNat
    let d := o.dst.toNat
    let r := memRegs o.var
    let data := fun (f : BitVec 8) (n : Nat) => laneData lanes (fun l => x.valN f n l)
    (let f := loadForm opLd o.var permRead spacesAll
     s.Sends (specM (.ld o) o (srcsXY o) [dst o.dst r]) x lanes o f true { x.asks o f h lanes with dst := d }) ∧
    (let f := loadForm opSt o.var permWrite spacesAll
     s.Sends (specM (.st o) o (srcsXY o ++ [srcData o r]) []) x lanes o f false { x.asks o f h lanes with data := data o.dst r }) ∧
    (let clr := o.var.getLsbD 3
     let f := loadForm opLdw o.var ⟨true, clr, false, false⟩ [1]
     s.Sends { specM (.ldw o) o (srcsXY o) [dst o.dst r] with region := if clr then some 0x92 else none } x lanes o f (!clr)
       { x.asks o f h lanes with dst := d }) ∧
    (let f := loadForm opStf o.var permWrite [1]
     s.Sends (specM (.stf o) o (srcsXY o ++ [srcData o r]) []) x lanes o f false { x.asks o f h lanes with data := data o.dst r }) ∧
    (let n := atomSize o.var
     let f := atomForm opAtom n
     s.Sends { specM (.atom o) o [src o.sx o.ex, .reg o.sy.toNat o.ey (n / 4)] [dst o.dst (n / 4)] with region := some 0x95 }
       x lanes o f false { x.asks o f h lanes with dst := d, data := data o.sy (n / 4) }) ∧
    (let n := memSize o.var
     let f := atomForm opCas n
     s.Sends { specM (.cas o) o [src o.sx o.ex, .reg o.sy.toNat o.ey (n / 4), srcData o (n / 4)] [dst o.dst (n / 4)] with
         region := some 0x96 } x lanes o f false
       { x.asks o f h lanes with dst := d, data := data o.dst (n / 4), cmp := (maskLanes lanes).map (fun l => (l, w64 (x.valN o.sy (n / 4) l))) }) ∧
    (let f : MemForm := { atomForm opPromote 4 with useSy := true, spaces := [0] }
     s.Sends (specM (.promote o) o (srcsXY o) [dst o.dst 1]) x lanes o f false { x.asks o f h lanes with dst := d }) ∧
    (let f : MemForm := { atomForm opWaitc 4 with perms := permRead }
     s.Sends (specM (.waitc o) o (srcsXY o) [dst o.dst 1]) x lanes o f true
       { x.asks o f h lanes with dst := d, data := laneData lanes (fun l => x.val o.sy l) }) ∧
    (let f := rangeForm opWbr o
     s.Sends (specM (.wbr o) o (srcsXY o) []) x lanes o f false { x.asks o f h lanes with data := laneData lanes (fun l => x.val o.sy l) }) ∧
    (let f := rangeForm opInvr o
     s.Sends (specM (.invr o) o (srcsXY o) []) x lanes o f false { x.asks o f h lanes with data := laneData lanes (fun l => x.val o.sy l) })

/-- R178, R181 to R183, R185, R187, R188: `fence`, the band words and the map words send their operations when their checks pass and nothing of the group waits behind a `bandx` (R276);
`pref` brings in the sector of each lane, `hld` reads a handle entry. -/
def Obligations.OrderBandAndMapWords : Prop :=
  ∀ (s : State) (x : Ctx) (lanes : Mask) (o : FmtM) (e : Band),
    let h := x.l.handle o.hnd.toNat
    let first := (firstLane lanes).getD 0
    let b := x.val o.sx first
    (s.Does (specM (.hld o) o [] [dst o.dst 2]) x lanes (s.awaits x lanes o.dst.toNat 2 (fun _ =>
      let q := ((x.l.handles.getD o.hnd.toNat 0) >>> (64 * (o.disp.toNat % 4))).setWidth 64
      [q.extractLsb' 0 32, q.extractLsb' 32 32])) ∧
    s.Does { specM (.pref o) o (srcsXY o) [] with quiet := true } x lanes ((maskLanes lanes).foldl (fun s l => s.prefetch x o
      { opc := 0x94, useSy := true, size := fun _ _ => 1, align := 1, perms := ⟨false, false, false, false⟩, spaces := [0], locks := false } l) s)) ∧
    (x.g.sending = [] →
    s.Does (specM (.fence o) o [] []) x lanes (s.emit x false (.mem { x.access o opFence Handle.none 0 lanes [] with dst := noDst })) ∧
    (s.bandFor x b = some e → (x.member e = true ∨ bits96 (e.members &&& ~~~(coreBit x.c.core)) < e.maxm) →
      s.Does { specM (.bandj o) o [src o.sx o.ex] [] with region := some 0x9A } x lanes (s.emit x false (.bandj b))) ∧
    (s.bandFor x b = some e → e.asked x.c.core = false →
      s.Does { specM (.bandx o) o [src o.sx o.ex] [] with region := some 0x9C } x lanes (s.emit x false (.bandx b))) ∧
    (let b := x.val o.dst first
     let n := x.val o.sy first
     s.addrTrap x.l x.c h o.hnd.toNat (x.offset o false first) n 128 permRead [0] true = none → s.bandFor x b = some e →
     n % 128 = 0 → 128 ≤ n → n ≤ 65536 → e.soff + n ≤ x.l.scr → s.lockHit x.l x.c 1 e.soff n = none →
     x.member e = true → x.asking e = false →
     s.Does (specM (.bandl o) o [src o.sx o.ex, src o.sy o.ey, srcData o 1] []) x lanes
       (s.emit x false (.bandl b (x.ea o h false first) n x.i.hdr x.i.wordPc x.g.issued))) ∧
    (let off := x.val o.sy first
     let n := x.val o.dst first
     s.addrTrap x.l x.c h o.hnd.toNat b n 128 permRead [0] true = none → x.mapTrap o.hnd.toNat (o.disp.toNat % 8) off n = none →
     s.Does { specM (.mapset o) o [src o.sx o.ex, src o.sy o.ey, srcData o 1] [] with region := some 0x9F } x lanes
       (s.emit x false (.mem { x.mapAccess o opMapset h lanes [(first, h.base + b)] with
         data := [(first, BitVec.ofNat 128 off)], cmp := [(first, w64 n)], noFill := !h.w }))) ∧
    s.Does (specM (.mapflush o) o [] []) x lanes (s.emit x false (.mem (x.mapAccess o opMapflush Handle.none lanes []))))

/-- R194 to R196, R200, R201, R203: an engine command that passes its checks is sent; `fetcht` asks the dispenser for 1 to 16
tiles. -/
def Obligations.CommandWords : Prop :=
  ∀ (s : State) (x : Ctx) (lanes : Mask) (p : FmtI) (o : FmtV),
    (let sel := p.imm.toNat
     let ws := x.wBlock p.sa
     s.pushTrap x sel ws = none →
     s.Does { plainSpec (.push p) p.guard with
         srcs := [.reg p.sa.toNat p.ea 16], dsts := [.pred p.dst.toNat],
         priv := s.inCtx (fun x => s.foreignStorage x.l.part sel), region := some 0xC0 } x lanes
       (s.emit x false (.push p.dst.toNat lanes sel ws))) ∧
    (let off := x.uniform o.sa
     let coff := x.uniform o.sc
     let at' := (x.l.handle (o.fx.toNat % 64)).base + off
     let record := (List.range 16).map (fun k => w32 (x.scratch.nat (at' + 4 * k) 4))
     s.shapeTrap x (o.fx.toNat % 64) off = none → x.tstreamTrap coff record = none → s.mtxReady x lanes [(at', 64)] false = (s, true) →
     x.mtxPoison [(at', 64)] = none →
     s.Does { specV (.tstream o) o [src o.sa o.ea, .reg o.sb.toNat o.eb 4, src o.sc o.ec] [.pred o.dst.toNat] with region := some 0xC1 }
       x lanes ((maskLanes lanes).foldl (fun s l =>
         s.emit x false (.tstream o.dst.toNat l record (wordsOf (x.valN o.sb 4 l) 4) coff)) s)) ∧
    (let t := s.emit x false (.fetcht (min (max (x.uniform o.sa) 1) 16) o.dst.toNat)
     t.calm x.l.part →
     s.Does { specV (.fetcht o) o [src o.sa o.ea] [dst o.dst 4] with region := some 0xC2 } x lanes t)

/-- R204, R209 to R212: barriers and sleeps wait from the end of the clause, `mfs` and `getc` deliver a value, `mts` keeps its
write for the end of the clause, `xacq` and `xrel` act on the extended set.

R213: in a test partition, when no injection hits the word's own source, `inject` sends its write of the injector. -/
def Obligations.SystemWords : Prop :=
  (∀ (s : State) (x : Ctx) (lanes : Mask) (p : FmtI) (o : FmtS),
     let n := if sysIs64 o.sysn then 2 else 1
     let k := o.sysn.toNat
     let d := o.dst.toNat
     let mfs : WordSpec := { plainSpec (.mfs o) o.guard with dsts := [dst o.dst n], priv := sysPrivileged o.sysn }
     s.Does { specI (.bar p) p [] with region := some 0xC3 } x lanes
       ((s.waitAfter x (.bar (p.imm.toNat % 16) x.i.lanes false)).emit x false (.bar (p.imm.toNat % 16) (x.uniform p.sa) x.i.lanes)) ∧
     s.Does { specI (.barb p) p [] with region := some 0xC4 } x lanes
       ((s.waitAfter x (.barb (p.imm.toNat % 4) x.i.lanes false)).emit x false (.barb (p.imm.toNat % 4) (x.uniform p.sa) x.i.lanes)) ∧
     s.Does (plainSpec (.yield o) o.guard) x lanes (s.waitAfter x .yield) ∧
     (let sleep : WordSpec := { plainSpec (.sleep o) o.guard with srcs := [src o.sa o.ea] }
      (x.uniform o.sa = 0 → s.Does sleep x lanes s) ∧
      (x.uniform o.sa ≠ 0 → s.Does sleep x lanes
        ((s.waitAfter x (.sleep (x.uniform o.sa) (s.cycOf x.c.core))).post (.sleepExpiry x.ref.g)))) ∧
     (k ≠ 0x030 → s.Does mfs x lanes (s.wrote x lanes d (fun _ => wordsOf (s.sysValue x k) n))) ∧
     (k = 0x030 → s.Does mfs x lanes
       ((s.passCycles (clusterOf x.c.core)).awaits x lanes d n (fun _ => wordsOf ((s.passCycles (clusterOf x.c.core)).cycOf x.c.core) n))) ∧
     s.Does { plainSpec (.mts o) o.guard with
         srcs := [.reg o.sa.toNat o.ea n], priv := s.inCtx (fun x => x.mtsDenied o.sysn),
         region := if o.sysn = 0x019 then some 0xC9 else none } x lanes
       (s.modGroup x.ref.g (fun y => y.setIssue x.ref.second ((y.issue? x.ref.second).map (fun i =>
         { i with sysWrites := i.sysWrites ++ [(k, w64 (x.value o.sa.toNat n 0))] })))) ∧
     (let m := if k = 0x000 ∨ k = 0x002 then 2 else 1
      let a := x.uniform o.sa
      ¬ (k = 0x013 ∧ 64 ≤ a) →
      s.Does { plainSpec (.getc o) o.guard with
          srcs := if getcTakesSource o.sysn then [src o.sa o.ea] else [], dsts := [dst o.dst m] } x lanes
        (s.tick.awaits x lanes d m (fun l => wordsOf (s.item x k a l) m))) ∧
     (x.l.xreg ≠ 0 → s.Does { plainSpec (.xacq o) o.guard with dsts := [.pred d] } x lanes (s.emit x false (.xacq d lanes))) ∧
     (x.l.xreg ≠ 0 → x.holds = true → x.g.r.extBusy = false →
       s.Does { plainSpec (.xrel o) o.guard with region := some 0xCE } x lanes (s.emit x false .xrel))) ∧
  (∀ (s : State) (x : Ctx) (lanes : Mask) (o : FmtS) (p : Partition),
     let n := if sysIs64 o.sysn then 2 else 1
     let w : WordSpec := { plainSpec (.inject o) o.guard with
       srcs := [.reg o.sa.toNat o.ea n],
       priv := s.inCtx (fun x => !((s.part? x.l.part).map (fun p => p.test)).getD false) }
     s.ctx? = some x → x.waits = false → s.part? x.l.part = some p → p.test = true →
     s.injectStore x (x.active o.guard) w.srcs = s → x.check w = .go lanes [] →
     exec (.inject o) s = .next ((s.emit x false (.inject o.sysn.toNat (w64 (x.value o.sa.toNat n 0)))).advance x lanes))

/-! ## Checks and frames -/

/-- Table 5.6, R92, R94, R58: for each word of chapter 7: a word with no active lane is skipped, changing no register; else the first
failing check of steps 10 to 13 traps every active lane (under checked execution once the words before it can commit, R106), and an
empty policy-0 source, or a destination with an outstanding result, parks it. -/
def Obligations.ChecksOfRegisterWords : Prop :=
  ∀ (s : State) (x : Ctx) (o : FmtV) (p : FmtI) (w : WordSpec) (d n : Nat),
    (w, d, n) ∈ registerWords o p → s.ctx? = some x → x.waits = false → s.calm x.l.part →
    let act := x.active w.guard
    let trap := fun (code info : Nat) => s.trapOr x (s.wordTrap x 0 (trapAll act code info) false [])
    let gone := maskOf ((maskLanes act).filter (fun l => (x.firstEmpty w.srcs l).1 == 2))
    let late := x.dstAwaited act (act &&& ~~~gone) w.dsts
    (act = 0 → exec w.i s = .next (s.advance x 0)) ∧
    (act ≠ 0 →
      (∀ info, w.i.encInfo = some info → exec w.i s = .next (trap 0x01 info)) ∧
      (w.i.encInfo = none →
        (∀ t, x.bounds w.srcs w.dsts = some t → exec w.i s = .next (trap t.1 t.2)) ∧
        (x.bounds w.srcs w.dsts = none →
          ((∃ l, l ∈ maskLanes act ∧ (x.firstEmpty w.srcs l).1 = 1) ∨ late ≠ []) →
            exec w.i s = .next ((s.parkWord x ⟨x.i.lanes, x.awaited act w.srcs ++ late, none, [], false⟩).reap x |>.endCycle x))))

/-- R58, R65: what a register word of chapter 7 leaves unchanged: all of memory, every register but its destination in the lanes that go
ahead, every predicate; and, unless it ends its clause, every other group and unit and the group's own status and special
registers. What the end of its cycle does then is said by CycleEnds.

R119: what a word of chapter 7 that writes a predicate leaves unchanged: all of memory, every register, every predicate but its
destination in the lanes that go ahead; and, unless it ends its clause, all else but the group's own place. What the end of its cycle
does then is said by CycleEnds. -/
def Obligations.RegisterAndPredicateFrame : Prop :=
  (∀ (s : State) (x : Ctx) (lanes : Mask) (o : FmtV) (p : FmtI) (w : WordSpec) (d n : Nat),
     (w, d, n) ∈ registerWords o p → s.Goes w x lanes →
     ∃ t, exec w.i s = .next (t.endCycle x) ∧ t.mem = s.mem ∧ (x.inner → ∃ f, t = s.modGroup x.ref.g f) ∧
       ∀ y, t.group? x.ref.g = some y →
         x.g.r.keepsBut y.r lanes d n ∧ x.g.r.keepsPredsBut y.r 0 0 ∧ (x.inner → x.g.r.SameSpecials y.r)) ∧
  (∀ (s : State) (x : Ctx) (lanes : Mask) (o : FmtV) (p : FmtI) (w : WordSpec) (d : Nat),
     (w, d) ∈ predicateWords o p → s.Goes w x lanes →
     ∃ t, exec w.i s = .next (t.endCycle x) ∧ t.mem = s.mem ∧ (x.inner → ∃ f, t = s.modGroup x.ref.g f) ∧
       ∀ y, t.group? x.ref.g = some y →
         x.g.r.keepsBut y.r 0 0 0 ∧ x.g.r.keepsPredsBut y.r lanes d ∧ (x.inner → x.g.r.SameSpecials y.r))

/-- What the results of the words of chapters 8 and 9 leave unchanged: a rounded result changes only its registers in its lanes and adds to
FPSR, one that fills later changes no value yet, a comparison changes only its predicate in its lanes, and a tile result only the
elements that it lists; moving past the word or ending its clause changes no memory, register or predicate. -/
def Obligations.ResultsFrame : Prop :=
  ∀ (s : State) (x : Ctx) (y : Group) (lanes : Mask) (d n p tile : Nat) (f : Nat → FRes) (v : Nat → List Word) (c : Nat → Bool × Nat)
    (vals : List (Nat × Nat × Word)) (pcs : List (Nat × DWord)),
    s.group? x.ref.g = some y →
    let old := y.r
    let keeps := fun (t : State) (P : Regs → Prop) => t.mem = s.mem ∧ ∃ z, t.group? x.ref.g = some z ∧ P z.r
    keeps (s.wroteFlt x lanes d n f) (fun new =>
      old.keepsBut new lanes d n ∧ old.keepsPredsBut new 0 0 ∧ old.SameSpecials { new with fpsr := old.fpsr } ∧
        new.fpsr = old.fpsr ||| raisedBy lanes f) ∧
    keeps (s.wroteLate x lanes d f) (fun new =>
      old.keepsBut new 0 0 0 ∧ old.keepsPredsBut new 0 0 ∧ old.SameSpecials { new with fpsr := old.fpsr, ev := old.ev, ew := old.ew } ∧
        new.fpsr = old.fpsr ||| raisedBy lanes f) ∧
    keeps (s.awaits x lanes d n v) (fun new =>
      old.keepsBut new 0 0 0 ∧ old.keepsPredsBut new 0 0 ∧ old.SameSpecials { new with ev := old.ev, ew := old.ew }) ∧
    keeps (s.wroteFltPred x lanes p c) (fun new =>
      old.keepsBut new 0 0 0 ∧ old.keepsPredsBut new lanes p ∧ old.SameSpecials { new with fpsr := old.fpsr }) ∧
    keeps (s.changesTile x tile true vals) (fun new =>
      old.keepsBut new 0 0 0 ∧ old.keepsPredsBut new 0 0 ∧ old.SameSpecials { new with acc := old.acc, shadow := old.shadow } ∧
        ∀ m i j, j < 64 → i < 16 → ¬ (m = tile ∧ ∃ e, e ∈ vals ∧ e.1 = i ∧ e.2.1 = j) →
          (∀ e, e ∈ vals → e.1 < 16 ∧ e.2.1 < 64) → new.accRead m i j = old.accRead m i j) ∧
    (∀ u, (u = s.advance x lanes ∨ u = s.leave x lanes pcs) → ∃ t : State, u = t.endCycle x ∧ t.mem = s.mem ∧
      ∀ z, t.group? x.ref.g = some z → old.keepsBut z.r 0 0 0 ∧ old.keepsPredsBut z.r 0 0)

/-- R128, R154, Table 11.8: a cycle ends with the word of the P2 set. MFR then takes what the P1 set's `mfmt` gives it, and the trap of the
P1 set's word, if one is due, is taken in the lanes that still live, both sets having ended; with neither, and at the P1 set's word,
nothing happens. -/
def Obligations.CycleEnds : Prop :=
  ∀ (s : State) (x : Ctx) (y : Group),
    s.group? x.ref.g = some y →
    (x.ref.second = false → s.endCycle x = s) ∧
    (x.ref.second = true →
      (y.mfrNext = none → y.due = none → s.endCycle x = s) ∧
      (∀ v, y.mfrNext = some v → y.due = none →
        ∃ z, (s.endCycle x).group? x.ref.g = some z ∧ z = { y with r := { y.r with mfr := v }, mfrNext := none } ∧ (s.endCycle x).mem = s.mem) ∧
      (∀ d, y.due = some d →
        let t := (s.modGroup x.ref.g Group.takeMfr).modGroup x.ref.g (fun y => { y.trapShelve with due := none })
        let lanes := d.lanes &&& y.r.live
        (lanes = 0 → s.endCycle x = t.settleGroup x.ref.g) ∧
        (lanes ≠ 0 → s.endCycle x = (t.takeTrap x.ref.g d.code d.info lanes d.tpc 0 0).settleGroup x.ref.g)))

/-- R65, Table 3.1: when the lanes of a mask among the active ones write a register, each of them reads it back; a w register holds the
value of the lowest-numbered active lane, the same in every lane, and keeps its value when that lane does not write (it has taken
trap 0x06) or no lane is active. -/
def Obligations.UniformDestinations : Prop :=
  ∀ (y : Group) (act lanes : Mask) (d : Nat) (f : Nat → Word),
    let z := (maskLanes lanes).foldl (fun y l => y.put act d l [f l]) y
    (d < 0xC0 → ∀ l, l < 16 →
      z.r.read d l = if lanes.getLsbD l then f l else y.r.read d l) ∧
    (0xC0 ≤ d →
      (∀ l, act = 0 → z.r.read d l = y.r.read d l) ∧
      (∀ l k, firstLane act = some k → z.r.read d l = if lanes.getLsbD k then f k else y.r.read d l)) ∧
    (∀ l k, 0xC0 ≤ d → y.r.read d l = y.r.read d k)

/-- R169, R248: a lane's address is BASE plus its terms; an offset outside LIMIT or, in SCRATCH, beyond the cohort's scratch bytes gives
trap 0x09, a missing permission or an unaccepted space 0x0A, a misaligned address 0x0C and a locked byte 0x0B, in this order (that
an entry that counts as unbound lacks every permission, so that its bounds come first, is the model's reading,
notes/assumptions/22.md).

Step 15 of Table 5.6, R169, R69: when every lane of `ld` or `st` that goes ahead fails a check, the word takes the trap of the
lowest code and sends nothing.

Step 11 of Table 5.6, R209, R213, R207: a word that its group may not execute takes trap 0x04 with INFO 0 in every active lane: an
`mfs` of a privileged register, an `inject` outside a test partition, a `rett` outside a handler. -/
def Obligations.AddressAndPrivilegeChecks : Prop :=
  (∀ (s : State) (l : Launch) (c : Cohort) (h : Handle) (k n a : Nat) (o : Int) (p : Perms) (spaces : List Nat) (locks : Bool),
     let t := s.addrTrap l c h k o n a p spaces locks
     let far := o < 0 ∨ (h.limit : Int) < o + n ∨ (h.space = 1 ∧ (l.scr : Int) < o + n)
     let refused := h.bound = false ∨ h.allows p = false ∨ h.space ∉ spaces
     (far → t = some (0x09, k)) ∧
     (¬ far → refused → t = some (0x0A, k)) ∧
     (¬ far → ¬ refused → ((h.base : Int) + o) % a ≠ 0 → t = some (0x0C, k)) ∧
     (¬ far → ¬ refused → ((h.base : Int) + o) % a = 0 →
       t = if locks then (s.lockHit l c h.space (h.base + o.toNat) n).map (fun e => (0x0B, e)) else none)) ∧
  (∀ (s : State) (x : Ctx) (lanes : Mask) (o : FmtM) (trap : Nat → Nat × Nat),
     let ts := (maskLanes lanes).map (fun l => LaneTrap.mk l (trap l).1 (trap l).2)
     (s.Goes (specM (.ld o) o (srcsXY o) [dst o.dst (memRegs o.var)]) x lanes →
       (∀ l, l ∈ maskLanes lanes → s.memTrap x o (loadForm opLd o.var permRead spacesAll) l = some (trap l)) →
       exec (.ld o) s = .next (s.trapOr x (s.wordTrap x lanes ts false []))) ∧
     (s.Goes (specM (.st o) o (srcsXY o ++ [srcData o (memRegs o.var)]) []) x lanes →
       (∀ l, l ∈ maskLanes lanes → s.memTrap x o (loadForm opSt o.var permWrite spacesAll) l = some (trap l)) →
       exec (.st o) s = .next (s.trapOr x (s.wordTrap x lanes ts false [])))) ∧
  (∀ (s : State) (x : Ctx) (o : FmtS) (k : FmtK) (p : Partition),
     let trap := fun (g : Guard) => s.trapOr x (s.wordTrap x 0 (trapAll (x.active g) 0x04 0) false [])
     s.ctx? = some x → x.waits = false → s.calm x.l.part →
     (x.active o.guard ≠ 0 → (Instr.mfs o).encInfo = none → sysPrivileged o.sysn = true → exec (.mfs o) s = .next (trap o.guard)) ∧
     (x.active o.guard ≠ 0 → (Instr.inject o).encInfo = none → s.part? x.l.part = some p → exec (.inject o) s = .next (trap o.guard)) ∧
     (x.active k.guard ≠ 0 → (Instr.rett k).encInfo = none → x.g.r.inTrap = false → exec (.rett k) s = .next (trap k.guard)))

/-! ## Traps and regions -/

/-- R206, Table 11.8: a group with a handler that takes a trap records it, gives every live lane its present PC as resume PC, and sends the
trapping lanes (every live lane for 0x18, 0x20 and 0x38) to the handler; its registers, predicates and accumulators and all of memory
stay.

R208: with no handler trap 0x38 is met by a forced save and every other cause fails the launch; in a handler traps 0x20 and 0x38 are
held, and every other cause fails the launch with both causes.

R207, Table 11.8: once every live handler lane has returned, each resumes at its resume PC, INTRAP clears, and what the group waited
for before goes on, beside what the handler's last clause waits for. -/
def Obligations.TrapEntryAndReturn : Prop :=
  (∀ (s : State) (g : GRef) (x : Group) (code info : Nat) (lanes : Mask) (tpc taddr : DWord) (tskid : Word),
     s.group? g = some x → x.r.inTrap = false → x.r.handlerPc ≠ 0 →
     let all := code = 0x18 ∨ code = 0x20 ∨ code = 0x38
     let t := s.takeTrap g code info lanes tpc taddr tskid
     ∃ y, t.group? g = some y ∧ t.mem = s.mem ∧ (∃ f, t = s.modGroup g f) ∧
       y.r.inTrap = true ∧ y.r.tpc = tpc ∧ y.r.taddr = taddr ∧
       y.r.tcause.toNat = (if all then x.r.live else lanes).toNat * 65536 + info % 256 * 256 + code % 256 ∧
       y.r.tskid = (if code = 0x10 ∨ code = 0x11 ∨ code = 0x12 then tskid else x.r.tskid) ∧
       y.r.handler = (if all then x.r.live else lanes) &&& x.r.live ∧ y.r.live = x.r.live ∧
       (∀ l, l < 16 → x.r.live.getLsbD l = true → (y.r.lane l).resumePc = (x.r.lane l).pc) ∧
       (∀ l, l < 16 → (y.r.lane l).pc = if y.r.handler.getLsbD l then x.r.tvec &&& ~~~7#64 else (x.r.lane l).pc) ∧
       (∀ n l, y.r.read n l = x.r.read n l) ∧ (∀ n l, y.r.pred n l = x.r.pred n l) ∧ (∀ n i j, y.r.accRead n i j = x.r.accRead n i j)) ∧
  (∀ (s : State) (g : GRef) (x : Group) (code info : Nat) (lanes : Mask) (tpc taddr : DWord) (tskid : Word),
     s.group? g = some x →
     let t := s.takeTrap g code info lanes tpc taddr tskid
     (x.r.inTrap = false → x.r.handlerPc = 0 →
       (code = 0x38 → t = s.startSave (GRefCohort g) 2) ∧
       (code ≠ 0x38 → t = s.failLaunch g.lid code tpc taddr
         (tcauseOf code info (if code = 0x18 ∨ code = 0x20 then x.r.live else lanes)) 0)) ∧
     (x.r.inTrap = true →
       (code = 0x20 → t = s.modRegs g (fun r => { r with held20 := some info })) ∧
       (code = 0x38 → t = s.modRegs g (fun r => { r with held38 := some info })) ∧
       (code ≠ 0x20 → code ≠ 0x38 → t = s.failLaunch g.lid code tpc taddr (tcauseOf code info lanes) x.r.tcause))) ∧
  (∀ (r : Regs),
     let t := r.returnTrap
     t.inTrap = false ∧ t.handler = 0 ∧ t.wait = r.wait.join r.outer ∧
     (∀ n l, t.read n l = r.read n l) ∧ (∀ n l, t.pred n l = r.pred n l) ∧ t.tvec = r.tvec ∧ t.live = r.live ∧ t.tcause = r.tcause ∧
     ((∀ l, l < 16 → (r.lane l).tok = none) → ∀ l, l < 16 →
       (t.lane l).pc = if (r.handler &&& r.live).getLsbD l then (r.lane l).resumePc else (r.lane l).pc) ∧
     (r.returnDue = true ↔ r.inTrap = true ∧ ∀ l, l < 16 → r.handler.getLsbD l = true → r.live.getLsbD l = true → r.retted.getLsbD l = true))

/-- R205: each active lane of `trap k` takes trap 0x3F precisely with INFO k and resumes at F, and a lane of the issue set whose guard is
false continues at F (where no `mts` is pending and no lane is being killed); then the group's waits are evaluated (R125, R228). Where
the P2 set still issues its word of the same cycle the trap is due after that word (R128, Table 11.8), with its lanes at F. `trap 5` is
the word 0xD807_0000_0005_0000. -/
def Obligations.TrapWord : Prop :=
  decode 0xD807000000050000 0 = .ok (.trap { guard := ⟨false, 7⟩, var := 0, dst := 0, disp := 5, sa := 0, ea := false, fx := 0 }) ∧
  (∀ o : FmtK, (Instr.trap o).encInfo = none ↔ (o.dst = 0 ∧ o.sa = 0 ∧ o.ea = false ∧ o.fx = 0 ∧ o.disp.toNat < 256)) ∧
  ∀ (s : State) (x : Ctx) (lanes : Mask) (o : FmtK),
    s.Goes (specK (.trap o) o [] []) x lanes → x.c.checked = false → x.g.r.inTrap = false → x.g.r.handlerPc ≠ 0 →
    (∀ second i, x.g.issue? second = some i → i.dying = 0 ∧ i.sysWrites = []) → (∀ e, e ∈ x.g.late → e.sysWrites = []) → x.g.due = none →
    (x.g.sameCycle x.ref.second = 0 →
      ∃ (t : State) (y : Group), exec (.trap o) s = .next (t.settleGroup x.ref.g) ∧ t.group? x.ref.g = some y ∧ t.mem = s.mem ∧
        y.run1 = none ∧ y.run2 = none ∧ y.r.inTrap = true ∧ y.r.tpc = x.i.wordPc ∧ y.r.taddr = 0 ∧
        y.r.tcause.toNat = lanes.toNat * 65536 + o.disp.toNat % 256 * 256 + 0x3F ∧ y.r.handler = lanes ∧
        (∀ l, l < 16 → lanes.getLsbD l = true → (y.r.lane l).pc = x.g.r.handlerPc ∧ (y.r.lane l).resumePc = x.i.fall) ∧
        (∀ l, l < 16 → lanes.getLsbD l = false → x.i.lanes.getLsbD l = true → (y.r.lane l).pc = x.i.fall)) ∧
    (x.g.sameCycle x.ref.second ≠ 0 →
      ∃ (t : State) (y : Group), exec (.trap o) s = .next t ∧ t.group? x.ref.g = some y ∧ t.mem = s.mem ∧ y.run1 = none ∧ y.run2 = x.g.run2 ∧
        y.due = some ⟨0x3F, o.disp.toNat % 256, lanes, x.i.wordPc, x.i.hdr⟩ ∧ y.r.inTrap = false ∧
        (∀ l, l < 16 → x.i.lanes.getLsbD l = true → (y.r.lane l).pc = x.i.fall))

/-- R209, Tables 2.2, 2.3 and 3.9: an `mts` takes effect when its clause ends: FPCR keeps its defined bits, FPSR loses the bits that are
set in the operand, TVEC its low three bits, RACC all but its low 8 bits, and the other registers stay. -/
def Obligations.SystemWritesAtClauseEnd : Prop :=
  ∀ (s : State) (g : GRef) (second : Bool) (x y : Group) (i : Issue) (n : Nat) (v : DWord),
    s.group? g = some x → x.issue? second = some i → i.sysWrites = [(n, v)] → (s.retireClause g second).group? g = some y →
    y.r.fpcr = (if n = 0x002 then v.setWidth 32 &&& 0x1F7#32 else x.r.fpcr) ∧
    y.r.fpsr = (if n = 0x003 then x.r.fpsr &&& ~~~(v.setWidth 32) else x.r.fpsr) ∧
    y.r.tvec = (if n = 0x014 then v &&& ~~~7#64 else x.r.tvec) ∧
    y.r.racc = (if n = 0x019 then v.setWidth 32 &&& 0xFF#32 else x.r.racc) ∧
    (∀ r l, y.r.read r l = x.r.read r l) ∧ (∀ p l, y.r.pred p l = x.r.pred p l) ∧ (s.retireClause g second).mem = s.mem

/-- R229: at the issue of an RE clause RPC takes the header address, the region's mask RACC.MASK, the entry mask GMASK.LIVE, and INREG is
set; at the retirement of an RX clause, or when the last live lane has left, the shadows commit, so the tiles read as the region
left them, and INREG clears. -/
def Obligations.Regions : Prop :=
  (∀ (x : Group) (second checked : Bool) (t : LaneSet) (k : Clause),
    t.pc = t.hdr → hdrRE k.hdr = true →
    let y := x.begin second checked t k
    y.r.rpc = t.hdr ∧ y.r.regMask = x.r.racc.setWidth 8 ∧ y.r.entryMask = x.r.live ∧ y.r.inReg = true) ∧
  (∀ (s : State) (g : GRef) (second : Bool) (x y : Group) (i : Issue),
    s.group? g = some x → x.issue? second = some i → i.sysWrites = [] → (s.retireClause g second).group? g = some y →
    (i.rx = true ∨ x.r.live = 0 → y.r.inReg = false ∧ (x.r.inReg = true → y.r.shadow = [])) ∧
    (i.rx = false → x.r.live ≠ 0 → y.r.inReg = x.r.inReg) ∧
    (∀ n j k, j < 16 → k < 64 → y.r.accRead n j k = x.r.accRead n j k))

/-! ## The step, decoding and memory -/

/-- R99, and the model's schedule (notes/assumptions/3.md): when a running issue set is chosen, the step executes the instruction that
its next word decodes to (with the word after it, for `brx`), ILLEGAL_INSTRUCTION for an unassigned opcode, and the instruction whose
own encoding check then fails for a bad field; a chosen event, input or vote happens; with nothing to do the machine only retries.

No instruction and no event stops the machine: every meaning answers a next state, and a step stops only when the schedule names an
issue set that has issued its last word (the model's fault `noWordLeft`, notes/assumptions/3.md). -/
def Obligations.StepRunsTheDecodedWord : Prop :=
  (∀ (s : State) (g : GRef) (second : Bool) (i : Issue) (w : DWord) (rest : List DWord) (x : Instr) (n core slot : Nat),
     (s.nextChoice = some (.word g second) → s.issueOf g second = some i → i.ended = false → i.words.drop i.idx = w :: rest →
       (decode w (rest.headD 0) = .ok x → step s = exec x (s.atWord g second)) ∧
       (∀ opc, decode w (rest.headD 0) = .rejected (.unassigned opc) →
         step s = exec (.illegalInstruction (wordGuard w) opc) (s.atWord g second)) ∧
       (∀ info, decode w (rest.headD 0) = .rejected (.field info) →
         ∃ y, assignForm w (rest.headD 0) = some y ∧ y.encInfo = some info ∧ step s = exec y (s.atWord g second))) ∧
     (s.nextChoice = some (.pending n) → s.pend[n]? = some x → step s = exec x (s.atPending n)) ∧
     (∀ xs, s.nextChoice = some .input → s.inputs = x :: xs → step s = exec x s.atInput) ∧
     (s.nextChoice = some (.vote core slot) → step s = exec (.slotVote core slot) s.atVote) ∧
     (s.nextChoice = none → step s = .next s.idle)) ∧
  ((∀ (i : Instr) (s : State), ∃ t, exec i s = .next t) ∧
   (∀ s : State, s.goesOn ∨ (step s = .fault .noWordLeft ∧
     ∃ g second i, s.nextChoice = some (.word g second) ∧ s.issueOf g second = some i ∧ i.ended = false ∧ i.words.length ≤ i.idx)))

/-- Tables 5.7 and 5.8, and the worked words of chapters 7 and 9 to 11: words written out from their encodings decode to the instructions
that they stand for, one of each format, and altered `ld` words fail with the INFO that the table gives. -/
def Obligations.WrittenWordsDecode : Prop :=
  let g : Guard := { gi := false, gp := 7 }
  decode 0x430A040506070400 0 = .ok (.fma { guard := ⟨true, 2⟩, var := 0, dst := 4, sa := 5, sb := 6, sc := 7, ea := false, eb := false, ec := false, rnd := 1, sat := false, fx := 0 }) ∧
  decode 0x20C7010200040000 0 = .ok (.iaddImm { guard := g, var := 0xC, dst := 1, sa := 2, imm := 4, ea := false, rnd := 0, sat := false, fx := 0 }) ∧
  decode 0x2D07020000000000 0 = .ok (.movi { guard := g, var := 0, dst := 2, imm := 0, ed := false, fx := 0 }) ∧
  decode 0x9047020407804000 0 = .ok (.ld { guard := g, var := 4, dst := 2, hnd := 1, sx := 1, sy := 0xE0, disp := 0x40, ex := false, ey := false, ed := false, scope := 0, ord := 0 }) ∧
  decode 0x7001000783800000 0 = .ok (.mma { guard := ⟨false, 1⟩, var := 0, dst := 0, ta := 0, tb := 1, sa := 0xE0, sb := 0xE0, ea := false, eb := false, sat := false, fx := 0 }) ∧
  decode 0xC00701C020030000 0 = .ok (.push { guard := g, var := 0, dst := 1, sa := 0xC0, imm := 0x2003, ea := false, rnd := 0, sat := false, fx := 0 }) ∧
  decode 0xC90700002C500000 0 = .ok (.mts { guard := g, var := 0, dst := 0, sysn := 2, sa := 0xC5, ea := false, fx := 0 }) ∧
  decode 0xD00700FFFFFA0000 0 = .ok (.bra { guard := g, var := 0, dst := 0, disp := 0xFFFFFA, sa := 0, ea := false, fx := 0 }) ∧
  decode 0xD107001000800002 0x0A00107FFFC00000 = .ok (.brx { guard := g, var := 0, dst := 0, p0 := 0x10008, mid := 0, np := 2, hi := 0, p1 := 0xA0010, p2 := 0x7FFFC, p3 := 0 }) ∧
  decode 0x90770207E7804000 0 = .rejected (.field 0x02) ∧ decode 0x90470207E7804000 0 = .rejected (.field 0x04) ∧
  decode 0x9047020407804002 0 = .rejected (.field 0x0C) ∧ decode 0x3F00000000000000 0 = .rejected (.unassigned 0x3F)

/-- Tables 3.5, 3.6 and 5.1: an instruction form that passes its encoding check decodes from its own words, with every field; a
device event has no words; and words that decode to an instruction are its encoding. -/
def Obligations.EncodeDecodeAgree : Prop :=
  (∀ i : Instr, i.WellFormed → ∀ w rest, encode i = w :: rest → decode w (rest.headD 0) = .ok i ∧ rest.length + 1 = i.words) ∧
  (∀ i : Instr, encode i = [] ↔ i.opc = none) ∧
  (∀ (w w1 : DWord) (i : Instr), decode w w1 = .ok i → encode i = if i.words = 2 then [w, w1] else [w])

/-- The memory keeps its canonical form through every step. -/
def Obligations.StepKeepsMemory : Prop :=
  ∀ s t : State, s.memOk → step s = .next t → t.memOk

/-- R418, Table 3.1, Tables 3.8 to 3.10, R29: the machine at reset has no power good, no work and memory that reads zero, in canonical
form; a group starts with every register zero and full, every lane live at ENTRY, and no handler. -/
def Obligations.ResetState : Prop :=
  State.reset.memOk ∧ (∀ a, State.reset.mem.byte a = 0) ∧ State.reset.hearth.step = 0 ∧ State.reset.launches = [] ∧
  State.reset.cohorts = [] ∧ State.reset.vifs = [] ∧ State.reset.parts = [] ∧ State.reset.pend = [] ∧
  (∀ (gid gidx age : Nat) (entry : DWord),
    let r := (Group.start gid gidx age entry).r
    r.live = 0xFFFF ∧ r.fpcr = 0 ∧ r.fpsr = 0 ∧ r.mfr = 0 ∧ r.tvec = 0 ∧ r.racc = 0 ∧ r.inReg = false ∧ r.inTrap = false ∧ r.xheld = false ∧
    (∀ n l, r.read n l = 0) ∧ (∀ n l, r.isEmpty n l = false) ∧ (∀ n l, n < 7 → r.pred n l = false) ∧ (∀ l, r.pred 7 l = true) ∧
    (∀ n i j, r.accRead n i j = 0) ∧ (∀ l, l < 16 → (r.lane l).pc = entry ∧ (r.lane l).tok = none))

/-- R3, and the model's form of memory: bytes stored at rising addresses read back, every other byte keeps its value, and the
canonical form is kept.

R246, R258: a write performed at home changes the bytes that it writes and no other byte of memory; before it every RDC copy of its
lines leaves, and where none of them is dirty no other byte of memory changes. -/
def Obligations.MemoryReadsBackAfterStores : Prop :=
  (∀ (m : Memory) (a : Nat) (bs : List Byte),
     (Memory.wf m = true → Memory.wf (m.putBytes a bs) = true) ∧
     (∀ b, (m.putBytes a bs).byte b = if a ≤ b ∧ b < a + bs.length then bs.getD (b - a) 0 else m.byte b)) ∧
  (∀ (s : State) (q : Req) (pa : Nat) (bs : List Byte),
     let t := s.homeStore q pa bs
     let put := fun (m : Memory) b => if pa ≤ b ∧ b < pa + bs.length then bs.getD (b - pa) 0 else m.byte b
     (s.memOk → t.memOk) ∧
     (∀ b, (s.homeWrite q pa bs).mem.byte b = put s.mem b) ∧
     (∀ b, pa ≤ b → b < pa + bs.length → t.mem.byte b = bs.getD (b - pa) 0) ∧
     (∀ a, a ∈ linesOf pa bs.length → ∀ die, t.rdcLine? die a = none) ∧
     ((∀ a, a ∈ linesOf pa bs.length → ∀ die l, s.rdcLine? die a = some l → l.dirtyBytes = []) → ∀ b, t.mem.byte b = put s.mem b))

/-- R170, R172, R238: a store to the scratchpad changes the bytes of its lane that lie in the S bytes of the scratchpad, a load none, and
a load inside S returns the bytes present. -/
def Obligations.ScratchpadAccesses : Prop :=
  ∀ (s : State) (c : Cohort) (a : Access) (i o scr : Nat),
    let old := s.scratchBytes c scr o a.size
    let new := (c.scratchLane a i o old scr).1
    (a.opc = opSt → ∀ b, new.scratch.byte b =
      if o ≤ b ∧ b < o + a.size ∧ b < scr then BitVec.ofNat 8 (a.dataOf i / 256 ^ (b - o)) else c.scratch.byte b) ∧
    (a.opc = opLd → new.scratch = c.scratch) ∧
    (o + a.size ≤ scr → old = c.scratch.bytes o a.size)

/-! ## Issue -/

/-- R97, R98, R101, R228, R229: a slot that runs nothing starts the fetches that its groups await; the winner of its vote starts
the set or the two sets of lanes that stand lowest, or takes the trap of the first set that has one at its header. An error in
core-level state that comes to light instead restarts every group of a cohort whose groups are all in regions (R22, R231). -/
def Obligations.SlotVote : Prop :=
  ∀ (s : State) (core slot : Nat) (l : Launch) (c : Cohort) (x : Group),
    let s0 := s.startFetches core slot (s.fetchesDue core slot)
    let g : GRef := ⟨c.ref.lid, c.ref.cid, x.gid⟩
    let sets := (s0.eligibleSets l c x).take (if c.checked then 1 else 2)
    let s1 := (s0.endYields core slot g).modGroup g (fun y => { y with r := { y.r with wait := y.r.wait.drop (fun w => w == .yield) } })
    (∀ r d l gs rest, s.sram = .core r :: rest → s.cohort? r = some d → s.launch? r.lid = some l → d.groups.filter (fun x => !x.retired && x.r.live != 0) = gs →
      gs.all (fun x => x.r.inReg) = true → ∃ log, exec (.slotVote core slot) s =
        .next (gs.foldl (fun s x => s.restartGroup ⟨r.lid, r.cid, x.gid⟩) (({ s with sram := rest } : State).logError log))) ∧
    (s.sram = [] → s.slotBusy core slot = false →
    (s0.winner core slot = none → exec (.slotVote core slot) s = .next s0) ∧
    (s0.winner core slot = some (l, c, x) →
      (∀ t k, sets = [(t, k)] → t.trap k l x = none →
        exec (.slotVote core slot) s = .next (s1.modGroup g (fun y => y.begin false c.checked t k))) ∧
      (∀ t k u j, sets = [(t, k), (u, j)] → t.trap k l x = none → u.trap j l x = none →
        exec (.slotVote core slot) s =
          .next (s1.modGroup g (fun y => (y.begin false c.checked t k).begin true c.checked u j))) ∧
      (∀ t k rest code info, sets = (t, k) :: rest → t.trap k l x = some (code, info) →
        exec (.slotVote core slot) s = .next (s0.headerTrap core g t k code info))))

/-- Table 6.1, R96, R211: no group that may issue and waits for nothing has a smaller key than the winner, and a group that
yielded wins only when none of these can issue. -/
def Obligations.VoteTakesTheSmallestKey : Prop :=
  ∀ (s : State) (core slot : Nat) (w v : Launch × Cohort × Group),
    s.winner core slot = some w → v ∈ s.voters core slot → s.eligibleSets v.1 v.2.1 v.2.2 ≠ [] → v.2.2.r.wait = .none →
    w.2.2.r.wait = .none ∧ keyLess (groupKey v.2.1 v.2.2) (groupKey w.2.1 w.2.2) = false

/-- R60, R61: a clause whose header and words can be read goes to the slot's buffer when its check is right; a wrong check makes
the core read it once more, past its own copy, and a second one leaves it in the buffer as bad.

R106, R107, R384: a checked clause whose copies agree sends what it has buffered and retires; a first mismatch is recorded
and the clause runs again from its header; a second one takes the device's way of trap 0x31. A stopped word gives up its slot. -/
def Obligations.ClauseEvents : Prop :=
  (∀ (s : State) (core slot lid pc noise : Nat) (k : Core) (f : Fetch) (l : Launch) (c : Cohort) (hp bp : List Nat),
     let q := l.req c
     let hdr := fun (s : State) => w64 (leNat ((List.range 8).map (fun i => s.fetchByte q f.again (hp.headD 0 + i))))
     let n := if hdrTag (hdr s) = 0xF then hdrCount (hdr s) + 1 else 0
     let t := s.fetchReach q f.again (hp ++ bp)
     let words := noisy (bp.map (fun pa => w64 (leNat ((List.range 8).map (fun i => t.fetchByte q f.again (pa + i)))))) noise
     s.core? core = some k → k.fetches.find? (fun f => f.slot == slot && f.lid == lid && f.pc == w64 pc) = some f → f.stuck = false →
     s.fetchCtx core lid = some (l, c) → s.fetchPas core l.vif [f.pc.toNat] = .ok hp →
     s.fetchPas core l.vif ((List.range n).map (fun i => f.pc.toNat + 8 * (i + 1))) = .ok bp → s.fetchBlocked q (hp ++ bp) = none →
     (hp ++ bp).findSome? (fun pa => if f.again then t.poisonIn q.kdom pa 8 else t.l1Poison q pa 8) = none →
     ((n = 0 ∨ clauseCheck words = (hdr t).toNat % 65536) →
       exec (.clauseFetchDone core slot lid pc noise) s = .next (t.installClause core slot l.vif lid f.pc (hdr t) words false)) ∧
     (n ≠ 0 → clauseCheck words ≠ (hdr t).toNat % 65536 → f.again = true →
       exec (.clauseFetchDone core slot lid pc noise) s = .next (t.installClause core slot l.vif lid f.pc (hdr t) words true)) ∧
     (n ≠ 0 → clauseCheck words ≠ (hdr t).toNat % 65536 → f.again = false →
       exec (.clauseFetchDone core slot lid pc noise) s =
         .next ((t.modFetch core slot lid f.pc (some (fun f => { f with again := true }))).post
           (.clauseFetchDone core slot lid f.pc.toNat 0)))) ∧
  (∀ (s : State) (g : GRef) (l : Launch) (c : Cohort) (x : Group) (i : Issue) (k : Clause) (r : Regs),
     s.Stands g l c x → x.run1 = some i → x.ck = some r →
     (i.ended = true → i.differs = false → s.commitFits c x = true → s.bandRefused c x = false →
       exec (.checkedCompare g false) s = .next ((s.sendAll g).retireClause g false)) ∧
     (x.replaying = false → s.clause? c.core (x.gidx % 4) l.vif i.hdr = some k →
       exec (.checkedCompare g true) s = .next ((s.logError (mismatchRec l c g 4 0 1 i.hdr i.differs)).replayClause g i k.hdr)) ∧
     (x.replaying = true → exec (.checkedCompare g true) s = .next (s.secondMismatch g l c i)) ∧
     (∀ why, i.held = true → i.why = some why →
       (c.parkOver x why = true → exec (.checkedWaitExpiry g) s = .next s) ∧
       (c.parkOver x why = false → exec (.checkedWaitExpiry g) s =
         .next ((s.modGroup g (fun y =>
           let z := y.discardClause
           let z := { z with r := z.r.placeLanes i.lanes i.hdr (fun _ => i.hdr) true }
           ({ z.park { why with lanes := i.lanes } with replaying := false }).setIssue false none)).post (.asyncTrapDelivery g)))))

/-- R51, R53, R100: a fill that carries no poison writes its registers in lanes that are live, makes them full, and lets the words
parked on them go on.

R101, R102, R211: the fourth iteration without a change lowers a group, CYC 4,096 later it is normal again, and a `sleep`
ends when its cycles have passed.

R206, R208, R338: a posted trap is taken by a group at a clause boundary, by its live lanes, and ends what its issue sets were doing
unless a handler only holds it. Where no word is at fault TPC is a free
value (the model's choice, notes/assumptions/9.md); a trap of a word that a home refused names the word.

R104, R161: a matrix operation that completes leaves its group's list of operations in flight, and words parked on the tile
go on. -/
def Obligations.GroupEvents : Prop :=
  (∀ (s : State) (g : GRef) (fill : Nat) (l : Launch) (c : Cohort) (x : Group) (f : Fill),
     s.Stands g l c x → x.fills.find? (fun f => f.id == fill) = some f → f.poison = none →
     exec (.registerFill g fill) s =
       .next (((s.modGroup g (fun y => { y with fills := y.fills.filter (fun k => k.id != f.id) })).modGroup g (fun y =>
         let z := ((y.land f).noteChange (regsChanged y.r (y.land f).r)).unpark
         { z with r := z.r.settleXrel, ck := z.ck.map Regs.settleXrel })).wakeOne (GRefCohort g)) ∧
     (∀ i n, i < 16 → n < 0xC0 → x.r.live.getLsbD i = false → (x.land f).r.read n i = x.r.read n i)) ∧
  (∀ (s : State) (g : GRef) (l : Launch) (c : Cohort) (x : Group) (k : Cluster),
     s.Stands g l c x → s.cluster? (clusterOf c.core) = some k →
     (x.spin.lowered = false → x.spin.changed = false → 4 ≤ x.spin.count → exec (.spinDetectLower g) s =
       .next ((s.modGroup g (fun y => { y with spin := { y.spin with lowered := true, loweredAt := k.cyc } })).post
         (.spinReleaseTimeout g))) ∧
     (x.spin.lowered = true → exec (.spinReleaseTimeout g) s =
       .next ((s.modCluster (clusterOf c.core) (fun k => { k with cyc := max k.cyc (x.spin.loweredAt + 4096) })).modGroup g
         (fun y => { y with spin := y.spin.restart }))) ∧
     (∀ n start, x.r.wait = .sleep n start → exec (.sleepExpiry g) s =
       .next ((s.modCluster (clusterOf c.core) (fun k => { k with cyc := max k.cyc (start + n) })).modRegs g
         (fun r => { r with wait := r.wait.drop Wait.isSleep })))) ∧
  (∀ (s : State) (g : GRef) (l : Launch) (c : Cohort) (x : Group) (p : Posted) (rest : List Posted),
     s.Stands g l c x → c.phase = .resident → c.checked = false → x.retired = false → x.stopped = false → x.r.live ≠ 0 → x.atBoundary = true →
     (x.slots.any (fun t => t.refused.isSome) = false ∨ x.handlesRefusal = true) → x.posted = p :: rest →
     s.commitFits c x = true →
     let t := (if x.r.inTrap && asyncCause p.code then s
       else s.modGroup g (fun y => { y.trapShelve with ck := none, unsent := [], replaying := false })).modGroup g (fun y => { y with posted := rest })
     (p.word = none → exec (.asyncTrapDelivery g) s =
       .next (t.tick.takeTrap g p.code p.info x.r.live (w64 (Config.freeNat s.fresh)) 0 0)) ∧
     (∀ w, p.word = some w → w.full = none → x.handlesRefusal = false → w.lanes &&& x.r.live ≠ 0 → exec (.asyncTrapDelivery g) s =
       .next (t.takeTrap g p.code p.info (w.lanes &&& x.r.live) w.pc w.va
         (w32 (x.slots.length % 256 * 65536 + ((t.group? g).map (fun y => y.skid w.issuedAt)).getD 0))))) ∧
  (∀ (s : State) (g : GRef) (op : Nat),
     exec (.matrixWordRetire g op) s =
       .next (s.modGroup g (fun y => Group.unpark { y with tileOps := y.tileOps.filter (fun p => p.1 != op) })))

/-! ## Memory events -/

/-- R172, R177, R180, R415: the lanes of an access whose turn has come, with their translations, room at their home and tokens, are
performed there and what waited for them goes on, unless an older access of the core is on its way to the same home; one whose home
is unavailable comes again later; lanes that nothing holds have their release when its write-backs are complete.

R7, R269, R356: the companion reads bytes of this package at their home and gets them back; a request at an unavailable home is
answered so; a write of another package's memory changes it and no copy of it here; a read of a register returns its value. -/
def Obligations.HomeEvents : Prop :=
  (∀ (s : State) (g : GRef) (id : Nat) (l : Launch) (c : Cohort) (x : Group) (a : Access),
     s.Stands g l c x → x.accs.find? (fun a => a.id == id) = some a → ∀ lanes, s.homeLanes l c x a = lanes → lanes ≠ 0 →
     s.behindHome l c a = false →
     (a.opc ≠ opWbr → a.opc ≠ opInvr →
       (s.blockOf l c a = .none → s.rereadFor g l c a = none →
         exec (.homeSliceRequest (.access g id)) s = .next (s.performGlobal g l c a lanes).wake) ∧
       (∀ pa, s.blockOf l c a = .unavailable pa → exec (.homeSliceRequest (.access g id)) s =
         .next (((s.countUnavailable pa).modAccess g id (fun a => { a with unavailable := true })).post
           (.homeUnavailableRetry (.access g id))))) ∧
     ((a.opc = opWbr ∨ a.opc = opInvr) → exec (.homeSliceRequest (.access g id)) s = .next (s.performRange g l c a lanes).wake) ∧
     (∀ r, (s.modAccess g id (fun a => if a.opc == opWaitc then { a with released := 0 } else a)) = r → ∀ d y b,
       r.Stands g l d y → y.accs.find? (fun a => a.id == id) = some b → b.opc = opWaitc → r.homeLanes l d y b ≠ 0 →
       r.blockOf l d b = .none → r.rereadFor g l d b = none →
       exec (.waitcReread g id) s = .next (r.performGlobal g l d b (r.homeLanes l d y b)).wake) ∧
     exec (.homeUnavailableRetry (.access g id)) s =
       .next ((s.modAccess g id (fun a => { a with unavailable := false })).wakeOne (GRefCohort g)) ∧
     (∀ out, s.releasing l c x a = out → out ≠ 0 →
       s.releaseHeld (l.req c) (s.effScope a (s.accPas l c a)) a.id = false → s.releaseBlocked (l.req c) (s.effScope a (s.accPas l c a)) = false →
       let t := s.releaseActions (l.req c) (s.effScope a (s.accPas l c a))
       exec (.releaseActionsDone g id) s =
         .next (if a.addressed then t.markReleased g id out else t.afterRelease g c a out).wake)) ∧
  (∀ (s : State) (pa n : Nat) (bs : List Byte) (reg : RegName),
     let part := ((s.ownerOf pa).map (fun p => p.no)).getD 256
     let rd : Outer := ⟨part, s.domainOf pa, none, pa, n, false⟩
     let wr : Outer := ⟨part, s.domainOf pa, none, pa, bs.length, true⟩
     (let t := s.send (.register reg (s.readRegister reg))
      ((∀ n, reg ≠ .errorRecord n) → exec (.homeSliceRequest (.register reg)) s = .next t) ∧
      (∀ n, reg = .errorRecord n → exec (.homeSliceRequest (.register reg)) s = .next { t with hearth := { t.hearth with
        errlog := t.hearth.errlog.mapIdx (fun k e => if k = n then { e with seen := true } else e) } })) ∧
     (s.local pa = false → exec (.homeSliceRequest (.companionRead pa n)) s = .next s ∧
       exec (.homeSliceRequest (.companionWrite pa bs)) s = .next (s.homeWrite wr.req pa bs).wake) ∧
     (s.local pa = true → s.homeUnavailable pa = true →
       exec (.homeSliceRequest (.companionRead pa n)) s = .next ((s.countUnavailable pa).send (.homeUnavailable pa))) ∧
     (s.local pa = true → s.homeUnavailable pa = false → s.quiesced rd.req pa = false → s.hasToken rd.req pa = true →
       let log := fun (o : Outer) (acc : BitVec 8) => s.logAccess part (s.companionHits o) acc 8 0xFF 0 0 pa
       let count := fun (o : Outer) (t : State) =>
         t.countAccess { o.req with movable := ((t.die? (paDie pa)).map (fun d => d.counters.any (fun c => c.page == pa / 65536))).getD false } none pa o.write
       let r := count rd (log rd accRead)
       let w := count wr (log wr accWrite)
       (s.logRoom part (s.companionHits rd).length = true →
         exec (.homeSliceRequest (.companionRead pa n)) s = .next ((r.homeTouch rd.req pa).send (.data pa (r.homeBytes pa n)))) ∧
       (s.logRoom part (s.companionHits wr).length = true →
         exec (.homeSliceRequest (.companionWrite pa bs)) s = .next (((w.homeStore wr.req pa bs).send (.data pa [])).wake))))

/-- R237, R362, R364, R385, R391: ways leave the L1 and the blocks that waited for them start; buckets and allowances
are refilled and what waited for them goes on; a sector's read that fails both times poisons it and is recorded, one that passes changes nothing.

R241, R267: the first touch of a mapped sector reads its 128 bytes through the L1 as a plain load, when its page is translated, its
home can take the load and no half of it is poisoned; the bytes that were read land later. -/
def Obligations.StoreEvents : Prop :=
  (∀ (s : State) (core stripe sector stack port : Nat) (chk : SectorCheck) (k : Stack),
     (stripe < 32 → exec (.l1WayWritebackDone core stripe) s = .next ((s.l1Shrink core).startWaitingBlocks core)) ∧
     (s.local (64 * sector) = true → exec (.hbmSectorRead sector ⟨.clean, true⟩ chk) s = .next s) ∧
     (s.local (64 * sector) = true → exec (.hbmSectorRead sector ⟨.uncorrectable, true⟩ ⟨.uncorrectable, true⟩) s =
       .next ((s.logError (s.sectorRec (64 * sector) 2 0)).modSector (64 * sector) (fun x => { x with poison := some .uncorrectable }))) ∧
     (s.hbms.find? (fun k => k.no == stack) = some k →
       exec (.patrolScrubRead stack ⟨.clean, true⟩) s =
         .next (s.modStack stack (fun x => if x.patrol + 1 = 2 ^ 30 then { x with patrol := 0, corrected := [] } else { x with patrol := x.patrol + 1 }))) ∧
     (s.hbms.any (fun k => k.no == stack) = true → exec (.regulatorRefill stack) s =
       .next (s.modStack stack (fun k => { k with gb := min (k.gb + k.gref) k.gref, hb := min (k.hb + k.href) k.href })).retry) ∧
     (let fill := fun (p : Port) => { p with gb := min (p.gb + p.gal) p.gal, hb := min (p.hb + p.hal) p.hal }
      (s.ports.any (fun p => p.no == port) = true →
        exec (.rafterAllowanceRefill port) s = .next ({ s with ports := updateWhere (fun p => p.no == port) fill s.ports } : State).flushOut.retry))) ∧
  (∀ (s : State) (r : CRef) (e sec : Nat) (l : Launch) (c : Cohort) (f : Filling),
     let m := c.mapEntry e
     let q := m.req l c
     s.cohort? r = some c → s.launch? r.lid = some l → m.filling.find? (fun f => f.sec == sec) = some f →
     (∀ t, f.data = none → s.tlb? c.core l.vif (m.va + (sec - m.s)) needRead = some t →
       let pa := t.paOf (m.va + (sec - m.s))
       s.homeUnavailable pa = false → s.quiesced q pa = false → s.silenced l.part = false →
       (s.cached q pa 128 = true ∨ s.hasToken q pa = true) → s.fillPoison q pa = [] →
       exec (.firstTouchFillDone r e sec) s = .next ((s.readSector r q t e sec pa).post (.firstTouchFillDone r e sec))) ∧
     (∀ bs, f.data = some bs → exec (.firstTouchFillDone r e sec) s = .next (s.landFilling r c.core e f) ∧
       (bs.length = 128 → (c.landSector e f.sec bs f.bad).scratch.bytes f.sec 128 = bs)))

/-! ## Translation and faults -/

/-- R326, R329, R361: a walk starts with the present generations when it is the next of its die, one of class G before any of class H and
otherwise the one that came first, and one of the die's 256 walkers is free; one that finishes under other generations starts again.

R325, R328, R333, R362, R376: a walk under present generations reads its tables once they have their tokens; where they allow the
access it sets AF, and D for a write, installs the translation and lets its waiters go on; one that they stop opens or joins the record
of its page. -/
def Obligations.Walks : Prop :=
  (∀ (s : State) (id : Nat) (w n : Walk) (v : Vif) (e : WalkEnv),
     s.vif? w.vif = some v →
     let began := ((s.modWalk w.id (fun w => { w with started := true, s1gen := v.s1gen, s2gen := v.s2gen, logging := false })).post
       (.walkComplete w.id))
     (s.walks.find? (fun w => w.id == id && !w.started) = some w →
       (s.walks.find? (fun x => x.die == w.die && !x.started && !x.classH)).or (s.walks.find? (fun x => x.die == w.die && !x.started)) = some n →
       (s.walking w.die < 256 → n.id = w.id → exec (.walkStart id) s = .next (began.postNextWalk w.die)) ∧
       ((256 ≤ s.walking w.die ∨ n.id ≠ w.id) → exec (.walkStart id) s = .next s)) ∧
     (s.walks.find? (fun w => w.id == id && w.started) = some w → s.walkEnv? w.vif = some e →
       (v.s1gen ≠ w.s1gen ∨ v.s2gen ≠ w.s2gen) → exec (.walkComplete id) s = .next began)) ∧
  (∀ (s t : State) (id : Nat) (w : Walk) (v : Vif) (e : WalkEnv),
     s.walks.find? (fun w => w.id == id && w.started) = some w → s.vif? w.vif = some v → s.walkEnv? w.vif = some e →
     v.s1gen = w.s1gen → v.s2gen = w.s2gen →
     (s.readTables w e = (t, false) → exec (.walkComplete id) s = .next t) ∧
     (s.readTables w e = (t, true) →
       (∀ ipa pa size perm ga ge ha he, t.walkTables e (w.va * 65536) (needOfAcc w.acc) = .ok ipa pa size perm ga ge ha he →
         t.larder.find? (fun l => l.vif == w.vif && l.page == w.va) = none →
         let hits := e.part.hits (alignDown pa size) size perm
         let write := (needOfAcc w.acc).getLsbD 1
         let ge' := usedEntry ge write
         let he' := usedEntry he write
         let s1 := t.logAccess v.part hits w.acc (t.agentOf (w.waiters.headD (w.acc, .device w.vif)).2) w.vif w.lid (w.va * 65536) pa
         let s2 := if ge' = ge then s1 else s1.homeStore e.req ga (leBytes ge' 8)
         let s3 := if he' = he then s2 else s2.homeStore e.req ha (leBytes he' 8)
         let entry : TlbEntry :=
           { vif := w.vif, va := alignDown (w.va * 65536) size, size := size, ipa := alignDown ipa size, pa := alignDown pa size,
             perm := perm, dset := write || (pteD ge && pteD he), movable := pteM he, s1gen := w.s1gen, s2gen := w.s2gen }
         e.part.roomFor hits.length = true →
         exec (.walkComplete id) s = .next (w.waiters.foldl (fun s x => s.resume x.2) ((s3.installTlb w entry).endWalk w))) ∧
       (∀ kind level entry ipa table, t.walkTables e (w.va * 65536) (needOfAcc w.acc) = .fault kind level entry ipa table →
         exec (.walkComplete id) s = .next ((t.faultWaiters w ⟨kind, level, entry, ipa, table, 0⟩).endWalk w)) ∧
       (∀ entry ea, t.walkTables e (w.va * 65536) (needOfAcc w.acc) = .storage entry ea →
         exec (.walkComplete id) s = .next ((t.faultWaiters w (if accAllowed (ptePerm entry) w.acc
           then ⟨5, 0, entry, ea, false, bitsOf entry 59 56⟩ else ⟨2, 0, entry, 0, false, 0⟩)).endWalk w))))

/-- R329: a walk records both generation counters when it starts; if either has changed when it completes, nothing is installed, and the
walk restarts with the new values. The counters have 16 bits and wrap. -/
def Obligations.WalkGenerations : Prop :=
  ∀ (s : State) (id : Nat) (w : Walk) (v : Vif) (e : WalkEnv),
    s.vif? w.vif = some v →
    let began := (s.modWalk w.id (fun w => { w with started := true, s1gen := v.s1gen, s2gen := v.s2gen, logging := false })).post
      (.walkComplete w.id)
    (s.walks.find? (fun w => w.id == id && !w.started) = some w → s.walking w.die < 256 → (s.nextWalk w.die).map (fun n => n.id) = some w.id →
      exec (.walkStart id) s = .next (began.postNextWalk w.die)) ∧
    (s.walks.find? (fun w => w.id == id && w.started) = some w → s.walkEnv? w.vif = some e →
      (v.s1gen ≠ w.s1gen ∨ v.s2gen ≠ w.s2gen) → exec (.walkComplete id) s = .next began)

/-- R334: a record that needs an answer is written at FTAIL, or HTAIL for KIND 3 and 4, when its ring has room and its place can
be written; the tail advances, and the guest's interface signals its vector.

R336, R337, R343, R344: FRESP names a written record that has no answer yet and answers it. "Resolved" first merges the record's
larder bytes, and waits while that must; then it closes the record, frees the slots that waited on it, and its other waiters ask again;
"refused" marks the slots, discards the larder's bytes, and refuses each other waiter, by rising address. -/
def Obligations.FaultRecords : Prop :=
  (∀ (s t : State) (id : Nat) (r : FaultRec) (v : Vif),
     s.rec? id = some r → s.vif? r.vif = some v → r.seq = none → r.kind ≠ 5 → r.kind ≠ 6 →
     let hyp := r.kind = 3 ∨ r.kind = 4
     (¬ hyp → (v.ftail + 2 ^ 32 - v.fhead) % 2 ^ 32 < 2 ^ v.frlog →
       let at' := v.frbase + 64 * (v.ftail % 2 ^ v.frlog)
       (s.ipaReach v at' 64 true = (t, none) → exec (.faultRecordWrite id) s = .next t) ∧
       (∀ ps, s.ipaReach v at' 64 true = (t, some ps) → exec (.faultRecordWrite id) s =
         .next ((((t.devStore v ps (r.toBytes v.ftail (t.recSkid r))).modVif r.vif (fun v => { v with ftail := (v.ftail + 1) % 2 ^ 32 })).signal
           r.vif v.faultVector).modRec id (fun r => { r with seq := some v.ftail })))) ∧
     (¬ hyp → 2 ^ v.frlog ≤ (v.ftail + 2 ^ 32 - v.fhead) % 2 ^ 32 → exec (.faultRecordWrite id) s = .next s) ∧
     (hyp → (v.htail + 2 ^ 32 - v.hhead) % 2 ^ 32 < 2 ^ v.hlog →
       ∀ ps, s.reachParts v (some [⟨v.hbase + 64 * (v.htail % 2 ^ v.hlog), 64, none⟩]) true = (t, some ps) → exec (.faultRecordWrite id) s =
         .next (((t.devStore v ps (r.toBytes v.htail (t.recSkid r))).modVif r.vif (fun v => { v with htail := (v.htail + 1) % 2 ^ 32 })).modRec
           id (fun r => { r with seq := some v.htail })))) ∧
  (∀ (s t : State) (id vif : Nat) (hyp : Bool) (value : DWord) (r : FaultRec),
     let named := fun (r : FaultRec) => r.vif == vif && r.hyp == hyp && r.seq == some (value.toNat % 2 ^ 32) && r.answered.isNone
     (s.recs.find? named = some r → value.toNat < 2 ^ 33 →
       let answered := s.modRec r.id (fun r => { r with answered := some (value.getLsbD 32) })
       (value.getLsbD 32 = false → exec (.fresp vif hyp value) s = .next (answered.post (.faultAnswerResolved r.id))) ∧
       (value.getLsbD 32 = true → exec (.fresp vif hyp value) s = .next (answered.post (.faultAnswerRefused r.id)))) ∧
     (s.recs.find? named = none → exec (.fresp vif hyp value) s = .next s) ∧
     (s.rec? id = some r →
       (∀ left, s.mergeAll r (s.larderOf r) = (t, true, left) →
         let u := left.foldl (fun s x => s.larderFault r x.1 x.2) { t with recs := t.recs.filter (fun x => x.id != r.id) }
         exec (.faultAnswerResolved id) s = .next (r.waiters.foldl (fun s w => s.resume w) (u.releaseSlots r).wake)) ∧
       (∀ left, s.mergeAll r (s.larderOf r) = (t, false, left) →
         exec (.faultAnswerResolved id) s = .next (t.modRec r.id (fun r => { r with answered := some false }))) ∧
       (let t0 := (s.refuseSlots r).larderDiscard r
        let t : State := { t0 with recs := t0.recs.filter (fun x => x.id != r.id) }
        let t := t.cohorts.foldl (fun s c => c.groups.foldl (fun s g =>
          if g.slots.any (fun t => t.refused.isSome) then s.post (.asyncTrapDelivery ⟨c.ref.lid, c.ref.cid, g.gid⟩) else s) s) t
        exec (.faultAnswerRefused id) s = .next ((t.byVa r.waiters).foldl (fun s w => s.refuse r w) t))))

/-- R330, R331: a legal request moves the generation of its stage and drops the translations in its range; a guest's INVREQ takes its
place among the context's requests and has its descriptor read; DONE is written when the requests before it and the stores under the
dropped translations are done. -/
def Obligations.Invalidations : Prop :=
  ∀ (s t : State) (d : InvDesc) (vif id : Nat) (value : DWord) (pa : Nat) (i : Inval) (v : Vif) (ps : List DevPart),
    let cut := fun (d : InvDesc) (l : List TlbEntry) => l.filter (fun t => !(invDrops d t))
    let dropped := fun (s : State) (d : InvDesc) =>
      let s1 := s.modVif d.vif (fun v => if d.stage = 1 then { v with s1gen := v.s1gen + 1 } else { v with s2gen := v.s2gen + 1 })
      ({ s1 with
        cores := s1.cores.map (fun (c : Core) => { c with tlb := cut d c.tlb })
        clusters := s1.clusters.map (fun (c : Cluster) => { c with tlb := cut d c.tlb }) } : State)
    (invLegal d = true →
      let t := dropped { s with nextId := s.nextId + 1, invs := s.invs ++ [{ id := s.nextId, d := d }] } d
      exec (.invalidateRange d) s = .next (t.post (.invalidationDone s.nextId)) ∧
      exec (.invalidateContext d) s = .next (t.post (.invalidationDone s.nextId))) ∧
    (invLegal d = false → exec (.invalidateRange d) s = .next s ∧ exec (.invalidateContext d) s = .next s) ∧
    (s.vif? vif = some v →
      let zero : InvDesc := { vif := vif, guest := true, op := 0, stage := 0, base := 0, len := 0, done := 0, resv := 0 }
      let u : State := { s with nextId := s.nextId + 1, invs := s.invs ++ [{ id := s.nextId, d := zero, unread := some value }] }
      (u.ipaReach v value.toNat 32 false = (t, none) → exec (.invreq vif value) s = .next t) ∧
      (u.ipaReach v value.toNat 32 false = (t, some ps) →
        let f := fieldLE (t.devBytes ps)
        let q : InvDesc := { vif := v.no, guest := true, op := f 0 1, stage := f 1 1, base := f 8 8, len := f 0x10 8, done := f 0x18 8, resv := f 2 6 }
        (invLegal q = true → exec (.invreq vif value) s = .next ((dropped { t with
          invs := updateWhere (fun x => x.id == s.nextId) (fun x => { x with d := q, unread := none }) t.invs } q).post (.invalidationDone s.nextId))) ∧
        (invLegal q = false → exec (.invreq vif value) s = .next (t.endInv { id := s.nextId, d := zero, unread := some value })))) ∧
    (s.invs.find? (fun i => i.id == id) = some i → i.unread = none → s.vif? i.d.vif = some v →
      s.invs.any (fun x => x.d.vif == i.d.vif && x.id < i.id) = false → s.domainHeld v = false →
      (if i.d.guest then (s.cleanDomain v).agentPa v.no i.d.done needWrite else some i.d.done) = some pa →
      (s.cleanDomain v).reachParts v (some [⟨pa, 8, none⟩]) true = (t, some ps) →
      let t0 := t.devStore v ps (leBytes 1 8)
      let t : State := { t0 with invs := t0.invs.filter (fun x => x.id != i.id) }
      (t.invs.find? (fun x => x.d.vif == i.d.vif) = none → exec (.invalidationDone id) s = .next t) ∧
      (∀ n, t.invs.find? (fun x => x.d.vif == i.d.vif) = some n → exec (.invalidationDone id) s = .next (t.post (.invalidationDone n.id))))

/-- R345 to R347: when a page's counts reach their total they clear, and the verdict goes to the pager: nothing, a move, or a
replica on each other die that read the page.

R377: records that wait for room in the access log are written in order, together, when they fit; walks that waited to log
go on. -/
def Obligations.PlacementAndLogEvents : Prop :=
  (∀ (s : State) (page : Nat) (c : Counter),
     s.dies.findSome? (fun d => d.counters.find? (fun c => c.page == page && decide (4096 ≤ c.total))) = some c →
     let clear := fun (x : Counter) => { x with reads := Vector.replicate 4 0, writes := Vector.replicate 4 0, other := 0 }
     let t := s.modDie c.home (fun d => { d with counters := updateWhere (fun x => x.page == page && x.slice == c.slice) clear d.counters })
     (c.verdict = none → exec (.placementCountThreshold page) s = .next t) ∧
     (∀ k, c.verdict = some (0, k) → exec (.placementCountThreshold page) s = .next (t.send (.pager page 0 k))) ∧
     (∀ k, c.verdict = some (1, k) →
       let add := fun (d : Die) =>
         if d.no ≠ k ∧ 0 < c.reads.toList.getD d.no 0 ∧ !d.replicas.contains page then
           { d with replicas := (if d.replicas.length < 256 then d.replicas else d.replicas.drop 1) ++ [page] }
         else d
       exec (.placementCountThreshold page) s = .next (({ t with dies := t.dies.map add } : State).send (.pager page 1 k)))) ∧
  (∀ (s : State) (part : Nat) (p : Partition) (rs : List LogRec),
     s.parts = [p] → p.no = part → p.logWait = [rs] → p.log.length + rs.length ≤ 32768 →
     exec (.accessLogRecord part) s =
       .next ((s.walks.filter (fun w => w.logging)).foldl (fun s w => s.post (.walkComplete w.id))
         { s with parts := [{ p with log := p.log ++ rs, logWait := [] }] }))

/-- R348, R351, R352, R353: FLIST replaces an idle pool once its list has been read; a storage fault takes a frame that still holds its
page, else the first free one, whose read goes to the paging queue; its blocks go to the frame under the context's key, the leaf is
written where it still stands, and the record is answered "resolved"; a failed read is made again, and one that failed three times
refuses the record.

R348, R354: a sweep over a pool of one frame clears its AF, or takes its page; a write-back that succeeds writes the 16 blocks, one
that fails is made three times and then pins the frame with an error record. -/
def Obligations.StorageEvents : Prop :=
  (∀ (s t : State) (vif id : Nat) (value : DWord) (v : Vif) (r : FaultRec),
     (s.vif? vif = some v → v.pool.used = [] →
       let n := min v.fnum (2 ^ 20)
       (s.ipaReach v value.toNat (8 * n) false = (t, none) → exec (.flist vif value) s = .next { t with inputs := t.inputs ++ [.flist vif value] }) ∧
       (∀ ps kept bad, s.ipaReach v value.toNat (8 * n) false = (t, some ps) →
         t.keepFrames vif ((List.range n).map (fun k => fieldLE (t.devBytes ps) (8 * k) 8)) = some (kept, bad) →
         exec (.flist vif value) s = .next ((t.modVif vif (fun v => { v with
           flistReg := value.toNat, pool := { list := kept, bad := bad, free := kept.map PoolFrame.empty, used := [], hands := [] } })).wakeStorage vif))) ∧
     (s.rec? id = some r → s.vif? r.vif = some v → r.kind = 5 →
       let read := s.pageIo r.vif r.pte.toNat r.classH (.read id)
       (let taken := fun (f : PoolFrame) (rescued : Option Bool) =>
          (s.modPool r.vif (fun p => { p with
            free := p.free.filter (fun x => x.ipa != f.ipa)
            used := p.used.filter (fun x => x.ipa != f.ipa) ++ [{ f with page := some r.page, saved := some r.pte }] })).modRec id
              (fun r => { r with frame := some f.ipa, rescued := rescued })
        r.frame = none →
        (∀ f, v.pool.rescue? r.pte = some f → exec (.storageFrameTaken id) s =
          .next (((taken f (some (f.pinned || f.writing))).post (.storagePageReadDone id true)).postSweeps r.vif)) ∧
        (∀ f rest, v.pool.rescue? r.pte = none → v.pool.free = f :: rest → exec (.storageFrameTaken id) s =
          .next (((taken f none).queuePage (.storage (bitsOf r.pte.toNat 59 56)) ((taken f none).pageIo r.vif r.pte.toNat r.classH (.read id))).postSweeps r.vif)) ∧
        (v.pool.rescue? r.pte = none → v.pool.free = [] → exec (.storageFrameTaken id) s = .next (s.postSweeps r.vif))) ∧
       (∀ ipa, r.frame = some ipa → s.homeUnavailable r.ipa = false → s.quiesced v.req r.ipa = false →
         let b := s.entryBlocks r.vif r.pte.toNat
         let e : EngineId := .storage b.1
         (r.rescued.isSome = true → ∀ ok, exec (.storagePageReadDone id ok) s = .next (s.storageResolve v r ipa)) ∧
         (r.rescued = none → s.onDrive? e (.read id) = some read → s.driveBusyFor e (.read id) = false →
           (∀ ps, s.ipaReach v ipa 65536 true = (t, some ps) → exec (.storagePageReadDone id true) s =
             .next (((t.devStore v ps (t.readBlocks b.1 b.2.1 b.2.2 16 v.kdom)).leaveDrive e (.read id)).storageResolve v r ipa)) ∧
           (r.tries < 2 →
             let u := (s.modRec id (fun r => { r with tries := r.tries + 1 })).leaveDrive e (.read id)
             exec (.storagePageReadDone id false) s = .next (u.queuePage e (u.pageIo r.vif r.pte.toNat r.classH (.read id)))) ∧
           (2 ≤ r.tries → exec (.storagePageReadDone id false) s =
             .next ((((s.modPool r.vif (fun p => p.release ipa (fun f => { f with page := none, saved := none }))).leaveDrive e
               (.read id)).answerRefused r).wakeStorage r.vif)))))) ∧
  (∀ (s t : State) (vif ipa engine : Nat) (v : Vif) (f : PoolFrame),
     s.vif? vif = some v →
     (v.pool.list = [ipa] → v.pool.free.length < v.flow → SMap.get v.pool.hands 0 engine = 0 →
       v.pool.used.find? (fun f => f.ipa == ipa && !f.pinned && !f.writing &&
         ((f.saved.map (fun e => bitsOf e.toNat 59 56 == engine)).getD false)) = some f →
       let a := s.sweepFrame v f
       let t := (a.1.modPool vif (fun p => { p with hands := SMap.set p.hands 0 engine (1 % max 1 p.list.length) })).wakeStorage vif
       ∀ v', t.vif? vif = some v' →
         exec (.reclaimSweep vif engine) s = .next (if a.2 && v'.pool.free.length < v'.flow then t.post (.reclaimSweep vif engine) else t)) ∧
     (v.pool.used.find? (fun f => f.ipa == ipa && f.writing) = some f → ∀ e io, f.saved = some e →
       let b := s.entryBlocks vif e.toNat
       let d : EngineId := .storage b.1
       let work : DriveWork := .write vif ipa
       s.onDrive? d work = some io → s.driveBusyFor d work = false →
       (∀ ps, s.ipaReach v ipa 65536 false = (t, some ps) → exec (.reclaimWritebackDone vif ipa true) s =
         .next (((((t.writeBlocks b.1 b.2.1 b.2.2 16 v.kdom (t.devBytes ps)).leaveDrive d work).modPool vif (fun p =>
           if f.page.isNone then p.release ipa (fun f => { f with writing := false })
           else p.modUsed ipa (fun f => { f with writing := false }))).wakeStorage vif).postSweeps vif)) ∧
       (f.tries < 2 →
         let u := (s.modPool vif (fun p => p.modUsed ipa (fun f => { f with tries := f.tries + 1 }))).leaveDrive d work
         exec (.reclaimWritebackDone vif ipa false) s = .next (u.queuePage d (u.pageIo vif e.toNat true work))) ∧
       (2 ≤ f.tries →
         let u := (s.modPool vif (fun p => p.modUsed ipa (fun f => { f with writing := false, pinned := true }))).leaveDrive d work
         exec (.reclaimWritebackDone vif ipa false) s = .next (u.logError
           { ErrRec.zero with etype := 7, action := 7, src := 6, die := 4 + b.1 / 8, unit := b.1, pa := (u.ipaPa vif ipa).getD 0, part := v.part,
                              kdom := v.kdom, va := 65536 * f.page.getD 0 }))))

/-! ## Engines and collectives -/

/-- R195, R197, R348: an engine takes the next command that may start, class G first; a storage engine submits the page work of a class
before its explicit commands. A command that fails a check of its fields or ranges ends with status 1 or 2, one that passes is started,
and a storage command goes to its drive.

R197, R198: a command that is done gives up its range locks and its child slot or quota, writes its completion record, and leaves its
engine; a storage command that its launch's end has met at the drive is done there first. -/
def Obligations.CommandEvents : Prop :=
  (∀ (s : State) (e : EngineId) (x : Engine) (k : Cmd) (l : Launch),
     s.engine? e = some x →
     (∀ io, x.nextPage false = some io → exec (.engineCommandStart e) s = .next (s.submitPage e io)) ∧
     (∀ io, x.nextPage false = none → s.nextCmd e x = none → x.nextPage true = some io →
       exec (.engineCommandStart e) s = .next (s.submitPage e io)) ∧
     ((∀ n, e ≠ .storage n) → s.nextCmd e x = (s.startable x.queueG).or (s.startable x.queueH)) ∧
     (x.nextPage false = none → s.nextCmd e x = some k → s.cmd? k.id = some k →
     let q := s.unqueue k
     q.launch? k.owner.lid = some l →
     (∀ status, q.validate l k = some status →
       exec (.engineCommandStart e) s = .next ((q.endCmd k.id status).post (.engineCommandStart e))) ∧
     (q.validate l k = none →
       let coll := (q.cmdGroup k).map (fun m => match k.coll with
         | some c => Coll.start m c.pushed c.reweigh
         | none => Coll.start m (membersOf m.members).length false)
       let t := (q.modCmd k.id (fun k => { k with stage := .started, ran := true, coll := coll })).toDrive k
       ∀ k', t.cmd? k.id = some k' →
         exec (.engineCommandStart e) s = .next ((t.postWork k').post (.engineCommandStart e))))) ∧
  (∀ (s : State) (k : Cmd) (l : Launch) (status : Word) (t : State),
     s.cmd? k.id = some k → k.stage = .done status → k.waiting = false → s.launch? k.owner.lid = some l →
     s.driveBusy k = false →
     let s0 := s.driveFinish l k
     let s1 := if k.ran && unfinished status.toNat && !k.lost then s0.scramble l k else s0
     (((s1.freeLocks k.id).modCmd k.id (fun k => { k with ran := false })).freeChild k).writeRecord l k status = .ok t →
     let u := ((t.sendAborts k status.toNat).tellGroups k).dropCmd k
     (u.cmdGroup k = none → exec (.commandCompletion k.id) s = .next u) ∧
     (∀ m, u.cmdGroup k = some m → exec (.commandCompletion k.id) s = .next (u.resumeJoin m.no)))

/-- Tables 11.4 to 11.6, R201, R349: a copy, a fill, a tensor stream, a storage command and a child's launch command do their work
once everything that they touch can be accessed, and what waited for them goes on. -/
def Obligations.EngineWork : Prop :=
  ∀ (s : State) (k : Cmd) (l : Launch) (t : State),
    let f := cmdField k.words
    (s.Works k l (s.copyTouches l k) t →
      exec (.copyRows k.id) s = .next (t.copyWork l k).wake ∧
      (let row : List PByte := (List.range (f 0x14 4)).map (fun i => ((leBytes (f 0x24 4) 4).getD (i % 4) 0, none))
       exec (.fillRows k.id) s = .next (((copyRowOffsets k.words).foldl (fun s r =>
         s.writeEnd k (copyEnd (l.handle (f 9 1)) r.2) row) t).endCmd k.id 0).wake)) ∧
    (s.Works k l (s.boxTouches l k) t →
      exec (.tstreamLoad k.id) s = .next (t.loadBox l k).wake ∧
      exec (.tstreamStore k.id) s = .next (t.storeBox l k).wake) ∧
    (s.Works k l (s.storageTouches l k) t → ∀ e nsid lba n, k.blocks = some (e, nsid, lba, n) → t.driveBusy k = false →
      let h := l.handle (f 0x0C 1)
      let va := h.base + f 0x10 4
      let ended := fun (t : State) (status : Nat) => ((t.leaveDrive k.eng (.cmd k.id)).endCmd k.id status).wake
      (k.op = 1 → exec (.storageRead k.id true) s =
        .next (ended (t.engineWrite k va h.policy ((t.readBlocks e nsid lba n k.kdom).map (fun b => (b, none)))) 0)) ∧
      (k.op = 2 → let r := t.engineRead k va (4096 * n) h.policy
        exec (.storageWrite k.id true) s = .next (ended (r.1.writeBlocks e nsid lba n k.kdom (r.2.map (fun b => b.1))) 0)) ∧
      exec (.storageRead k.id false) s = .next (ended t 3) ∧
      exec (.storageWrite k.id false) s = .next (ended t 3)) ∧
    (s.Works k l [] t → ∀ ok, exec (.storageFlush k.id ok) s =
      .next ((t.leaveDrive k.eng (.cmd k.id)).endCmd k.id (if ok then 0 else 3)).wake) ∧
    (s.Works k l (s.childTouches l k) t → (k.classH && s.childless.any (fun j => !j.classH)) = false →
      let u := (t.startChild l k).wake
      exec (.launchCommand k.id) s = .next ((u.childless.filter (fun j => j.id != k.id && !j.waiting)).foldl (fun s j => s.postWork j) u))

/-- R197: the completion record takes the status and then counts one up, each if its flag asks for it. -/
def Obligations.CompletionRecordBytes : Prop :=
  ∀ (cntv stv : Bool) (status : Word) (old : List Byte), old.length = 8 →
    let new := recordBytes cntv stv status old
    new.length = 8 ∧
    leNat (new.take 4) = (if cntv then (leNat (old.take 4) + 1) % 2 ^ 32 else leNat (old.take 4)) ∧
    leNat (new.drop 4) = (if stv then status.toNat else leNat (old.drop 4))

/-- R398, R399: each of the four collective operations sends its first packet, takes the packets that waited for it and writes its
result when it has all of it, once what it reads can be accessed.

R365, R400, R426: a packet of a partition in reset is answered with an error reply; a data packet of another view's tag changes nothing; one of the present view reaches its running command, or is
held; an abort ends its command with status 6 and its cause. -/
def Obligations.CollectiveEvents : Prop :=
  (∀ (s : State) (k : Cmd) (l : Launch) (c : Coll) (t : State) (k2 k3 : Cmd),
     s.Works k l (s.sourceTouches l k) t → k.coll = some c → c.stopped = false →
     let t1 := if c.sent then t else t.sendFirst l k c
     t1.cmd? k.id = some k2 → (t1.takeHeld k2).cmd? k.id = some k3 →
     let u := ((t1.takeHeld k2).collFinish l k3).wake
     exec (.allReduce k.id) s = .next u ∧ exec (.reduceScatter k.id) s = .next u ∧ exec (.allGather k.id) s = .next u ∧
     exec (.broadcast k.id) s = .next u) ∧
  (∀ (s : State) (p : CollPacket) (a : AbortPacket) (m : MGroup) (k k' : Cmd) (c : Coll),
     (s.silenced p.part = true → exec (.viewDataPacket p) s = .next (s.send (.errorReply p.part))) ∧
     (s.silenced p.part = false → s.mgroup? p.group = some m →
       (p.tag ≠ BitVec.ofNat 16 m.view → exec (.viewDataPacket p) s = .next s) ∧
       (p.tag = BitVec.ofNat 16 m.view → m.view ≠ 0 → m.members.getLsbD s.pkg = true →
         (s.collOf p.group p.bucket = none →
           exec (.viewDataPacket p) s = .next (s.modMGroup p.group (fun m => { m with held := m.held ++ [p] }))) ∧
         (s.collOf p.group p.bucket = some k → k.coll = some c → c.stopped = false → c.sent = true → c.view = m.view →
           (s.takeBody k p.body).cmd? k.id = some k' →
           exec (.viewDataPacket p) s = .next ((s.takeBody k p.body).postWork k')))) ∧
     (s.silenced a.part = true → exec (.collectiveAbort a) s = .next (s.send (.errorReply a.part))) ∧
     (s.silenced a.part = false → s.mgroup? a.group = some m →
       (a.tag ≠ BitVec.ofNat 16 m.view → exec (.collectiveAbort a) s = .next s) ∧
       (a.tag = BitVec.ofNat 16 m.view → m.view ≠ 0 →
         let t := s.modMGroup a.group (fun m => { m with held := m.held.filter (fun x => x.bucket != a.bucket) })
         t.cmds.find? (fun k => (t.cmdGroup k).map (fun g => g.no) == some a.group && cmdField k.words 0x1E 2 == a.bucket &&
           (match k.stage with
            | .done _ => false
            | _ => true)) = some k →
         exec (.collectiveAbort a) s = .next ((t.unqueue k).endCmd k.id (6 + 256 * (a.cause % 256) + 65536 * a.bucket)))))

/-- R397, R402 to R404, R407, R408: definition, suspicion, and the packets of an agreement. -/
def Obligations.MembershipEvents : Prop :=
  ∀ (s : State) (group pkg self : Nat) (members : BitVec 288) (p : ViewPacket) (m : MGroup) (a : Agreement),
    exec (.membershipGroupDefinition group members self) s =
      .next { s with pkg := self, mgroups := s.mgroups.filter (fun x => x.no != group) ++
        [{ no := group, defined := members, view := 1, members := members, suspects := 0, accepted := [], leading := none, follows := 288,
           stopped := false, suspt := 2000000, joining := [], pausing := none, held := [], told := [] }] } ∧
    exec (.rafterPortsDown pkg) s = .next ((s.mgroups.map (fun m => m.no)).foldl (fun s no => s.suspect no (pkgBit pkg)) s) ∧
    exec (.ringStepTimeout group pkg) s = .next (s.suspect group (pkgBit pkg)) ∧
    (s.mgroup? p.group = some m →
      (let refuse := s.sendView 3 (s.viewPacket m p.view (if m.follows < 288 then m.follows else p.leader) p.members []) [p.leader]
       p.members.getLsbD s.pkg = true → m.view < p.view →
       ((m.accepted.contains p.view = true ∨ m.follows < p.leader) → exec (.propose p) s = .next refuse) ∧
       (m.accepted.contains p.view = false → p.leader ≤ m.follows →
         let join := m.view != 0 && (p.members &&& ~~~m.members) != 0
         let t := s.modMGroup p.group (fun m => { m with
           accepted := m.accepted ++ [p.view], follows := p.leader, leading := none, pausing := if join then some p else none })
         (join = false → exec (.propose p) s = .next (t.sendAccept p)) ∧
         (join = true → t.collLeft p.group = true → exec (.propose p) s = .next t))) ∧
      (m.leading = some a → a.view = p.view →
        (a.members.getLsbD p.sender = true → exec (.accept p) s =
          .next ((s.modMGroup p.group (fun m => { m with leading := m.leading.map (fun a => { a with
            accepted := a.accepted ||| pkgBit p.sender, maps := orMaps a.maps p.cmds }) })).tryCommit p.group)) ∧
        exec (.refuse p) s = .next (s.leadAgain m a (pkgBit p.sender ||| p.suspect)) ∧
        exec (.agreementTimeout p.group) s = .next (s.leadAgain m a (a.members &&& ~~~a.accepted))) ∧
      (p.members.getLsbD s.pkg = true → m.accepted.contains p.view = true → m.view < p.view →
        exec (.commit p) s = .next (s.installView m p.view p.members p.cmds)) ∧
      (p.sender = s.pkg → exec (.joinreq p) s = .next (s.sendView 5 p (membersOf m.defined))) ∧
      (p.sender ≠ s.pkg → m.view ≠ 0 → m.members.getLsbD p.sender = false →
        (∀ l, m.leader = some l → l ≠ s.pkg → exec (.joinreq p) s = .next (s.sendView 5 p [l])) ∧
        (m.leader = some s.pkg → m.leading = none → exec (.joinreq p) s = .next (s.lead p.group (some p.sender)))) ∧
      (m.view ≠ 0 → exec (.exclude p) s = .next (s.exclude m)))

/-- R407: EXCLUDE sets the group's view to 0, and every collective push of the group then takes trap 0x21 with INFO 0, whatever its VIEW
field, once its completion record, if it has one, passes (R196). -/
def Obligations.ExcludedPackage : Prop :=
  ∀ (s : State) (m m' : MGroup) (p : ViewPacket) (x : Ctx) (lanes : Mask) (o : FmtI),
    (s.mgroup? p.group = some m → m.view ≠ 0 →
      ∃ t, exec (.exclude p) s = .next t ∧ ∀ m', t.mgroup? p.group = some m' → m'.view = 0) ∧
    (let sel := o.imm.toNat
     let ws := x.wBlock o.sa
     bitsOf sel 15 12 = 1 → s.mgroup? (cmdField ws 0x1C 2) = some m' → m'.view = 0 →
     (cmdFlags ws % 4 = 0 ∨ x.l.recordTrap (cmdField ws 2 1) (cmdField ws 4 4) false = none) →
     s.Goes { plainSpec (.push o) o.guard with
       srcs := [.reg o.sa.toNat o.ea 16], dsts := [.pred o.dst.toNat],
       priv := s.inCtx (fun x => s.foreignStorage x.l.part sel), region := some 0xC0 } x lanes →
     exec (.push o) s = .next (s.trapOr x (s.wordTrap x lanes (trapAll lanes 0x21 0) false [])))

/-! ## Cohorts, queues and bands -/

/-- R203: a request is answered from the cluster's first range of its launch with as many tiles as it asked for or the range
has.

R220, R221: requests that a dispenser cannot serve make it ask the next victim; a victim that waits itself answers "wait", one
without tiles "empty", the others ship the upper half of theirs; a shipped range is adopted and served, and after the last
"empty" the requests are exhausted. -/
def Obligations.DispenserEvents : Prop :=
  (∀ (s : State) (cluster lid : Nat) (k : Cluster) (w : TileReq) (r : TileRange) (n : Nat),
     s.cluster? cluster = some k → k.waiting.find? (fun w => w.g.lid == lid) = some w → k.ranges.find? (fun t => t.lid == lid) = some r →
     let m := min (max w.n 1) (r.hi - r.lo)
     let left : List TileRange := if r.lo + m < r.hi then [{ r with lo := r.lo + m }] else []
     s.serveTiles cluster lid (n + 1) =
       ((s.modCluster cluster (fun c => { c with
         waiting := removeFirst w c.waiting, ranges := replaceRange r left c.ranges })).answerTiles
           w r.lo m).serveTiles cluster lid n) ∧
  (∀ (s : State) (cluster lid : Nat) (k v : Cluster) (t : Steal) (st : State),
     (st = s.serveTiles cluster lid (((s.cluster? cluster).map (fun c => c.waiting.length)).getD 0) → st.cluster? cluster = some k →
       (k.waits lid = true → k.steal? lid = none → exec (.dispenserRequest cluster lid) s =
         .next ((st.modCluster cluster (fun c => { c with steals := c.steals ++ [Steal.mk lid 0 .asking] })).post (.stealRequest cluster lid))) ∧
       (k.waits lid = false → exec (.dispenserRequest cluster lid) s = .next st)) ∧
     (s.cluster? cluster = some k → k.steal? lid = some t →
       (let victim := (victims cluster).getD t.victim 0
        let answer := fun (s : State) (a : StealState) =>
          (s.modSteal cluster lid (fun t => { t with st := a })).post (.stealAnswer cluster lid)
        s.cluster? victim = some v → s.clusterAway victim = false →
        (v.steals ≠ [] → s.waitRing cluster 32 victim = false → exec (.stealRequest cluster lid) s = .next (answer s .wait)) ∧
        (v.steals = [] → v.tiles lid = 0 → exec (.stealRequest cluster lid) s = .next (answer s .empty)) ∧
        (v.steals = [] → ∀ r, v.ranges = [r] → r.lid = lid → r.lo + 1 < r.hi →
          exec (.stealRequest cluster lid) s =
            .next (answer (s.modCluster victim (fun c => { c with ranges := [{ r with hi := r.lo + (r.hi - r.lo) / 2 }] }))
              (.shipped [(r.lo + (r.hi - r.lo) / 2, r.hi)])))) ∧
       (t.st = .wait → exec (.stealAnswer cluster lid) s =
         .next ((s.modSteal cluster lid (fun t => { t with st := .asking })).post (.stealRequest cluster lid))) ∧
       (∀ rs, t.st = .shipped rs → exec (.stealAnswer cluster lid) s =
         .next (((((s.dropSteal cluster lid).addRanges cluster lid rs).dispense cluster lid).wakeDispensers lid).rehome cluster lid)) ∧
       (t.st = .empty → t.victim + 1 < 31 → exec (.stealAnswer cluster lid) s =
         .next ((s.modSteal cluster lid (fun t => { t with st := .asking, victim := t.victim + 1 })).post (.stealRequest cluster lid))) ∧
       (t.st = .empty → 31 ≤ t.victim + 1 → exec (.stealAnswer cluster lid) s = .next (s.exhausted cluster lid))))

/-- R291, R292, R293: a kick of a queue whose context may run publishes a new tail when the QCB's fields and the tail are legal; a
refused one sets its bit of STATUS; a kick in migration is held.

R294, R296, R297: the next record of a queue is read and checked; a launch that fails a check, or whose record's fault was refused
(0x0B), completes with its code, one that passes is made and waits its turn; HEAD advances either way.

R293, R295: the oldest entry of a queue whose record's completion ring has room is written at CTAIL, CTAIL advances, and the interface's
interrupt is raised. -/
def Obligations.QueueEvents : Prop :=
  (∀ (s : State) (vif slot : Nat) (ps : Pages) (value : DWord) (v : Vif) (q : Queue) (t : State),
     s.vif? vif = some v → s.queues.find? (fun q => q.vif == vif && q.slot == slot) = some q →
     ((v.mig = .stopping ∨ v.mig = .stopped ∨ v.mig = .resuming) → exec (.kick vif slot value) s =
       .next (s.modVif vif (fun v => { v with heldKicks := v.heldKicks ++ [(slot, value)] }))) ∧
     (v.mig = .running ∨ v.mig = .precopy →
       let ignored := v.tdisp == .locked || v.tdisp == .error
       exec (.kick vif slot value) s =
         .next ((s.modQueue q.qid (fun q => { q with kicks := q.kicks ++ [(value, ignored)] })).runKicks q.qid (q.kicks.length + 1))) ∧
     (t = s.kickAt q v ps value false → q.disabled = false → s.pageData ps q.qcb 32 = q.shadow.take 32 → q.shadow.length = 32 →
       let f := fun off n => s.qcbNat q ps off n
       let tail := value.toNat % 2 ^ 32
       f 0x20 8 % 64 = 0 → f 0x28 1 ≤ 12 → f 0x38 8 % 32 = 0 → f 0x40 1 ≤ 12 → value.toNat < 2 ^ 32 →
       (tail + 2 ^ 32 - q.head) % 2 ^ 32 ≤ 2 ^ f 0x28 1 → (tail + 2 ^ 32 - q.tail) % 2 ^ 32 < 2 ^ 31 → q.compl = [] →
       t = ((s.modQueue q.qid (fun q => { q with
         ring := f 0x20 8, rlog := f 0x28 1, cring := f 0x38 8, clog := f 0x40 1, chead := f 0x48 4, reread := false })).modQueue q.qid
           (fun q => { q with tail := tail })).post (.launchRecordTake q.qid)) ∧
     (q.disabled = true → s.kickAt q v ps value false = s.orStatus q v ps (2 ^ 10))) ∧
  (∀ (s : State) (qid : Nat) (q : Queue) (v : Vif),
     s.queue? qid = some q → s.vif? q.vif = some v → q.kicks = [] → q.reread = false → q.waitRec = none → q.head ≠ q.tail →
     (v.mig = .running ∨ v.mig = .precopy) → (v.tdisp = .unlocked ∨ v.tdisp = .run) →
     exec (.launchRecordTake qid) s = .next (s.takeRecord q v) ∧
     (∀ r qs, s.headPages q v = .ok (r, qs) → q.refusedRead = true →
       ∃ tag, s.takeRecord q v = (r.refuseLaunch q tag 0x0B).advanceHead q v qs) ∧
     (∀ r qs r1 ps, s.headPages q v = .ok (r, qs) → q.refusedRead = false →
       r.queuePages q v .record (q.ring + 64 * (q.head % 2 ^ q.rlog)) 64 false = .ok (r1, ps) →
       let rcd := r1.pageData ps (q.ring + 64 * (q.head % 2 ^ q.rlog)) 64
       (∀ code, recordCode rcd = some code →
         s.takeRecord q v = (r1.refuseLaunch q (fieldLE rcd 0x34 4) code).advanceHead q v qs) ∧
       (∀ r2 ts t l, recordCode rcd = none → r1.queuePages q v .record (fieldLE rcd 8 8) 2304 false = .ok (r2, ts) →
         r2.logPages v.part v.no 0 9 accRead needRead (ps ++ ts) = some t →
         t.readLaunch q t.nextId q.head rcd (t.pageData ts (fieldLE rcd 8 8) 2304) = .ok l →
         s.takeRecord q v =
           (({ t with nextId := t.nextId + 1, launches := t.launches ++ [{ l with phase := .waiting }] } : State).advanceHead q v qs).startWaiting
             q.qid))) ∧
  (∀ (s : State) (qid : Nat) (q : Queue) (v : Vif) (e : Completion) (r : State) (qs ps : Pages) (s2 t : State),
     s.queue? qid = some q → s.vif? q.vif = some v → q.compl = [e] → q.reread = false → q.refusedEntry = false → s.qcbPages q v .entry = .ok (r, qs) →
     let chead := r.qcbNat q qs 0x48 4
     let s1 := r.modQueue q.qid (fun q => { q with chead := chead })
     let va := e.cring + 32 * (q.ctail % 2 ^ e.clog)
     (q.ctail + 2 ^ 32 - chead) % 2 ^ 32 < 2 ^ e.clog →
     s1.queuePages q v .entry va 32 true = .ok (s2, ps) → s2.logPages v.part v.no 0 9 accWrite needWrite ps = some t →
     let ctail := (q.ctail + 1) % 2 ^ 32
     exec (.completionEntryWrite qid) s =
       .next ((((((t.pageStore (q.req v) ps va e.toBytes).modQueue q.qid (fun q => { q with ctail := ctail })).qcbPut q v qs 0x44
         (leBytes ctail 4)).modQueue q.qid (fun q => { q with compl := q.compl.drop 1, refusedEntry := false })).signal
           q.vif q.vector).startWaiting q.qid))

/-- R127, R317: a group whose lanes have all left and whose operations are complete retires, and the barriers that counted it are
settled; one that a spatial pre-emption vacated in its handler gives its run back.

R217, R218: a cohort whose groups, commands and band fills are done writes its mapped bytes back and leaves its core. -/
def Obligations.RetirementEvents : Prop :=
  (∀ (s : State) (g : GRef) (l : Launch) (c c' : Cohort) (x : Group),
     s.Stands g l c x → x.r.live = 0 → x.retired = false → x.accs = [] → x.slots = [] → x.sending = [] → x.run1 = none → x.run2 = none → x.tileOps = [] →
     s.clusters.any (fun k => k.waiting.any (fun w => w.g == g)) = false →
     let s0 := if c.spatial && x.r.inTrap && x.r.tcause.toNat % 256 == 0x38 then s.returnRun g else s
     let s1 := s0.modGroup g (fun x => { x with
       retired := true, fills := [], posted := [], r := { x.r with xheld := false, inTrap := false, handler := 0, grant := none } })
     let s2 := (List.range 4).foldl (fun s id => s.settleBarb g.lid c.bid id)
       (s1.modCohort c.ref (fun c => (List.range 16).foldl (fun c id => c.settleBar id) c))
     s2.cohort? c.ref = some c' →
     (c'.groups.all (fun g => g.retired) = true → exec (.groupRetire g) s =
       .next ((s2.modCohort c.ref (fun x => if x.phase = .resident then { x with phase := .draining s2.nextId, budget := none } else x)).post
         (.cohortRetire c.ref))) ∧
     (c'.groups.all (fun g => g.retired) = false → c'.budget = none → exec (.groupRetire g) s = .next s2) ∧
     (c'.groups.all (fun g => g.retired) = false → c'.budget.isSome = true →
       exec (.groupRetire g) s = .next (s2.post (.saveComplete c'.ref)))) ∧
  (∀ (s : State) (r : CRef) (c c' : Cohort) (since : Nat),
     s.cohorts.find? (fun c => c.ref == r) = some c → c.groups.all (fun g => g.retired) = true → s.cohortCmds r = [] →
     s.asksDone c = true → (c.phase = .draining since ∨ ((∀ k, c.phase ≠ .draining k) ∧ since = s.nextId)) →
     ((s.flushMaps c since).2 = false → exec (.cohortRetire r) s = .next (s.flushMaps c since).1) ∧
     ((s.flushMaps c since).2 = true → (s.flushMaps c since).1.cohorts.find? (fun c => c.ref == r) = some c' →
       exec (.cohortRetire r) s = .next ((s.flushMaps c since).1.releaseCohort c')))

/-- R306 to R318, R339: saves and pre-emptions. A stopped save leaves for its frame; a cohort whose handlers are over leaves by a
light frame, or by a forced one; a request posts trap 0x38 or saves at once when its budget is 0; an overrun saves, or vacates
under TRS; a starved cohort is swapped; acknowledged attic writes free a spill stripe by stripe, and the held records are tried again.

R216, R219, R274, R301, R302, R305: the records of one block are acted on together: they take their cids, tiles and band entries when
they are written, and are dispatched when no check refuses one and no class H cohort must leave first, held while some must, refused (a fresh block also when its `cid` is not the launch's next), or, when a frame fails
its check, the launch fails with 0x32.

R216, R285, R302, R312, R415: a restore whose frame has no dirty bytes and no redirected fill left, on a die that answers, registers
its range locks again, enrols its bands and makes its deferred fills; the cohorts of its block become eligible together when all are read and no deferred fill is left. -/
def Obligations.SaveAndRestoreEvents : Prop :=
  (∀ (s : State) (r : CRef) (c : Cohort) (lid core frame : Nat) (cores : List Nat) (l : Launch) (f : Frame),
     (s.cohorts.find? (fun c => c.ref == r) = some c →
       (∀ kind, c.phase = .saving kind → exec (.saveComplete r) s = .next (s.leaveCore r kind)) ∧
       (c.phase = .resident → c.budget.isSome = true → c.groups.all Group.handlerOver = true → c.groups.all (fun x => x.retired) = false →
         (s.lightOk c = false → exec (.saveComplete r) s = .next ((s.startSave r 2).leaveCore r 2)) ∧
         (s.lightOk c = true → (s.flushMaps c s.nextId).2 = true →
           exec (.saveComplete r) s = .next ((s.flushMaps c s.nextId).1.leaveCore r 3)) ∧
         (s.lightOk c = true → (s.flushMaps c s.nextId).2 = false →
           exec (.saveComplete r) s = .next ((s.flushMaps c s.nextId).1.modCohort r (fun c => { c with phase := .flushing s.nextId })))) ∧
       (∀ since, c.phase = .flushing since → (s.flushMaps c since).2 = true →
         exec (.saveComplete r) s = .next ((s.flushMaps c since).1.leaveCore r 3)) ∧
       (c.phase = .resident → c.budget.isSome = true → c.spatial = false → exec (.budgetOverrun r) s = .next (s.startSave r 2)) ∧
       (c.phase = .resident → c.budget.isSome = true → c.spatial = true →
         let inside := fun (x : Group) => !x.retired && x.r.inTrap && x.r.tcause.toNat % 256 == 0x38
         let t := (c.groups.filter inside).foldl (fun s x => s.vacateGroup ⟨r.lid, r.cid, x.gid⟩)
           (s.modCohort r (fun c => { c with budget := some 0 }))
         (c.groups.all (fun x => x.handlerOver || inside x) = true → exec (.budgetOverrun r) s = .next (t.post (.saveComplete r))) ∧
         (c.groups.all (fun x => x.handlerOver || inside x) = false → exec (.budgetOverrun r) s = .next (t.startSave r 2))) ∧
       (s.launch? r.lid = some l → c.phase = .resident → c.groups.any (fun x => !x.retired) = true → c.groups.all (s.starved c l) = true →
         s.recs.any c.servedBy = true → ∀ p, s.part? l.part = some p → exec (.cohortSwap r) s =
           .next ((s.modCluster (clusterOf c.core) (fun k => { k with cyc := k.cyc + p.swapw })).startSave r 2))) ∧
     (s.launch? lid = some l →
       exec (.cooperativePreemptRequest lid cores) s = .next (((s.leavers lid cores).filter (fun c => c.budget.isNone)).foldl (fun s c =>
         if l.budget = 0 then s.forceSave c 2 else s.requestLeave c.ref 0 l.budget) s) ∧
       (let cs := (s.leavers lid cores).filter (fun c => !c.spatial)
        exec (.spatialPreemptRequest lid cores) s = .next (cs.foldl (fun s c =>
         if !l.trs then s.forceSave c 4 else if l.budget = 0 then s.forceSave c 2 else s.requestLeave c.ref 1 l.budget)
         (s.modLaunch lid (fun l => { l with
           spatial := l.spatial ++ (cs.map (fun c => c.ref)).filter (fun r => !l.spatial.contains r) }))))) ∧
     (let gone := (s.cohorts.filter (fun c => c.core == core && c.phase == .evicting)).map (fun c => c.ref)
      let retry := fun (t : State) => ((t.cores.filter (fun k => !k.held.isEmpty)).map (fun k => k.no)).foldl (fun s k => s.tryHeld k) t
      let again := fun (t : State) =>
        if ((t.core? core).map (fun k => k.spills.isEmpty)).getD true then t else t.post (.atticWriteAck core)
      (gone = [] → exec (.atticWriteAck core) s =
        .next (retry (again (s.modCore core (fun k => { k with spills := ackSpill k.spills }))))) ∧
      (gone ≠ [] → exec (.atticWriteAck core) s = .next (retry (again (gone.foldl (fun s r => s.spillCohort r) s))))) ∧
     (s.frames.find? (fun f => f.id == frame) = some f → s.launch? f.cohort.ref.lid = some l →
       let t := ((f.mapDirty.map (fun b => b.1 / 65536)).eraseDups).foldl (fun s p => s.atticPage l f p) s
       (t.cohorts.any (fun c => c.ref == f.cohort.ref) = false → exec (.mapAtticWriteback frame) s = .next t) ∧
       (t.cohorts.any (fun c => c.ref == f.cohort.ref) = true →
         exec (.mapAtticWriteback frame) s = .next (t.post (.restoreFrameReadDone f.cohort.ref))))) ∧
  (∀ (s : State) (r : BindRec) (rest : List BindRec) (l : Launch),
     let rs := r :: rest
     (s.launch? r.lid = none → exec (.bindRecord rs) s = .next (s.send (.bindRefused r.core))) ∧
     (s.launch? r.lid = some l →
       let s1 := rs.foldl State.writeBind s
       let vs := (rs.flatMap (fun r => s1.victims r l)).eraseDups
       ((blockShape l rs = false ∨ (r.restore = false ∧ r.cid ≠ l.nextCid) ∨ rs.any (fun r => s.refuses r l rs.length) = true) →
         exec (.bindRecord rs) s = .next (s.send (.bindRefused r.core))) ∧
       (blockShape l rs = true → (r.restore = true ∨ r.cid = l.nextCid) → rs.any (fun r => s.refuses r l rs.length) = false →
         (rs.any (s.frameBad l) = true → exec (.bindRecord rs) s = .next (s.failLaunch l.lid 0x32 0 0 (tcauseOf 0x32 0 0) 0)) ∧
         (rs.any (s.frameBad l) = false →
           (vs = [] → rs.any (fun r => s1.spilling r l) = false → exec (.bindRecord rs) s =
             .next ((rs.foldl (fun s r => s.dispatchOne r) s1).startBlock (rs.map (fun r => ⟨r.lid, r.cid⟩)))) ∧
           ((vs ≠ [] ∨ rs.any (fun r => s1.spilling r l) = true) → exec (.bindRecord rs) s = .next (s1.holdRecords rs vs)))))) ∧
  (∀ (s : State) (r : CRef) (c : Cohort),
     s.cohorts.find? (fun c => c.ref == r) = some c →
     let t := (s.relock c).rejoinBands c
     let block := t.cohorts.filter (fun x => (t.wholeBlock r).contains x.ref)
     let ready := block.all (fun x => t.frameReady x && x.benr == 0 && x.deferred.isEmpty)
     (s.frameReady c = false → exec (.restoreFrameReadDone r) s = .next s) ∧
     (s.frameReady c = true → ready = true → exec (.restoreFrameReadDone r) s = .next (block.foldl (fun s x => s.endRestore x) t)) ∧
     (s.frameReady c = true → ready = false → exec (.restoreFrameReadDone r) s = .next t) ∧
     (∀ id, c.phase = .restoring id → s.frameReady c = ((s.frame? id).map (fun f => f.mapDirty.isEmpty && !s.redirected c && !s.dieAway f.die)).getD false))

/-- R241, R279, R280, R281: an ask opens a hold, joins one of its key, or is filled alone; a hold that times out is filled for its
askers; a fill that has been read lands in its targets, once no first-touch fill is under way there. -/
def Obligations.BandEvents : Prop :=
  ∀ (s : State) (die band core fill : Nat) (b : Band) (a : BandAsk) (h : Hold) (d : Die) (f : BandFill),
    let bit := coreBit core
    let arrived := s.modBand die band (fun b => { b with asks := updateWhere (fun a => a.core == core) (fun a => { a with arrived := true }) b.asks })
    (s.band? die band = some b → (b.asks.filter (fun a => a.core == core && !a.arrived)).any s.askHeld = false →
      b.asks.find? (fun a => a.core == core && !a.arrived) = some a →
      (b.openHold = some h → h.key = a.key → exec (.bandAskArrival die band core) s =
        .next ((arrived.modBand die band (fun b => { b with openHold := some { h with askers := h.askers ||| bit } })).evalHold die band)) ∧
      (b.openHold = some h → h.key ≠ a.key → exec (.bandAskArrival die band core) s =
        .next (((arrived.modBand die band (fun b => { b with mism := sat127 b.mism, openHold := some { h with wait := h.wait &&& ~~~bit } })).makeFill
          die band a.key bit false).evalHold die band)) ∧
      (b.openHold = none → b.lastKey = some a.key → b.served &&& bit = 0 → exec (.bandAskArrival die band core) s =
        .next ((arrived.modBand die band (fun b => { b with late := sat127 b.late })).makeFill die band a.key bit false)) ∧
      (b.openHold = none → (b.lastKey ≠ some a.key ∨ b.served &&& bit ≠ 0) → exec (.bandAskArrival die band core) s =
        .next (((arrived.modBand die band (fun b' => { b' with openHold := some ⟨a.key, b'.members, bit⟩ })).post
          (.bandHoldTimerExpiry die band)).evalHold die band))) ∧
    (s.band? die band = some b → b.openHold = some h → exec (.bandHoldTimerExpiry die band) s =
      .next ((s.modBand die band (fun b => { b with openHold := none, lastKey := some h.key, served := h.askers, expr := sat127 b.expr })).makeFill
        die band h.key h.askers false)) ∧
    (s.die? die = some d → d.bandFills.find? (fun f => f.id == fill) = some f →
      (f.data = none → exec (.bandFillLand die fill) s = .next (s.readFill die fill)) ∧
      (f.data.isSome = true → s.landBlocked die f = true → exec (.bandFillLand die fill) s = .next s) ∧
      (f.data.isSome = true → s.landBlocked die f = false → f.deferred = false →
        exec (.bandFillLand die fill) s = .next ((s.landFill die fill).resumeDie die)) ∧
      (f.data.isSome = true → s.landBlocked die f = false → f.deferred = true → exec (.bandFillLand die fill) s =
        .next (let t := (s.landFill die fill).resumeDie die
               (t.cohorts.filter (fun c => (coresOf die f.targets).contains c.core)).foldl (fun s c => s.resumePhase c) t)))

/-! ## Service -/

/-- R393 to R396: a demand scrub waits while a launch, a command or a record of its owner is open, and else scrubs the units of its
reason and writes the receipt to its interface's memory, or comes again while that cannot be reached; a scrub of ranges zeroes each
range.

R377, R390, Table 22.6: the log reader's LOGREQ takes the oldest records that its buffer has room for, the two of an error
together, with a signed header, writes 1 to DONE, and lets records and walks that waited for room go on; it comes again while its
descriptor, buffer or DONE cannot be reached (the trailer's layout is the model's choice, notes/assumptions/32.md).

R359: a signed reblock order of a die saves the cohorts on the clusters that move, writes back and drops the lines of both
partitions homed on the die, and holds new requests; the rehash moves the lists and lets the held requests go on.

R365, R356, R393, R17: a signed reset ends every launch of a partition with status 3, clears its watches and its injector, and asks
for the scrub of its units, before which no partition with a cluster of it is formed; after DRAIN each packet that a router still holds
is discarded and answered with an error reply; firmware forms a partition of free resources from step 8 on; signed withdrawal takes
cores out of use. -/
def Obligations.ServiceEvents : Prop :=
  (∀ (s : State) (d : ScrubDef) (v : Vif),
     (s.scrubBusy d = true → exec (.demandScrub d) s = .next s) ∧
     (s.scrubBusy d = false →
       let u := (s.scrub d).1
       let w : State := { u with hearth := { u.hearth with count := u.hearth.count + 1 } }
       let bs := receiptBytes u.hearth.seq d.reason d.vif d.part d.kdom u.pkg (s.scrub d).2
       let owner := { v with part := d.part, kdom := d.kdom }
       (u.vif? d.vif = none → exec (.demandScrub d) s = .next (w.send (.receipt d.ipa bs))) ∧
       (u.vif? d.vif = some v → ∀ t, w.ipaPut owner d.ipa bs = some t →
         exec (.demandScrub d) s = .next (t.send (.receipt d.ipa bs))) ∧
       (u.vif? d.vif = some v → w.ipaPut owner d.ipa bs = none →
         exec (.demandScrub d) s = .next { s with inputs := s.inputs ++ [.demandScrub d] })) ∧
     (∀ (w t : State) (bs : List Byte) (ps : List DevPart), w.ipaReach v d.ipa bs.length true = (t, some ps) →
       w.ipaPut v d.ipa bs = some (t.devStore v ps bs)) ∧
     (d.reason ≠ 1 → d.reason ≠ 2 → d.reason ≠ 3 →
       s.scrub d = (d.ranges.foldl (fun s r => s.zeroRange r.1 r.2) s, d.ranges.map rangeEntry))) ∧
  (∀ (s t : State) (vif : Nat) (value : DWord) (v : Vif) (p : Partition) (ds : List DevPart),
     s.vif? vif = some v → s.part? v.part = some p →
     let again := fun (t : State) => exec (.logreq vif value) s = .next { t with inputs := t.inputs ++ [.logreq vif value] }
     (p.logReader ≠ vif → exec (.logreq vif value) s = .next s) ∧
     (p.logReader = vif →
       (s.ipaReach v value.toNat 24 false = (t, none) → again t) ∧
       (s.ipaReach v value.toNat 24 false = (t, some ds) →
         let f := fieldLE (t.devBytes ds)
         let t1 : State := { t with hearth := { t.hearth with count := t.hearth.count + 1 } }
         let out := p.log.take (exportCount p.log (f 8 8))
         let bytes := t1.exportBytes v p out t.hearth.seq
         (f 0 8 % 4096 ≠ 0 → exec (.logreq vif value) s = .next t) ∧
         (f 0 8 % 4096 = 0 → t1.ipaPut v (f 0 8) bytes = none → again t) ∧
         (f 0 8 % 4096 = 0 → ∀ u, t1.ipaPut v (f 0 8) bytes = some u →
           let u1 := u.modPart p.no (fun p => { p with log := p.log.drop out.length })
           (u1.ipaPut v (f 16 8) (leBytes 1 8) = none → again t) ∧
           (∀ w, u1.ipaPut v (f 16 8) (leBytes 1 8) = some w →
             let x := ((w.send (.receipt (f 0 8) bytes)).wake).post (.accessLogRecord p.no)
             exec (.logreq vif value) s = .next (x.walks.foldl (fun s w => if w.logging then s.post (.walkComplete w.id) else s) x))))) ∧
     (∀ (out : List LogRec) (seq cap : Nat),
       let header := receiptHeader out.length seq 5 v.no p.no v.kdom s.pkg
       let n := min cap p.log.length
       s.exportBytes v p out seq = out.flatten ++ header ++ sealOf (header ++ out.flatten) ∧
       exportCount p.log cap = if n ≠ 0 ∧ fieldLE (p.log.getD (n - 1) []) 8 1 = 0xFE then n - 1 else n)) ∧
  (∀ (s : State) (d : ReblockDef) (k : Die),
     ((s.reblockOk d = false → exec (.reblockOrder d true) s = .next s) ∧ exec (.reblockOrder d false) s = .next s) ∧
     (s.reblockOk d = true →
       let t := (s.cohorts.filter (fun c => d.clusters.contains (clusterOf c.core))).foldl State.clearOff s
       let q : Req := { vif := 0, part := d.losing, kdom := 0, classH := false, core := 0 }
       let u := (t.dies.flatMap (fun k => (k.rdc.filter (fun l => t.reblockLine d (128 * l.line))).map (fun l => (k.no, l)))).foldl (fun s x =>
         (s.cleanRdcLine q x.1 x.2).modDie x.1 (fun k => { k with rdc := k.rdc.filter (fun l => l.line != x.2.line) })) t
       let w := u.dropL2 (fun (l : L2Line) => u.reblockLine d (128 * l.line))
       exec (.reblockOrder d true) s =
         .next ((w.modDie d.die (fun k => { k with reblock := some d, counters := k.counters.filter (fun c => !(w.reblockLine d (65536 * c.page))) })).post
           (.reblockRehash d.die))) ∧
     (s.die? d.die = some k → k.reblock = some d →
       let lose := fun (p : Partition) => { p with
         clusters := p.clusters.filter (fun c => !(d.clusters.contains c))
         hbms := p.hbms.filter (fun k => !(d.hbms.contains k))
         slices := p.slices.filter (fun x => !(x.1 == d.die && d.slices.contains x.2))
         rdcWays := p.rdcWays.filter (fun x => !(x.1 == d.die && d.rdcWays.contains x.2)) }
       let gain := fun (p : Partition) => { p with
         clusters := d.clusters.foldl (fun l c => insertNat c l) p.clusters
         hbms := d.hbms.foldl (fun l k => insertNat k l) p.hbms
         slices := p.slices ++ d.slices.map (fun x => (d.die, x))
         rdcWays := p.rdcWays ++ d.rdcWays.map (fun x => (d.die, x)) }
       exec (.reblockRehash d.die) s =
         .next (((s.modPart d.losing lose).modPart d.gaining gain).modDie d.die (fun k => { k with reblock := none })).releasePorts)) ∧
  (∀ (s : State) (part : Nat) (p : Partition) (d : PartDef) (cores : List Nat),
     (s.part? part = some p →
       let roots := (s.launches.filter (fun l => l.part == part && l.phase != .over && l.parentLid.isNone)).map (fun l => l.lid)
       let t := (roots.foldl (fun s lid => s.endTree lid 3 0 0 0) s).modPart part (fun p =>
         { p with formed := false, unscrubbed := true, watch := Vector.replicate 32 ⟨0, 0⟩, inj := Injector.zero })
       exec (.partitionReset part true) s = .next ((State.post { t with drains := insertNat part t.drains } (.drainExpiry part)).post (.demandScrub (ScrubDef.ofReset part)))) ∧
     (∀ q c, q ∈ s.parts → q.unscrubbed = true → c ∈ q.clusters → c ∈ d.clusters → exec (.partitionFormation d) s = .next s) ∧
     (s.drains.contains part = true →
       exec (.drainExpiry part) s = .next ((s.outq.filter (fun o => o.part == part)).foldl (fun s _ => s.send (.errorReply part))
         { s with drains := s.drains.filter (fun p => p != part), outq := s.outq.filter (fun o => o.part != part) })) ∧
     (8 ≤ s.hearth.step → s.partFree d = true →
       let p : Partition := { Partition.unformed d.part with
         formed := true, clusters := d.clusters, hbms := d.hbms, slices := d.slices, rdcWays := d.rdcWays, engines := d.engines,
         ports := d.ports, ranges := d.ranges, test := d.test, depth := d.depth, depths := d.depths, nsi := d.nsi, routes := d.routes }
       exec (.partitionFormation d) s = .next (State.retry { s with
         parts := s.parts.filter (fun x => x.no != d.part) ++ [p], drains := s.drains.filter (fun x => x != d.part) })) ∧
     (let out := fun (k : Core) => if cores.contains k.no then { k with withdrawn := true } else k
      exec (.coreWithdrawal cores true) s = .next { s with cores := s.cores.map out }) ∧
     exec (.partitionReset part false) s = .next s ∧ exec (.coreWithdrawal cores false) s = .next s)

/-- Table 22.2, R368, R369: lock and start move an interface from unlocked to locked to run; a stop ends its launches at once, and
unlocks it once it is idle and its scrub's receipt can be written; a change of a locked item moves it to error, and from run ends its launches.

R367, R373: an interface is created with its queues after step 6 of bring-up unless one of its number is locked or busy; a key
domain that no queue is bound to is loaded after step 5, and one that held keys is scrubbed first. -/
def Obligations.InterfaceEvents : Prop :=
  (∀ (s : State) (vif : Nat) (v : Vif),
     let move := fun (t : Tdisp) => s.modVif vif (fun v => { v with tdisp := t })
     s.vif? vif = some v →
     (v.tdisp = .unlocked → exec (.lockInterface vif) s = .next (s.modVif vif (fun v => if v.tdisp = .unlocked && !v.unlocking then { v with tdisp := .locked } else v))) ∧
     (v.tdisp = .locked → exec (.startInterface vif) s = .next (s.modVif vif (fun v => if v.tdisp = .locked && !v.unlocking then { v with tdisp := .run } else v))) ∧
     (v.tdisp = .unlocked → exec (.stopInterface vif) s = .next s ∧ exec (.lockedItemChange vif) s = .next s) ∧
     (v.tdisp ≠ .unlocked →
       let t := if v.tdisp = .run then (move .locked).vifEnd vif 0x38 else s
       ((t.vifBusy vif = true ∨ t.unlockScrub v = none) →
         exec (.stopInterface vif) s = .next (t.modVif vif (fun v => { v with unlocking := true }))) ∧
       (∀ u, t.vifBusy vif = false → t.unlockScrub v = some u → exec (.stopInterface vif) s =
         .next (u.modVif vif (fun v => { v with tdisp := .unlocked, unlocking := false })))) ∧
     (v.tdisp = .locked → exec (.lockedItemChange vif) s = .next (move .error)) ∧
     (v.tdisp = .run → exec (.lockedItemChange vif) s = .next ((move .error).vifEnd vif 0x32)) ∧
     (v.tdisp = .error → exec (.lockedItemChange vif) s = .next s)) ∧
  (∀ (s : State) (d : VifDef) (kdom key : Nat),
     (let refused := s.hearth.step < 6 ∨ 64 ≤ d.vif ∨ 64 ≤ d.kdom ∨
        (∃ v, s.vif? d.vif = some v ∧ (v.tdisp ≠ .unlocked ∨ s.vifBusy d.vif = true)) ∨
        (∃ q k, q ∈ s.queues ∧ k ∈ d.queues ∧ q.vif ≠ d.vif ∧ k.qid = q.qid)
      (refused → exec (.interfaceCreation d) s = .next (s.send (.refusedChange d.vif))) ∧
      (¬ refused →
        let v := Vif.created d
        let qs := d.queues.map (Queue.created d.vif)
        let t : State := { s with
          vifs := s.vifs.filter (fun x => x.no != d.vif) ++ [v]
          queues := s.queues.filter (fun q => q.vif != d.vif) ++ qs
          recs := s.recs.filter (fun r => r.vif != d.vif) }
        exec (.interfaceCreation d) s = .next (qs.foldl (fun s q => s.zeroStatus v q) t))) ∧
     (s.queues.filter (fun q => fieldLE q.shadow 3 1 == kdom) = [] → 5 ≤ s.hearth.step → kdom < 64 →
       let d : ScrubDef := { reason := 2, vif := 0, part := 0, kdom := kdom, ranges := [], ipa := 0 }
       let load := fun (s : State) => { s with
         kdoms := s.kdoms.filter (fun k => k.no != kdom) ++ [{ no := kdom, loaded := true, key := key, scrubbed := false }] }
       (s.kdoms.any (fun k => k.no == kdom && k.loaded) = false → exec (.keyDomainLoad kdom key) s = .next (load s)) ∧
       (s.kdoms.any (fun k => k.no == kdom && k.loaded) = true →
         exec (.keyDomainLoad kdom key) s = .next (load ((s.scrub d).1.sendReceipt d (s.scrub d).2)))))

/-- Table 22.1, R7, R219, R364, R376, R391, R404: writes to the registers that store a value: a base loses its low 12 bits (the model's
choice, notes/assumptions/43.md), a log2 size over 12 and a value out of a register's range are not taken, a doorbell is a kick, MIGCMD
starts its command, WATCH, the key domain, the fault vector and QCB.DISABLED are refused while locked and the hypervisor's ring in error, a read-only register ignores the write; and a write-only register
reads as zero. -/
def Obligations.RegisterWrites : Prop :=
  ∀ (s : State) (vif part n k : Nat) (v : Vif) (q : Queue) (value : DWord),
    n = value.toNat →
    (s.vif? vif = some v →
      (∀ slot, slot < 256 → s.queues.find? (fun q => q.vif == vif && q.slot == slot) = some q → v.no = vif →
        exec (.registerWrite (.kickPage vif (8 * slot) 8) value) s = .next (s.post (.kick vif slot (BitVec.ofNat 64 (n % 2 ^ 64))))) ∧
      (v.no = vif →
        exec (.registerWrite (.kickPage vif 0x800 8) value) s = exec (.invreq vif (BitVec.ofNat 64 (n % 2 ^ 64))) s ∧
        exec (.registerWrite (.kickPage vif 0x820 8) value) s = .next (s.post (.fresp vif false (BitVec.ofNat 64 (n % 2 ^ 64)))) ∧
        exec (.registerWrite (.kickPage vif 0x808 8) value) s = .next (s.modVif vif (fun v => { v with frbase := n / 4096 * 4096 })) ∧
        (n < 2 ^ 32 → exec (.registerWrite (.kickPage vif 0x818 4) value) s = .next (s.modVif vif (fun v => { v with fhead := n }))) ∧
        (n ≤ 12 → exec (.registerWrite (.kickPage vif 0x810 4) value) s = .next (s.modVif vif (fun v => { v with frlog := n }))) ∧
        (12 < n → n < 2 ^ 32 → exec (.registerWrite (.kickPage vif 0x810 4) value) s = .next s) ∧
        (∀ i, migEvent vif (n % 2 ^ 32) = some i → exec (.registerWrite (.migration vif 0 4) value) s = .next (s.post i))) ∧
      (∀ off, off ∈ [0x800, 0x820, 0x840] → s.readRegister (.kickPage vif off 8) = List.replicate 8 0) ∧
      s.readRegister (.kickPage vif 0x808 8) = leBytes v.frbase 8) ∧
    exec (.registerWrite (.wrstat k) value) s = .next s ∧
    exec (.registerWrite (.attic k) value) s = .next (s.modDie k (fun d => { d with attic := n })) ∧
    (∀ cores, exec (.registerWrite (.granted k cores) value) s =
      .next (s.modLaunch k (fun l => if l.placed then l else { l with grants := cores }))) ∧
    (12 < n → exec (.registerWrite (.hypRingLog vif) value) s = .next s) ∧
    (s.vif? vif = some v → v.tdisp ≠ .error →
      exec (.registerWrite (.hypRingBase vif) value) s = .next (s.modVif vif (fun v => { v with hbase := n / 4096 * 4096 })) ∧
      exec (.registerWrite (.hypRingHead vif) value) s = .next (s.modVif vif (fun v => { v with hhead := n % 2 ^ 32 })) ∧
      (n ≤ 12 → exec (.registerWrite (.hypRingLog vif) value) s = .next (s.modVif vif (fun v => { v with hlog := n })))) ∧
    (s.vif? vif = some v → v.tdisp = .error → ∀ r, r ∈ [RegName.hypRingBase vif, .hypRingHead vif] →
      exec (.registerWrite r value) s = .next (s.send (.refusedChange vif))) ∧
    exec (.registerWrite (.injector part k) value) s = .next (s.modPart part (fun p => { p with inj := p.inj.write k value })) ∧
    s.readRegister (.injector part k) = leBytes 0 8 ∧
    (s.vif? vif = some v → n < 64 →
      (v.tdisp = .unlocked → exec (.registerWrite (.keyDomain vif) value) s = .next (s.modVif vif (fun v => { v with kdom := n })) ∧
        exec (.registerWrite (.faultVector vif) value) s = .next (s.modVif vif (fun v => { v with faultVector := n }))) ∧
      (v.tdisp ≠ .unlocked → exec (.registerWrite (.keyDomain vif) value) s = .next (s.send (.refusedChange vif)) ∧
        exec (.registerWrite (.faultVector vif) value) s = .next (s.send (.refusedChange vif)))) ∧
    (s.partGuarded part = false → ∀ high, exec (.registerWrite (.watch part k high) value) s =
      .next (s.modPart part (fun p => { p with watch := p.watch.mapIdx (fun i w => if i = k then w.write high value else w) }))) ∧
    (s.vifs.any (fun v => v.part == part && v.no == n && v.tdisp == .error) = false →
      exec (.registerWrite (.logReader part) value) s = .next (s.modPart part (fun p => { p with logReader := n }))) ∧
    (exec (.registerWrite (.swapw part) value) s =
      .next (if 1024 ≤ n ∧ n ≤ 2 ^ 24 then s.modPart part (fun p => { p with swapw := n }) else s)) ∧
    (exec (.registerWrite (.rgw part) value) s = .next (if 4 ≤ n ∧ n ≤ 16 then s.modPart part (fun p => { p with rgw := n }) else s)) ∧
    (let put := fun (x : Stack) => { x with gref := n }
     exec (.registerWrite (.gref k) value) s =
       .next { s with hbms := updateWhere (fun x => x.no == k && decide (n + x.href ≤ 16000)) put s.hbms }) ∧
    (let put := fun (x : Stack) => { x with href := n }
     exec (.registerWrite (.href k) value) s =
       .next { s with hbms := updateWhere (fun x => x.no == k && decide (n + x.gref ≤ 16000)) put s.hbms }) ∧
    (let put := fun (x : Port) => { x with gal := n }
     exec (.registerWrite (.gal k) value) s =
       .next { s with ports := updateWhere (fun x => x.no == k && decide (n + x.hal ≤ 800)) put s.ports }) ∧
    (let put := fun (x : Port) => { x with hal := n }
     exec (.registerWrite (.hal k) value) s =
       .next { s with ports := updateWhere (fun x => x.no == k && decide (n + x.gal ≤ 800)) put s.ports }) ∧
    (exec (.registerWrite (.suspt k) value) s =
      .next (if 2 ^ 16 ≤ n ∧ n ≤ 2 ^ 31 then s.modMGroup k (fun m => { m with suspt := n }) else s)) ∧
    (n = 0 ∨ n = 2 ∨ n = 4 → exec (.registerWrite (.claim k) value) s =
      .next ((s.modCluster k (fun c => { c with claim := n })).post (.boostClaim k))) ∧
    (n ≠ 0 → n ≠ 2 → n ≠ 4 → exec (.registerWrite (.claim k) value) s = .next s) ∧
    (exec (.registerWrite .larderSlots value) s = .next (if n ≤ 1024 then { s with larderSlots := n } else s)) ∧
    (s.queue? k = some q → s.vif? q.vif = some v →
      (v.tdisp ≠ .unlocked → exec (.registerWrite (.queueDisabled k) value) s = .next (s.send (.refusedChange q.vif))) ∧
      (v.tdisp = .unlocked → exec (.registerWrite (.queueDisabled k) value) s =
        .next (s.modQueue k (fun q => { q with disabled := value.getLsbD 0 }))))

/-- R370, R372: a MIGCMD of a locked interface is refused; one that its migration state does not allow sets BADC; each of the others
moves the interface on as Table 22.3 says.

R371, R372, Table 22.3a: a stopping interface with nothing left on cores, in engines or to write back stops, and its volatile
sections follow the stable ones; MIGACK at the source lets the next chunk into the window; at the destination it takes a chunk in
when its number, place, length and tag are right, and sets REF else. -/
def Obligations.MigrationEvents : Prop :=
  (∀ (s : State) (vif : Nat) (v : Vif),
     s.vif? vif = some v →
     let cmds : List Instr := [.precopy vif, .stop vif, .resume vif, .abort vif, .finish vif]
     ((v.tdisp = .locked ∨ v.tdisp = .run) → ∀ i, i ∈ cmds → exec i s = .next (s.send (.refusedChange vif))) ∧
     (v.tdisp ≠ .locked → v.tdisp ≠ .run →
       let marked := fun (ok : Vif → Bool) => s.modVif vif (fun x => { x with migRef := false, migMiss := false, migBadc := !ok x })
       let running := fun (x : Vif) => x.mig == .running
       let precopy := fun (x : Vif) => x.mig == .precopy
       let stopped := fun (x : Vif) => x.mig == .stopped
       let arrival := fun (x : Vif) => x.mig == .stopped && x.dest
       let resuming := fun (x : Vif) => x.mig == .resuming
       let t := (marked precopy).modVif vif (fun x => { x with mig := .stopping })
       let all := [1, 2, 3, 4, 5, 6, 7, 8].all v.whole
       (running v = true → exec (.precopy vif) s =
         .next ((marked running).modVif vif (fun x => Vif.place
           { x with mig := .precopy, chunks := [1, 2, 3, 4].flatMap (fun k => chunksOf k ((marked running).section v k)), migNext := 0,
                    migFull := false, migEnd := false }))) ∧
       (precopy v = true → exec (.stop vif) s =
         .next (((t.vifCohorts vif).foldl (fun s c => s.forceSave c 2) t).post (.migrationStopped vif))) ∧
       (arrival v = true → exec (.resume vif) s =
         .next ((marked arrival).modVif vif (fun x => { x with mig := .resuming, chunks := [], migNext := 0, migFull := false }))) ∧
       (stopped v = true → exec (.abort vif) s = .next ((marked stopped).runVif vif)) ∧
       (resuming v = true → all = true → exec (.finish vif) s = .next (((marked resuming).takeSections v).runVif vif)) ∧
       (resuming v = true → all = false →
         exec (.finish vif) s = .next ((marked resuming).modVif vif (fun x => { x with migMiss := true }))) ∧
       (running v = false → exec (.precopy vif) s = .next (marked running)) ∧
       (precopy v = false → exec (.stop vif) s = .next (marked precopy)) ∧
       (arrival v = false → exec (.resume vif) s = .next (marked arrival)) ∧
       (stopped v = false → exec (.abort vif) s = .next (marked stopped)) ∧
       (resuming v = false → exec (.finish vif) s = .next (marked resuming)))) ∧
  (∀ (s : State) (vif seq : Nat) (v : Vif),
     (s.vif? vif = some v → v.mig = .stopping → s.vifCohorts vif = [] → s.cmds.any (fun k => k.vif == vif) = false →
       (s.vifFrames vif).any (fun f => !f.mapDirty.isEmpty || s.unsettled f.cohort) = false →
       exec (.migrationStopped vif) s = .next (s.modVif vif (fun x => Vif.place
         { x with mig := .stopped, chunks := x.chunks ++ [5, 6, 7, 8].flatMap (fun k => chunksOf k (s.section v k)) }))) ∧
     (let sends := fun (x : Vif) => x.mig == .precopy || x.mig == .stopping || (x.mig == .stopped && !x.dest)
      exec (.migackSource vif seq) s = .next (s.modVif vif (fun x =>
        match sends x && x.migFull && seq + 1 == x.migNext, x.chunks with
        | true, c :: rest => Vif.place { x with chunks := rest, migFull := false, migEnd := x.migEnd || (c.sec == 8 && rest.isEmpty) }
        | true, [] => { x with migFull := false }
        | false, _ => x))) ∧
     (exec (.migackDestination vif seq) s = .next (s.modVif vif (fun x =>
        let f := fun off n => x.window.nat off n
        let data := x.window.bytes 32 (min (f 8 4) chunkMax)
        let y := { x with migRef := false, migBadc := false, migMiss := false }
        if x.mig ≠ .resuming then x
        else if f 0 4 = seq ∧ seq = x.migNext ∧ f 8 4 ≤ chunkMax ∧ (f 4 2, f 0x10 8) = x.expects ∧
            BitVec.ofNat 64 (f 0x18 8) = Config.migrationTag x.no (x.window.bytes 0 24 ++ data) then
          { y with chunks := x.chunks ++ [⟨f 4 2, f 0x10 8, data⟩], migNext := x.migNext + 1 }
        else { y with migRef := true }))))

/-- R418, R409, R410, R413: power good advances the flash's counter into the epoch and starts every part afresh; the next image is
measured and, when it verifies, its processors are released, the fifth ending bring-up with memory zeroed; one that does not verify
stops it with its order number; a signed image is installed; without power only what lies outside the package stays.

R412: a heartbeat of a released processor is noted, and an interval that saw one starts the next; without one the processor is
hung: an error record, then a warm reset of a scheduler's die, a reset of an engine alone, or new images for the others.

Table 26.2, R414, R415, R421, R384: the eight steps of a warm reset run in order, each when the step before it is the die's last;
step 8 readmits the die and counts the reset; a self-test that passes gives a suspect core back, one that fails withdraws it with a
record.

R416, R417, Table 26.4: a claim of 2.4 takes a free slot, else waits, and class G claims that wait revoke slots of class H; at the end of
an interval permits, setting and clock follow the first row that fits, and a cluster that leaves 2.4 gives its slot up. -/
def Obligations.DeviceEvents : Prop :=
  (∀ (s : State) (order : Nat) (image : List Byte),
     (s.hearth.step = 0 → s.flash.authentic = true → exec .powerGood s = .next { s with
       flash := { s.flash with counter := s.flash.counter + 1 }
       hearth := { Hearth.off with step := 3, epoch := s.flash.counter + 1 }
       dies := (List.range 4).map Die.fresh
       clusters := (List.range 32).map Cluster.fresh
       cores := (List.range 384).map Core.fresh
       hbms := (List.range 32).map Stack.fresh
       ports := (List.range 18).map Port.fresh }) ∧
     (let order := s.hearth.unlocked + 1
      let m := { s with hearth := { s.hearth with measures := s.hearth.measures ++ [Config.sha3 (s.flashImage order)] } }
      s.hearth.step = 3 → s.hearth.halted = none →
      (Config.imageVerifies (s.flashImage order) = false → exec .imageUnlock s =
        .next (State.send { m with hearth := { m.hearth with halted := some order } } (.bringUpStopped order))) ∧
      (Config.imageVerifies (s.flashImage order) = true →
        let t := { m with hearth := { m.hearth with unlocked := order, released := s.hearth.released ++ processorsOf order } }
        (order ≠ 5 → exec .imageUnlock s = .next t) ∧
        (order = 5 → exec .imageUnlock s = .next { t with
          mem := s.keepOutside, sectors := s.sectors.filter (fun x => !(s.ownHbm (64 * x.no))), l2 := []
          hearth := { t.hearth with step := 8 } }))) ∧
     (1 ≤ order → order ≤ 5 → exec (.imageInstall order image true) s =
       .next { s with flash := { s.flash with images := s.flash.images.filter (fun x => x.1 != order) ++ [(order, image)] } }) ∧
     exec (.imageInstall order image false) s = .next s ∧
     exec .powerRemoved s = .next { State.reset with
       pkg := s.pkg, mem := s.keepOutside, sectors := s.sectors.filter (fun x => !(s.ownHbm (64 * x.no))), drives := s.drives, flash := s.flash,
       sched := s.sched, inputs := s.inputs, out := s.out, fresh := s.fresh, nextId := s.nextId }) ∧
  (∀ (s : State) (p : Processor) (die e : Nat),
     let hung := fun (p : Processor) (action : Nat) => s.logError
       { ErrRec.zero with etype := 10, action := action, die := (placeOf p).1, unit := (placeOf p).2 }
     let silent := fun (p : Processor) => s.hearth.released.contains p = true ∧ s.hearth.heard.contains p = false
     (s.hearth.released.contains p = true →
       (s.hearth.heard.contains p = false → exec (.heartbeat p) s =
         .next { s with hearth := { s.hearth with heard := s.hearth.heard ++ [p] } }) ∧
       (s.hearth.heard.contains p = true → exec (.watchdogExpiry p) s =
         .next { s with hearth := { s.hearth with heard := s.hearth.heard.filter (fun x => x != p) } })) ∧
     (silent (.scheduling die) → exec (.watchdogExpiry (.scheduling die)) s =
       .next ((hung (.scheduling die) 10).post (.warmResetOrder die 1 true true))) ∧
     (silent (.storageEngine e) → exec (.watchdogExpiry (.storageEngine e)) s =
       .next ((hung (.storageEngine e) 9).resetEngine (.storage e))) ∧
     (silent (.collectiveEngine e) → exec (.watchdogExpiry (.collectiveEngine e)) s =
       .next ((hung (.collectiveEngine e) 9).resetEngine (.collective e))) ∧
     (silent (.ioManagement e) → exec (.watchdogExpiry (.ioManagement e)) s = .next (hung (.ioManagement e) 9).unlockAgain) ∧
     (silent (.pager e) → exec (.watchdogExpiry (.pager e)) s = .next (hung (.pager e) 9).unlockAgain)) ∧
  (∀ (s : State) (die step core : Nat) (responds : Bool) (k : Die) (c : Core),
     (s.die? die = some k →
       (k.wrstep + 1 ≠ step → exec (.warmResetOrder die step true responds) s = .next s) ∧
       exec (.warmResetOrder die step false responds) s = .next s ∧
       (k.wrstep + 1 = step →
         let t := s.modDie die (fun k => { k with wrstep := step })
         let go := fun (u : State) => u.post (.warmResetOrder die (step + 1) true responds)
         let order := exec (.warmResetOrder die step true responds) s
         (step = 1 → order = .next (go (t.emptyDie die responds))) ∧
         (step = 2 ∨ step = 5 → order = .next (go t)) ∧
         (step = 3 → order = .next (go (t.flushOthers die))) ∧
         (step = 4 → order = .next (go (t.flushDie die))) ∧
         (step = 6 → order = .next (go ((t.measure 3).restartDie die))) ∧
         (step = 7 → Config.imageVerifies (s.flashImage 3) = false → order = .next (s.stopBringUp 3)) ∧
         (step = 7 → Config.imageVerifies (s.flashImage 3) = true → order = .next (go t)) ∧
         (step = 8 → order = .next (s.readmit die) ∧ exec (.warmResetReadmit die) s = .next (s.readmit die)))) ∧
     (s.core? core = some c →
       (c.suspect = true → exec (.selfTest core true) s =
         .next (s.modCore core (fun k => { k with suspect := false, withdrawn := false }))) ∧
       (c.suspect = false → exec (.selfTest core true) s = .next s) ∧
       exec (.selfTest core false) s = .next ((s.modCore core (fun k => { k with withdrawn := true })).logError
         { ErrRec.zero with
           etype := 8, action := 6, die := dieOf core, unit := clusterOf core % 8 * 256 + core % 12
           part := (s.parts.find? (fun p => p.formed && p.clusters.contains (clusterOf core))).map (fun p => p.no) }))) ∧
  (∀ (s : State) (cluster : Nat) (k : Cluster),
     s.cluster? cluster = some k →
     (k.claim ≠ 4 → exec (.boostClaim cluster) s =
       .next { s with boostWaiting := s.boostWaiting.filter (fun c => c != cluster) }) ∧
     (k.claim = 4 → s.boostSlots.any (fun b => b.cluster == cluster) = true → exec (.boostClaim cluster) s = .next s) ∧
     (k.claim = 4 → s.boostSlots.any (fun b => b.cluster == cluster) = false → s.boostSlots.length < 16 →
       exec (.boostClaim cluster) s = .next (s.grantSlot cluster)) ∧
     (k.claim = 4 → s.boostSlots.any (fun b => b.cluster == cluster) = false → 16 ≤ s.boostSlots.length →
       let t := { s with boostWaiting := if s.boostWaiting.contains cluster then s.boostWaiting else s.boostWaiting ++ [cluster] }
       let more := (s.boostSlots.filter (fun b => b.revoked)).length < (t.boostWaiting.filter (fun c => !t.claimH c)).length
       (¬more → exec (.boostClaim cluster) s = .next t) ∧
       (more → exec (.boostClaim cluster) s = .next { t with boostSlots := revokeFirst s.boostSlots })) ∧
     (let held := s.boostSlots.any (fun b => b.cluster == cluster && !b.revoked)
      let n := if k.setting ≠ 0 then k.permits else if k.half then min 64 (k.permits + 1) else k.permits
      let moved := fun (setting permits : Nat) => s.modCluster cluster (fun x =>
        { x with cyc := x.cyc + (10000 + 500 * x.setting), setting := setting, permits := permits,
                 half := (k.setting == 0 && !k.half) && setting == 0 })
      let end_ := exec (.boostIntervalBoundary cluster) s
      (k.claim = 4 → held = true → 2 ≤ n → end_ = .next (moved 4 (n - 2))) ∧
      (s.boostSlots.any (fun b => b.cluster == cluster) = true → k.claim ≠ 4 → k.setting = 4 → end_ =
        .next (State.grantFree { moved 2 (n - min n 1) with boostSlots := s.boostSlots.filter (fun b => b.cluster != cluster) }).revokeFor) ∧
      (s.boostSlots.any (fun b => b.cluster == cluster) = false →
        (k.setting = 4 → end_ = .next (moved 2 (n - min n 1))) ∧
        (k.setting ≠ 4 → (k.claim = 2 ∨ k.claim = 4) → 1 ≤ n → end_ = .next (moved 2 (n - 1))) ∧
        (k.setting ≠ 4 → (k.claim = 0 ∨ n = 0) → end_ = .next (moved 0 n)))))
end

