-- ==== Sys2Proof/Laws/Maps.lean ====
section
/-!
SUPPORT. Sparse maps in canonical form: what a read gives after a write, and that every operation on memory keeps the form.
-/
namespace Sys2Proof.Machine

/-! ## Reads after writes -/

theorem SMap.get_cons {α : Type} (m : SMap α) (d : α) (k : Nat) (v : α) (j : Nat) :
    SMap.get ((k, v) :: m) d j = if j = k then v else SMap.get m d j := by
  simp only [SMap.get]
  by_cases h : j = k
  · rw [if_pos h, if_pos h.symm]
  · rw [if_neg h, if_neg (fun e => h e.symm)]

theorem SMap.get_ins {α : Type} (m : SMap α) (d : α) (k : Nat) (v : α) (j : Nat) :
    SMap.get (SMap.ins m k v) d j = if j = k then v else SMap.get m d j := by
  induction m with
  | nil => exact SMap.get_cons [] d k v j
  | cons p rest ih =>
    obtain ⟨i, u⟩ := p
    simp only [SMap.ins]
    split
    · rw [SMap.get_cons]
    · split
      · rename_i h; subst h; rw [SMap.get_cons, SMap.get_cons]; split <;> rfl
      · rename_i h; rw [SMap.get_cons, SMap.get_cons, ih]
        by_cases hj : j = i
        · have : ¬ j = k := fun e => h (e ▸ hj)
          rw [if_pos hj, if_neg this, if_pos hj]
        · rw [if_neg hj, if_neg hj]

theorem SMap.get_filter_ne {α : Type} (m : SMap α) (d : α) (k j : Nat) :
    SMap.get (m.filter (fun p => p.1 != k)) d j = if j = k then d else SMap.get m d j := by
  induction m with
  | nil => simp [SMap.get]
  | cons p rest ih =>
    obtain ⟨i, u⟩ := p
    simp only [List.filter_cons]
    rw [SMap.get_cons]
    split
    · rename_i h
      have h' : i ≠ k := by simpa using h
      rw [SMap.get_cons, ih]
      by_cases hj : j = i
      · have : ¬ j = k := fun e => h' (hj ▸ e)
        rw [if_pos hj, if_neg this, if_pos hj]
      · rw [if_neg hj, if_neg hj]
    · rename_i h
      have h' : i = k := by simpa using h
      subst h'; rw [ih]; split <;> rfl

/-- What a read gives after a write, in any map. -/
theorem SMap.get_set {α : Type} [DecidableEq α] (m : SMap α) (d : α) (k : Nat) (v : α) (j : Nat) :
    SMap.get (SMap.set m d k v) d j = if j = k then v else SMap.get m d j := by
  unfold SMap.set
  split
  · rename_i h; rw [SMap.get_filter_ne, h]
  · exact SMap.get_ins m d k v j

/-! ## The canonical form -/

/-- A lower bound may be lowered. -/
theorem SMap.wfFrom_mono {α : Type} [DecidableEq α] (m : SMap α) (d : α) (lo : Option Nat) (hi : Nat)
    (h : SMap.wfFrom d (some hi) m = true) (hl : lo.all (fun l => decide (l ≤ hi)) = true) : SMap.wfFrom d lo m = true := by
  cases m with
  | nil => rfl
  | cons p rest =>
    obtain ⟨i, u⟩ := p
    simp only [SMap.wfFrom, Option.all_some, Bool.and_eq_true, decide_eq_true_eq] at h ⊢
    refine ⟨⟨?_, h.1.2⟩, h.2⟩
    cases lo with
    | none => rfl
    | some l => simp only [Option.all_some, decide_eq_true_eq] at hl ⊢; omega

/-- Keeping some of the entries keeps the canonical form. -/
theorem SMap.wfFrom_filter {α : Type} [DecidableEq α] (m : SMap α) (d : α) (lo : Option Nat) (p : Nat × α → Bool)
    (h : SMap.wfFrom d lo m = true) : SMap.wfFrom d lo (m.filter p) = true := by
  induction m generalizing lo with
  | nil => rfl
  | cons e rest ih =>
    obtain ⟨i, u⟩ := e
    simp only [SMap.wfFrom, Bool.and_eq_true] at h
    simp only [List.filter_cons]
    split
    · simp only [SMap.wfFrom, Bool.and_eq_true]; exact ⟨h.1, ih (some i) h.2⟩
    · exact SMap.wfFrom_mono _ d lo i (ih (some i) h.2) (by
        have := h.1.1
        cases lo with
        | none => rfl
        | some l => simp only [Option.all_some, decide_eq_true_eq] at this ⊢; omega)

/-- An insertion keeps the canonical form above any bound below its key. -/
theorem SMap.wfFrom_ins {α : Type} [DecidableEq α] (m : SMap α) (d : α) (lo : Option Nat) (k : Nat) (v : α) (hv : v ≠ d)
    (h : SMap.wfFrom d lo m = true) (hk : lo.all (fun l => decide (l < k)) = true) : SMap.wfFrom d lo (SMap.ins m k v) = true := by
  induction m generalizing lo with
  | nil => simp [SMap.ins, SMap.wfFrom, hk, hv]
  | cons p rest ih =>
    obtain ⟨i, u⟩ := p
    simp only [SMap.wfFrom, Bool.and_eq_true] at h
    simp only [SMap.ins]
    split
    · rename_i hlt
      simp only [SMap.wfFrom, Bool.and_eq_true]
      exact ⟨⟨hk, by simpa using hv⟩, ⟨by simpa using hlt, h.1.2⟩, h.2⟩
    · split
      · rename_i hke
        subst hke
        simp only [SMap.wfFrom, Bool.and_eq_true]
        exact ⟨⟨hk, by simpa using hv⟩, h.2⟩
      · simp only [SMap.wfFrom, Bool.and_eq_true]
        exact ⟨h.1, ih (some i) h.2 (by simp only [Option.all_some, decide_eq_true_eq]; omega)⟩

/-- A write keeps the canonical form. -/
theorem SMap.wfFrom_set {α : Type} [DecidableEq α] (m : SMap α) (d : α) (k : Nat) (v : α) (h : SMap.wfFrom d none m = true) :
    SMap.wfFrom d none (SMap.set m d k v) = true := by
  unfold SMap.set
  split
  · exact SMap.wfFrom_filter m d none _ h
  · rename_i hv; exact SMap.wfFrom_ins m d none k v hv h rfl

/-! ## Memory -/

theorem Memory.wf_nil : Memory.wf [] = true := rfl

theorem Memory.wf_put (m : Memory) (a : Nat) (b : Byte) (h : m.wf = true) : (m.put a b).wf = true :=
  SMap.wfFrom_set m 0 a b h

theorem Memory.wf_putBytes (m : Memory) (a : Nat) (bs : List Byte) (h : m.wf = true) : (m.putBytes a bs).wf = true := by
  induction bs generalizing m a with
  | nil => exact h
  | cons b rest ih => exact ih _ _ (Memory.wf_put m a b h)

theorem Memory.wf_filter (m : Memory) (p : Nat × Byte → Bool) (h : m.wf = true) : Memory.wf (m.filter p) = true :=
  SMap.wfFrom_filter m 0 none p h

theorem Memory.byte_put (m : Memory) (a : Nat) (b : Byte) (c : Nat) : (m.put a b).byte c = if c = a then b else m.byte c :=
  SMap.get_set m 0 a b c

end Sys2Proof.Machine
end

