-- ==== Sys2Proof/Laws/State.lean ====
section
/-!
SUPPORT. One lemma for each field of State and each named change, and the same for Group and Regs: the fields that a change leaves
alone.
-/
namespace Sys2Proof.Machine

/-! ## `State.modCohort` -/

@[simp] theorem State.modCohort_pkg (s : State) (r : CRef) (f : Cohort → Cohort) : (s.modCohort r f).pkg = s.pkg := rfl
@[simp] theorem State.modCohort_mem (s : State) (r : CRef) (f : Cohort → Cohort) : (s.modCohort r f).mem = s.mem := rfl
@[simp] theorem State.modCohort_sectors (s : State) (r : CRef) (f : Cohort → Cohort) : (s.modCohort r f).sectors = s.sectors := rfl
@[simp] theorem State.modCohort_l2 (s : State) (r : CRef) (f : Cohort → Cohort) : (s.modCohort r f).l2 = s.l2 := rfl
@[simp] theorem State.modCohort_drives (s : State) (r : CRef) (f : Cohort → Cohort) : (s.modCohort r f).drives = s.drives := rfl
@[simp] theorem State.modCohort_launches (s : State) (r : CRef) (f : Cohort → Cohort) : (s.modCohort r f).launches = s.launches := rfl
@[simp] theorem State.modCohort_cores (s : State) (r : CRef) (f : Cohort → Cohort) : (s.modCohort r f).cores = s.cores := rfl
@[simp] theorem State.modCohort_clusters (s : State) (r : CRef) (f : Cohort → Cohort) : (s.modCohort r f).clusters = s.clusters := rfl
@[simp] theorem State.modCohort_dies (s : State) (r : CRef) (f : Cohort → Cohort) : (s.modCohort r f).dies = s.dies := rfl
@[simp] theorem State.modCohort_hbms (s : State) (r : CRef) (f : Cohort → Cohort) : (s.modCohort r f).hbms = s.hbms := rfl
@[simp] theorem State.modCohort_ports (s : State) (r : CRef) (f : Cohort → Cohort) : (s.modCohort r f).ports = s.ports := rfl
@[simp] theorem State.modCohort_queues (s : State) (r : CRef) (f : Cohort → Cohort) : (s.modCohort r f).queues = s.queues := rfl
@[simp] theorem State.modCohort_vifs (s : State) (r : CRef) (f : Cohort → Cohort) : (s.modCohort r f).vifs = s.vifs := rfl
@[simp] theorem State.modCohort_walks (s : State) (r : CRef) (f : Cohort → Cohort) : (s.modCohort r f).walks = s.walks := rfl
@[simp] theorem State.modCohort_recs (s : State) (r : CRef) (f : Cohort → Cohort) : (s.modCohort r f).recs = s.recs := rfl
@[simp] theorem State.modCohort_invs (s : State) (r : CRef) (f : Cohort → Cohort) : (s.modCohort r f).invs = s.invs := rfl
@[simp] theorem State.modCohort_larder (s : State) (r : CRef) (f : Cohort → Cohort) : (s.modCohort r f).larder = s.larder := rfl
@[simp] theorem State.modCohort_larderSlots (s : State) (r : CRef) (f : Cohort → Cohort) : (s.modCohort r f).larderSlots = s.larderSlots := rfl
@[simp] theorem State.modCohort_engines (s : State) (r : CRef) (f : Cohort → Cohort) : (s.modCohort r f).engines = s.engines := rfl
@[simp] theorem State.modCohort_cmds (s : State) (r : CRef) (f : Cohort → Cohort) : (s.modCohort r f).cmds = s.cmds := rfl
@[simp] theorem State.modCohort_parts (s : State) (r : CRef) (f : Cohort → Cohort) : (s.modCohort r f).parts = s.parts := rfl
@[simp] theorem State.modCohort_kdoms (s : State) (r : CRef) (f : Cohort → Cohort) : (s.modCohort r f).kdoms = s.kdoms := rfl
@[simp] theorem State.modCohort_hearth (s : State) (r : CRef) (f : Cohort → Cohort) : (s.modCohort r f).hearth = s.hearth := rfl
@[simp] theorem State.modCohort_flash (s : State) (r : CRef) (f : Cohort → Cohort) : (s.modCohort r f).flash = s.flash := rfl
@[simp] theorem State.modCohort_mgroups (s : State) (r : CRef) (f : Cohort → Cohort) : (s.modCohort r f).mgroups = s.mgroups := rfl
@[simp] theorem State.modCohort_boostSlots (s : State) (r : CRef) (f : Cohort → Cohort) : (s.modCohort r f).boostSlots = s.boostSlots := rfl
@[simp] theorem State.modCohort_boostWaiting (s : State) (r : CRef) (f : Cohort → Cohort) : (s.modCohort r f).boostWaiting = s.boostWaiting := rfl
@[simp] theorem State.modCohort_boostGranted (s : State) (r : CRef) (f : Cohort → Cohort) : (s.modCohort r f).boostGranted = s.boostGranted := rfl
@[simp] theorem State.modCohort_drains (s : State) (r : CRef) (f : Cohort → Cohort) : (s.modCohort r f).drains = s.drains := rfl
@[simp] theorem State.modCohort_outq (s : State) (r : CRef) (f : Cohort → Cohort) : (s.modCohort r f).outq = s.outq := rfl
@[simp] theorem State.modCohort_fresh (s : State) (r : CRef) (f : Cohort → Cohort) : (s.modCohort r f).fresh = s.fresh := rfl
@[simp] theorem State.modCohort_nextId (s : State) (r : CRef) (f : Cohort → Cohort) : (s.modCohort r f).nextId = s.nextId := rfl
@[simp] theorem State.modCohort_cur (s : State) (r : CRef) (f : Cohort → Cohort) : (s.modCohort r f).cur = s.cur := rfl
@[simp] theorem State.modCohort_turn (s : State) (r : CRef) (f : Cohort → Cohort) : (s.modCohort r f).turn = s.turn := rfl
@[simp] theorem State.modCohort_sched (s : State) (r : CRef) (f : Cohort → Cohort) : (s.modCohort r f).sched = s.sched := rfl
@[simp] theorem State.modCohort_sram (s : State) (r : CRef) (f : Cohort → Cohort) : (s.modCohort r f).sram = s.sram := rfl
@[simp] theorem State.modCohort_inputs (s : State) (r : CRef) (f : Cohort → Cohort) : (s.modCohort r f).inputs = s.inputs := rfl
@[simp] theorem State.modCohort_pend (s : State) (r : CRef) (f : Cohort → Cohort) : (s.modCohort r f).pend = s.pend := rfl
@[simp] theorem State.modCohort_out (s : State) (r : CRef) (f : Cohort → Cohort) : (s.modCohort r f).out = s.out := rfl

/-! ## `State.modGroup` -/

@[simp] theorem State.modGroup_pkg (s : State) (g : GRef) (f : Group → Group) : (s.modGroup g f).pkg = s.pkg := rfl
@[simp] theorem State.modGroup_mem (s : State) (g : GRef) (f : Group → Group) : (s.modGroup g f).mem = s.mem := rfl
@[simp] theorem State.modGroup_sectors (s : State) (g : GRef) (f : Group → Group) : (s.modGroup g f).sectors = s.sectors := rfl
@[simp] theorem State.modGroup_l2 (s : State) (g : GRef) (f : Group → Group) : (s.modGroup g f).l2 = s.l2 := rfl
@[simp] theorem State.modGroup_drives (s : State) (g : GRef) (f : Group → Group) : (s.modGroup g f).drives = s.drives := rfl
@[simp] theorem State.modGroup_launches (s : State) (g : GRef) (f : Group → Group) : (s.modGroup g f).launches = s.launches := rfl
@[simp] theorem State.modGroup_cores (s : State) (g : GRef) (f : Group → Group) : (s.modGroup g f).cores = s.cores := rfl
@[simp] theorem State.modGroup_clusters (s : State) (g : GRef) (f : Group → Group) : (s.modGroup g f).clusters = s.clusters := rfl
@[simp] theorem State.modGroup_dies (s : State) (g : GRef) (f : Group → Group) : (s.modGroup g f).dies = s.dies := rfl
@[simp] theorem State.modGroup_hbms (s : State) (g : GRef) (f : Group → Group) : (s.modGroup g f).hbms = s.hbms := rfl
@[simp] theorem State.modGroup_ports (s : State) (g : GRef) (f : Group → Group) : (s.modGroup g f).ports = s.ports := rfl
@[simp] theorem State.modGroup_queues (s : State) (g : GRef) (f : Group → Group) : (s.modGroup g f).queues = s.queues := rfl
@[simp] theorem State.modGroup_vifs (s : State) (g : GRef) (f : Group → Group) : (s.modGroup g f).vifs = s.vifs := rfl
@[simp] theorem State.modGroup_walks (s : State) (g : GRef) (f : Group → Group) : (s.modGroup g f).walks = s.walks := rfl
@[simp] theorem State.modGroup_recs (s : State) (g : GRef) (f : Group → Group) : (s.modGroup g f).recs = s.recs := rfl
@[simp] theorem State.modGroup_invs (s : State) (g : GRef) (f : Group → Group) : (s.modGroup g f).invs = s.invs := rfl
@[simp] theorem State.modGroup_larder (s : State) (g : GRef) (f : Group → Group) : (s.modGroup g f).larder = s.larder := rfl
@[simp] theorem State.modGroup_larderSlots (s : State) (g : GRef) (f : Group → Group) : (s.modGroup g f).larderSlots = s.larderSlots := rfl
@[simp] theorem State.modGroup_engines (s : State) (g : GRef) (f : Group → Group) : (s.modGroup g f).engines = s.engines := rfl
@[simp] theorem State.modGroup_cmds (s : State) (g : GRef) (f : Group → Group) : (s.modGroup g f).cmds = s.cmds := rfl
@[simp] theorem State.modGroup_parts (s : State) (g : GRef) (f : Group → Group) : (s.modGroup g f).parts = s.parts := rfl
@[simp] theorem State.modGroup_kdoms (s : State) (g : GRef) (f : Group → Group) : (s.modGroup g f).kdoms = s.kdoms := rfl
@[simp] theorem State.modGroup_hearth (s : State) (g : GRef) (f : Group → Group) : (s.modGroup g f).hearth = s.hearth := rfl
@[simp] theorem State.modGroup_flash (s : State) (g : GRef) (f : Group → Group) : (s.modGroup g f).flash = s.flash := rfl
@[simp] theorem State.modGroup_mgroups (s : State) (g : GRef) (f : Group → Group) : (s.modGroup g f).mgroups = s.mgroups := rfl
@[simp] theorem State.modGroup_boostSlots (s : State) (g : GRef) (f : Group → Group) : (s.modGroup g f).boostSlots = s.boostSlots := rfl
@[simp] theorem State.modGroup_boostWaiting (s : State) (g : GRef) (f : Group → Group) : (s.modGroup g f).boostWaiting = s.boostWaiting := rfl
@[simp] theorem State.modGroup_boostGranted (s : State) (g : GRef) (f : Group → Group) : (s.modGroup g f).boostGranted = s.boostGranted := rfl
@[simp] theorem State.modGroup_drains (s : State) (g : GRef) (f : Group → Group) : (s.modGroup g f).drains = s.drains := rfl
@[simp] theorem State.modGroup_outq (s : State) (g : GRef) (f : Group → Group) : (s.modGroup g f).outq = s.outq := rfl
@[simp] theorem State.modGroup_fresh (s : State) (g : GRef) (f : Group → Group) : (s.modGroup g f).fresh = s.fresh := rfl
@[simp] theorem State.modGroup_nextId (s : State) (g : GRef) (f : Group → Group) : (s.modGroup g f).nextId = s.nextId := rfl
@[simp] theorem State.modGroup_cur (s : State) (g : GRef) (f : Group → Group) : (s.modGroup g f).cur = s.cur := rfl
@[simp] theorem State.modGroup_turn (s : State) (g : GRef) (f : Group → Group) : (s.modGroup g f).turn = s.turn := rfl
@[simp] theorem State.modGroup_sched (s : State) (g : GRef) (f : Group → Group) : (s.modGroup g f).sched = s.sched := rfl
@[simp] theorem State.modGroup_sram (s : State) (g : GRef) (f : Group → Group) : (s.modGroup g f).sram = s.sram := rfl
@[simp] theorem State.modGroup_inputs (s : State) (g : GRef) (f : Group → Group) : (s.modGroup g f).inputs = s.inputs := rfl
@[simp] theorem State.modGroup_pend (s : State) (g : GRef) (f : Group → Group) : (s.modGroup g f).pend = s.pend := rfl
@[simp] theorem State.modGroup_out (s : State) (g : GRef) (f : Group → Group) : (s.modGroup g f).out = s.out := rfl

/-! ## `State.modRegs` -/

@[simp] theorem State.modRegs_pkg (s : State) (g : GRef) (f : Regs → Regs) : (s.modRegs g f).pkg = s.pkg := rfl
@[simp] theorem State.modRegs_mem (s : State) (g : GRef) (f : Regs → Regs) : (s.modRegs g f).mem = s.mem := rfl
@[simp] theorem State.modRegs_sectors (s : State) (g : GRef) (f : Regs → Regs) : (s.modRegs g f).sectors = s.sectors := rfl
@[simp] theorem State.modRegs_l2 (s : State) (g : GRef) (f : Regs → Regs) : (s.modRegs g f).l2 = s.l2 := rfl
@[simp] theorem State.modRegs_drives (s : State) (g : GRef) (f : Regs → Regs) : (s.modRegs g f).drives = s.drives := rfl
@[simp] theorem State.modRegs_launches (s : State) (g : GRef) (f : Regs → Regs) : (s.modRegs g f).launches = s.launches := rfl
@[simp] theorem State.modRegs_cores (s : State) (g : GRef) (f : Regs → Regs) : (s.modRegs g f).cores = s.cores := rfl
@[simp] theorem State.modRegs_clusters (s : State) (g : GRef) (f : Regs → Regs) : (s.modRegs g f).clusters = s.clusters := rfl
@[simp] theorem State.modRegs_dies (s : State) (g : GRef) (f : Regs → Regs) : (s.modRegs g f).dies = s.dies := rfl
@[simp] theorem State.modRegs_hbms (s : State) (g : GRef) (f : Regs → Regs) : (s.modRegs g f).hbms = s.hbms := rfl
@[simp] theorem State.modRegs_ports (s : State) (g : GRef) (f : Regs → Regs) : (s.modRegs g f).ports = s.ports := rfl
@[simp] theorem State.modRegs_queues (s : State) (g : GRef) (f : Regs → Regs) : (s.modRegs g f).queues = s.queues := rfl
@[simp] theorem State.modRegs_vifs (s : State) (g : GRef) (f : Regs → Regs) : (s.modRegs g f).vifs = s.vifs := rfl
@[simp] theorem State.modRegs_walks (s : State) (g : GRef) (f : Regs → Regs) : (s.modRegs g f).walks = s.walks := rfl
@[simp] theorem State.modRegs_recs (s : State) (g : GRef) (f : Regs → Regs) : (s.modRegs g f).recs = s.recs := rfl
@[simp] theorem State.modRegs_invs (s : State) (g : GRef) (f : Regs → Regs) : (s.modRegs g f).invs = s.invs := rfl
@[simp] theorem State.modRegs_larder (s : State) (g : GRef) (f : Regs → Regs) : (s.modRegs g f).larder = s.larder := rfl
@[simp] theorem State.modRegs_larderSlots (s : State) (g : GRef) (f : Regs → Regs) : (s.modRegs g f).larderSlots = s.larderSlots := rfl
@[simp] theorem State.modRegs_engines (s : State) (g : GRef) (f : Regs → Regs) : (s.modRegs g f).engines = s.engines := rfl
@[simp] theorem State.modRegs_cmds (s : State) (g : GRef) (f : Regs → Regs) : (s.modRegs g f).cmds = s.cmds := rfl
@[simp] theorem State.modRegs_parts (s : State) (g : GRef) (f : Regs → Regs) : (s.modRegs g f).parts = s.parts := rfl
@[simp] theorem State.modRegs_kdoms (s : State) (g : GRef) (f : Regs → Regs) : (s.modRegs g f).kdoms = s.kdoms := rfl
@[simp] theorem State.modRegs_hearth (s : State) (g : GRef) (f : Regs → Regs) : (s.modRegs g f).hearth = s.hearth := rfl
@[simp] theorem State.modRegs_flash (s : State) (g : GRef) (f : Regs → Regs) : (s.modRegs g f).flash = s.flash := rfl
@[simp] theorem State.modRegs_mgroups (s : State) (g : GRef) (f : Regs → Regs) : (s.modRegs g f).mgroups = s.mgroups := rfl
@[simp] theorem State.modRegs_boostSlots (s : State) (g : GRef) (f : Regs → Regs) : (s.modRegs g f).boostSlots = s.boostSlots := rfl
@[simp] theorem State.modRegs_boostWaiting (s : State) (g : GRef) (f : Regs → Regs) : (s.modRegs g f).boostWaiting = s.boostWaiting := rfl
@[simp] theorem State.modRegs_boostGranted (s : State) (g : GRef) (f : Regs → Regs) : (s.modRegs g f).boostGranted = s.boostGranted := rfl
@[simp] theorem State.modRegs_drains (s : State) (g : GRef) (f : Regs → Regs) : (s.modRegs g f).drains = s.drains := rfl
@[simp] theorem State.modRegs_outq (s : State) (g : GRef) (f : Regs → Regs) : (s.modRegs g f).outq = s.outq := rfl
@[simp] theorem State.modRegs_fresh (s : State) (g : GRef) (f : Regs → Regs) : (s.modRegs g f).fresh = s.fresh := rfl
@[simp] theorem State.modRegs_nextId (s : State) (g : GRef) (f : Regs → Regs) : (s.modRegs g f).nextId = s.nextId := rfl
@[simp] theorem State.modRegs_cur (s : State) (g : GRef) (f : Regs → Regs) : (s.modRegs g f).cur = s.cur := rfl
@[simp] theorem State.modRegs_turn (s : State) (g : GRef) (f : Regs → Regs) : (s.modRegs g f).turn = s.turn := rfl
@[simp] theorem State.modRegs_sched (s : State) (g : GRef) (f : Regs → Regs) : (s.modRegs g f).sched = s.sched := rfl
@[simp] theorem State.modRegs_sram (s : State) (g : GRef) (f : Regs → Regs) : (s.modRegs g f).sram = s.sram := rfl
@[simp] theorem State.modRegs_inputs (s : State) (g : GRef) (f : Regs → Regs) : (s.modRegs g f).inputs = s.inputs := rfl
@[simp] theorem State.modRegs_pend (s : State) (g : GRef) (f : Regs → Regs) : (s.modRegs g f).pend = s.pend := rfl
@[simp] theorem State.modRegs_out (s : State) (g : GRef) (f : Regs → Regs) : (s.modRegs g f).out = s.out := rfl

/-! ## `State.modLaunch` -/

@[simp] theorem State.modLaunch_pkg (s : State) (k : Nat) (f : Launch → Launch) : (s.modLaunch k f).pkg = s.pkg := rfl
@[simp] theorem State.modLaunch_mem (s : State) (k : Nat) (f : Launch → Launch) : (s.modLaunch k f).mem = s.mem := rfl
@[simp] theorem State.modLaunch_sectors (s : State) (k : Nat) (f : Launch → Launch) : (s.modLaunch k f).sectors = s.sectors := rfl
@[simp] theorem State.modLaunch_l2 (s : State) (k : Nat) (f : Launch → Launch) : (s.modLaunch k f).l2 = s.l2 := rfl
@[simp] theorem State.modLaunch_drives (s : State) (k : Nat) (f : Launch → Launch) : (s.modLaunch k f).drives = s.drives := rfl
@[simp] theorem State.modLaunch_cohorts (s : State) (k : Nat) (f : Launch → Launch) : (s.modLaunch k f).cohorts = s.cohorts := rfl
@[simp] theorem State.modLaunch_frames (s : State) (k : Nat) (f : Launch → Launch) : (s.modLaunch k f).frames = s.frames := rfl
@[simp] theorem State.modLaunch_cores (s : State) (k : Nat) (f : Launch → Launch) : (s.modLaunch k f).cores = s.cores := rfl
@[simp] theorem State.modLaunch_clusters (s : State) (k : Nat) (f : Launch → Launch) : (s.modLaunch k f).clusters = s.clusters := rfl
@[simp] theorem State.modLaunch_dies (s : State) (k : Nat) (f : Launch → Launch) : (s.modLaunch k f).dies = s.dies := rfl
@[simp] theorem State.modLaunch_hbms (s : State) (k : Nat) (f : Launch → Launch) : (s.modLaunch k f).hbms = s.hbms := rfl
@[simp] theorem State.modLaunch_ports (s : State) (k : Nat) (f : Launch → Launch) : (s.modLaunch k f).ports = s.ports := rfl
@[simp] theorem State.modLaunch_queues (s : State) (k : Nat) (f : Launch → Launch) : (s.modLaunch k f).queues = s.queues := rfl
@[simp] theorem State.modLaunch_vifs (s : State) (k : Nat) (f : Launch → Launch) : (s.modLaunch k f).vifs = s.vifs := rfl
@[simp] theorem State.modLaunch_walks (s : State) (k : Nat) (f : Launch → Launch) : (s.modLaunch k f).walks = s.walks := rfl
@[simp] theorem State.modLaunch_recs (s : State) (k : Nat) (f : Launch → Launch) : (s.modLaunch k f).recs = s.recs := rfl
@[simp] theorem State.modLaunch_invs (s : State) (k : Nat) (f : Launch → Launch) : (s.modLaunch k f).invs = s.invs := rfl
@[simp] theorem State.modLaunch_larder (s : State) (k : Nat) (f : Launch → Launch) : (s.modLaunch k f).larder = s.larder := rfl
@[simp] theorem State.modLaunch_larderSlots (s : State) (k : Nat) (f : Launch → Launch) : (s.modLaunch k f).larderSlots = s.larderSlots := rfl
@[simp] theorem State.modLaunch_engines (s : State) (k : Nat) (f : Launch → Launch) : (s.modLaunch k f).engines = s.engines := rfl
@[simp] theorem State.modLaunch_cmds (s : State) (k : Nat) (f : Launch → Launch) : (s.modLaunch k f).cmds = s.cmds := rfl
@[simp] theorem State.modLaunch_parts (s : State) (k : Nat) (f : Launch → Launch) : (s.modLaunch k f).parts = s.parts := rfl
@[simp] theorem State.modLaunch_kdoms (s : State) (k : Nat) (f : Launch → Launch) : (s.modLaunch k f).kdoms = s.kdoms := rfl
@[simp] theorem State.modLaunch_hearth (s : State) (k : Nat) (f : Launch → Launch) : (s.modLaunch k f).hearth = s.hearth := rfl
@[simp] theorem State.modLaunch_flash (s : State) (k : Nat) (f : Launch → Launch) : (s.modLaunch k f).flash = s.flash := rfl
@[simp] theorem State.modLaunch_mgroups (s : State) (k : Nat) (f : Launch → Launch) : (s.modLaunch k f).mgroups = s.mgroups := rfl
@[simp] theorem State.modLaunch_boostSlots (s : State) (k : Nat) (f : Launch → Launch) : (s.modLaunch k f).boostSlots = s.boostSlots := rfl
@[simp] theorem State.modLaunch_boostWaiting (s : State) (k : Nat) (f : Launch → Launch) : (s.modLaunch k f).boostWaiting = s.boostWaiting := rfl
@[simp] theorem State.modLaunch_boostGranted (s : State) (k : Nat) (f : Launch → Launch) : (s.modLaunch k f).boostGranted = s.boostGranted := rfl
@[simp] theorem State.modLaunch_drains (s : State) (k : Nat) (f : Launch → Launch) : (s.modLaunch k f).drains = s.drains := rfl
@[simp] theorem State.modLaunch_outq (s : State) (k : Nat) (f : Launch → Launch) : (s.modLaunch k f).outq = s.outq := rfl
@[simp] theorem State.modLaunch_fresh (s : State) (k : Nat) (f : Launch → Launch) : (s.modLaunch k f).fresh = s.fresh := rfl
@[simp] theorem State.modLaunch_nextId (s : State) (k : Nat) (f : Launch → Launch) : (s.modLaunch k f).nextId = s.nextId := rfl
@[simp] theorem State.modLaunch_cur (s : State) (k : Nat) (f : Launch → Launch) : (s.modLaunch k f).cur = s.cur := rfl
@[simp] theorem State.modLaunch_turn (s : State) (k : Nat) (f : Launch → Launch) : (s.modLaunch k f).turn = s.turn := rfl
@[simp] theorem State.modLaunch_sched (s : State) (k : Nat) (f : Launch → Launch) : (s.modLaunch k f).sched = s.sched := rfl
@[simp] theorem State.modLaunch_sram (s : State) (k : Nat) (f : Launch → Launch) : (s.modLaunch k f).sram = s.sram := rfl
@[simp] theorem State.modLaunch_inputs (s : State) (k : Nat) (f : Launch → Launch) : (s.modLaunch k f).inputs = s.inputs := rfl
@[simp] theorem State.modLaunch_pend (s : State) (k : Nat) (f : Launch → Launch) : (s.modLaunch k f).pend = s.pend := rfl
@[simp] theorem State.modLaunch_out (s : State) (k : Nat) (f : Launch → Launch) : (s.modLaunch k f).out = s.out := rfl

/-! ## `State.modCore` -/

@[simp] theorem State.modCore_pkg (s : State) (k : Nat) (f : Core → Core) : (s.modCore k f).pkg = s.pkg := rfl
@[simp] theorem State.modCore_mem (s : State) (k : Nat) (f : Core → Core) : (s.modCore k f).mem = s.mem := rfl
@[simp] theorem State.modCore_sectors (s : State) (k : Nat) (f : Core → Core) : (s.modCore k f).sectors = s.sectors := rfl
@[simp] theorem State.modCore_l2 (s : State) (k : Nat) (f : Core → Core) : (s.modCore k f).l2 = s.l2 := rfl
@[simp] theorem State.modCore_drives (s : State) (k : Nat) (f : Core → Core) : (s.modCore k f).drives = s.drives := rfl
@[simp] theorem State.modCore_launches (s : State) (k : Nat) (f : Core → Core) : (s.modCore k f).launches = s.launches := rfl
@[simp] theorem State.modCore_cohorts (s : State) (k : Nat) (f : Core → Core) : (s.modCore k f).cohorts = s.cohorts := rfl
@[simp] theorem State.modCore_frames (s : State) (k : Nat) (f : Core → Core) : (s.modCore k f).frames = s.frames := rfl
@[simp] theorem State.modCore_clusters (s : State) (k : Nat) (f : Core → Core) : (s.modCore k f).clusters = s.clusters := rfl
@[simp] theorem State.modCore_dies (s : State) (k : Nat) (f : Core → Core) : (s.modCore k f).dies = s.dies := rfl
@[simp] theorem State.modCore_hbms (s : State) (k : Nat) (f : Core → Core) : (s.modCore k f).hbms = s.hbms := rfl
@[simp] theorem State.modCore_ports (s : State) (k : Nat) (f : Core → Core) : (s.modCore k f).ports = s.ports := rfl
@[simp] theorem State.modCore_queues (s : State) (k : Nat) (f : Core → Core) : (s.modCore k f).queues = s.queues := rfl
@[simp] theorem State.modCore_vifs (s : State) (k : Nat) (f : Core → Core) : (s.modCore k f).vifs = s.vifs := rfl
@[simp] theorem State.modCore_walks (s : State) (k : Nat) (f : Core → Core) : (s.modCore k f).walks = s.walks := rfl
@[simp] theorem State.modCore_recs (s : State) (k : Nat) (f : Core → Core) : (s.modCore k f).recs = s.recs := rfl
@[simp] theorem State.modCore_invs (s : State) (k : Nat) (f : Core → Core) : (s.modCore k f).invs = s.invs := rfl
@[simp] theorem State.modCore_larder (s : State) (k : Nat) (f : Core → Core) : (s.modCore k f).larder = s.larder := rfl
@[simp] theorem State.modCore_larderSlots (s : State) (k : Nat) (f : Core → Core) : (s.modCore k f).larderSlots = s.larderSlots := rfl
@[simp] theorem State.modCore_engines (s : State) (k : Nat) (f : Core → Core) : (s.modCore k f).engines = s.engines := rfl
@[simp] theorem State.modCore_cmds (s : State) (k : Nat) (f : Core → Core) : (s.modCore k f).cmds = s.cmds := rfl
@[simp] theorem State.modCore_parts (s : State) (k : Nat) (f : Core → Core) : (s.modCore k f).parts = s.parts := rfl
@[simp] theorem State.modCore_kdoms (s : State) (k : Nat) (f : Core → Core) : (s.modCore k f).kdoms = s.kdoms := rfl
@[simp] theorem State.modCore_hearth (s : State) (k : Nat) (f : Core → Core) : (s.modCore k f).hearth = s.hearth := rfl
@[simp] theorem State.modCore_flash (s : State) (k : Nat) (f : Core → Core) : (s.modCore k f).flash = s.flash := rfl
@[simp] theorem State.modCore_mgroups (s : State) (k : Nat) (f : Core → Core) : (s.modCore k f).mgroups = s.mgroups := rfl
@[simp] theorem State.modCore_boostSlots (s : State) (k : Nat) (f : Core → Core) : (s.modCore k f).boostSlots = s.boostSlots := rfl
@[simp] theorem State.modCore_boostWaiting (s : State) (k : Nat) (f : Core → Core) : (s.modCore k f).boostWaiting = s.boostWaiting := rfl
@[simp] theorem State.modCore_boostGranted (s : State) (k : Nat) (f : Core → Core) : (s.modCore k f).boostGranted = s.boostGranted := rfl
@[simp] theorem State.modCore_drains (s : State) (k : Nat) (f : Core → Core) : (s.modCore k f).drains = s.drains := rfl
@[simp] theorem State.modCore_outq (s : State) (k : Nat) (f : Core → Core) : (s.modCore k f).outq = s.outq := rfl
@[simp] theorem State.modCore_fresh (s : State) (k : Nat) (f : Core → Core) : (s.modCore k f).fresh = s.fresh := rfl
@[simp] theorem State.modCore_nextId (s : State) (k : Nat) (f : Core → Core) : (s.modCore k f).nextId = s.nextId := rfl
@[simp] theorem State.modCore_cur (s : State) (k : Nat) (f : Core → Core) : (s.modCore k f).cur = s.cur := rfl
@[simp] theorem State.modCore_turn (s : State) (k : Nat) (f : Core → Core) : (s.modCore k f).turn = s.turn := rfl
@[simp] theorem State.modCore_sched (s : State) (k : Nat) (f : Core → Core) : (s.modCore k f).sched = s.sched := rfl
@[simp] theorem State.modCore_sram (s : State) (k : Nat) (f : Core → Core) : (s.modCore k f).sram = s.sram := rfl
@[simp] theorem State.modCore_inputs (s : State) (k : Nat) (f : Core → Core) : (s.modCore k f).inputs = s.inputs := rfl
@[simp] theorem State.modCore_pend (s : State) (k : Nat) (f : Core → Core) : (s.modCore k f).pend = s.pend := rfl
@[simp] theorem State.modCore_out (s : State) (k : Nat) (f : Core → Core) : (s.modCore k f).out = s.out := rfl

/-! ## `State.modCluster` -/

@[simp] theorem State.modCluster_pkg (s : State) (k : Nat) (f : Cluster → Cluster) : (s.modCluster k f).pkg = s.pkg := rfl
@[simp] theorem State.modCluster_mem (s : State) (k : Nat) (f : Cluster → Cluster) : (s.modCluster k f).mem = s.mem := rfl
@[simp] theorem State.modCluster_sectors (s : State) (k : Nat) (f : Cluster → Cluster) : (s.modCluster k f).sectors = s.sectors := rfl
@[simp] theorem State.modCluster_l2 (s : State) (k : Nat) (f : Cluster → Cluster) : (s.modCluster k f).l2 = s.l2 := rfl
@[simp] theorem State.modCluster_drives (s : State) (k : Nat) (f : Cluster → Cluster) : (s.modCluster k f).drives = s.drives := rfl
@[simp] theorem State.modCluster_launches (s : State) (k : Nat) (f : Cluster → Cluster) : (s.modCluster k f).launches = s.launches := rfl
@[simp] theorem State.modCluster_cohorts (s : State) (k : Nat) (f : Cluster → Cluster) : (s.modCluster k f).cohorts = s.cohorts := rfl
@[simp] theorem State.modCluster_frames (s : State) (k : Nat) (f : Cluster → Cluster) : (s.modCluster k f).frames = s.frames := rfl
@[simp] theorem State.modCluster_cores (s : State) (k : Nat) (f : Cluster → Cluster) : (s.modCluster k f).cores = s.cores := rfl
@[simp] theorem State.modCluster_dies (s : State) (k : Nat) (f : Cluster → Cluster) : (s.modCluster k f).dies = s.dies := rfl
@[simp] theorem State.modCluster_hbms (s : State) (k : Nat) (f : Cluster → Cluster) : (s.modCluster k f).hbms = s.hbms := rfl
@[simp] theorem State.modCluster_ports (s : State) (k : Nat) (f : Cluster → Cluster) : (s.modCluster k f).ports = s.ports := rfl
@[simp] theorem State.modCluster_queues (s : State) (k : Nat) (f : Cluster → Cluster) : (s.modCluster k f).queues = s.queues := rfl
@[simp] theorem State.modCluster_vifs (s : State) (k : Nat) (f : Cluster → Cluster) : (s.modCluster k f).vifs = s.vifs := rfl
@[simp] theorem State.modCluster_walks (s : State) (k : Nat) (f : Cluster → Cluster) : (s.modCluster k f).walks = s.walks := rfl
@[simp] theorem State.modCluster_recs (s : State) (k : Nat) (f : Cluster → Cluster) : (s.modCluster k f).recs = s.recs := rfl
@[simp] theorem State.modCluster_invs (s : State) (k : Nat) (f : Cluster → Cluster) : (s.modCluster k f).invs = s.invs := rfl
@[simp] theorem State.modCluster_larder (s : State) (k : Nat) (f : Cluster → Cluster) : (s.modCluster k f).larder = s.larder := rfl
@[simp] theorem State.modCluster_larderSlots (s : State) (k : Nat) (f : Cluster → Cluster) : (s.modCluster k f).larderSlots = s.larderSlots := rfl
@[simp] theorem State.modCluster_engines (s : State) (k : Nat) (f : Cluster → Cluster) : (s.modCluster k f).engines = s.engines := rfl
@[simp] theorem State.modCluster_cmds (s : State) (k : Nat) (f : Cluster → Cluster) : (s.modCluster k f).cmds = s.cmds := rfl
@[simp] theorem State.modCluster_parts (s : State) (k : Nat) (f : Cluster → Cluster) : (s.modCluster k f).parts = s.parts := rfl
@[simp] theorem State.modCluster_kdoms (s : State) (k : Nat) (f : Cluster → Cluster) : (s.modCluster k f).kdoms = s.kdoms := rfl
@[simp] theorem State.modCluster_hearth (s : State) (k : Nat) (f : Cluster → Cluster) : (s.modCluster k f).hearth = s.hearth := rfl
@[simp] theorem State.modCluster_flash (s : State) (k : Nat) (f : Cluster → Cluster) : (s.modCluster k f).flash = s.flash := rfl
@[simp] theorem State.modCluster_mgroups (s : State) (k : Nat) (f : Cluster → Cluster) : (s.modCluster k f).mgroups = s.mgroups := rfl
@[simp] theorem State.modCluster_boostSlots (s : State) (k : Nat) (f : Cluster → Cluster) : (s.modCluster k f).boostSlots = s.boostSlots := rfl
@[simp] theorem State.modCluster_boostWaiting (s : State) (k : Nat) (f : Cluster → Cluster) : (s.modCluster k f).boostWaiting = s.boostWaiting := rfl
@[simp] theorem State.modCluster_boostGranted (s : State) (k : Nat) (f : Cluster → Cluster) : (s.modCluster k f).boostGranted = s.boostGranted := rfl
@[simp] theorem State.modCluster_drains (s : State) (k : Nat) (f : Cluster → Cluster) : (s.modCluster k f).drains = s.drains := rfl
@[simp] theorem State.modCluster_outq (s : State) (k : Nat) (f : Cluster → Cluster) : (s.modCluster k f).outq = s.outq := rfl
@[simp] theorem State.modCluster_fresh (s : State) (k : Nat) (f : Cluster → Cluster) : (s.modCluster k f).fresh = s.fresh := rfl
@[simp] theorem State.modCluster_nextId (s : State) (k : Nat) (f : Cluster → Cluster) : (s.modCluster k f).nextId = s.nextId := rfl
@[simp] theorem State.modCluster_cur (s : State) (k : Nat) (f : Cluster → Cluster) : (s.modCluster k f).cur = s.cur := rfl
@[simp] theorem State.modCluster_turn (s : State) (k : Nat) (f : Cluster → Cluster) : (s.modCluster k f).turn = s.turn := rfl
@[simp] theorem State.modCluster_sched (s : State) (k : Nat) (f : Cluster → Cluster) : (s.modCluster k f).sched = s.sched := rfl
@[simp] theorem State.modCluster_sram (s : State) (k : Nat) (f : Cluster → Cluster) : (s.modCluster k f).sram = s.sram := rfl
@[simp] theorem State.modCluster_inputs (s : State) (k : Nat) (f : Cluster → Cluster) : (s.modCluster k f).inputs = s.inputs := rfl
@[simp] theorem State.modCluster_pend (s : State) (k : Nat) (f : Cluster → Cluster) : (s.modCluster k f).pend = s.pend := rfl
@[simp] theorem State.modCluster_out (s : State) (k : Nat) (f : Cluster → Cluster) : (s.modCluster k f).out = s.out := rfl

/-! ## `State.modDie` -/

@[simp] theorem State.modDie_pkg (s : State) (k : Nat) (f : Die → Die) : (s.modDie k f).pkg = s.pkg := rfl
@[simp] theorem State.modDie_mem (s : State) (k : Nat) (f : Die → Die) : (s.modDie k f).mem = s.mem := rfl
@[simp] theorem State.modDie_sectors (s : State) (k : Nat) (f : Die → Die) : (s.modDie k f).sectors = s.sectors := rfl
@[simp] theorem State.modDie_l2 (s : State) (k : Nat) (f : Die → Die) : (s.modDie k f).l2 = s.l2 := rfl
@[simp] theorem State.modDie_drives (s : State) (k : Nat) (f : Die → Die) : (s.modDie k f).drives = s.drives := rfl
@[simp] theorem State.modDie_launches (s : State) (k : Nat) (f : Die → Die) : (s.modDie k f).launches = s.launches := rfl
@[simp] theorem State.modDie_cohorts (s : State) (k : Nat) (f : Die → Die) : (s.modDie k f).cohorts = s.cohorts := rfl
@[simp] theorem State.modDie_frames (s : State) (k : Nat) (f : Die → Die) : (s.modDie k f).frames = s.frames := rfl
@[simp] theorem State.modDie_cores (s : State) (k : Nat) (f : Die → Die) : (s.modDie k f).cores = s.cores := rfl
@[simp] theorem State.modDie_clusters (s : State) (k : Nat) (f : Die → Die) : (s.modDie k f).clusters = s.clusters := rfl
@[simp] theorem State.modDie_hbms (s : State) (k : Nat) (f : Die → Die) : (s.modDie k f).hbms = s.hbms := rfl
@[simp] theorem State.modDie_ports (s : State) (k : Nat) (f : Die → Die) : (s.modDie k f).ports = s.ports := rfl
@[simp] theorem State.modDie_queues (s : State) (k : Nat) (f : Die → Die) : (s.modDie k f).queues = s.queues := rfl
@[simp] theorem State.modDie_vifs (s : State) (k : Nat) (f : Die → Die) : (s.modDie k f).vifs = s.vifs := rfl
@[simp] theorem State.modDie_walks (s : State) (k : Nat) (f : Die → Die) : (s.modDie k f).walks = s.walks := rfl
@[simp] theorem State.modDie_recs (s : State) (k : Nat) (f : Die → Die) : (s.modDie k f).recs = s.recs := rfl
@[simp] theorem State.modDie_invs (s : State) (k : Nat) (f : Die → Die) : (s.modDie k f).invs = s.invs := rfl
@[simp] theorem State.modDie_larder (s : State) (k : Nat) (f : Die → Die) : (s.modDie k f).larder = s.larder := rfl
@[simp] theorem State.modDie_larderSlots (s : State) (k : Nat) (f : Die → Die) : (s.modDie k f).larderSlots = s.larderSlots := rfl
@[simp] theorem State.modDie_engines (s : State) (k : Nat) (f : Die → Die) : (s.modDie k f).engines = s.engines := rfl
@[simp] theorem State.modDie_cmds (s : State) (k : Nat) (f : Die → Die) : (s.modDie k f).cmds = s.cmds := rfl
@[simp] theorem State.modDie_parts (s : State) (k : Nat) (f : Die → Die) : (s.modDie k f).parts = s.parts := rfl
@[simp] theorem State.modDie_kdoms (s : State) (k : Nat) (f : Die → Die) : (s.modDie k f).kdoms = s.kdoms := rfl
@[simp] theorem State.modDie_hearth (s : State) (k : Nat) (f : Die → Die) : (s.modDie k f).hearth = s.hearth := rfl
@[simp] theorem State.modDie_flash (s : State) (k : Nat) (f : Die → Die) : (s.modDie k f).flash = s.flash := rfl
@[simp] theorem State.modDie_mgroups (s : State) (k : Nat) (f : Die → Die) : (s.modDie k f).mgroups = s.mgroups := rfl
@[simp] theorem State.modDie_boostSlots (s : State) (k : Nat) (f : Die → Die) : (s.modDie k f).boostSlots = s.boostSlots := rfl
@[simp] theorem State.modDie_boostWaiting (s : State) (k : Nat) (f : Die → Die) : (s.modDie k f).boostWaiting = s.boostWaiting := rfl
@[simp] theorem State.modDie_boostGranted (s : State) (k : Nat) (f : Die → Die) : (s.modDie k f).boostGranted = s.boostGranted := rfl
@[simp] theorem State.modDie_drains (s : State) (k : Nat) (f : Die → Die) : (s.modDie k f).drains = s.drains := rfl
@[simp] theorem State.modDie_outq (s : State) (k : Nat) (f : Die → Die) : (s.modDie k f).outq = s.outq := rfl
@[simp] theorem State.modDie_fresh (s : State) (k : Nat) (f : Die → Die) : (s.modDie k f).fresh = s.fresh := rfl
@[simp] theorem State.modDie_nextId (s : State) (k : Nat) (f : Die → Die) : (s.modDie k f).nextId = s.nextId := rfl
@[simp] theorem State.modDie_cur (s : State) (k : Nat) (f : Die → Die) : (s.modDie k f).cur = s.cur := rfl
@[simp] theorem State.modDie_turn (s : State) (k : Nat) (f : Die → Die) : (s.modDie k f).turn = s.turn := rfl
@[simp] theorem State.modDie_sched (s : State) (k : Nat) (f : Die → Die) : (s.modDie k f).sched = s.sched := rfl
@[simp] theorem State.modDie_sram (s : State) (k : Nat) (f : Die → Die) : (s.modDie k f).sram = s.sram := rfl
@[simp] theorem State.modDie_inputs (s : State) (k : Nat) (f : Die → Die) : (s.modDie k f).inputs = s.inputs := rfl
@[simp] theorem State.modDie_pend (s : State) (k : Nat) (f : Die → Die) : (s.modDie k f).pend = s.pend := rfl
@[simp] theorem State.modDie_out (s : State) (k : Nat) (f : Die → Die) : (s.modDie k f).out = s.out := rfl

/-! ## `State.modQueue` -/

@[simp] theorem State.modQueue_pkg (s : State) (k : Nat) (f : Queue → Queue) : (s.modQueue k f).pkg = s.pkg := rfl
@[simp] theorem State.modQueue_mem (s : State) (k : Nat) (f : Queue → Queue) : (s.modQueue k f).mem = s.mem := rfl
@[simp] theorem State.modQueue_sectors (s : State) (k : Nat) (f : Queue → Queue) : (s.modQueue k f).sectors = s.sectors := rfl
@[simp] theorem State.modQueue_l2 (s : State) (k : Nat) (f : Queue → Queue) : (s.modQueue k f).l2 = s.l2 := rfl
@[simp] theorem State.modQueue_drives (s : State) (k : Nat) (f : Queue → Queue) : (s.modQueue k f).drives = s.drives := rfl
@[simp] theorem State.modQueue_launches (s : State) (k : Nat) (f : Queue → Queue) : (s.modQueue k f).launches = s.launches := rfl
@[simp] theorem State.modQueue_cohorts (s : State) (k : Nat) (f : Queue → Queue) : (s.modQueue k f).cohorts = s.cohorts := rfl
@[simp] theorem State.modQueue_frames (s : State) (k : Nat) (f : Queue → Queue) : (s.modQueue k f).frames = s.frames := rfl
@[simp] theorem State.modQueue_cores (s : State) (k : Nat) (f : Queue → Queue) : (s.modQueue k f).cores = s.cores := rfl
@[simp] theorem State.modQueue_clusters (s : State) (k : Nat) (f : Queue → Queue) : (s.modQueue k f).clusters = s.clusters := rfl
@[simp] theorem State.modQueue_dies (s : State) (k : Nat) (f : Queue → Queue) : (s.modQueue k f).dies = s.dies := rfl
@[simp] theorem State.modQueue_hbms (s : State) (k : Nat) (f : Queue → Queue) : (s.modQueue k f).hbms = s.hbms := rfl
@[simp] theorem State.modQueue_ports (s : State) (k : Nat) (f : Queue → Queue) : (s.modQueue k f).ports = s.ports := rfl
@[simp] theorem State.modQueue_vifs (s : State) (k : Nat) (f : Queue → Queue) : (s.modQueue k f).vifs = s.vifs := rfl
@[simp] theorem State.modQueue_walks (s : State) (k : Nat) (f : Queue → Queue) : (s.modQueue k f).walks = s.walks := rfl
@[simp] theorem State.modQueue_recs (s : State) (k : Nat) (f : Queue → Queue) : (s.modQueue k f).recs = s.recs := rfl
@[simp] theorem State.modQueue_invs (s : State) (k : Nat) (f : Queue → Queue) : (s.modQueue k f).invs = s.invs := rfl
@[simp] theorem State.modQueue_larder (s : State) (k : Nat) (f : Queue → Queue) : (s.modQueue k f).larder = s.larder := rfl
@[simp] theorem State.modQueue_larderSlots (s : State) (k : Nat) (f : Queue → Queue) : (s.modQueue k f).larderSlots = s.larderSlots := rfl
@[simp] theorem State.modQueue_engines (s : State) (k : Nat) (f : Queue → Queue) : (s.modQueue k f).engines = s.engines := rfl
@[simp] theorem State.modQueue_cmds (s : State) (k : Nat) (f : Queue → Queue) : (s.modQueue k f).cmds = s.cmds := rfl
@[simp] theorem State.modQueue_parts (s : State) (k : Nat) (f : Queue → Queue) : (s.modQueue k f).parts = s.parts := rfl
@[simp] theorem State.modQueue_kdoms (s : State) (k : Nat) (f : Queue → Queue) : (s.modQueue k f).kdoms = s.kdoms := rfl
@[simp] theorem State.modQueue_hearth (s : State) (k : Nat) (f : Queue → Queue) : (s.modQueue k f).hearth = s.hearth := rfl
@[simp] theorem State.modQueue_flash (s : State) (k : Nat) (f : Queue → Queue) : (s.modQueue k f).flash = s.flash := rfl
@[simp] theorem State.modQueue_mgroups (s : State) (k : Nat) (f : Queue → Queue) : (s.modQueue k f).mgroups = s.mgroups := rfl
@[simp] theorem State.modQueue_boostSlots (s : State) (k : Nat) (f : Queue → Queue) : (s.modQueue k f).boostSlots = s.boostSlots := rfl
@[simp] theorem State.modQueue_boostWaiting (s : State) (k : Nat) (f : Queue → Queue) : (s.modQueue k f).boostWaiting = s.boostWaiting := rfl
@[simp] theorem State.modQueue_boostGranted (s : State) (k : Nat) (f : Queue → Queue) : (s.modQueue k f).boostGranted = s.boostGranted := rfl
@[simp] theorem State.modQueue_drains (s : State) (k : Nat) (f : Queue → Queue) : (s.modQueue k f).drains = s.drains := rfl
@[simp] theorem State.modQueue_outq (s : State) (k : Nat) (f : Queue → Queue) : (s.modQueue k f).outq = s.outq := rfl
@[simp] theorem State.modQueue_fresh (s : State) (k : Nat) (f : Queue → Queue) : (s.modQueue k f).fresh = s.fresh := rfl
@[simp] theorem State.modQueue_nextId (s : State) (k : Nat) (f : Queue → Queue) : (s.modQueue k f).nextId = s.nextId := rfl
@[simp] theorem State.modQueue_cur (s : State) (k : Nat) (f : Queue → Queue) : (s.modQueue k f).cur = s.cur := rfl
@[simp] theorem State.modQueue_turn (s : State) (k : Nat) (f : Queue → Queue) : (s.modQueue k f).turn = s.turn := rfl
@[simp] theorem State.modQueue_sched (s : State) (k : Nat) (f : Queue → Queue) : (s.modQueue k f).sched = s.sched := rfl
@[simp] theorem State.modQueue_sram (s : State) (k : Nat) (f : Queue → Queue) : (s.modQueue k f).sram = s.sram := rfl
@[simp] theorem State.modQueue_inputs (s : State) (k : Nat) (f : Queue → Queue) : (s.modQueue k f).inputs = s.inputs := rfl
@[simp] theorem State.modQueue_pend (s : State) (k : Nat) (f : Queue → Queue) : (s.modQueue k f).pend = s.pend := rfl
@[simp] theorem State.modQueue_out (s : State) (k : Nat) (f : Queue → Queue) : (s.modQueue k f).out = s.out := rfl

/-! ## `State.modVif` -/

@[simp] theorem State.modVif_pkg (s : State) (k : Nat) (f : Vif → Vif) : (s.modVif k f).pkg = s.pkg := rfl
@[simp] theorem State.modVif_mem (s : State) (k : Nat) (f : Vif → Vif) : (s.modVif k f).mem = s.mem := rfl
@[simp] theorem State.modVif_sectors (s : State) (k : Nat) (f : Vif → Vif) : (s.modVif k f).sectors = s.sectors := rfl
@[simp] theorem State.modVif_l2 (s : State) (k : Nat) (f : Vif → Vif) : (s.modVif k f).l2 = s.l2 := rfl
@[simp] theorem State.modVif_drives (s : State) (k : Nat) (f : Vif → Vif) : (s.modVif k f).drives = s.drives := rfl
@[simp] theorem State.modVif_launches (s : State) (k : Nat) (f : Vif → Vif) : (s.modVif k f).launches = s.launches := rfl
@[simp] theorem State.modVif_cohorts (s : State) (k : Nat) (f : Vif → Vif) : (s.modVif k f).cohorts = s.cohorts := rfl
@[simp] theorem State.modVif_frames (s : State) (k : Nat) (f : Vif → Vif) : (s.modVif k f).frames = s.frames := rfl
@[simp] theorem State.modVif_cores (s : State) (k : Nat) (f : Vif → Vif) : (s.modVif k f).cores = s.cores := rfl
@[simp] theorem State.modVif_clusters (s : State) (k : Nat) (f : Vif → Vif) : (s.modVif k f).clusters = s.clusters := rfl
@[simp] theorem State.modVif_dies (s : State) (k : Nat) (f : Vif → Vif) : (s.modVif k f).dies = s.dies := rfl
@[simp] theorem State.modVif_hbms (s : State) (k : Nat) (f : Vif → Vif) : (s.modVif k f).hbms = s.hbms := rfl
@[simp] theorem State.modVif_ports (s : State) (k : Nat) (f : Vif → Vif) : (s.modVif k f).ports = s.ports := rfl
@[simp] theorem State.modVif_queues (s : State) (k : Nat) (f : Vif → Vif) : (s.modVif k f).queues = s.queues := rfl
@[simp] theorem State.modVif_walks (s : State) (k : Nat) (f : Vif → Vif) : (s.modVif k f).walks = s.walks := rfl
@[simp] theorem State.modVif_recs (s : State) (k : Nat) (f : Vif → Vif) : (s.modVif k f).recs = s.recs := rfl
@[simp] theorem State.modVif_invs (s : State) (k : Nat) (f : Vif → Vif) : (s.modVif k f).invs = s.invs := rfl
@[simp] theorem State.modVif_larder (s : State) (k : Nat) (f : Vif → Vif) : (s.modVif k f).larder = s.larder := rfl
@[simp] theorem State.modVif_larderSlots (s : State) (k : Nat) (f : Vif → Vif) : (s.modVif k f).larderSlots = s.larderSlots := rfl
@[simp] theorem State.modVif_engines (s : State) (k : Nat) (f : Vif → Vif) : (s.modVif k f).engines = s.engines := rfl
@[simp] theorem State.modVif_cmds (s : State) (k : Nat) (f : Vif → Vif) : (s.modVif k f).cmds = s.cmds := rfl
@[simp] theorem State.modVif_parts (s : State) (k : Nat) (f : Vif → Vif) : (s.modVif k f).parts = s.parts := rfl
@[simp] theorem State.modVif_kdoms (s : State) (k : Nat) (f : Vif → Vif) : (s.modVif k f).kdoms = s.kdoms := rfl
@[simp] theorem State.modVif_hearth (s : State) (k : Nat) (f : Vif → Vif) : (s.modVif k f).hearth = s.hearth := rfl
@[simp] theorem State.modVif_flash (s : State) (k : Nat) (f : Vif → Vif) : (s.modVif k f).flash = s.flash := rfl
@[simp] theorem State.modVif_mgroups (s : State) (k : Nat) (f : Vif → Vif) : (s.modVif k f).mgroups = s.mgroups := rfl
@[simp] theorem State.modVif_boostSlots (s : State) (k : Nat) (f : Vif → Vif) : (s.modVif k f).boostSlots = s.boostSlots := rfl
@[simp] theorem State.modVif_boostWaiting (s : State) (k : Nat) (f : Vif → Vif) : (s.modVif k f).boostWaiting = s.boostWaiting := rfl
@[simp] theorem State.modVif_boostGranted (s : State) (k : Nat) (f : Vif → Vif) : (s.modVif k f).boostGranted = s.boostGranted := rfl
@[simp] theorem State.modVif_drains (s : State) (k : Nat) (f : Vif → Vif) : (s.modVif k f).drains = s.drains := rfl
@[simp] theorem State.modVif_outq (s : State) (k : Nat) (f : Vif → Vif) : (s.modVif k f).outq = s.outq := rfl
@[simp] theorem State.modVif_fresh (s : State) (k : Nat) (f : Vif → Vif) : (s.modVif k f).fresh = s.fresh := rfl
@[simp] theorem State.modVif_nextId (s : State) (k : Nat) (f : Vif → Vif) : (s.modVif k f).nextId = s.nextId := rfl
@[simp] theorem State.modVif_cur (s : State) (k : Nat) (f : Vif → Vif) : (s.modVif k f).cur = s.cur := rfl
@[simp] theorem State.modVif_turn (s : State) (k : Nat) (f : Vif → Vif) : (s.modVif k f).turn = s.turn := rfl
@[simp] theorem State.modVif_sched (s : State) (k : Nat) (f : Vif → Vif) : (s.modVif k f).sched = s.sched := rfl
@[simp] theorem State.modVif_sram (s : State) (k : Nat) (f : Vif → Vif) : (s.modVif k f).sram = s.sram := rfl
@[simp] theorem State.modVif_inputs (s : State) (k : Nat) (f : Vif → Vif) : (s.modVif k f).inputs = s.inputs := rfl
@[simp] theorem State.modVif_pend (s : State) (k : Nat) (f : Vif → Vif) : (s.modVif k f).pend = s.pend := rfl
@[simp] theorem State.modVif_out (s : State) (k : Nat) (f : Vif → Vif) : (s.modVif k f).out = s.out := rfl

/-! ## `State.modPart` -/

@[simp] theorem State.modPart_pkg (s : State) (k : Nat) (f : Partition → Partition) : (s.modPart k f).pkg = s.pkg := rfl
@[simp] theorem State.modPart_mem (s : State) (k : Nat) (f : Partition → Partition) : (s.modPart k f).mem = s.mem := rfl
@[simp] theorem State.modPart_sectors (s : State) (k : Nat) (f : Partition → Partition) : (s.modPart k f).sectors = s.sectors := rfl
@[simp] theorem State.modPart_l2 (s : State) (k : Nat) (f : Partition → Partition) : (s.modPart k f).l2 = s.l2 := rfl
@[simp] theorem State.modPart_drives (s : State) (k : Nat) (f : Partition → Partition) : (s.modPart k f).drives = s.drives := rfl
@[simp] theorem State.modPart_launches (s : State) (k : Nat) (f : Partition → Partition) : (s.modPart k f).launches = s.launches := rfl
@[simp] theorem State.modPart_cohorts (s : State) (k : Nat) (f : Partition → Partition) : (s.modPart k f).cohorts = s.cohorts := rfl
@[simp] theorem State.modPart_frames (s : State) (k : Nat) (f : Partition → Partition) : (s.modPart k f).frames = s.frames := rfl
@[simp] theorem State.modPart_cores (s : State) (k : Nat) (f : Partition → Partition) : (s.modPart k f).cores = s.cores := rfl
@[simp] theorem State.modPart_clusters (s : State) (k : Nat) (f : Partition → Partition) : (s.modPart k f).clusters = s.clusters := rfl
@[simp] theorem State.modPart_dies (s : State) (k : Nat) (f : Partition → Partition) : (s.modPart k f).dies = s.dies := rfl
@[simp] theorem State.modPart_hbms (s : State) (k : Nat) (f : Partition → Partition) : (s.modPart k f).hbms = s.hbms := rfl
@[simp] theorem State.modPart_ports (s : State) (k : Nat) (f : Partition → Partition) : (s.modPart k f).ports = s.ports := rfl
@[simp] theorem State.modPart_queues (s : State) (k : Nat) (f : Partition → Partition) : (s.modPart k f).queues = s.queues := rfl
@[simp] theorem State.modPart_vifs (s : State) (k : Nat) (f : Partition → Partition) : (s.modPart k f).vifs = s.vifs := rfl
@[simp] theorem State.modPart_walks (s : State) (k : Nat) (f : Partition → Partition) : (s.modPart k f).walks = s.walks := rfl
@[simp] theorem State.modPart_recs (s : State) (k : Nat) (f : Partition → Partition) : (s.modPart k f).recs = s.recs := rfl
@[simp] theorem State.modPart_invs (s : State) (k : Nat) (f : Partition → Partition) : (s.modPart k f).invs = s.invs := rfl
@[simp] theorem State.modPart_larder (s : State) (k : Nat) (f : Partition → Partition) : (s.modPart k f).larder = s.larder := rfl
@[simp] theorem State.modPart_larderSlots (s : State) (k : Nat) (f : Partition → Partition) : (s.modPart k f).larderSlots = s.larderSlots := rfl
@[simp] theorem State.modPart_engines (s : State) (k : Nat) (f : Partition → Partition) : (s.modPart k f).engines = s.engines := rfl
@[simp] theorem State.modPart_cmds (s : State) (k : Nat) (f : Partition → Partition) : (s.modPart k f).cmds = s.cmds := rfl
@[simp] theorem State.modPart_kdoms (s : State) (k : Nat) (f : Partition → Partition) : (s.modPart k f).kdoms = s.kdoms := rfl
@[simp] theorem State.modPart_hearth (s : State) (k : Nat) (f : Partition → Partition) : (s.modPart k f).hearth = s.hearth := rfl
@[simp] theorem State.modPart_flash (s : State) (k : Nat) (f : Partition → Partition) : (s.modPart k f).flash = s.flash := rfl
@[simp] theorem State.modPart_mgroups (s : State) (k : Nat) (f : Partition → Partition) : (s.modPart k f).mgroups = s.mgroups := rfl
@[simp] theorem State.modPart_boostSlots (s : State) (k : Nat) (f : Partition → Partition) : (s.modPart k f).boostSlots = s.boostSlots := rfl
@[simp] theorem State.modPart_boostWaiting (s : State) (k : Nat) (f : Partition → Partition) : (s.modPart k f).boostWaiting = s.boostWaiting := rfl
@[simp] theorem State.modPart_boostGranted (s : State) (k : Nat) (f : Partition → Partition) : (s.modPart k f).boostGranted = s.boostGranted := rfl
@[simp] theorem State.modPart_drains (s : State) (k : Nat) (f : Partition → Partition) : (s.modPart k f).drains = s.drains := rfl
@[simp] theorem State.modPart_outq (s : State) (k : Nat) (f : Partition → Partition) : (s.modPart k f).outq = s.outq := rfl
@[simp] theorem State.modPart_fresh (s : State) (k : Nat) (f : Partition → Partition) : (s.modPart k f).fresh = s.fresh := rfl
@[simp] theorem State.modPart_nextId (s : State) (k : Nat) (f : Partition → Partition) : (s.modPart k f).nextId = s.nextId := rfl
@[simp] theorem State.modPart_cur (s : State) (k : Nat) (f : Partition → Partition) : (s.modPart k f).cur = s.cur := rfl
@[simp] theorem State.modPart_turn (s : State) (k : Nat) (f : Partition → Partition) : (s.modPart k f).turn = s.turn := rfl
@[simp] theorem State.modPart_sched (s : State) (k : Nat) (f : Partition → Partition) : (s.modPart k f).sched = s.sched := rfl
@[simp] theorem State.modPart_sram (s : State) (k : Nat) (f : Partition → Partition) : (s.modPart k f).sram = s.sram := rfl
@[simp] theorem State.modPart_inputs (s : State) (k : Nat) (f : Partition → Partition) : (s.modPart k f).inputs = s.inputs := rfl
@[simp] theorem State.modPart_pend (s : State) (k : Nat) (f : Partition → Partition) : (s.modPart k f).pend = s.pend := rfl
@[simp] theorem State.modPart_out (s : State) (k : Nat) (f : Partition → Partition) : (s.modPart k f).out = s.out := rfl

/-! ## `State.modCmd` -/

@[simp] theorem State.modCmd_pkg (s : State) (k : Nat) (f : Cmd → Cmd) : (s.modCmd k f).pkg = s.pkg := rfl
@[simp] theorem State.modCmd_mem (s : State) (k : Nat) (f : Cmd → Cmd) : (s.modCmd k f).mem = s.mem := rfl
@[simp] theorem State.modCmd_sectors (s : State) (k : Nat) (f : Cmd → Cmd) : (s.modCmd k f).sectors = s.sectors := rfl
@[simp] theorem State.modCmd_l2 (s : State) (k : Nat) (f : Cmd → Cmd) : (s.modCmd k f).l2 = s.l2 := rfl
@[simp] theorem State.modCmd_drives (s : State) (k : Nat) (f : Cmd → Cmd) : (s.modCmd k f).drives = s.drives := rfl
@[simp] theorem State.modCmd_launches (s : State) (k : Nat) (f : Cmd → Cmd) : (s.modCmd k f).launches = s.launches := rfl
@[simp] theorem State.modCmd_cohorts (s : State) (k : Nat) (f : Cmd → Cmd) : (s.modCmd k f).cohorts = s.cohorts := rfl
@[simp] theorem State.modCmd_frames (s : State) (k : Nat) (f : Cmd → Cmd) : (s.modCmd k f).frames = s.frames := rfl
@[simp] theorem State.modCmd_cores (s : State) (k : Nat) (f : Cmd → Cmd) : (s.modCmd k f).cores = s.cores := rfl
@[simp] theorem State.modCmd_clusters (s : State) (k : Nat) (f : Cmd → Cmd) : (s.modCmd k f).clusters = s.clusters := rfl
@[simp] theorem State.modCmd_dies (s : State) (k : Nat) (f : Cmd → Cmd) : (s.modCmd k f).dies = s.dies := rfl
@[simp] theorem State.modCmd_hbms (s : State) (k : Nat) (f : Cmd → Cmd) : (s.modCmd k f).hbms = s.hbms := rfl
@[simp] theorem State.modCmd_ports (s : State) (k : Nat) (f : Cmd → Cmd) : (s.modCmd k f).ports = s.ports := rfl
@[simp] theorem State.modCmd_queues (s : State) (k : Nat) (f : Cmd → Cmd) : (s.modCmd k f).queues = s.queues := rfl
@[simp] theorem State.modCmd_vifs (s : State) (k : Nat) (f : Cmd → Cmd) : (s.modCmd k f).vifs = s.vifs := rfl
@[simp] theorem State.modCmd_walks (s : State) (k : Nat) (f : Cmd → Cmd) : (s.modCmd k f).walks = s.walks := rfl
@[simp] theorem State.modCmd_recs (s : State) (k : Nat) (f : Cmd → Cmd) : (s.modCmd k f).recs = s.recs := rfl
@[simp] theorem State.modCmd_invs (s : State) (k : Nat) (f : Cmd → Cmd) : (s.modCmd k f).invs = s.invs := rfl
@[simp] theorem State.modCmd_larder (s : State) (k : Nat) (f : Cmd → Cmd) : (s.modCmd k f).larder = s.larder := rfl
@[simp] theorem State.modCmd_larderSlots (s : State) (k : Nat) (f : Cmd → Cmd) : (s.modCmd k f).larderSlots = s.larderSlots := rfl
@[simp] theorem State.modCmd_engines (s : State) (k : Nat) (f : Cmd → Cmd) : (s.modCmd k f).engines = s.engines := rfl
@[simp] theorem State.modCmd_parts (s : State) (k : Nat) (f : Cmd → Cmd) : (s.modCmd k f).parts = s.parts := rfl
@[simp] theorem State.modCmd_kdoms (s : State) (k : Nat) (f : Cmd → Cmd) : (s.modCmd k f).kdoms = s.kdoms := rfl
@[simp] theorem State.modCmd_hearth (s : State) (k : Nat) (f : Cmd → Cmd) : (s.modCmd k f).hearth = s.hearth := rfl
@[simp] theorem State.modCmd_flash (s : State) (k : Nat) (f : Cmd → Cmd) : (s.modCmd k f).flash = s.flash := rfl
@[simp] theorem State.modCmd_mgroups (s : State) (k : Nat) (f : Cmd → Cmd) : (s.modCmd k f).mgroups = s.mgroups := rfl
@[simp] theorem State.modCmd_boostSlots (s : State) (k : Nat) (f : Cmd → Cmd) : (s.modCmd k f).boostSlots = s.boostSlots := rfl
@[simp] theorem State.modCmd_boostWaiting (s : State) (k : Nat) (f : Cmd → Cmd) : (s.modCmd k f).boostWaiting = s.boostWaiting := rfl
@[simp] theorem State.modCmd_boostGranted (s : State) (k : Nat) (f : Cmd → Cmd) : (s.modCmd k f).boostGranted = s.boostGranted := rfl
@[simp] theorem State.modCmd_drains (s : State) (k : Nat) (f : Cmd → Cmd) : (s.modCmd k f).drains = s.drains := rfl
@[simp] theorem State.modCmd_outq (s : State) (k : Nat) (f : Cmd → Cmd) : (s.modCmd k f).outq = s.outq := rfl
@[simp] theorem State.modCmd_fresh (s : State) (k : Nat) (f : Cmd → Cmd) : (s.modCmd k f).fresh = s.fresh := rfl
@[simp] theorem State.modCmd_nextId (s : State) (k : Nat) (f : Cmd → Cmd) : (s.modCmd k f).nextId = s.nextId := rfl
@[simp] theorem State.modCmd_cur (s : State) (k : Nat) (f : Cmd → Cmd) : (s.modCmd k f).cur = s.cur := rfl
@[simp] theorem State.modCmd_turn (s : State) (k : Nat) (f : Cmd → Cmd) : (s.modCmd k f).turn = s.turn := rfl
@[simp] theorem State.modCmd_sched (s : State) (k : Nat) (f : Cmd → Cmd) : (s.modCmd k f).sched = s.sched := rfl
@[simp] theorem State.modCmd_sram (s : State) (k : Nat) (f : Cmd → Cmd) : (s.modCmd k f).sram = s.sram := rfl
@[simp] theorem State.modCmd_inputs (s : State) (k : Nat) (f : Cmd → Cmd) : (s.modCmd k f).inputs = s.inputs := rfl
@[simp] theorem State.modCmd_pend (s : State) (k : Nat) (f : Cmd → Cmd) : (s.modCmd k f).pend = s.pend := rfl
@[simp] theorem State.modCmd_out (s : State) (k : Nat) (f : Cmd → Cmd) : (s.modCmd k f).out = s.out := rfl

/-! ## `State.modMGroup` -/

@[simp] theorem State.modMGroup_pkg (s : State) (k : Nat) (f : MGroup → MGroup) : (s.modMGroup k f).pkg = s.pkg := rfl
@[simp] theorem State.modMGroup_mem (s : State) (k : Nat) (f : MGroup → MGroup) : (s.modMGroup k f).mem = s.mem := rfl
@[simp] theorem State.modMGroup_sectors (s : State) (k : Nat) (f : MGroup → MGroup) : (s.modMGroup k f).sectors = s.sectors := rfl
@[simp] theorem State.modMGroup_l2 (s : State) (k : Nat) (f : MGroup → MGroup) : (s.modMGroup k f).l2 = s.l2 := rfl
@[simp] theorem State.modMGroup_drives (s : State) (k : Nat) (f : MGroup → MGroup) : (s.modMGroup k f).drives = s.drives := rfl
@[simp] theorem State.modMGroup_launches (s : State) (k : Nat) (f : MGroup → MGroup) : (s.modMGroup k f).launches = s.launches := rfl
@[simp] theorem State.modMGroup_cohorts (s : State) (k : Nat) (f : MGroup → MGroup) : (s.modMGroup k f).cohorts = s.cohorts := rfl
@[simp] theorem State.modMGroup_frames (s : State) (k : Nat) (f : MGroup → MGroup) : (s.modMGroup k f).frames = s.frames := rfl
@[simp] theorem State.modMGroup_cores (s : State) (k : Nat) (f : MGroup → MGroup) : (s.modMGroup k f).cores = s.cores := rfl
@[simp] theorem State.modMGroup_clusters (s : State) (k : Nat) (f : MGroup → MGroup) : (s.modMGroup k f).clusters = s.clusters := rfl
@[simp] theorem State.modMGroup_dies (s : State) (k : Nat) (f : MGroup → MGroup) : (s.modMGroup k f).dies = s.dies := rfl
@[simp] theorem State.modMGroup_hbms (s : State) (k : Nat) (f : MGroup → MGroup) : (s.modMGroup k f).hbms = s.hbms := rfl
@[simp] theorem State.modMGroup_ports (s : State) (k : Nat) (f : MGroup → MGroup) : (s.modMGroup k f).ports = s.ports := rfl
@[simp] theorem State.modMGroup_queues (s : State) (k : Nat) (f : MGroup → MGroup) : (s.modMGroup k f).queues = s.queues := rfl
@[simp] theorem State.modMGroup_vifs (s : State) (k : Nat) (f : MGroup → MGroup) : (s.modMGroup k f).vifs = s.vifs := rfl
@[simp] theorem State.modMGroup_walks (s : State) (k : Nat) (f : MGroup → MGroup) : (s.modMGroup k f).walks = s.walks := rfl
@[simp] theorem State.modMGroup_recs (s : State) (k : Nat) (f : MGroup → MGroup) : (s.modMGroup k f).recs = s.recs := rfl
@[simp] theorem State.modMGroup_invs (s : State) (k : Nat) (f : MGroup → MGroup) : (s.modMGroup k f).invs = s.invs := rfl
@[simp] theorem State.modMGroup_larder (s : State) (k : Nat) (f : MGroup → MGroup) : (s.modMGroup k f).larder = s.larder := rfl
@[simp] theorem State.modMGroup_larderSlots (s : State) (k : Nat) (f : MGroup → MGroup) : (s.modMGroup k f).larderSlots = s.larderSlots := rfl
@[simp] theorem State.modMGroup_engines (s : State) (k : Nat) (f : MGroup → MGroup) : (s.modMGroup k f).engines = s.engines := rfl
@[simp] theorem State.modMGroup_cmds (s : State) (k : Nat) (f : MGroup → MGroup) : (s.modMGroup k f).cmds = s.cmds := rfl
@[simp] theorem State.modMGroup_parts (s : State) (k : Nat) (f : MGroup → MGroup) : (s.modMGroup k f).parts = s.parts := rfl
@[simp] theorem State.modMGroup_kdoms (s : State) (k : Nat) (f : MGroup → MGroup) : (s.modMGroup k f).kdoms = s.kdoms := rfl
@[simp] theorem State.modMGroup_hearth (s : State) (k : Nat) (f : MGroup → MGroup) : (s.modMGroup k f).hearth = s.hearth := rfl
@[simp] theorem State.modMGroup_flash (s : State) (k : Nat) (f : MGroup → MGroup) : (s.modMGroup k f).flash = s.flash := rfl
@[simp] theorem State.modMGroup_boostSlots (s : State) (k : Nat) (f : MGroup → MGroup) : (s.modMGroup k f).boostSlots = s.boostSlots := rfl
@[simp] theorem State.modMGroup_boostWaiting (s : State) (k : Nat) (f : MGroup → MGroup) : (s.modMGroup k f).boostWaiting = s.boostWaiting := rfl
@[simp] theorem State.modMGroup_boostGranted (s : State) (k : Nat) (f : MGroup → MGroup) : (s.modMGroup k f).boostGranted = s.boostGranted := rfl
@[simp] theorem State.modMGroup_drains (s : State) (k : Nat) (f : MGroup → MGroup) : (s.modMGroup k f).drains = s.drains := rfl
@[simp] theorem State.modMGroup_outq (s : State) (k : Nat) (f : MGroup → MGroup) : (s.modMGroup k f).outq = s.outq := rfl
@[simp] theorem State.modMGroup_fresh (s : State) (k : Nat) (f : MGroup → MGroup) : (s.modMGroup k f).fresh = s.fresh := rfl
@[simp] theorem State.modMGroup_nextId (s : State) (k : Nat) (f : MGroup → MGroup) : (s.modMGroup k f).nextId = s.nextId := rfl
@[simp] theorem State.modMGroup_cur (s : State) (k : Nat) (f : MGroup → MGroup) : (s.modMGroup k f).cur = s.cur := rfl
@[simp] theorem State.modMGroup_turn (s : State) (k : Nat) (f : MGroup → MGroup) : (s.modMGroup k f).turn = s.turn := rfl
@[simp] theorem State.modMGroup_sched (s : State) (k : Nat) (f : MGroup → MGroup) : (s.modMGroup k f).sched = s.sched := rfl
@[simp] theorem State.modMGroup_sram (s : State) (k : Nat) (f : MGroup → MGroup) : (s.modMGroup k f).sram = s.sram := rfl
@[simp] theorem State.modMGroup_inputs (s : State) (k : Nat) (f : MGroup → MGroup) : (s.modMGroup k f).inputs = s.inputs := rfl
@[simp] theorem State.modMGroup_pend (s : State) (k : Nat) (f : MGroup → MGroup) : (s.modMGroup k f).pend = s.pend := rfl
@[simp] theorem State.modMGroup_out (s : State) (k : Nat) (f : MGroup → MGroup) : (s.modMGroup k f).out = s.out := rfl

/-! ## `State.send` -/

@[simp] theorem State.send_pkg (s : State) (m : Message) : (s.send m).pkg = s.pkg := rfl
@[simp] theorem State.send_mem (s : State) (m : Message) : (s.send m).mem = s.mem := rfl
@[simp] theorem State.send_sectors (s : State) (m : Message) : (s.send m).sectors = s.sectors := rfl
@[simp] theorem State.send_l2 (s : State) (m : Message) : (s.send m).l2 = s.l2 := rfl
@[simp] theorem State.send_drives (s : State) (m : Message) : (s.send m).drives = s.drives := rfl
@[simp] theorem State.send_launches (s : State) (m : Message) : (s.send m).launches = s.launches := rfl
@[simp] theorem State.send_cohorts (s : State) (m : Message) : (s.send m).cohorts = s.cohorts := rfl
@[simp] theorem State.send_frames (s : State) (m : Message) : (s.send m).frames = s.frames := rfl
@[simp] theorem State.send_cores (s : State) (m : Message) : (s.send m).cores = s.cores := rfl
@[simp] theorem State.send_clusters (s : State) (m : Message) : (s.send m).clusters = s.clusters := rfl
@[simp] theorem State.send_dies (s : State) (m : Message) : (s.send m).dies = s.dies := rfl
@[simp] theorem State.send_hbms (s : State) (m : Message) : (s.send m).hbms = s.hbms := rfl
@[simp] theorem State.send_ports (s : State) (m : Message) : (s.send m).ports = s.ports := rfl
@[simp] theorem State.send_queues (s : State) (m : Message) : (s.send m).queues = s.queues := rfl
@[simp] theorem State.send_vifs (s : State) (m : Message) : (s.send m).vifs = s.vifs := rfl
@[simp] theorem State.send_walks (s : State) (m : Message) : (s.send m).walks = s.walks := rfl
@[simp] theorem State.send_recs (s : State) (m : Message) : (s.send m).recs = s.recs := rfl
@[simp] theorem State.send_invs (s : State) (m : Message) : (s.send m).invs = s.invs := rfl
@[simp] theorem State.send_larder (s : State) (m : Message) : (s.send m).larder = s.larder := rfl
@[simp] theorem State.send_larderSlots (s : State) (m : Message) : (s.send m).larderSlots = s.larderSlots := rfl
@[simp] theorem State.send_engines (s : State) (m : Message) : (s.send m).engines = s.engines := rfl
@[simp] theorem State.send_cmds (s : State) (m : Message) : (s.send m).cmds = s.cmds := rfl
@[simp] theorem State.send_parts (s : State) (m : Message) : (s.send m).parts = s.parts := rfl
@[simp] theorem State.send_kdoms (s : State) (m : Message) : (s.send m).kdoms = s.kdoms := rfl
@[simp] theorem State.send_hearth (s : State) (m : Message) : (s.send m).hearth = s.hearth := rfl
@[simp] theorem State.send_flash (s : State) (m : Message) : (s.send m).flash = s.flash := rfl
@[simp] theorem State.send_mgroups (s : State) (m : Message) : (s.send m).mgroups = s.mgroups := rfl
@[simp] theorem State.send_boostSlots (s : State) (m : Message) : (s.send m).boostSlots = s.boostSlots := rfl
@[simp] theorem State.send_boostWaiting (s : State) (m : Message) : (s.send m).boostWaiting = s.boostWaiting := rfl
@[simp] theorem State.send_boostGranted (s : State) (m : Message) : (s.send m).boostGranted = s.boostGranted := rfl
@[simp] theorem State.send_drains (s : State) (m : Message) : (s.send m).drains = s.drains := rfl
@[simp] theorem State.send_outq (s : State) (m : Message) : (s.send m).outq = s.outq := rfl
@[simp] theorem State.send_fresh (s : State) (m : Message) : (s.send m).fresh = s.fresh := rfl
@[simp] theorem State.send_nextId (s : State) (m : Message) : (s.send m).nextId = s.nextId := rfl
@[simp] theorem State.send_cur (s : State) (m : Message) : (s.send m).cur = s.cur := rfl
@[simp] theorem State.send_turn (s : State) (m : Message) : (s.send m).turn = s.turn := rfl
@[simp] theorem State.send_sched (s : State) (m : Message) : (s.send m).sched = s.sched := rfl
@[simp] theorem State.send_sram (s : State) (m : Message) : (s.send m).sram = s.sram := rfl
@[simp] theorem State.send_inputs (s : State) (m : Message) : (s.send m).inputs = s.inputs := rfl
@[simp] theorem State.send_pend (s : State) (m : Message) : (s.send m).pend = s.pend := rfl

/-! ## `State.tick` -/

@[simp] theorem State.tick_pkg (s : State) : (s.tick).pkg = s.pkg := rfl
@[simp] theorem State.tick_mem (s : State) : (s.tick).mem = s.mem := rfl
@[simp] theorem State.tick_sectors (s : State) : (s.tick).sectors = s.sectors := rfl
@[simp] theorem State.tick_l2 (s : State) : (s.tick).l2 = s.l2 := rfl
@[simp] theorem State.tick_drives (s : State) : (s.tick).drives = s.drives := rfl
@[simp] theorem State.tick_launches (s : State) : (s.tick).launches = s.launches := rfl
@[simp] theorem State.tick_cohorts (s : State) : (s.tick).cohorts = s.cohorts := rfl
@[simp] theorem State.tick_frames (s : State) : (s.tick).frames = s.frames := rfl
@[simp] theorem State.tick_cores (s : State) : (s.tick).cores = s.cores := rfl
@[simp] theorem State.tick_clusters (s : State) : (s.tick).clusters = s.clusters := rfl
@[simp] theorem State.tick_dies (s : State) : (s.tick).dies = s.dies := rfl
@[simp] theorem State.tick_hbms (s : State) : (s.tick).hbms = s.hbms := rfl
@[simp] theorem State.tick_ports (s : State) : (s.tick).ports = s.ports := rfl
@[simp] theorem State.tick_queues (s : State) : (s.tick).queues = s.queues := rfl
@[simp] theorem State.tick_vifs (s : State) : (s.tick).vifs = s.vifs := rfl
@[simp] theorem State.tick_walks (s : State) : (s.tick).walks = s.walks := rfl
@[simp] theorem State.tick_recs (s : State) : (s.tick).recs = s.recs := rfl
@[simp] theorem State.tick_invs (s : State) : (s.tick).invs = s.invs := rfl
@[simp] theorem State.tick_larder (s : State) : (s.tick).larder = s.larder := rfl
@[simp] theorem State.tick_larderSlots (s : State) : (s.tick).larderSlots = s.larderSlots := rfl
@[simp] theorem State.tick_engines (s : State) : (s.tick).engines = s.engines := rfl
@[simp] theorem State.tick_cmds (s : State) : (s.tick).cmds = s.cmds := rfl
@[simp] theorem State.tick_parts (s : State) : (s.tick).parts = s.parts := rfl
@[simp] theorem State.tick_kdoms (s : State) : (s.tick).kdoms = s.kdoms := rfl
@[simp] theorem State.tick_hearth (s : State) : (s.tick).hearth = s.hearth := rfl
@[simp] theorem State.tick_flash (s : State) : (s.tick).flash = s.flash := rfl
@[simp] theorem State.tick_mgroups (s : State) : (s.tick).mgroups = s.mgroups := rfl
@[simp] theorem State.tick_boostSlots (s : State) : (s.tick).boostSlots = s.boostSlots := rfl
@[simp] theorem State.tick_boostWaiting (s : State) : (s.tick).boostWaiting = s.boostWaiting := rfl
@[simp] theorem State.tick_boostGranted (s : State) : (s.tick).boostGranted = s.boostGranted := rfl
@[simp] theorem State.tick_drains (s : State) : (s.tick).drains = s.drains := rfl
@[simp] theorem State.tick_outq (s : State) : (s.tick).outq = s.outq := rfl
@[simp] theorem State.tick_nextId (s : State) : (s.tick).nextId = s.nextId := rfl
@[simp] theorem State.tick_cur (s : State) : (s.tick).cur = s.cur := rfl
@[simp] theorem State.tick_turn (s : State) : (s.tick).turn = s.turn := rfl
@[simp] theorem State.tick_sched (s : State) : (s.tick).sched = s.sched := rfl
@[simp] theorem State.tick_sram (s : State) : (s.tick).sram = s.sram := rfl
@[simp] theorem State.tick_inputs (s : State) : (s.tick).inputs = s.inputs := rfl
@[simp] theorem State.tick_pend (s : State) : (s.tick).pend = s.pend := rfl
@[simp] theorem State.tick_out (s : State) : (s.tick).out = s.out := rfl

/-! ## `State.post` -/

@[simp] theorem State.post_pkg (s : State) (i : Instr) : (s.post i).pkg = s.pkg := by unfold State.post; split <;> rfl
@[simp] theorem State.post_mem (s : State) (i : Instr) : (s.post i).mem = s.mem := by unfold State.post; split <;> rfl
@[simp] theorem State.post_sectors (s : State) (i : Instr) : (s.post i).sectors = s.sectors := by unfold State.post; split <;> rfl
@[simp] theorem State.post_l2 (s : State) (i : Instr) : (s.post i).l2 = s.l2 := by unfold State.post; split <;> rfl
@[simp] theorem State.post_drives (s : State) (i : Instr) : (s.post i).drives = s.drives := by unfold State.post; split <;> rfl
@[simp] theorem State.post_launches (s : State) (i : Instr) : (s.post i).launches = s.launches := by unfold State.post; split <;> rfl
@[simp] theorem State.post_cohorts (s : State) (i : Instr) : (s.post i).cohorts = s.cohorts := by unfold State.post; split <;> rfl
@[simp] theorem State.post_frames (s : State) (i : Instr) : (s.post i).frames = s.frames := by unfold State.post; split <;> rfl
@[simp] theorem State.post_cores (s : State) (i : Instr) : (s.post i).cores = s.cores := by unfold State.post; split <;> rfl
@[simp] theorem State.post_clusters (s : State) (i : Instr) : (s.post i).clusters = s.clusters := by unfold State.post; split <;> rfl
@[simp] theorem State.post_dies (s : State) (i : Instr) : (s.post i).dies = s.dies := by unfold State.post; split <;> rfl
@[simp] theorem State.post_hbms (s : State) (i : Instr) : (s.post i).hbms = s.hbms := by unfold State.post; split <;> rfl
@[simp] theorem State.post_ports (s : State) (i : Instr) : (s.post i).ports = s.ports := by unfold State.post; split <;> rfl
@[simp] theorem State.post_queues (s : State) (i : Instr) : (s.post i).queues = s.queues := by unfold State.post; split <;> rfl
@[simp] theorem State.post_vifs (s : State) (i : Instr) : (s.post i).vifs = s.vifs := by unfold State.post; split <;> rfl
@[simp] theorem State.post_walks (s : State) (i : Instr) : (s.post i).walks = s.walks := by unfold State.post; split <;> rfl
@[simp] theorem State.post_recs (s : State) (i : Instr) : (s.post i).recs = s.recs := by unfold State.post; split <;> rfl
@[simp] theorem State.post_invs (s : State) (i : Instr) : (s.post i).invs = s.invs := by unfold State.post; split <;> rfl
@[simp] theorem State.post_larder (s : State) (i : Instr) : (s.post i).larder = s.larder := by unfold State.post; split <;> rfl
@[simp] theorem State.post_larderSlots (s : State) (i : Instr) : (s.post i).larderSlots = s.larderSlots := by unfold State.post; split <;> rfl
@[simp] theorem State.post_engines (s : State) (i : Instr) : (s.post i).engines = s.engines := by unfold State.post; split <;> rfl
@[simp] theorem State.post_cmds (s : State) (i : Instr) : (s.post i).cmds = s.cmds := by unfold State.post; split <;> rfl
@[simp] theorem State.post_parts (s : State) (i : Instr) : (s.post i).parts = s.parts := by unfold State.post; split <;> rfl
@[simp] theorem State.post_kdoms (s : State) (i : Instr) : (s.post i).kdoms = s.kdoms := by unfold State.post; split <;> rfl
@[simp] theorem State.post_hearth (s : State) (i : Instr) : (s.post i).hearth = s.hearth := by unfold State.post; split <;> rfl
@[simp] theorem State.post_flash (s : State) (i : Instr) : (s.post i).flash = s.flash := by unfold State.post; split <;> rfl
@[simp] theorem State.post_mgroups (s : State) (i : Instr) : (s.post i).mgroups = s.mgroups := by unfold State.post; split <;> rfl
@[simp] theorem State.post_boostSlots (s : State) (i : Instr) : (s.post i).boostSlots = s.boostSlots := by unfold State.post; split <;> rfl
@[simp] theorem State.post_boostWaiting (s : State) (i : Instr) : (s.post i).boostWaiting = s.boostWaiting := by unfold State.post; split <;> rfl
@[simp] theorem State.post_boostGranted (s : State) (i : Instr) : (s.post i).boostGranted = s.boostGranted := by unfold State.post; split <;> rfl
@[simp] theorem State.post_drains (s : State) (i : Instr) : (s.post i).drains = s.drains := by unfold State.post; split <;> rfl
@[simp] theorem State.post_outq (s : State) (i : Instr) : (s.post i).outq = s.outq := by unfold State.post; split <;> rfl
@[simp] theorem State.post_fresh (s : State) (i : Instr) : (s.post i).fresh = s.fresh := by unfold State.post; split <;> rfl
@[simp] theorem State.post_nextId (s : State) (i : Instr) : (s.post i).nextId = s.nextId := by unfold State.post; split <;> rfl
@[simp] theorem State.post_cur (s : State) (i : Instr) : (s.post i).cur = s.cur := by unfold State.post; split <;> rfl
@[simp] theorem State.post_turn (s : State) (i : Instr) : (s.post i).turn = s.turn := by unfold State.post; split <;> rfl
@[simp] theorem State.post_sched (s : State) (i : Instr) : (s.post i).sched = s.sched := by unfold State.post; split <;> rfl
@[simp] theorem State.post_sram (s : State) (i : Instr) : (s.post i).sram = s.sram := by unfold State.post; split <;> rfl
@[simp] theorem State.post_inputs (s : State) (i : Instr) : (s.post i).inputs = s.inputs := by unfold State.post; split <;> rfl
@[simp] theorem State.post_out (s : State) (i : Instr) : (s.post i).out = s.out := by unfold State.post; split <;> rfl

/-! ## `Regs.note` -/

@[simp] theorem Regs.note_lanes (r : Regs) (k : Nat) : (r.note k).lanes = r.lanes := by
  unfold Regs.note; repeat' split
  all_goals rfl
@[simp] theorem Regs.note_v (r : Regs) (k : Nat) : (r.note k).v = r.v := by
  unfold Regs.note; repeat' split
  all_goals rfl
@[simp] theorem Regs.note_w (r : Regs) (k : Nat) : (r.note k).w = r.w := by
  unfold Regs.note; repeat' split
  all_goals rfl
@[simp] theorem Regs.note_ev (r : Regs) (k : Nat) : (r.note k).ev = r.ev := by
  unfold Regs.note; repeat' split
  all_goals rfl
@[simp] theorem Regs.note_ew (r : Regs) (k : Nat) : (r.note k).ew = r.ew := by
  unfold Regs.note; repeat' split
  all_goals rfl
@[simp] theorem Regs.note_live (r : Regs) (k : Nat) : (r.note k).live = r.live := by
  unfold Regs.note; repeat' split
  all_goals rfl
@[simp] theorem Regs.note_fpcr (r : Regs) (k : Nat) : (r.note k).fpcr = r.fpcr := by
  unfold Regs.note; repeat' split
  all_goals rfl
@[simp] theorem Regs.note_fpsr (r : Regs) (k : Nat) : (r.note k).fpsr = r.fpsr := by
  unfold Regs.note; repeat' split
  all_goals rfl
@[simp] theorem Regs.note_mfr (r : Regs) (k : Nat) : (r.note k).mfr = r.mfr := by
  unfold Regs.note; repeat' split
  all_goals rfl
@[simp] theorem Regs.note_tcause (r : Regs) (k : Nat) : (r.note k).tcause = r.tcause := by
  unfold Regs.note; repeat' split
  all_goals rfl
@[simp] theorem Regs.note_tskid (r : Regs) (k : Nat) : (r.note k).tskid = r.tskid := by
  unfold Regs.note; repeat' split
  all_goals rfl
@[simp] theorem Regs.note_tpc (r : Regs) (k : Nat) : (r.note k).tpc = r.tpc := by
  unfold Regs.note; repeat' split
  all_goals rfl
@[simp] theorem Regs.note_taddr (r : Regs) (k : Nat) : (r.note k).taddr = r.taddr := by
  unfold Regs.note; repeat' split
  all_goals rfl
@[simp] theorem Regs.note_tvec (r : Regs) (k : Nat) : (r.note k).tvec = r.tvec := by
  unfold Regs.note; repeat' split
  all_goals rfl
@[simp] theorem Regs.note_rpc (r : Regs) (k : Nat) : (r.note k).rpc = r.rpc := by
  unfold Regs.note; repeat' split
  all_goals rfl
@[simp] theorem Regs.note_racc (r : Regs) (k : Nat) : (r.note k).racc = r.racc := by
  unfold Regs.note; repeat' split
  all_goals rfl
@[simp] theorem Regs.note_regMask (r : Regs) (k : Nat) : (r.note k).regMask = r.regMask := by
  unfold Regs.note; repeat' split
  all_goals rfl
@[simp] theorem Regs.note_entryMask (r : Regs) (k : Nat) : (r.note k).entryMask = r.entryMask := by
  unfold Regs.note; repeat' split
  all_goals rfl
@[simp] theorem Regs.note_inReg (r : Regs) (k : Nat) : (r.note k).inReg = r.inReg := by
  unfold Regs.note; repeat' split
  all_goals rfl
@[simp] theorem Regs.note_inTrap (r : Regs) (k : Nat) : (r.note k).inTrap = r.inTrap := by
  unfold Regs.note; repeat' split
  all_goals rfl
@[simp] theorem Regs.note_handler (r : Regs) (k : Nat) : (r.note k).handler = r.handler := by
  unfold Regs.note; repeat' split
  all_goals rfl
@[simp] theorem Regs.note_retted (r : Regs) (k : Nat) : (r.note k).retted = r.retted := by
  unfold Regs.note; repeat' split
  all_goals rfl
@[simp] theorem Regs.note_xheld (r : Regs) (k : Nat) : (r.note k).xheld = r.xheld := by
  unfold Regs.note; repeat' split
  all_goals rfl
@[simp] theorem Regs.note_xlast (r : Regs) (k : Nat) : (r.note k).xlast = r.xlast := by
  unfold Regs.note; repeat' split
  all_goals rfl
@[simp] theorem Regs.note_desc (r : Regs) (k : Nat) : (r.note k).desc = r.desc := by
  unfold Regs.note; repeat' split
  all_goals rfl
@[simp] theorem Regs.note_acc (r : Regs) (k : Nat) : (r.note k).acc = r.acc := by
  unfold Regs.note; repeat' split
  all_goals rfl
@[simp] theorem Regs.note_shadow (r : Regs) (k : Nat) : (r.note k).shadow = r.shadow := by
  unfold Regs.note; repeat' split
  all_goals rfl
@[simp] theorem Regs.note_grant (r : Regs) (k : Nat) : (r.note k).grant = r.grant := by
  unfold Regs.note; repeat' split
  all_goals rfl
@[simp] theorem Regs.note_wait (r : Regs) (k : Nat) : (r.note k).wait = r.wait := by
  unfold Regs.note; repeat' split
  all_goals rfl
@[simp] theorem Regs.note_outer (r : Regs) (k : Nat) : (r.note k).outer = r.outer := by
  unfold Regs.note; repeat' split
  all_goals rfl
@[simp] theorem Regs.note_held20 (r : Regs) (k : Nat) : (r.note k).held20 = r.held20 := by
  unfold Regs.note; repeat' split
  all_goals rfl
@[simp] theorem Regs.note_held38 (r : Regs) (k : Nat) : (r.note k).held38 = r.held38 := by
  unfold Regs.note; repeat' split
  all_goals rfl

/-! ## `Regs.write` -/

@[simp] theorem Regs.write_lanes (r : Regs) (n l : Nat) (x : Word) : (r.write n l x).lanes = r.lanes := by
  unfold Regs.write Regs.note; repeat' split
  all_goals rfl
@[simp] theorem Regs.write_ev (r : Regs) (n l : Nat) (x : Word) : (r.write n l x).ev = r.ev := by
  unfold Regs.write Regs.note; repeat' split
  all_goals rfl
@[simp] theorem Regs.write_ew (r : Regs) (n l : Nat) (x : Word) : (r.write n l x).ew = r.ew := by
  unfold Regs.write Regs.note; repeat' split
  all_goals rfl
@[simp] theorem Regs.write_live (r : Regs) (n l : Nat) (x : Word) : (r.write n l x).live = r.live := by
  unfold Regs.write Regs.note; repeat' split
  all_goals rfl
@[simp] theorem Regs.write_fpcr (r : Regs) (n l : Nat) (x : Word) : (r.write n l x).fpcr = r.fpcr := by
  unfold Regs.write Regs.note; repeat' split
  all_goals rfl
@[simp] theorem Regs.write_fpsr (r : Regs) (n l : Nat) (x : Word) : (r.write n l x).fpsr = r.fpsr := by
  unfold Regs.write Regs.note; repeat' split
  all_goals rfl
@[simp] theorem Regs.write_mfr (r : Regs) (n l : Nat) (x : Word) : (r.write n l x).mfr = r.mfr := by
  unfold Regs.write Regs.note; repeat' split
  all_goals rfl
@[simp] theorem Regs.write_tcause (r : Regs) (n l : Nat) (x : Word) : (r.write n l x).tcause = r.tcause := by
  unfold Regs.write Regs.note; repeat' split
  all_goals rfl
@[simp] theorem Regs.write_tskid (r : Regs) (n l : Nat) (x : Word) : (r.write n l x).tskid = r.tskid := by
  unfold Regs.write Regs.note; repeat' split
  all_goals rfl
@[simp] theorem Regs.write_tpc (r : Regs) (n l : Nat) (x : Word) : (r.write n l x).tpc = r.tpc := by
  unfold Regs.write Regs.note; repeat' split
  all_goals rfl
@[simp] theorem Regs.write_taddr (r : Regs) (n l : Nat) (x : Word) : (r.write n l x).taddr = r.taddr := by
  unfold Regs.write Regs.note; repeat' split
  all_goals rfl
@[simp] theorem Regs.write_tvec (r : Regs) (n l : Nat) (x : Word) : (r.write n l x).tvec = r.tvec := by
  unfold Regs.write Regs.note; repeat' split
  all_goals rfl
@[simp] theorem Regs.write_rpc (r : Regs) (n l : Nat) (x : Word) : (r.write n l x).rpc = r.rpc := by
  unfold Regs.write Regs.note; repeat' split
  all_goals rfl
@[simp] theorem Regs.write_racc (r : Regs) (n l : Nat) (x : Word) : (r.write n l x).racc = r.racc := by
  unfold Regs.write Regs.note; repeat' split
  all_goals rfl
@[simp] theorem Regs.write_regMask (r : Regs) (n l : Nat) (x : Word) : (r.write n l x).regMask = r.regMask := by
  unfold Regs.write Regs.note; repeat' split
  all_goals rfl
@[simp] theorem Regs.write_entryMask (r : Regs) (n l : Nat) (x : Word) : (r.write n l x).entryMask = r.entryMask := by
  unfold Regs.write Regs.note; repeat' split
  all_goals rfl
@[simp] theorem Regs.write_inReg (r : Regs) (n l : Nat) (x : Word) : (r.write n l x).inReg = r.inReg := by
  unfold Regs.write Regs.note; repeat' split
  all_goals rfl
@[simp] theorem Regs.write_inTrap (r : Regs) (n l : Nat) (x : Word) : (r.write n l x).inTrap = r.inTrap := by
  unfold Regs.write Regs.note; repeat' split
  all_goals rfl
@[simp] theorem Regs.write_handler (r : Regs) (n l : Nat) (x : Word) : (r.write n l x).handler = r.handler := by
  unfold Regs.write Regs.note; repeat' split
  all_goals rfl
@[simp] theorem Regs.write_retted (r : Regs) (n l : Nat) (x : Word) : (r.write n l x).retted = r.retted := by
  unfold Regs.write Regs.note; repeat' split
  all_goals rfl
@[simp] theorem Regs.write_xheld (r : Regs) (n l : Nat) (x : Word) : (r.write n l x).xheld = r.xheld := by
  unfold Regs.write Regs.note; repeat' split
  all_goals rfl
@[simp] theorem Regs.write_xlast (r : Regs) (n l : Nat) (x : Word) : (r.write n l x).xlast = r.xlast := by
  unfold Regs.write Regs.note; repeat' split
  all_goals rfl
@[simp] theorem Regs.write_desc (r : Regs) (n l : Nat) (x : Word) : (r.write n l x).desc = r.desc := by
  unfold Regs.write Regs.note; repeat' split
  all_goals rfl
@[simp] theorem Regs.write_acc (r : Regs) (n l : Nat) (x : Word) : (r.write n l x).acc = r.acc := by
  unfold Regs.write Regs.note; repeat' split
  all_goals rfl
@[simp] theorem Regs.write_shadow (r : Regs) (n l : Nat) (x : Word) : (r.write n l x).shadow = r.shadow := by
  unfold Regs.write Regs.note; repeat' split
  all_goals rfl
@[simp] theorem Regs.write_grant (r : Regs) (n l : Nat) (x : Word) : (r.write n l x).grant = r.grant := by
  unfold Regs.write Regs.note; repeat' split
  all_goals rfl
@[simp] theorem Regs.write_wait (r : Regs) (n l : Nat) (x : Word) : (r.write n l x).wait = r.wait := by
  unfold Regs.write Regs.note; repeat' split
  all_goals rfl
@[simp] theorem Regs.write_outer (r : Regs) (n l : Nat) (x : Word) : (r.write n l x).outer = r.outer := by
  unfold Regs.write Regs.note; repeat' split
  all_goals rfl
@[simp] theorem Regs.write_held20 (r : Regs) (n l : Nat) (x : Word) : (r.write n l x).held20 = r.held20 := by
  unfold Regs.write Regs.note; repeat' split
  all_goals rfl
@[simp] theorem Regs.write_held38 (r : Regs) (n l : Nat) (x : Word) : (r.write n l x).held38 = r.held38 := by
  unfold Regs.write Regs.note; repeat' split
  all_goals rfl

/-! ## `Regs.setEmpty` -/

@[simp] theorem Regs.setEmpty_lanes (r : Regs) (n : Nat) (m : Mask) (e : Bool) : (r.setEmpty n m e).lanes = r.lanes := by
  unfold Regs.setEmpty; repeat' split
  all_goals rfl
@[simp] theorem Regs.setEmpty_v (r : Regs) (n : Nat) (m : Mask) (e : Bool) : (r.setEmpty n m e).v = r.v := by
  unfold Regs.setEmpty; repeat' split
  all_goals rfl
@[simp] theorem Regs.setEmpty_w (r : Regs) (n : Nat) (m : Mask) (e : Bool) : (r.setEmpty n m e).w = r.w := by
  unfold Regs.setEmpty; repeat' split
  all_goals rfl
@[simp] theorem Regs.setEmpty_live (r : Regs) (n : Nat) (m : Mask) (e : Bool) : (r.setEmpty n m e).live = r.live := by
  unfold Regs.setEmpty; repeat' split
  all_goals rfl
@[simp] theorem Regs.setEmpty_fpcr (r : Regs) (n : Nat) (m : Mask) (e : Bool) : (r.setEmpty n m e).fpcr = r.fpcr := by
  unfold Regs.setEmpty; repeat' split
  all_goals rfl
@[simp] theorem Regs.setEmpty_fpsr (r : Regs) (n : Nat) (m : Mask) (e : Bool) : (r.setEmpty n m e).fpsr = r.fpsr := by
  unfold Regs.setEmpty; repeat' split
  all_goals rfl
@[simp] theorem Regs.setEmpty_mfr (r : Regs) (n : Nat) (m : Mask) (e : Bool) : (r.setEmpty n m e).mfr = r.mfr := by
  unfold Regs.setEmpty; repeat' split
  all_goals rfl
@[simp] theorem Regs.setEmpty_tcause (r : Regs) (n : Nat) (m : Mask) (e : Bool) : (r.setEmpty n m e).tcause = r.tcause := by
  unfold Regs.setEmpty; repeat' split
  all_goals rfl
@[simp] theorem Regs.setEmpty_tskid (r : Regs) (n : Nat) (m : Mask) (e : Bool) : (r.setEmpty n m e).tskid = r.tskid := by
  unfold Regs.setEmpty; repeat' split
  all_goals rfl
@[simp] theorem Regs.setEmpty_tpc (r : Regs) (n : Nat) (m : Mask) (e : Bool) : (r.setEmpty n m e).tpc = r.tpc := by
  unfold Regs.setEmpty; repeat' split
  all_goals rfl
@[simp] theorem Regs.setEmpty_taddr (r : Regs) (n : Nat) (m : Mask) (e : Bool) : (r.setEmpty n m e).taddr = r.taddr := by
  unfold Regs.setEmpty; repeat' split
  all_goals rfl
@[simp] theorem Regs.setEmpty_tvec (r : Regs) (n : Nat) (m : Mask) (e : Bool) : (r.setEmpty n m e).tvec = r.tvec := by
  unfold Regs.setEmpty; repeat' split
  all_goals rfl
@[simp] theorem Regs.setEmpty_rpc (r : Regs) (n : Nat) (m : Mask) (e : Bool) : (r.setEmpty n m e).rpc = r.rpc := by
  unfold Regs.setEmpty; repeat' split
  all_goals rfl
@[simp] theorem Regs.setEmpty_racc (r : Regs) (n : Nat) (m : Mask) (e : Bool) : (r.setEmpty n m e).racc = r.racc := by
  unfold Regs.setEmpty; repeat' split
  all_goals rfl
@[simp] theorem Regs.setEmpty_regMask (r : Regs) (n : Nat) (m : Mask) (e : Bool) : (r.setEmpty n m e).regMask = r.regMask := by
  unfold Regs.setEmpty; repeat' split
  all_goals rfl
@[simp] theorem Regs.setEmpty_entryMask (r : Regs) (n : Nat) (m : Mask) (e : Bool) : (r.setEmpty n m e).entryMask = r.entryMask := by
  unfold Regs.setEmpty; repeat' split
  all_goals rfl
@[simp] theorem Regs.setEmpty_inReg (r : Regs) (n : Nat) (m : Mask) (e : Bool) : (r.setEmpty n m e).inReg = r.inReg := by
  unfold Regs.setEmpty; repeat' split
  all_goals rfl
@[simp] theorem Regs.setEmpty_inTrap (r : Regs) (n : Nat) (m : Mask) (e : Bool) : (r.setEmpty n m e).inTrap = r.inTrap := by
  unfold Regs.setEmpty; repeat' split
  all_goals rfl
@[simp] theorem Regs.setEmpty_handler (r : Regs) (n : Nat) (m : Mask) (e : Bool) : (r.setEmpty n m e).handler = r.handler := by
  unfold Regs.setEmpty; repeat' split
  all_goals rfl
@[simp] theorem Regs.setEmpty_retted (r : Regs) (n : Nat) (m : Mask) (e : Bool) : (r.setEmpty n m e).retted = r.retted := by
  unfold Regs.setEmpty; repeat' split
  all_goals rfl
@[simp] theorem Regs.setEmpty_xheld (r : Regs) (n : Nat) (m : Mask) (e : Bool) : (r.setEmpty n m e).xheld = r.xheld := by
  unfold Regs.setEmpty; repeat' split
  all_goals rfl
@[simp] theorem Regs.setEmpty_xlast (r : Regs) (n : Nat) (m : Mask) (e : Bool) : (r.setEmpty n m e).xlast = r.xlast := by
  unfold Regs.setEmpty; repeat' split
  all_goals rfl
@[simp] theorem Regs.setEmpty_desc (r : Regs) (n : Nat) (m : Mask) (e : Bool) : (r.setEmpty n m e).desc = r.desc := by
  unfold Regs.setEmpty; repeat' split
  all_goals rfl
@[simp] theorem Regs.setEmpty_acc (r : Regs) (n : Nat) (m : Mask) (e : Bool) : (r.setEmpty n m e).acc = r.acc := by
  unfold Regs.setEmpty; repeat' split
  all_goals rfl
@[simp] theorem Regs.setEmpty_shadow (r : Regs) (n : Nat) (m : Mask) (e : Bool) : (r.setEmpty n m e).shadow = r.shadow := by
  unfold Regs.setEmpty; repeat' split
  all_goals rfl
@[simp] theorem Regs.setEmpty_grant (r : Regs) (n : Nat) (m : Mask) (e : Bool) : (r.setEmpty n m e).grant = r.grant := by
  unfold Regs.setEmpty; repeat' split
  all_goals rfl
@[simp] theorem Regs.setEmpty_wait (r : Regs) (n : Nat) (m : Mask) (e : Bool) : (r.setEmpty n m e).wait = r.wait := by
  unfold Regs.setEmpty; repeat' split
  all_goals rfl
@[simp] theorem Regs.setEmpty_outer (r : Regs) (n : Nat) (m : Mask) (e : Bool) : (r.setEmpty n m e).outer = r.outer := by
  unfold Regs.setEmpty; repeat' split
  all_goals rfl
@[simp] theorem Regs.setEmpty_held20 (r : Regs) (n : Nat) (m : Mask) (e : Bool) : (r.setEmpty n m e).held20 = r.held20 := by
  unfold Regs.setEmpty; repeat' split
  all_goals rfl
@[simp] theorem Regs.setEmpty_held38 (r : Regs) (n : Nat) (m : Mask) (e : Bool) : (r.setEmpty n m e).held38 = r.held38 := by
  unfold Regs.setEmpty; repeat' split
  all_goals rfl
@[simp] theorem Regs.setEmpty_written (r : Regs) (n : Nat) (m : Mask) (e : Bool) : (r.setEmpty n m e).written = r.written := by
  unfold Regs.setEmpty; repeat' split
  all_goals rfl

/-! ## `Regs.accWrite` -/

@[simp] theorem Regs.accWrite_lanes (r : Regs) (n i j : Nat) (x : Word) : (r.accWrite n i j x).lanes = r.lanes := by
  unfold Regs.accWrite Regs.note; dsimp only; repeat' split
  all_goals rfl
@[simp] theorem Regs.accWrite_v (r : Regs) (n i j : Nat) (x : Word) : (r.accWrite n i j x).v = r.v := by
  unfold Regs.accWrite Regs.note; dsimp only; repeat' split
  all_goals rfl
@[simp] theorem Regs.accWrite_w (r : Regs) (n i j : Nat) (x : Word) : (r.accWrite n i j x).w = r.w := by
  unfold Regs.accWrite Regs.note; dsimp only; repeat' split
  all_goals rfl
@[simp] theorem Regs.accWrite_ev (r : Regs) (n i j : Nat) (x : Word) : (r.accWrite n i j x).ev = r.ev := by
  unfold Regs.accWrite Regs.note; dsimp only; repeat' split
  all_goals rfl
@[simp] theorem Regs.accWrite_ew (r : Regs) (n i j : Nat) (x : Word) : (r.accWrite n i j x).ew = r.ew := by
  unfold Regs.accWrite Regs.note; dsimp only; repeat' split
  all_goals rfl
@[simp] theorem Regs.accWrite_live (r : Regs) (n i j : Nat) (x : Word) : (r.accWrite n i j x).live = r.live := by
  unfold Regs.accWrite Regs.note; dsimp only; repeat' split
  all_goals rfl
@[simp] theorem Regs.accWrite_fpcr (r : Regs) (n i j : Nat) (x : Word) : (r.accWrite n i j x).fpcr = r.fpcr := by
  unfold Regs.accWrite Regs.note; dsimp only; repeat' split
  all_goals rfl
@[simp] theorem Regs.accWrite_fpsr (r : Regs) (n i j : Nat) (x : Word) : (r.accWrite n i j x).fpsr = r.fpsr := by
  unfold Regs.accWrite Regs.note; dsimp only; repeat' split
  all_goals rfl
@[simp] theorem Regs.accWrite_mfr (r : Regs) (n i j : Nat) (x : Word) : (r.accWrite n i j x).mfr = r.mfr := by
  unfold Regs.accWrite Regs.note; dsimp only; repeat' split
  all_goals rfl
@[simp] theorem Regs.accWrite_tcause (r : Regs) (n i j : Nat) (x : Word) : (r.accWrite n i j x).tcause = r.tcause := by
  unfold Regs.accWrite Regs.note; dsimp only; repeat' split
  all_goals rfl
@[simp] theorem Regs.accWrite_tskid (r : Regs) (n i j : Nat) (x : Word) : (r.accWrite n i j x).tskid = r.tskid := by
  unfold Regs.accWrite Regs.note; dsimp only; repeat' split
  all_goals rfl
@[simp] theorem Regs.accWrite_tpc (r : Regs) (n i j : Nat) (x : Word) : (r.accWrite n i j x).tpc = r.tpc := by
  unfold Regs.accWrite Regs.note; dsimp only; repeat' split
  all_goals rfl
@[simp] theorem Regs.accWrite_taddr (r : Regs) (n i j : Nat) (x : Word) : (r.accWrite n i j x).taddr = r.taddr := by
  unfold Regs.accWrite Regs.note; dsimp only; repeat' split
  all_goals rfl
@[simp] theorem Regs.accWrite_tvec (r : Regs) (n i j : Nat) (x : Word) : (r.accWrite n i j x).tvec = r.tvec := by
  unfold Regs.accWrite Regs.note; dsimp only; repeat' split
  all_goals rfl
@[simp] theorem Regs.accWrite_rpc (r : Regs) (n i j : Nat) (x : Word) : (r.accWrite n i j x).rpc = r.rpc := by
  unfold Regs.accWrite Regs.note; dsimp only; repeat' split
  all_goals rfl
@[simp] theorem Regs.accWrite_racc (r : Regs) (n i j : Nat) (x : Word) : (r.accWrite n i j x).racc = r.racc := by
  unfold Regs.accWrite Regs.note; dsimp only; repeat' split
  all_goals rfl
@[simp] theorem Regs.accWrite_regMask (r : Regs) (n i j : Nat) (x : Word) : (r.accWrite n i j x).regMask = r.regMask := by
  unfold Regs.accWrite Regs.note; dsimp only; repeat' split
  all_goals rfl
@[simp] theorem Regs.accWrite_entryMask (r : Regs) (n i j : Nat) (x : Word) : (r.accWrite n i j x).entryMask = r.entryMask := by
  unfold Regs.accWrite Regs.note; dsimp only; repeat' split
  all_goals rfl
@[simp] theorem Regs.accWrite_inReg (r : Regs) (n i j : Nat) (x : Word) : (r.accWrite n i j x).inReg = r.inReg := by
  unfold Regs.accWrite Regs.note; dsimp only; repeat' split
  all_goals rfl
@[simp] theorem Regs.accWrite_inTrap (r : Regs) (n i j : Nat) (x : Word) : (r.accWrite n i j x).inTrap = r.inTrap := by
  unfold Regs.accWrite Regs.note; dsimp only; repeat' split
  all_goals rfl
@[simp] theorem Regs.accWrite_handler (r : Regs) (n i j : Nat) (x : Word) : (r.accWrite n i j x).handler = r.handler := by
  unfold Regs.accWrite Regs.note; dsimp only; repeat' split
  all_goals rfl
@[simp] theorem Regs.accWrite_retted (r : Regs) (n i j : Nat) (x : Word) : (r.accWrite n i j x).retted = r.retted := by
  unfold Regs.accWrite Regs.note; dsimp only; repeat' split
  all_goals rfl
@[simp] theorem Regs.accWrite_xheld (r : Regs) (n i j : Nat) (x : Word) : (r.accWrite n i j x).xheld = r.xheld := by
  unfold Regs.accWrite Regs.note; dsimp only; repeat' split
  all_goals rfl
@[simp] theorem Regs.accWrite_xlast (r : Regs) (n i j : Nat) (x : Word) : (r.accWrite n i j x).xlast = r.xlast := by
  unfold Regs.accWrite Regs.note; dsimp only; repeat' split
  all_goals rfl
@[simp] theorem Regs.accWrite_desc (r : Regs) (n i j : Nat) (x : Word) : (r.accWrite n i j x).desc = r.desc := by
  unfold Regs.accWrite Regs.note; dsimp only; repeat' split
  all_goals rfl
@[simp] theorem Regs.accWrite_grant (r : Regs) (n i j : Nat) (x : Word) : (r.accWrite n i j x).grant = r.grant := by
  unfold Regs.accWrite Regs.note; dsimp only; repeat' split
  all_goals rfl
@[simp] theorem Regs.accWrite_wait (r : Regs) (n i j : Nat) (x : Word) : (r.accWrite n i j x).wait = r.wait := by
  unfold Regs.accWrite Regs.note; dsimp only; repeat' split
  all_goals rfl
@[simp] theorem Regs.accWrite_outer (r : Regs) (n i j : Nat) (x : Word) : (r.accWrite n i j x).outer = r.outer := by
  unfold Regs.accWrite Regs.note; dsimp only; repeat' split
  all_goals rfl
@[simp] theorem Regs.accWrite_held20 (r : Regs) (n i j : Nat) (x : Word) : (r.accWrite n i j x).held20 = r.held20 := by
  unfold Regs.accWrite Regs.note; dsimp only; repeat' split
  all_goals rfl
@[simp] theorem Regs.accWrite_held38 (r : Regs) (n i j : Nat) (x : Word) : (r.accWrite n i j x).held38 = r.held38 := by
  unfold Regs.accWrite Regs.note; dsimp only; repeat' split
  all_goals rfl

/-! ## `Regs.setPred` -/

@[simp] theorem Regs.setPred_v (r : Regs) (n l : Nat) (b : Bool) : (r.setPred n l b).v = r.v := by
  unfold Regs.setPred; repeat' split
  all_goals rfl
@[simp] theorem Regs.setPred_w (r : Regs) (n l : Nat) (b : Bool) : (r.setPred n l b).w = r.w := by
  unfold Regs.setPred; repeat' split
  all_goals rfl
@[simp] theorem Regs.setPred_ev (r : Regs) (n l : Nat) (b : Bool) : (r.setPred n l b).ev = r.ev := by
  unfold Regs.setPred; repeat' split
  all_goals rfl
@[simp] theorem Regs.setPred_ew (r : Regs) (n l : Nat) (b : Bool) : (r.setPred n l b).ew = r.ew := by
  unfold Regs.setPred; repeat' split
  all_goals rfl
@[simp] theorem Regs.setPred_live (r : Regs) (n l : Nat) (b : Bool) : (r.setPred n l b).live = r.live := by
  unfold Regs.setPred; repeat' split
  all_goals rfl
@[simp] theorem Regs.setPred_fpcr (r : Regs) (n l : Nat) (b : Bool) : (r.setPred n l b).fpcr = r.fpcr := by
  unfold Regs.setPred; repeat' split
  all_goals rfl
@[simp] theorem Regs.setPred_fpsr (r : Regs) (n l : Nat) (b : Bool) : (r.setPred n l b).fpsr = r.fpsr := by
  unfold Regs.setPred; repeat' split
  all_goals rfl
@[simp] theorem Regs.setPred_mfr (r : Regs) (n l : Nat) (b : Bool) : (r.setPred n l b).mfr = r.mfr := by
  unfold Regs.setPred; repeat' split
  all_goals rfl
@[simp] theorem Regs.setPred_tcause (r : Regs) (n l : Nat) (b : Bool) : (r.setPred n l b).tcause = r.tcause := by
  unfold Regs.setPred; repeat' split
  all_goals rfl
@[simp] theorem Regs.setPred_tskid (r : Regs) (n l : Nat) (b : Bool) : (r.setPred n l b).tskid = r.tskid := by
  unfold Regs.setPred; repeat' split
  all_goals rfl
@[simp] theorem Regs.setPred_tpc (r : Regs) (n l : Nat) (b : Bool) : (r.setPred n l b).tpc = r.tpc := by
  unfold Regs.setPred; repeat' split
  all_goals rfl
@[simp] theorem Regs.setPred_taddr (r : Regs) (n l : Nat) (b : Bool) : (r.setPred n l b).taddr = r.taddr := by
  unfold Regs.setPred; repeat' split
  all_goals rfl
@[simp] theorem Regs.setPred_tvec (r : Regs) (n l : Nat) (b : Bool) : (r.setPred n l b).tvec = r.tvec := by
  unfold Regs.setPred; repeat' split
  all_goals rfl
@[simp] theorem Regs.setPred_rpc (r : Regs) (n l : Nat) (b : Bool) : (r.setPred n l b).rpc = r.rpc := by
  unfold Regs.setPred; repeat' split
  all_goals rfl
@[simp] theorem Regs.setPred_racc (r : Regs) (n l : Nat) (b : Bool) : (r.setPred n l b).racc = r.racc := by
  unfold Regs.setPred; repeat' split
  all_goals rfl
@[simp] theorem Regs.setPred_regMask (r : Regs) (n l : Nat) (b : Bool) : (r.setPred n l b).regMask = r.regMask := by
  unfold Regs.setPred; repeat' split
  all_goals rfl
@[simp] theorem Regs.setPred_entryMask (r : Regs) (n l : Nat) (b : Bool) : (r.setPred n l b).entryMask = r.entryMask := by
  unfold Regs.setPred; repeat' split
  all_goals rfl
@[simp] theorem Regs.setPred_inReg (r : Regs) (n l : Nat) (b : Bool) : (r.setPred n l b).inReg = r.inReg := by
  unfold Regs.setPred; repeat' split
  all_goals rfl
@[simp] theorem Regs.setPred_inTrap (r : Regs) (n l : Nat) (b : Bool) : (r.setPred n l b).inTrap = r.inTrap := by
  unfold Regs.setPred; repeat' split
  all_goals rfl
@[simp] theorem Regs.setPred_handler (r : Regs) (n l : Nat) (b : Bool) : (r.setPred n l b).handler = r.handler := by
  unfold Regs.setPred; repeat' split
  all_goals rfl
@[simp] theorem Regs.setPred_retted (r : Regs) (n l : Nat) (b : Bool) : (r.setPred n l b).retted = r.retted := by
  unfold Regs.setPred; repeat' split
  all_goals rfl
@[simp] theorem Regs.setPred_xheld (r : Regs) (n l : Nat) (b : Bool) : (r.setPred n l b).xheld = r.xheld := by
  unfold Regs.setPred; repeat' split
  all_goals rfl
@[simp] theorem Regs.setPred_xlast (r : Regs) (n l : Nat) (b : Bool) : (r.setPred n l b).xlast = r.xlast := by
  unfold Regs.setPred; repeat' split
  all_goals rfl
@[simp] theorem Regs.setPred_desc (r : Regs) (n l : Nat) (b : Bool) : (r.setPred n l b).desc = r.desc := by
  unfold Regs.setPred; repeat' split
  all_goals rfl
@[simp] theorem Regs.setPred_acc (r : Regs) (n l : Nat) (b : Bool) : (r.setPred n l b).acc = r.acc := by
  unfold Regs.setPred; repeat' split
  all_goals rfl
@[simp] theorem Regs.setPred_shadow (r : Regs) (n l : Nat) (b : Bool) : (r.setPred n l b).shadow = r.shadow := by
  unfold Regs.setPred; repeat' split
  all_goals rfl
@[simp] theorem Regs.setPred_grant (r : Regs) (n l : Nat) (b : Bool) : (r.setPred n l b).grant = r.grant := by
  unfold Regs.setPred; repeat' split
  all_goals rfl
@[simp] theorem Regs.setPred_wait (r : Regs) (n l : Nat) (b : Bool) : (r.setPred n l b).wait = r.wait := by
  unfold Regs.setPred; repeat' split
  all_goals rfl
@[simp] theorem Regs.setPred_outer (r : Regs) (n l : Nat) (b : Bool) : (r.setPred n l b).outer = r.outer := by
  unfold Regs.setPred; repeat' split
  all_goals rfl
@[simp] theorem Regs.setPred_held20 (r : Regs) (n l : Nat) (b : Bool) : (r.setPred n l b).held20 = r.held20 := by
  unfold Regs.setPred; repeat' split
  all_goals rfl
@[simp] theorem Regs.setPred_held38 (r : Regs) (n l : Nat) (b : Bool) : (r.setPred n l b).held38 = r.held38 := by
  unfold Regs.setPred; repeat' split
  all_goals rfl
@[simp] theorem Regs.setPred_written (r : Regs) (n l : Nat) (b : Bool) : (r.setPred n l b).written = r.written := by
  unfold Regs.setPred; repeat' split
  all_goals rfl

/-! ## `Regs.modLane` -/

@[simp] theorem Regs.modLane_v (r : Regs) (l : Nat) (f : Lane → Lane) : (r.modLane l f).v = r.v := rfl
@[simp] theorem Regs.modLane_w (r : Regs) (l : Nat) (f : Lane → Lane) : (r.modLane l f).w = r.w := rfl
@[simp] theorem Regs.modLane_ev (r : Regs) (l : Nat) (f : Lane → Lane) : (r.modLane l f).ev = r.ev := rfl
@[simp] theorem Regs.modLane_ew (r : Regs) (l : Nat) (f : Lane → Lane) : (r.modLane l f).ew = r.ew := rfl
@[simp] theorem Regs.modLane_live (r : Regs) (l : Nat) (f : Lane → Lane) : (r.modLane l f).live = r.live := rfl
@[simp] theorem Regs.modLane_fpcr (r : Regs) (l : Nat) (f : Lane → Lane) : (r.modLane l f).fpcr = r.fpcr := rfl
@[simp] theorem Regs.modLane_fpsr (r : Regs) (l : Nat) (f : Lane → Lane) : (r.modLane l f).fpsr = r.fpsr := rfl
@[simp] theorem Regs.modLane_mfr (r : Regs) (l : Nat) (f : Lane → Lane) : (r.modLane l f).mfr = r.mfr := rfl
@[simp] theorem Regs.modLane_tcause (r : Regs) (l : Nat) (f : Lane → Lane) : (r.modLane l f).tcause = r.tcause := rfl
@[simp] theorem Regs.modLane_tskid (r : Regs) (l : Nat) (f : Lane → Lane) : (r.modLane l f).tskid = r.tskid := rfl
@[simp] theorem Regs.modLane_tpc (r : Regs) (l : Nat) (f : Lane → Lane) : (r.modLane l f).tpc = r.tpc := rfl
@[simp] theorem Regs.modLane_taddr (r : Regs) (l : Nat) (f : Lane → Lane) : (r.modLane l f).taddr = r.taddr := rfl
@[simp] theorem Regs.modLane_tvec (r : Regs) (l : Nat) (f : Lane → Lane) : (r.modLane l f).tvec = r.tvec := rfl
@[simp] theorem Regs.modLane_rpc (r : Regs) (l : Nat) (f : Lane → Lane) : (r.modLane l f).rpc = r.rpc := rfl
@[simp] theorem Regs.modLane_racc (r : Regs) (l : Nat) (f : Lane → Lane) : (r.modLane l f).racc = r.racc := rfl
@[simp] theorem Regs.modLane_regMask (r : Regs) (l : Nat) (f : Lane → Lane) : (r.modLane l f).regMask = r.regMask := rfl
@[simp] theorem Regs.modLane_entryMask (r : Regs) (l : Nat) (f : Lane → Lane) : (r.modLane l f).entryMask = r.entryMask := rfl
@[simp] theorem Regs.modLane_inReg (r : Regs) (l : Nat) (f : Lane → Lane) : (r.modLane l f).inReg = r.inReg := rfl
@[simp] theorem Regs.modLane_inTrap (r : Regs) (l : Nat) (f : Lane → Lane) : (r.modLane l f).inTrap = r.inTrap := rfl
@[simp] theorem Regs.modLane_handler (r : Regs) (l : Nat) (f : Lane → Lane) : (r.modLane l f).handler = r.handler := rfl
@[simp] theorem Regs.modLane_retted (r : Regs) (l : Nat) (f : Lane → Lane) : (r.modLane l f).retted = r.retted := rfl
@[simp] theorem Regs.modLane_xheld (r : Regs) (l : Nat) (f : Lane → Lane) : (r.modLane l f).xheld = r.xheld := rfl
@[simp] theorem Regs.modLane_xlast (r : Regs) (l : Nat) (f : Lane → Lane) : (r.modLane l f).xlast = r.xlast := rfl
@[simp] theorem Regs.modLane_desc (r : Regs) (l : Nat) (f : Lane → Lane) : (r.modLane l f).desc = r.desc := rfl
@[simp] theorem Regs.modLane_acc (r : Regs) (l : Nat) (f : Lane → Lane) : (r.modLane l f).acc = r.acc := rfl
@[simp] theorem Regs.modLane_shadow (r : Regs) (l : Nat) (f : Lane → Lane) : (r.modLane l f).shadow = r.shadow := rfl
@[simp] theorem Regs.modLane_grant (r : Regs) (l : Nat) (f : Lane → Lane) : (r.modLane l f).grant = r.grant := rfl
@[simp] theorem Regs.modLane_wait (r : Regs) (l : Nat) (f : Lane → Lane) : (r.modLane l f).wait = r.wait := rfl
@[simp] theorem Regs.modLane_outer (r : Regs) (l : Nat) (f : Lane → Lane) : (r.modLane l f).outer = r.outer := rfl
@[simp] theorem Regs.modLane_held20 (r : Regs) (l : Nat) (f : Lane → Lane) : (r.modLane l f).held20 = r.held20 := rfl
@[simp] theorem Regs.modLane_held38 (r : Regs) (l : Nat) (f : Lane → Lane) : (r.modLane l f).held38 = r.held38 := rfl
@[simp] theorem Regs.modLane_written (r : Regs) (l : Nat) (f : Lane → Lane) : (r.modLane l f).written = r.written := rfl

/-! ## `Regs.modLanes` -/

@[simp] theorem Regs.modLanes_v (r : Regs) (m : Mask) (f : Nat → Lane → Lane) : (r.modLanes m f).v = r.v := rfl
@[simp] theorem Regs.modLanes_w (r : Regs) (m : Mask) (f : Nat → Lane → Lane) : (r.modLanes m f).w = r.w := rfl
@[simp] theorem Regs.modLanes_ev (r : Regs) (m : Mask) (f : Nat → Lane → Lane) : (r.modLanes m f).ev = r.ev := rfl
@[simp] theorem Regs.modLanes_ew (r : Regs) (m : Mask) (f : Nat → Lane → Lane) : (r.modLanes m f).ew = r.ew := rfl
@[simp] theorem Regs.modLanes_live (r : Regs) (m : Mask) (f : Nat → Lane → Lane) : (r.modLanes m f).live = r.live := rfl
@[simp] theorem Regs.modLanes_fpcr (r : Regs) (m : Mask) (f : Nat → Lane → Lane) : (r.modLanes m f).fpcr = r.fpcr := rfl
@[simp] theorem Regs.modLanes_fpsr (r : Regs) (m : Mask) (f : Nat → Lane → Lane) : (r.modLanes m f).fpsr = r.fpsr := rfl
@[simp] theorem Regs.modLanes_mfr (r : Regs) (m : Mask) (f : Nat → Lane → Lane) : (r.modLanes m f).mfr = r.mfr := rfl
@[simp] theorem Regs.modLanes_tcause (r : Regs) (m : Mask) (f : Nat → Lane → Lane) : (r.modLanes m f).tcause = r.tcause := rfl
@[simp] theorem Regs.modLanes_tskid (r : Regs) (m : Mask) (f : Nat → Lane → Lane) : (r.modLanes m f).tskid = r.tskid := rfl
@[simp] theorem Regs.modLanes_tpc (r : Regs) (m : Mask) (f : Nat → Lane → Lane) : (r.modLanes m f).tpc = r.tpc := rfl
@[simp] theorem Regs.modLanes_taddr (r : Regs) (m : Mask) (f : Nat → Lane → Lane) : (r.modLanes m f).taddr = r.taddr := rfl
@[simp] theorem Regs.modLanes_tvec (r : Regs) (m : Mask) (f : Nat → Lane → Lane) : (r.modLanes m f).tvec = r.tvec := rfl
@[simp] theorem Regs.modLanes_rpc (r : Regs) (m : Mask) (f : Nat → Lane → Lane) : (r.modLanes m f).rpc = r.rpc := rfl
@[simp] theorem Regs.modLanes_racc (r : Regs) (m : Mask) (f : Nat → Lane → Lane) : (r.modLanes m f).racc = r.racc := rfl
@[simp] theorem Regs.modLanes_regMask (r : Regs) (m : Mask) (f : Nat → Lane → Lane) : (r.modLanes m f).regMask = r.regMask := rfl
@[simp] theorem Regs.modLanes_entryMask (r : Regs) (m : Mask) (f : Nat → Lane → Lane) : (r.modLanes m f).entryMask = r.entryMask := rfl
@[simp] theorem Regs.modLanes_inReg (r : Regs) (m : Mask) (f : Nat → Lane → Lane) : (r.modLanes m f).inReg = r.inReg := rfl
@[simp] theorem Regs.modLanes_inTrap (r : Regs) (m : Mask) (f : Nat → Lane → Lane) : (r.modLanes m f).inTrap = r.inTrap := rfl
@[simp] theorem Regs.modLanes_handler (r : Regs) (m : Mask) (f : Nat → Lane → Lane) : (r.modLanes m f).handler = r.handler := rfl
@[simp] theorem Regs.modLanes_retted (r : Regs) (m : Mask) (f : Nat → Lane → Lane) : (r.modLanes m f).retted = r.retted := rfl
@[simp] theorem Regs.modLanes_xheld (r : Regs) (m : Mask) (f : Nat → Lane → Lane) : (r.modLanes m f).xheld = r.xheld := rfl
@[simp] theorem Regs.modLanes_xlast (r : Regs) (m : Mask) (f : Nat → Lane → Lane) : (r.modLanes m f).xlast = r.xlast := rfl
@[simp] theorem Regs.modLanes_desc (r : Regs) (m : Mask) (f : Nat → Lane → Lane) : (r.modLanes m f).desc = r.desc := rfl
@[simp] theorem Regs.modLanes_acc (r : Regs) (m : Mask) (f : Nat → Lane → Lane) : (r.modLanes m f).acc = r.acc := rfl
@[simp] theorem Regs.modLanes_shadow (r : Regs) (m : Mask) (f : Nat → Lane → Lane) : (r.modLanes m f).shadow = r.shadow := rfl
@[simp] theorem Regs.modLanes_grant (r : Regs) (m : Mask) (f : Nat → Lane → Lane) : (r.modLanes m f).grant = r.grant := rfl
@[simp] theorem Regs.modLanes_wait (r : Regs) (m : Mask) (f : Nat → Lane → Lane) : (r.modLanes m f).wait = r.wait := rfl
@[simp] theorem Regs.modLanes_outer (r : Regs) (m : Mask) (f : Nat → Lane → Lane) : (r.modLanes m f).outer = r.outer := rfl
@[simp] theorem Regs.modLanes_held20 (r : Regs) (m : Mask) (f : Nat → Lane → Lane) : (r.modLanes m f).held20 = r.held20 := rfl
@[simp] theorem Regs.modLanes_held38 (r : Regs) (m : Mask) (f : Nat → Lane → Lane) : (r.modLanes m f).held38 = r.held38 := rfl
@[simp] theorem Regs.modLanes_written (r : Regs) (m : Mask) (f : Nat → Lane → Lane) : (r.modLanes m f).written = r.written := rfl

/-! ## `Group.put` -/

@[simp] theorem Group.put_gid (g : Group) (m : Mask) (d l : Nat) (xs : List Word) : (g.put m d l xs).gid = g.gid := by
  unfold Group.put; split <;> rfl
@[simp] theorem Group.put_gidx (g : Group) (m : Mask) (d l : Nat) (xs : List Word) : (g.put m d l xs).gidx = g.gidx := by
  unfold Group.put; split <;> rfl
@[simp] theorem Group.put_age (g : Group) (m : Mask) (d l : Nat) (xs : List Word) : (g.put m d l xs).age = g.age := by
  unfold Group.put; split <;> rfl
@[simp] theorem Group.put_ck (g : Group) (m : Mask) (d l : Nat) (xs : List Word) : (g.put m d l xs).ck = g.ck := by
  unfold Group.put; split <;> rfl
@[simp] theorem Group.put_unsent (g : Group) (m : Mask) (d l : Nat) (xs : List Word) : (g.put m d l xs).unsent = g.unsent := by
  unfold Group.put; split <;> rfl
@[simp] theorem Group.put_sending (g : Group) (m : Mask) (d l : Nat) (xs : List Word) : (g.put m d l xs).sending = g.sending := by
  unfold Group.put; split <;> rfl
@[simp] theorem Group.put_ckPoison (g : Group) (m : Mask) (d l : Nat) (xs : List Word) : (g.put m d l xs).ckPoison = g.ckPoison := by
  unfold Group.put; split <;> rfl
@[simp] theorem Group.put_replaying (g : Group) (m : Mask) (d l : Nat) (xs : List Word) : (g.put m d l xs).replaying = g.replaying := by
  unfold Group.put; split <;> rfl
@[simp] theorem Group.put_late (g : Group) (m : Mask) (d l : Nat) (xs : List Word) : (g.put m d l xs).late = g.late := by
  unfold Group.put; split <;> rfl
@[simp] theorem Group.put_parks (g : Group) (m : Mask) (d l : Nat) (xs : List Word) : (g.put m d l xs).parks = g.parks := by
  unfold Group.put; split <;> rfl
@[simp] theorem Group.put_run1 (g : Group) (m : Mask) (d l : Nat) (xs : List Word) : (g.put m d l xs).run1 = g.run1 := by
  unfold Group.put; split <;> rfl
@[simp] theorem Group.put_run2 (g : Group) (m : Mask) (d l : Nat) (xs : List Word) : (g.put m d l xs).run2 = g.run2 := by
  unfold Group.put; split <;> rfl
@[simp] theorem Group.put_p2next (g : Group) (m : Mask) (d l : Nat) (xs : List Word) : (g.put m d l xs).p2next = g.p2next := by
  unfold Group.put; split <;> rfl
@[simp] theorem Group.put_due (g : Group) (m : Mask) (d l : Nat) (xs : List Word) : (g.put m d l xs).due = g.due := by
  unfold Group.put; split <;> rfl
@[simp] theorem Group.put_mfrNext (g : Group) (m : Mask) (d l : Nat) (xs : List Word) : (g.put m d l xs).mfrNext = g.mfrNext := by
  unfold Group.put; split <;> rfl
@[simp] theorem Group.put_fills (g : Group) (m : Mask) (d l : Nat) (xs : List Word) : (g.put m d l xs).fills = g.fills := by
  unfold Group.put; split <;> rfl
@[simp] theorem Group.put_accs (g : Group) (m : Mask) (d l : Nat) (xs : List Word) : (g.put m d l xs).accs = g.accs := by
  unfold Group.put; split <;> rfl
@[simp] theorem Group.put_slots (g : Group) (m : Mask) (d l : Nat) (xs : List Word) : (g.put m d l xs).slots = g.slots := by
  unfold Group.put; split <;> rfl
@[simp] theorem Group.put_tileOps (g : Group) (m : Mask) (d l : Nat) (xs : List Word) : (g.put m d l xs).tileOps = g.tileOps := by
  unfold Group.put; split <;> rfl
@[simp] theorem Group.put_injected (g : Group) (m : Mask) (d l : Nat) (xs : List Word) : (g.put m d l xs).injected = g.injected := by
  unfold Group.put; split <;> rfl
@[simp] theorem Group.put_posted (g : Group) (m : Mask) (d l : Nat) (xs : List Word) : (g.put m d l xs).posted = g.posted := by
  unfold Group.put; split <;> rfl
@[simp] theorem Group.put_spin (g : Group) (m : Mask) (d l : Nat) (xs : List Word) : (g.put m d l xs).spin = g.spin := by
  unfold Group.put; split <;> rfl
@[simp] theorem Group.put_issued (g : Group) (m : Mask) (d l : Nat) (xs : List Word) : (g.put m d l xs).issued = g.issued := by
  unfold Group.put; split <;> rfl
@[simp] theorem Group.put_issuedCk (g : Group) (m : Mask) (d l : Nat) (xs : List Word) : (g.put m d l xs).issuedCk = g.issuedCk := by
  unfold Group.put; split <;> rfl
@[simp] theorem Group.put_awaits (g : Group) (m : Mask) (d l : Nat) (xs : List Word) : (g.put m d l xs).awaits = g.awaits := by
  unfold Group.put; split <;> rfl
@[simp] theorem Group.put_retired (g : Group) (m : Mask) (d l : Nat) (xs : List Word) : (g.put m d l xs).retired = g.retired := by
  unfold Group.put; split <;> rfl
@[simp] theorem Group.put_stopped (g : Group) (m : Mask) (d l : Nat) (xs : List Word) : (g.put m d l xs).stopped = g.stopped := by
  unfold Group.put; split <;> rfl

end Sys2Proof.Machine
end

