-- ==== Sys2Proof/Laws/Lookup.lean ====
section
/-!
SUPPORT. What a named lookup gives after a named change, what a register or lane reads after a write, and which lanes a mask holds.
-/
namespace Sys2Proof.Machine

/-! ## Lists kept by key -/

theorem find_updateWhere {α : Type} (p q : α → Bool) (f : α → α) (xs : List α) (h : ∀ x, q (f x) = q x) :
    (updateWhere p f xs).find? q = (xs.find? q).map (fun x => if p x then f x else x) := by
  induction xs with
  | nil => rfl
  | cons x rest ih =>
    simp only [updateWhere, List.map_cons] at ih ⊢
    by_cases hx : q x = true
    · have : q (if p x then f x else x) = true := by split <;> simp [h, hx]
      simp [this, hx]
    · have : q (if p x then f x else x) = false := by split <;> simp [h, hx]
      simp [this, hx, ih]

/-- The entry of the key that a change names. -/
theorem find_updateWhere_key {α κ : Type} [BEq κ] [LawfulBEq κ] (key : α → κ) (k j : κ) (f : α → α) (xs : List α)
    (h : ∀ x, key (f x) = key x) : (updateWhere (fun x => key x == k) f xs).find? (fun x => key x == j) =
      if j == k then (xs.find? (fun x => key x == j)).map f else xs.find? (fun x => key x == j) := by
  rw [find_updateWhere _ _ _ _ (fun x => by simp [h])]
  cases hx : xs.find? (fun x => key x == j) with
  | none => simp
  | some x =>
    have hk : (key x == j) = true := List.find?_some (p := fun x => key x == j) hx
    have he : key x = j := by simpa using hk
    simp only [Option.map_some, he]
    split <;> rfl

/-! ## Things looked up by name -/

theorem State.cohort?_modCohort (s : State) (r k : CRef) (f : Cohort → Cohort) (h : ∀ c, (f c).ref = c.ref) :
    (s.modCohort r f).cohort? k = if k == r then (s.cohort? k).map f else s.cohort? k := by
  simp only [State.cohort?, State.modCohort]
  rw [find_updateWhere_key (fun c : Cohort => c.ref) r k f s.cohorts h,
    find_updateWhere_key (fun x : Frame => x.cohort.ref) r k (fun x => { x with cohort := f x.cohort }) s.frames (fun x => h x.cohort)]
  split
  · cases s.cohorts.find? (fun c => c.ref == k) <;> simp [Option.map_map, Function.comp_def]
  · rfl

theorem Cohort.group?_modGroup (c : Cohort) (n k : Nat) (f : Group → Group) (h : ∀ g, (f g).gid = g.gid) :
    (c.modGroup n f).group? k = if k == n then (c.group? k).map f else c.group? k :=
  find_updateWhere_key (fun g : Group => g.gid) n k f c.groups h

theorem State.group?_modGroup (s : State) (g : GRef) (f : Group → Group) (h : ∀ x, (f x).gid = x.gid) :
    (s.modGroup g f).group? g = (s.group? g).map f := by
  simp only [State.group?, State.modGroup]
  rw [State.cohort?_modCohort s (GRefCohort g) (GRefCohort g) (fun c => c.modGroup g.gid f) (fun _ => rfl), beq_self_eq_true, if_pos rfl]
  cases s.cohort? (GRefCohort g) with
  | none => rfl
  | some c => simp [Cohort.group?_modGroup c g.gid g.gid f h]

theorem State.group?_modRegs (s : State) (g : GRef) (f : Regs → Regs) :
    (s.modRegs g f).group? g = (s.group? g).map (fun x => { x with r := f x.r }) :=
  State.group?_modGroup s g _ (fun _ => rfl)

theorem State.group?_modGroup_ne (s : State) (g k : GRef) (f : Group → Group) (h : ∀ x, (f x).gid = x.gid)
    (hk : GRefCohort k ≠ GRefCohort g ∨ k.gid ≠ g.gid) : (s.modGroup g f).group? k = s.group? k := by
  simp only [State.group?, State.modGroup]
  rw [State.cohort?_modCohort s (GRefCohort g) (GRefCohort k) (fun c => c.modGroup g.gid f) (fun _ => rfl)]
  by_cases e : GRefCohort k = GRefCohort g
  · have hn : k.gid ≠ g.gid := hk.resolve_left (fun h => h e)
    cases s.cohort? (GRefCohort k) with
    | none => simp
    | some c => simp [e, Cohort.group?_modGroup c g.gid k.gid f h, hn]
  · simp [e]

theorem State.launch?_modLaunch (s : State) (n k : Nat) (f : Launch → Launch) (h : ∀ l, (f l).lid = l.lid) :
    (s.modLaunch n f).launch? k = if k == n then (s.launch? k).map f else s.launch? k :=
  find_updateWhere_key (fun l : Launch => l.lid) n k f s.launches h

theorem State.core?_modCore (s : State) (n k : Nat) (f : Core → Core) (h : ∀ l, (f l).no = l.no) :
    (s.modCore n f).core? k = if k == n then (s.core? k).map f else s.core? k :=
  find_updateWhere_key (fun l : Core => l.no) n k f s.cores h

theorem State.cluster?_modCluster (s : State) (n k : Nat) (f : Cluster → Cluster) (h : ∀ l, (f l).no = l.no) :
    (s.modCluster n f).cluster? k = if k == n then (s.cluster? k).map f else s.cluster? k :=
  find_updateWhere_key (fun l : Cluster => l.no) n k f s.clusters h

theorem State.die?_modDie (s : State) (n k : Nat) (f : Die → Die) (h : ∀ l, (f l).no = l.no) :
    (s.modDie n f).die? k = if k == n then (s.die? k).map f else s.die? k :=
  find_updateWhere_key (fun l : Die => l.no) n k f s.dies h

theorem State.queue?_modQueue (s : State) (n k : Nat) (f : Queue → Queue) (h : ∀ l, (f l).qid = l.qid) :
    (s.modQueue n f).queue? k = if k == n then (s.queue? k).map f else s.queue? k :=
  find_updateWhere_key (fun l : Queue => l.qid) n k f s.queues h

theorem State.vif?_modVif (s : State) (n k : Nat) (f : Vif → Vif) (h : ∀ l, (f l).no = l.no) :
    (s.modVif n f).vif? k = if k == n then (s.vif? k).map f else s.vif? k :=
  find_updateWhere_key (fun l : Vif => l.no) n k f s.vifs h

theorem State.part?_modPart (s : State) (n k : Nat) (f : Partition → Partition) (h : ∀ l, (f l).no = l.no) :
    (s.modPart n f).part? k = if k == n then (s.part? k).map f else s.part? k :=
  find_updateWhere_key (fun l : Partition => l.no) n k f s.parts h

theorem State.cmd?_modCmd (s : State) (n k : Nat) (f : Cmd → Cmd) (h : ∀ l, (f l).id = l.id) :
    (s.modCmd n f).cmd? k = if k == n then (s.cmd? k).map f else s.cmd? k :=
  find_updateWhere_key (fun l : Cmd => l.id) n k f s.cmds h

theorem State.mgroup?_modMGroup (s : State) (n k : Nat) (f : MGroup → MGroup) (h : ∀ l, (f l).no = l.no) :
    (s.modMGroup n f).mgroup? k = if k == n then (s.mgroup? k).map f else s.mgroup? k :=
  find_updateWhere_key (fun l : MGroup => l.no) n k f s.mgroups h

/-! ## Masks -/

theorem mem_maskLanes (m : Mask) (i : Nat) : i ∈ maskLanes m ↔ m.getLsbD i = true := by
  simp only [maskLanes, laneNumbers, List.mem_filter, List.mem_range, and_iff_right_iff_imp]
  intro h; exact Nat.lt_of_not_le (fun hi => by simp [BitVec.getLsbD_of_ge m i hi] at h)

theorem maskLanes_zero : maskLanes 0 = [] := by decide

theorem maskWhere_testBit (p : Nat → Bool) (n i : Nat) :
    (((List.range n).filter p).foldl (fun acc i => acc + 2 ^ i) 0).testBit i = (decide (i < n) && p i) ∧
    ((List.range n).filter p).foldl (fun acc i => acc + 2 ^ i) 0 < 2 ^ n := by
  induction n with
  | zero => simp
  | succ n ih =>
    rw [List.range_succ, List.filter_append, List.foldl_append]
    generalize hx : ((List.range n).filter p).foldl (fun acc i => acc + 2 ^ i) 0 = x at ih ⊢
    by_cases hp : p n = true
    · simp only [List.filter_cons, hp, if_true, List.filter_nil, List.foldl_cons, List.foldl_nil]
      refine ⟨?_, by have := ih.2; rw [Nat.pow_succ]; omega⟩
      rw [Nat.add_comm, ← Nat.mul_one (2 ^ n), Nat.testBit_two_pow_mul_add 1 ih.2, ih.1]
      by_cases hi : i < n
      · simp [hi, Nat.lt_succ_of_lt hi]
      · by_cases he : i = n
        · subst he; simp [hp]
        · have h1 : i - n ≠ 0 := by omega
          have h2 : ¬ i < n + 1 := by omega
          have h3 : Nat.testBit 1 (i - n) = false := by
            cases hd : i - n with
            | zero => exact absurd hd h1
            | succ k => simp [Nat.testBit_succ]
          simp [hi, h2, h3]
    · simp only [List.filter_cons, hp, List.filter_nil]
      refine ⟨?_, by have := ih.2; rw [Nat.pow_succ]; simp; omega⟩
      by_cases he : i = n
      · subst he; simp [ih.1, hp]
      · have : (i < n + 1) = (i < n) := by apply propext; omega
        simp [ih.1, this]

theorem maskWhere_getLsbD (p : Nat → Bool) (i : Nat) : (maskWhere p).getLsbD i = (decide (i < 16) && p i) := by
  simp only [maskWhere, laneNumbers, BitVec.getLsbD_ofNat, (maskWhere_testBit p 16 i).1]
  by_cases h : i < 16 <;> simp [h]

theorem maskOf_getLsbD (ls : List Nat) (i : Nat) : (maskOf ls).getLsbD i = (decide (i < 16) && ls.contains i) :=
  maskWhere_getLsbD _ i

theorem mem_maskLanes_lt {m : Mask} {i : Nat} (h : i ∈ maskLanes m) : i < 16 := by
  simp only [maskLanes, laneNumbers, List.mem_filter, List.mem_range] at h; exact h.1

/-- The mask of all the lanes of a mask. -/
theorem maskOf_maskLanes (m : Mask) : maskOf (maskLanes m) = m := by
  apply BitVec.eq_of_getLsbD_eq
  intro i hi
  rw [maskOf_getLsbD]
  by_cases h : m.getLsbD i = true
  · rw [List.contains_iff_mem.mpr ((mem_maskLanes m i).mpr h), h]; simp [hi]
  · have h1 : (maskLanes m).contains i = false := by
      rw [Bool.eq_false_iff, ne_eq, List.contains_iff_mem, mem_maskLanes]; exact h
    simp only [h1, Bool.and_false, Bool.not_eq_true _ ▸ h]

/-! ## Lanes -/

theorem Regs.lane_modLanes (r : Regs) (m : Mask) (f : Nat → Lane → Lane) (i : Nat) (h : i < 16) :
    (r.modLanes m f).lane i = if m.getLsbD i then f i (r.lane i) else r.lane i := by
  simp [Regs.lane, Regs.modLanes, List.getD, h]

theorem Regs.lane_modLane (r : Regs) (k : Nat) (f : Lane → Lane) (i : Nat) (h : i < 16) :
    (r.modLane k f).lane i = if i = k then f (r.lane i) else r.lane i := by
  simp [Regs.lane, Regs.modLane, List.getD, h]

/-- Lanes beyond the sixteenth read as a lane before any start. -/
theorem Regs.lane_beyond (r : Regs) (i : Nat) (h : 16 ≤ i) : r.lane i = Lane.start 0 := by
  simp [Regs.lane, List.getD, h]

theorem Regs.pred_eq (r : Regs) (n i : Nat) : r.pred n i = if n = 7 then true else (r.lane i).preds.getLsbD n := rfl

/-! ## Device writes -/

/-- A device write goes to the places that it has reached. -/
theorem State.ipaPut_reached {s t : State} {v : Vif} {ipa : Nat} {bs : List Byte} {ps : List DevPart}
    (h : s.ipaReach v ipa bs.length true = (t, some ps)) : s.ipaPut v ipa bs = some (t.devStore v ps bs) := by
  unfold State.ipaPut
  rw [h]

/-- It is not made while they cannot be reached. -/
theorem State.ipaPut_none {s : State} {v : Vif} {ipa : Nat} {bs : List Byte} (h : (s.ipaReach v ipa bs.length true).2 = none) :
    s.ipaPut v ipa bs = none := by
  unfold State.ipaPut
  generalize s.ipaReach v ipa bs.length true = r at h
  obtain ⟨t, _⟩ := r
  subst h
  rfl

/-- An export writes its bytes, takes the records out of the log, and writes DONE. -/
theorem State.exportLog_eq (s : State) (v : Vif) (p : Partition) (buf done n : Nat) :
    s.exportLog v p buf done n =
      let t : State := { s with hearth := { s.hearth with count := s.hearth.count + 1 } }
      let bytes := t.exportBytes v p (p.log.take n) s.hearth.seq
      (t.ipaPut v buf bytes).bind (fun u =>
        ((u.modPart p.no (fun q => { q with log := q.log.drop (p.log.take n).length })).ipaPut v done (leBytes 1 8)).map (fun w =>
          w.send (.receipt buf bytes))) := rfl

end Sys2Proof.Machine
end

