-- ==== Sys2Proof/Laws/PerInstr.lean ====
section
/-!
SUPPORT. The family `Opcode`, one lemma for each constructor: the first word of an instruction carries the instruction's major opcode.
-/
namespace Sys2Proof.Laws

/-- The common fields put the opcode on top (Table 3.5). -/
theorem wordOpc_packCommon (opc : BitVec 8) (var : BitVec 4) (g : Guard) (dst : BitVec 8) (low : BitVec 40) :
    wordOpc (packCommon opc var g dst low) = opc := by
  apply BitVec.eq_of_getLsbD_eq
  intro i hi
  have h1 : ¬ 56 + i < 56 := by omega
  have h2 : 56 + i - 4 - 1 - 3 - 8 - 40 = i := by omega
  simp only [wordOpc, packCommon, BitVec.getLsbD_extractLsb', BitVec.getLsbD_append]
  simp [hi, h1]

/-- The first word of an instruction that has an opcode carries it. -/
def Opcode.Statement (i : Instr) : Prop := ∀ o, i.opc = some o → ∃ w rest, encode i = w :: rest ∧ wordOpc w = o

/-- An instruction whose only word is packed over the common fields. -/
theorem Opcode.packed {i : Instr} {opc : BitVec 8} {var : BitVec 4} {g : Guard} {dst : BitVec 8} {low : BitVec 40} {rest : List DWord}
    (ho : i.opc = some opc) (he : encode i = packCommon opc var g dst low :: rest) : Opcode.Statement i := by
  intro o h
  rw [ho] at h
  injection h with h
  exact ⟨_, _, he, h ▸ wordOpc_packCommon ..⟩

/-- A device event has no opcode. -/
theorem Opcode.event {i : Instr} (ho : i.opc = none) : Opcode.Statement i := fun o h => by rw [ho] at h; exact nomatch h

/-! ## The constructors -/

theorem Opcode.iadd : ∀ a0, Opcode.Statement (.iadd a0) := fun _ => Opcode.packed rfl rfl
theorem Opcode.iaddImm : ∀ a0, Opcode.Statement (.iaddImm a0) := fun _ => Opcode.packed rfl rfl
theorem Opcode.isub : ∀ a0, Opcode.Statement (.isub a0) := fun _ => Opcode.packed rfl rfl
theorem Opcode.imul : ∀ a0, Opcode.Statement (.imul a0) := fun _ => Opcode.packed rfl rfl
theorem Opcode.imulImm : ∀ a0, Opcode.Statement (.imulImm a0) := fun _ => Opcode.packed rfl rfl
theorem Opcode.imulhi : ∀ a0, Opcode.Statement (.imulhi a0) := fun _ => Opcode.packed rfl rfl
theorem Opcode.imad : ∀ a0, Opcode.Statement (.imad a0) := fun _ => Opcode.packed rfl rfl
theorem Opcode.iadd64 : ∀ a0, Opcode.Statement (.iadd64 a0) := fun _ => Opcode.packed rfl rfl
theorem Opcode.iabs : ∀ a0, Opcode.Statement (.iabs a0) := fun _ => Opcode.packed rfl rfl
theorem Opcode.ineg : ∀ a0, Opcode.Statement (.ineg a0) := fun _ => Opcode.packed rfl rfl
theorem Opcode.imin : ∀ a0, Opcode.Statement (.imin a0) := fun _ => Opcode.packed rfl rfl
theorem Opcode.iminImm : ∀ a0, Opcode.Statement (.iminImm a0) := fun _ => Opcode.packed rfl rfl
theorem Opcode.imax : ∀ a0, Opcode.Statement (.imax a0) := fun _ => Opcode.packed rfl rfl
theorem Opcode.imaxImm : ∀ a0, Opcode.Statement (.imaxImm a0) := fun _ => Opcode.packed rfl rfl
theorem Opcode.ishl : ∀ a0, Opcode.Statement (.ishl a0) := fun _ => Opcode.packed rfl rfl
theorem Opcode.ishlImm : ∀ a0, Opcode.Statement (.ishlImm a0) := fun _ => Opcode.packed rfl rfl
theorem Opcode.ishr : ∀ a0, Opcode.Statement (.ishr a0) := fun _ => Opcode.packed rfl rfl
theorem Opcode.ishrImm : ∀ a0, Opcode.Statement (.ishrImm a0) := fun _ => Opcode.packed rfl rfl
theorem Opcode.isar : ∀ a0, Opcode.Statement (.isar a0) := fun _ => Opcode.packed rfl rfl
theorem Opcode.isarImm : ∀ a0, Opcode.Statement (.isarImm a0) := fun _ => Opcode.packed rfl rfl
theorem Opcode.irot : ∀ a0, Opcode.Statement (.irot a0) := fun _ => Opcode.packed rfl rfl
theorem Opcode.irotImm : ∀ a0, Opcode.Statement (.irotImm a0) := fun _ => Opcode.packed rfl rfl
theorem Opcode.and : ∀ a0, Opcode.Statement (.and a0) := fun _ => Opcode.packed rfl rfl
theorem Opcode.andImm : ∀ a0, Opcode.Statement (.andImm a0) := fun _ => Opcode.packed rfl rfl
theorem Opcode.or : ∀ a0, Opcode.Statement (.or a0) := fun _ => Opcode.packed rfl rfl
theorem Opcode.orImm : ∀ a0, Opcode.Statement (.orImm a0) := fun _ => Opcode.packed rfl rfl
theorem Opcode.xor : ∀ a0, Opcode.Statement (.xor a0) := fun _ => Opcode.packed rfl rfl
theorem Opcode.xorImm : ∀ a0, Opcode.Statement (.xorImm a0) := fun _ => Opcode.packed rfl rfl
theorem Opcode.andn : ∀ a0, Opcode.Statement (.andn a0) := fun _ => Opcode.packed rfl rfl
theorem Opcode.popc : ∀ a0, Opcode.Statement (.popc a0) := fun _ => Opcode.packed rfl rfl
theorem Opcode.clz : ∀ a0, Opcode.Statement (.clz a0) := fun _ => Opcode.packed rfl rfl
theorem Opcode.ctz : ∀ a0, Opcode.Statement (.ctz a0) := fun _ => Opcode.packed rfl rfl
theorem Opcode.brev : ∀ a0, Opcode.Statement (.brev a0) := fun _ => Opcode.packed rfl rfl
theorem Opcode.lop3 : ∀ a0, Opcode.Statement (.lop3 a0) := fun _ => Opcode.packed rfl rfl
theorem Opcode.bfx : ∀ a0, Opcode.Statement (.bfx a0) := fun _ => Opcode.packed rfl rfl
theorem Opcode.bfxImm : ∀ a0, Opcode.Statement (.bfxImm a0) := fun _ => Opcode.packed rfl rfl
theorem Opcode.bfi : ∀ a0, Opcode.Statement (.bfi a0) := fun _ => Opcode.packed rfl rfl
theorem Opcode.sel : ∀ a0, Opcode.Statement (.sel a0) := fun _ => Opcode.packed rfl rfl
theorem Opcode.icmp : ∀ a0, Opcode.Statement (.icmp a0) := fun _ => Opcode.packed rfl rfl
theorem Opcode.icmpImm : ∀ a0, Opcode.Statement (.icmpImm a0) := fun _ => Opcode.packed rfl rfl
theorem Opcode.mov : ∀ a0, Opcode.Statement (.mov a0) := fun _ => Opcode.packed rfl rfl
theorem Opcode.movi : ∀ a0, Opcode.Statement (.movi a0) := fun _ => Opcode.packed rfl rfl
theorem Opcode.nop : ∀ a0, Opcode.Statement (.nop a0) := fun _ => Opcode.packed rfl rfl
theorem Opcode.pand : ∀ a0, Opcode.Statement (.pand a0) := fun _ => Opcode.packed rfl rfl
theorem Opcode.por : ∀ a0, Opcode.Statement (.por a0) := fun _ => Opcode.packed rfl rfl
theorem Opcode.pxor : ∀ a0, Opcode.Statement (.pxor a0) := fun _ => Opcode.packed rfl rfl
theorem Opcode.pnot : ∀ a0, Opcode.Statement (.pnot a0) := fun _ => Opcode.packed rfl rfl
theorem Opcode.pmov : ∀ a0, Opcode.Statement (.pmov a0) := fun _ => Opcode.packed rfl rfl
theorem Opcode.qxch : ∀ a0, Opcode.Statement (.qxch a0) := fun _ => Opcode.packed rfl rfl
theorem Opcode.qbcast : ∀ a0, Opcode.Statement (.qbcast a0) := fun _ => Opcode.packed rfl rfl
theorem Opcode.gshf : ∀ a0, Opcode.Statement (.gshf a0) := fun _ => Opcode.packed rfl rfl
theorem Opcode.vote : ∀ a0, Opcode.Statement (.vote a0) := fun _ => Opcode.packed rfl rfl
theorem Opcode.matchWord : ∀ a0, Opcode.Statement (.matchWord a0) := fun _ => Opcode.packed rfl rfl
theorem Opcode.elect : ∀ a0, Opcode.Statement (.elect a0) := fun _ => Opcode.packed rfl rfl
theorem Opcode.fadd : ∀ a0, Opcode.Statement (.fadd a0) := fun _ => Opcode.packed rfl rfl
theorem Opcode.fsub : ∀ a0, Opcode.Statement (.fsub a0) := fun _ => Opcode.packed rfl rfl
theorem Opcode.fmul : ∀ a0, Opcode.Statement (.fmul a0) := fun _ => Opcode.packed rfl rfl
theorem Opcode.fma : ∀ a0, Opcode.Statement (.fma a0) := fun _ => Opcode.packed rfl rfl
theorem Opcode.fscale : ∀ a0, Opcode.Statement (.fscale a0) := fun _ => Opcode.packed rfl rfl
theorem Opcode.fround : ∀ a0, Opcode.Statement (.fround a0) := fun _ => Opcode.packed rfl rfl
theorem Opcode.fmin : ∀ a0, Opcode.Statement (.fmin a0) := fun _ => Opcode.packed rfl rfl
theorem Opcode.fmax : ∀ a0, Opcode.Statement (.fmax a0) := fun _ => Opcode.packed rfl rfl
theorem Opcode.fminn : ∀ a0, Opcode.Statement (.fminn a0) := fun _ => Opcode.packed rfl rfl
theorem Opcode.fmaxn : ∀ a0, Opcode.Statement (.fmaxn a0) := fun _ => Opcode.packed rfl rfl
theorem Opcode.fabs : ∀ a0, Opcode.Statement (.fabs a0) := fun _ => Opcode.packed rfl rfl
theorem Opcode.fneg : ∀ a0, Opcode.Statement (.fneg a0) := fun _ => Opcode.packed rfl rfl
theorem Opcode.fcmp : ∀ a0, Opcode.Statement (.fcmp a0) := fun _ => Opcode.packed rfl rfl
theorem Opcode.fclass : ∀ a0, Opcode.Statement (.fclass a0) := fun _ => Opcode.packed rfl rfl
theorem Opcode.frcp : ∀ a0, Opcode.Statement (.frcp a0) := fun _ => Opcode.packed rfl rfl
theorem Opcode.frsq : ∀ a0, Opcode.Statement (.frsq a0) := fun _ => Opcode.packed rfl rfl
theorem Opcode.fsqrt : ∀ a0, Opcode.Statement (.fsqrt a0) := fun _ => Opcode.packed rfl rfl
theorem Opcode.fexp2 : ∀ a0, Opcode.Statement (.fexp2 a0) := fun _ => Opcode.packed rfl rfl
theorem Opcode.flog2 : ∀ a0, Opcode.Statement (.flog2 a0) := fun _ => Opcode.packed rfl rfl
theorem Opcode.fsin : ∀ a0, Opcode.Statement (.fsin a0) := fun _ => Opcode.packed rfl rfl
theorem Opcode.fcos : ∀ a0, Opcode.Statement (.fcos a0) := fun _ => Opcode.packed rfl rfl
theorem Opcode.ftanh : ∀ a0, Opcode.Statement (.ftanh a0) := fun _ => Opcode.packed rfl rfl
theorem Opcode.cvt : ∀ a0, Opcode.Statement (.cvt a0) := fun _ => Opcode.packed rfl rfl
theorem Opcode.fpk : ∀ a0, Opcode.Statement (.fpk a0) := fun _ => Opcode.packed rfl rfl
theorem Opcode.hadd2 : ∀ a0, Opcode.Statement (.hadd2 a0) := fun _ => Opcode.packed rfl rfl
theorem Opcode.hmul2 : ∀ a0, Opcode.Statement (.hmul2 a0) := fun _ => Opcode.packed rfl rfl
theorem Opcode.hfma2 : ∀ a0, Opcode.Statement (.hfma2 a0) := fun _ => Opcode.packed rfl rfl
theorem Opcode.fdot2 : ∀ a0, Opcode.Statement (.fdot2 a0) := fun _ => Opcode.packed rfl rfl
theorem Opcode.qmx : ∀ a0, Opcode.Statement (.qmx a0) := fun _ => Opcode.packed rfl rfl
theorem Opcode.mma : ∀ a0, Opcode.Statement (.mma a0) := fun _ => Opcode.packed rfl rfl
theorem Opcode.mzero : ∀ a0, Opcode.Statement (.mzero a0) := fun _ => Opcode.packed rfl rfl
theorem Opcode.mld : ∀ a0, Opcode.Statement (.mld a0) := fun _ => Opcode.packed rfl rfl
theorem Opcode.mst : ∀ a0, Opcode.Statement (.mst a0) := fun _ => Opcode.packed rfl rfl
theorem Opcode.mrd : ∀ a0, Opcode.Statement (.mrd a0) := fun _ => Opcode.packed rfl rfl
theorem Opcode.mwr : ∀ a0, Opcode.Statement (.mwr a0) := fun _ => Opcode.packed rfl rfl
theorem Opcode.mscl : ∀ a0, Opcode.Statement (.mscl a0) := fun _ => Opcode.packed rfl rfl
theorem Opcode.mtd : ∀ a0, Opcode.Statement (.mtd a0) := fun _ => Opcode.packed rfl rfl
theorem Opcode.mfd : ∀ a0, Opcode.Statement (.mfd a0) := fun _ => Opcode.packed rfl rfl
theorem Opcode.mfmt : ∀ a0, Opcode.Statement (.mfmt a0) := fun _ => Opcode.packed rfl rfl
theorem Opcode.ld : ∀ a0, Opcode.Statement (.ld a0) := fun _ => Opcode.packed rfl rfl
theorem Opcode.st : ∀ a0, Opcode.Statement (.st a0) := fun _ => Opcode.packed rfl rfl
theorem Opcode.ldw : ∀ a0, Opcode.Statement (.ldw a0) := fun _ => Opcode.packed rfl rfl
theorem Opcode.stf : ∀ a0, Opcode.Statement (.stf a0) := fun _ => Opcode.packed rfl rfl
theorem Opcode.pref : ∀ a0, Opcode.Statement (.pref a0) := fun _ => Opcode.packed rfl rfl
theorem Opcode.atom : ∀ a0, Opcode.Statement (.atom a0) := fun _ => Opcode.packed rfl rfl
theorem Opcode.cas : ∀ a0, Opcode.Statement (.cas a0) := fun _ => Opcode.packed rfl rfl
theorem Opcode.fence : ∀ a0, Opcode.Statement (.fence a0) := fun _ => Opcode.packed rfl rfl
theorem Opcode.promote : ∀ a0, Opcode.Statement (.promote a0) := fun _ => Opcode.packed rfl rfl
theorem Opcode.waitc : ∀ a0, Opcode.Statement (.waitc a0) := fun _ => Opcode.packed rfl rfl
theorem Opcode.bandj : ∀ a0, Opcode.Statement (.bandj a0) := fun _ => Opcode.packed rfl rfl
theorem Opcode.bandl : ∀ a0, Opcode.Statement (.bandl a0) := fun _ => Opcode.packed rfl rfl
theorem Opcode.bandx : ∀ a0, Opcode.Statement (.bandx a0) := fun _ => Opcode.packed rfl rfl
theorem Opcode.wbr : ∀ a0, Opcode.Statement (.wbr a0) := fun _ => Opcode.packed rfl rfl
theorem Opcode.invr : ∀ a0, Opcode.Statement (.invr a0) := fun _ => Opcode.packed rfl rfl
theorem Opcode.mapset : ∀ a0, Opcode.Statement (.mapset a0) := fun _ => Opcode.packed rfl rfl
theorem Opcode.mapflush : ∀ a0, Opcode.Statement (.mapflush a0) := fun _ => Opcode.packed rfl rfl
theorem Opcode.hld : ∀ a0, Opcode.Statement (.hld a0) := fun _ => Opcode.packed rfl rfl
theorem Opcode.push : ∀ a0, Opcode.Statement (.push a0) := fun _ => Opcode.packed rfl rfl
theorem Opcode.tstream : ∀ a0, Opcode.Statement (.tstream a0) := fun _ => Opcode.packed rfl rfl
theorem Opcode.fetcht : ∀ a0, Opcode.Statement (.fetcht a0) := fun _ => Opcode.packed rfl rfl
theorem Opcode.bar : ∀ a0, Opcode.Statement (.bar a0) := fun _ => Opcode.packed rfl rfl
theorem Opcode.barb : ∀ a0, Opcode.Statement (.barb a0) := fun _ => Opcode.packed rfl rfl
theorem Opcode.mfs : ∀ a0, Opcode.Statement (.mfs a0) := fun _ => Opcode.packed rfl rfl
theorem Opcode.mts : ∀ a0, Opcode.Statement (.mts a0) := fun _ => Opcode.packed rfl rfl
theorem Opcode.getc : ∀ a0, Opcode.Statement (.getc a0) := fun _ => Opcode.packed rfl rfl
theorem Opcode.yield : ∀ a0, Opcode.Statement (.yield a0) := fun _ => Opcode.packed rfl rfl
theorem Opcode.sleep : ∀ a0, Opcode.Statement (.sleep a0) := fun _ => Opcode.packed rfl rfl
theorem Opcode.xacq : ∀ a0, Opcode.Statement (.xacq a0) := fun _ => Opcode.packed rfl rfl
theorem Opcode.xrel : ∀ a0, Opcode.Statement (.xrel a0) := fun _ => Opcode.packed rfl rfl
theorem Opcode.inject : ∀ a0, Opcode.Statement (.inject a0) := fun _ => Opcode.packed rfl rfl
theorem Opcode.bra : ∀ a0, Opcode.Statement (.bra a0) := fun _ => Opcode.packed rfl rfl
theorem Opcode.brx : ∀ a0, Opcode.Statement (.brx a0) := fun _ => Opcode.packed rfl rfl
theorem Opcode.call : ∀ a0, Opcode.Statement (.call a0) := fun _ => Opcode.packed rfl rfl
theorem Opcode.ret : ∀ a0, Opcode.Statement (.ret a0) := fun _ => Opcode.packed rfl rfl
theorem Opcode.jmpi : ∀ a0, Opcode.Statement (.jmpi a0) := fun _ => Opcode.packed rfl rfl
theorem Opcode.rejoin : ∀ a0, Opcode.Statement (.rejoin a0) := fun _ => Opcode.packed rfl rfl
theorem Opcode.kill : ∀ a0, Opcode.Statement (.kill a0) := fun _ => Opcode.packed rfl rfl
theorem Opcode.exit : ∀ a0, Opcode.Statement (.exit a0) := fun _ => Opcode.packed rfl rfl
theorem Opcode.trap : ∀ a0, Opcode.Statement (.trap a0) := fun _ => Opcode.packed rfl rfl
theorem Opcode.rett : ∀ a0, Opcode.Statement (.rett a0) := fun _ => Opcode.packed rfl rfl
theorem Opcode.slotVote : ∀ a0 a1, Opcode.Statement (.slotVote a0 a1) := fun _ _ => Opcode.event rfl
theorem Opcode.clauseFetchDone : ∀ a0 a1 a2 a3 a4, Opcode.Statement (.clauseFetchDone a0 a1 a2 a3 a4) := fun _ _ _ _ _ => Opcode.event rfl
theorem Opcode.registerFill : ∀ a0 a1, Opcode.Statement (.registerFill a0 a1) := fun _ _ => Opcode.event rfl
theorem Opcode.checkedCompare : ∀ a0 a1, Opcode.Statement (.checkedCompare a0 a1) := fun _ _ => Opcode.event rfl
theorem Opcode.checkedWaitExpiry : ∀ a0, Opcode.Statement (.checkedWaitExpiry a0) := fun _ => Opcode.event rfl
theorem Opcode.spinDetectLower : ∀ a0, Opcode.Statement (.spinDetectLower a0) := fun _ => Opcode.event rfl
theorem Opcode.spinReleaseTimeout : ∀ a0, Opcode.Statement (.spinReleaseTimeout a0) := fun _ => Opcode.event rfl
theorem Opcode.asyncTrapDelivery : ∀ a0, Opcode.Statement (.asyncTrapDelivery a0) := fun _ => Opcode.event rfl
theorem Opcode.sleepExpiry : ∀ a0, Opcode.Statement (.sleepExpiry a0) := fun _ => Opcode.event rfl
theorem Opcode.waitcReread : ∀ a0 a1, Opcode.Statement (.waitcReread a0 a1) := fun _ _ => Opcode.event rfl
theorem Opcode.homeSliceRequest : ∀ a0, Opcode.Statement (.homeSliceRequest a0) := fun _ => Opcode.event rfl
theorem Opcode.releaseActionsDone : ∀ a0 a1, Opcode.Statement (.releaseActionsDone a0 a1) := fun _ _ => Opcode.event rfl
theorem Opcode.l1WayWritebackDone : ∀ a0 a1, Opcode.Statement (.l1WayWritebackDone a0 a1) := fun _ _ => Opcode.event rfl
theorem Opcode.hbmSectorRead : ∀ a0 a1 a2, Opcode.Statement (.hbmSectorRead a0 a1 a2) := fun _ _ _ => Opcode.event rfl
theorem Opcode.walkStart : ∀ a0, Opcode.Statement (.walkStart a0) := fun _ => Opcode.event rfl
theorem Opcode.walkComplete : ∀ a0, Opcode.Statement (.walkComplete a0) := fun _ => Opcode.event rfl
theorem Opcode.faultRecordWrite : ∀ a0, Opcode.Statement (.faultRecordWrite a0) := fun _ => Opcode.event rfl
theorem Opcode.faultAnswerResolved : ∀ a0, Opcode.Statement (.faultAnswerResolved a0) := fun _ => Opcode.event rfl
theorem Opcode.faultAnswerRefused : ∀ a0, Opcode.Statement (.faultAnswerRefused a0) := fun _ => Opcode.event rfl
theorem Opcode.invalidateRange : ∀ a0, Opcode.Statement (.invalidateRange a0) := fun _ => Opcode.event rfl
theorem Opcode.invalidateContext : ∀ a0, Opcode.Statement (.invalidateContext a0) := fun _ => Opcode.event rfl
theorem Opcode.invalidationDone : ∀ a0, Opcode.Statement (.invalidationDone a0) := fun _ => Opcode.event rfl
theorem Opcode.placementCountThreshold : ∀ a0, Opcode.Statement (.placementCountThreshold a0) := fun _ => Opcode.event rfl
theorem Opcode.storageFrameTaken : ∀ a0, Opcode.Statement (.storageFrameTaken a0) := fun _ => Opcode.event rfl
theorem Opcode.storagePageReadDone : ∀ a0 a1, Opcode.Statement (.storagePageReadDone a0 a1) := fun _ _ => Opcode.event rfl
theorem Opcode.reclaimSweep : ∀ a0 a1, Opcode.Statement (.reclaimSweep a0 a1) := fun _ _ => Opcode.event rfl
theorem Opcode.reclaimWritebackDone : ∀ a0 a1 a2, Opcode.Statement (.reclaimWritebackDone a0 a1 a2) := fun _ _ _ => Opcode.event rfl
theorem Opcode.flist : ∀ a0 a1, Opcode.Statement (.flist a0 a1) := fun _ _ => Opcode.event rfl
theorem Opcode.engineCommandStart : ∀ a0, Opcode.Statement (.engineCommandStart a0) := fun _ => Opcode.event rfl
theorem Opcode.copyRows : ∀ a0, Opcode.Statement (.copyRows a0) := fun _ => Opcode.event rfl
theorem Opcode.fillRows : ∀ a0, Opcode.Statement (.fillRows a0) := fun _ => Opcode.event rfl
theorem Opcode.allReduce : ∀ a0, Opcode.Statement (.allReduce a0) := fun _ => Opcode.event rfl
theorem Opcode.reduceScatter : ∀ a0, Opcode.Statement (.reduceScatter a0) := fun _ => Opcode.event rfl
theorem Opcode.allGather : ∀ a0, Opcode.Statement (.allGather a0) := fun _ => Opcode.event rfl
theorem Opcode.broadcast : ∀ a0, Opcode.Statement (.broadcast a0) := fun _ => Opcode.event rfl
theorem Opcode.storageRead : ∀ a0 a1, Opcode.Statement (.storageRead a0 a1) := fun _ _ => Opcode.event rfl
theorem Opcode.storageWrite : ∀ a0 a1, Opcode.Statement (.storageWrite a0 a1) := fun _ _ => Opcode.event rfl
theorem Opcode.storageFlush : ∀ a0 a1, Opcode.Statement (.storageFlush a0 a1) := fun _ _ => Opcode.event rfl
theorem Opcode.launchCommand : ∀ a0, Opcode.Statement (.launchCommand a0) := fun _ => Opcode.event rfl
theorem Opcode.tstreamLoad : ∀ a0, Opcode.Statement (.tstreamLoad a0) := fun _ => Opcode.event rfl
theorem Opcode.tstreamStore : ∀ a0, Opcode.Statement (.tstreamStore a0) := fun _ => Opcode.event rfl
theorem Opcode.commandCompletion : ∀ a0, Opcode.Statement (.commandCompletion a0) := fun _ => Opcode.event rfl
theorem Opcode.dispenserRequest : ∀ a0 a1, Opcode.Statement (.dispenserRequest a0 a1) := fun _ _ => Opcode.event rfl
theorem Opcode.stealRequest : ∀ a0 a1, Opcode.Statement (.stealRequest a0 a1) := fun _ _ => Opcode.event rfl
theorem Opcode.stealAnswer : ∀ a0 a1, Opcode.Statement (.stealAnswer a0 a1) := fun _ _ => Opcode.event rfl
theorem Opcode.kick : ∀ a0 a1 a2, Opcode.Statement (.kick a0 a1 a2) := fun _ _ _ => Opcode.event rfl
theorem Opcode.launchRecordTake : ∀ a0, Opcode.Statement (.launchRecordTake a0) := fun _ => Opcode.event rfl
theorem Opcode.bindRecord : ∀ a0, Opcode.Statement (.bindRecord a0) := fun _ => Opcode.event rfl
theorem Opcode.atticWriteAck : ∀ a0, Opcode.Statement (.atticWriteAck a0) := fun _ => Opcode.event rfl
theorem Opcode.mapAtticWriteback : ∀ a0, Opcode.Statement (.mapAtticWriteback a0) := fun _ => Opcode.event rfl
theorem Opcode.restoreFrameReadDone : ∀ a0, Opcode.Statement (.restoreFrameReadDone a0) := fun _ => Opcode.event rfl
theorem Opcode.cooperativePreemptRequest : ∀ a0 a1, Opcode.Statement (.cooperativePreemptRequest a0 a1) := fun _ _ => Opcode.event rfl
theorem Opcode.budgetOverrun : ∀ a0, Opcode.Statement (.budgetOverrun a0) := fun _ => Opcode.event rfl
theorem Opcode.saveComplete : ∀ a0, Opcode.Statement (.saveComplete a0) := fun _ => Opcode.event rfl
theorem Opcode.spatialPreemptRequest : ∀ a0 a1, Opcode.Statement (.spatialPreemptRequest a0 a1) := fun _ _ => Opcode.event rfl
theorem Opcode.cohortSwap : ∀ a0, Opcode.Statement (.cohortSwap a0) := fun _ => Opcode.event rfl
theorem Opcode.groupRetire : ∀ a0, Opcode.Statement (.groupRetire a0) := fun _ => Opcode.event rfl
theorem Opcode.cohortRetire : ∀ a0, Opcode.Statement (.cohortRetire a0) := fun _ => Opcode.event rfl
theorem Opcode.completionEntryWrite : ∀ a0, Opcode.Statement (.completionEntryWrite a0) := fun _ => Opcode.event rfl
theorem Opcode.bandAskArrival : ∀ a0 a1 a2, Opcode.Statement (.bandAskArrival a0 a1 a2) := fun _ _ _ => Opcode.event rfl
theorem Opcode.bandHoldTimerExpiry : ∀ a0 a1, Opcode.Statement (.bandHoldTimerExpiry a0 a1) := fun _ _ => Opcode.event rfl
theorem Opcode.bandFillLand : ∀ a0 a1, Opcode.Statement (.bandFillLand a0 a1) := fun _ _ => Opcode.event rfl
theorem Opcode.firstTouchFillDone : ∀ a0 a1 a2, Opcode.Statement (.firstTouchFillDone a0 a1 a2) := fun _ _ _ => Opcode.event rfl
theorem Opcode.homeUnavailableRetry : ∀ a0, Opcode.Statement (.homeUnavailableRetry a0) := fun _ => Opcode.event rfl
theorem Opcode.regulatorRefill : ∀ a0, Opcode.Statement (.regulatorRefill a0) := fun _ => Opcode.event rfl
theorem Opcode.rafterAllowanceRefill : ∀ a0, Opcode.Statement (.rafterAllowanceRefill a0) := fun _ => Opcode.event rfl
theorem Opcode.patrolScrubRead : ∀ a0 a1, Opcode.Statement (.patrolScrubRead a0 a1) := fun _ _ => Opcode.event rfl
theorem Opcode.demandScrub : ∀ a0, Opcode.Statement (.demandScrub a0) := fun _ => Opcode.event rfl
theorem Opcode.reblockOrder : ∀ a0 a1, Opcode.Statement (.reblockOrder a0 a1) := fun _ _ => Opcode.event rfl
theorem Opcode.reblockRehash : ∀ a0, Opcode.Statement (.reblockRehash a0) := fun _ => Opcode.event rfl
theorem Opcode.partitionReset : ∀ a0 a1, Opcode.Statement (.partitionReset a0 a1) := fun _ _ => Opcode.event rfl
theorem Opcode.drainExpiry : ∀ a0, Opcode.Statement (.drainExpiry a0) := fun _ => Opcode.event rfl
theorem Opcode.lockInterface : ∀ a0, Opcode.Statement (.lockInterface a0) := fun _ => Opcode.event rfl
theorem Opcode.startInterface : ∀ a0, Opcode.Statement (.startInterface a0) := fun _ => Opcode.event rfl
theorem Opcode.stopInterface : ∀ a0, Opcode.Statement (.stopInterface a0) := fun _ => Opcode.event rfl
theorem Opcode.lockedItemChange : ∀ a0, Opcode.Statement (.lockedItemChange a0) := fun _ => Opcode.event rfl
theorem Opcode.invreq : ∀ a0 a1, Opcode.Statement (.invreq a0 a1) := fun _ _ => Opcode.event rfl
theorem Opcode.fresp : ∀ a0 a1 a2, Opcode.Statement (.fresp a0 a1 a2) := fun _ _ _ => Opcode.event rfl
theorem Opcode.logreq : ∀ a0 a1, Opcode.Statement (.logreq a0 a1) := fun _ _ => Opcode.event rfl
theorem Opcode.accessLogRecord : ∀ a0, Opcode.Statement (.accessLogRecord a0) := fun _ => Opcode.event rfl
theorem Opcode.registerWrite : ∀ a0 a1, Opcode.Statement (.registerWrite a0 a1) := fun _ _ => Opcode.event rfl
theorem Opcode.precopy : ∀ a0, Opcode.Statement (.precopy a0) := fun _ => Opcode.event rfl
theorem Opcode.stop : ∀ a0, Opcode.Statement (.stop a0) := fun _ => Opcode.event rfl
theorem Opcode.migrationStopped : ∀ a0, Opcode.Statement (.migrationStopped a0) := fun _ => Opcode.event rfl
theorem Opcode.resume : ∀ a0, Opcode.Statement (.resume a0) := fun _ => Opcode.event rfl
theorem Opcode.abort : ∀ a0, Opcode.Statement (.abort a0) := fun _ => Opcode.event rfl
theorem Opcode.finish : ∀ a0, Opcode.Statement (.finish a0) := fun _ => Opcode.event rfl
theorem Opcode.migackSource : ∀ a0 a1, Opcode.Statement (.migackSource a0 a1) := fun _ _ => Opcode.event rfl
theorem Opcode.migackDestination : ∀ a0 a1, Opcode.Statement (.migackDestination a0 a1) := fun _ _ => Opcode.event rfl
theorem Opcode.keyDomainLoad : ∀ a0 a1, Opcode.Statement (.keyDomainLoad a0 a1) := fun _ _ => Opcode.event rfl
theorem Opcode.rafterPortsDown : ∀ a0, Opcode.Statement (.rafterPortsDown a0) := fun _ => Opcode.event rfl
theorem Opcode.ringStepTimeout : ∀ a0 a1, Opcode.Statement (.ringStepTimeout a0 a1) := fun _ _ => Opcode.event rfl
theorem Opcode.propose : ∀ a0, Opcode.Statement (.propose a0) := fun _ => Opcode.event rfl
theorem Opcode.accept : ∀ a0, Opcode.Statement (.accept a0) := fun _ => Opcode.event rfl
theorem Opcode.refuse : ∀ a0, Opcode.Statement (.refuse a0) := fun _ => Opcode.event rfl
theorem Opcode.commit : ∀ a0, Opcode.Statement (.commit a0) := fun _ => Opcode.event rfl
theorem Opcode.agreementTimeout : ∀ a0, Opcode.Statement (.agreementTimeout a0) := fun _ => Opcode.event rfl
theorem Opcode.joinreq : ∀ a0, Opcode.Statement (.joinreq a0) := fun _ => Opcode.event rfl
theorem Opcode.exclude : ∀ a0, Opcode.Statement (.exclude a0) := fun _ => Opcode.event rfl
theorem Opcode.viewDataPacket : ∀ a0, Opcode.Statement (.viewDataPacket a0) := fun _ => Opcode.event rfl
theorem Opcode.collectiveAbort : ∀ a0, Opcode.Statement (.collectiveAbort a0) := fun _ => Opcode.event rfl
theorem Opcode.powerGood : Opcode.Statement (.powerGood) := Opcode.event rfl
theorem Opcode.imageUnlock : Opcode.Statement (.imageUnlock) := Opcode.event rfl
theorem Opcode.heartbeat : ∀ a0, Opcode.Statement (.heartbeat a0) := fun _ => Opcode.event rfl
theorem Opcode.watchdogExpiry : ∀ a0, Opcode.Statement (.watchdogExpiry a0) := fun _ => Opcode.event rfl
theorem Opcode.warmResetOrder : ∀ a0 a1 a2 a3, Opcode.Statement (.warmResetOrder a0 a1 a2 a3) := fun _ _ _ _ => Opcode.event rfl
theorem Opcode.warmResetReadmit : ∀ a0, Opcode.Statement (.warmResetReadmit a0) := fun _ => Opcode.event rfl
theorem Opcode.selfTest : ∀ a0 a1, Opcode.Statement (.selfTest a0 a1) := fun _ _ => Opcode.event rfl
theorem Opcode.imageInstall : ∀ a0 a1 a2, Opcode.Statement (.imageInstall a0 a1 a2) := fun _ _ _ => Opcode.event rfl
theorem Opcode.boostIntervalBoundary : ∀ a0, Opcode.Statement (.boostIntervalBoundary a0) := fun _ => Opcode.event rfl
theorem Opcode.boostClaim : ∀ a0, Opcode.Statement (.boostClaim a0) := fun _ => Opcode.event rfl
theorem Opcode.illegalInstruction : ∀ a0 a1, Opcode.Statement (.illegalInstruction a0 a1) := fun _ _ => Opcode.event rfl
theorem Opcode.matrixWordRetire : ∀ a0 a1, Opcode.Statement (.matrixWordRetire a0 a1) := fun _ _ => Opcode.event rfl
theorem Opcode.powerRemoved : Opcode.Statement (.powerRemoved) := Opcode.event rfl
theorem Opcode.partitionFormation : ∀ a0, Opcode.Statement (.partitionFormation a0) := fun _ => Opcode.event rfl
theorem Opcode.membershipGroupDefinition : ∀ a0 a1 a2, Opcode.Statement (.membershipGroupDefinition a0 a1 a2) := fun _ _ _ => Opcode.event rfl
theorem Opcode.interfaceCreation : ∀ a0, Opcode.Statement (.interfaceCreation a0) := fun _ => Opcode.event rfl
theorem Opcode.coreWithdrawal : ∀ a0 a1, Opcode.Statement (.coreWithdrawal a0 a1) := fun _ _ => Opcode.event rfl

end Sys2Proof.Laws
end

