-- ==== Sys2Proof/Laws/Words.lean ====
section
/-!
SUPPORT. What a word that goes ahead does, said once: the injector leaves a quiet partition alone, the lanes of the verdict are the
active lanes, and `runWord` answers the state of its effect with the issue set past the word.
-/
namespace Sys2Proof.Machine

theorem State.injectEvent_quiet (s : State) (p t u : Nat) (h : s.calm p) :
    s.injectEvent p t u = (s, false) := by
  unfold State.injectEvent
  split
  · rfl
  · rename_i q hq; simp [h q hq]

theorem State.injectStore_quiet (s : State) (x : Ctx) (act : Mask) (ss : List SrcOp)
    (h : s.calm x.l.part) : s.injectStore x act ss = s := by
  unfold State.injectStore
  simp only [State.injectEvent_quiet s _ _ _ h]
  repeat' split
  all_goals first | rfl | simp_all [State.injectEvent_quiet s _ _ _ h]

theorem State.injectResult_quiet (s : State) (x : Ctx) (act : Mask) (ds : List DstOp)
    (h : s.calm x.l.part) : s.injectResult x act ds = (s, false) := by
  unfold State.injectResult
  simp only [State.injectEvent_quiet s _ _ _ h]
  repeat' split
  all_goals first | rfl | simp_all

theorem maskOf_nil : maskOf [] = 0 := by decide

/-- The lanes that go ahead are the active ones. -/
theorem Ctx.check_lanes {x : Ctx} {w : WordSpec} {lanes : Mask} (hw : w.quiet = false) (h : x.check w = .go lanes []) :
    x.active w.guard = lanes := by
  simp only [Ctx.check, hw, Bool.false_eq_true, if_false] at h
  split at h; · exact nomatch h
  split at h; · exact nomatch h
  split at h; · exact nomatch h
  split at h; · exact nomatch h
  split at h; · exact nomatch h
  split at h; · exact nomatch h
  split at h; · exact nomatch h
  injection h with h1 h2
  rw [← h1, List.map_eq_nil_iff.mp h2, List.map_nil, maskOf_nil, show ~~~(0 : Mask) = BitVec.allOnes 16 by decide, BitVec.and_allOnes]

/-- Some lane goes ahead. -/
theorem State.Goes.lanes_ne {s : State} {w : WordSpec} {x : Ctx} {lanes : Mask} (hw : w.quiet = false) (g : s.Goes w x lanes) :
    lanes ≠ 0 := by
  intro h
  have h1 := Ctx.check_lanes hw g.check
  have h2 := g.check
  simp [Ctx.check, h1, h] at h2

/-- A word that goes ahead and completes moves past itself. -/
theorem State.runWord_done {s : State} {w : WordSpec} {x : Ctx} {lanes : Mask} {body} {t : State} (hw : w.quiet = false)
    (g : s.Goes w x lanes) (hb : body x lanes s = .done t []) (hq : t.calm x.l.part) :
    s.runWord w body = t.advance x (x.active w.guard) := by
  unfold State.runWord
  simp only [g.ctx, g.moves, Bool.false_eq_true, State.injectStore_quiet s x _ _ g.quiet, g.check, g.lanes_ne hw, if_false, hb, State.injectResult_quiet t x _ _ hq,
    List.append_nil, List.isEmpty_nil, if_true]

/-- A word that writes a register in each lane. -/
theorem State.runLanes_does {s : State} {w : WordSpec} {x : Ctx} {lanes : Mask} {d : Nat} {f : Ctx → Nat → List Word}
    (hw : w.quiet = false) (g : s.Goes w x lanes) :
    s.runLanes w d f = (s.wrote x lanes d (f x)).advance x (x.active w.guard) :=
  State.runWord_done hw g (by simp only [Ctx.check_lanes hw g.check]; rfl) g.quiet

/-- A word that writes a predicate in each lane. -/
theorem State.runPreds_does {s : State} {w : WordSpec} {x : Ctx} {lanes : Mask} {d : Nat} {f : Ctx → Mask → Nat → Bool}
    (hw : w.quiet = false) (g : s.Goes w x lanes) :
    s.runPreds w d f = (s.wrotePred x lanes d (f x lanes)).advance x (x.active w.guard) :=
  State.runWord_done hw g rfl g.quiet

/-- A control word ends its clause. -/
theorem State.runWord_jump {s : State} {w : WordSpec} {x : Ctx} {lanes : Mask} {body} {t : State} {pcs : List (Nat × DWord)}
    (hw : w.quiet = false) (g : s.Goes w x lanes) (hb : body x lanes s = .jump t [] pcs) : s.runWord w body = t.leave x lanes pcs := by
  unfold State.runWord
  simp only [g.ctx, g.moves, Bool.false_eq_true, State.injectStore_quiet s x _ _ g.quiet, g.check, g.lanes_ne hw, if_false, hb, Ctx.check_lanes hw g.check,
    List.append_nil, List.isEmpty_nil, if_true]

/-- An access of all active lanes is none with a lane of a w destination missing. -/
theorem Access.forLanes_same (a : Access) (m : Mask) : a.forLanes m m = a := by simp [Access.forLanes]

/-- With nothing held back a memory word goes on. -/
theorem Ctx.sendFirst_nil {x : Ctx} {w : WordRes} (h : x.g.sending = []) : x.sendFirst w = w := by simp [Ctx.sendFirst, h]

/-- A memory word sends its access. -/
theorem State.runMem_sends {s : State} {w : WordSpec} {x : Ctx} {lanes : Mask} {o : FmtM} {f : MemForm} {early : Bool} {fill}
    (hw : w.quiet = false) (g : s.Goes w x lanes) (ht : ∀ l, l ∈ maskLanes lanes → s.memTrap x o f l = none)
    (hr : x.reserves (fill x (x.asks o f (x.l.handle o.hnd.toNat) lanes)) = true → s.slotFree x.c = true)
    (hx : x.g.sending = [])
    (hc : (s.emit x early (.mem (fill x (x.asks o f (x.l.handle o.hnd.toNat) lanes)))).calm x.l.part) :
    s.runMem w o f early fill =
      .next ((s.emit x early (.mem (fill x (x.asks o f (x.l.handle o.hnd.toNat) lanes)))).advance x (x.active w.guard)) := by
  unfold State.runMem
  refine congrArg _ (State.runWord_done hw g ?_ hc)
  have h0 : (maskLanes lanes).filterMap (fun i => (s.memTrap x o f i).map (fun t => LaneTrap.mk i t.1 t.2)) = [] := by
    rw [List.filterMap_eq_nil_iff]; intro l hl; simp [ht l hl]
  have h1 : lanes &&& ~~~maskOf [] = lanes := by
    rw [maskOf_nil, show ~~~(0 : Mask) = BitVec.allOnes 16 by decide, BitVec.and_allOnes]
  simp only [h0, List.map_nil, h1, g.lanes_ne hw, if_false, Ctx.check_lanes hw g.check, Access.forLanes_same, Ctx.sendFirst_nil hx]
  split
  · rename_i h; simp only [Bool.and_eq_true, Bool.not_eq_true'] at h; exact absurd (hr h.1) (by simp [h.2])
  · rfl

end Sys2Proof.Machine
end

