-- ==== Sys2Proof/Tests/Slice0.lean ====
section
/-!
SUPPORT. The model's own tests: one ill-formed term for each check of WellFormed, words written out from the spec's encodings, one step on
small states, and witnesses for the hypotheses of the statements.
-/
namespace Sys2Proof.Tests
open Sys2Proof Sys2Proof.Machine

/-! ## Samples -/

/-- Every lane: p7, not inverted. -/
def always : Guard := ⟨false, 7⟩

def fv (var : BitVec 4) (dst sa sb sc : BitVec 8) (fx : BitVec 9) : FmtV :=
  { guard := always, var := var, dst := dst, sa := sa, sb := sb, sc := sc, ea := false, eb := false, ec := false, rnd := 0, sat := false, fx := fx }

def fi (var : BitVec 4) (dst sa : BitVec 8) (imm : BitVec 16) (fx : BitVec 11) : FmtI :=
  { guard := always, var := var, dst := dst, sa := sa, imm := imm, ea := false, rnd := 0, sat := false, fx := fx }

def fm (var : BitVec 4) (dst : BitVec 8) (hnd : BitVec 6) (sx sy : BitVec 8) (disp : BitVec 10) (scope : BitVec 3) (ord : BitVec 2) : FmtM :=
  { guard := always, var := var, dst := dst, hnd := hnd, sx := sx, sy := sy, disp := disp, ex := false, ey := false, ed := false,
    scope := scope, ord := ord }

def fx (dst : BitVec 8) (ta tb : BitVec 3) (sa sb : BitVec 8) (fx : BitVec 15) : FmtX :=
  { guard := always, var := 0, dst := dst, ta := ta, tb := tb, sa := sa, sb := sb, ea := false, eb := false, sat := false, fx := fx }

def fk (dst : BitVec 8) (disp : BitVec 24) (sa : BitVec 8) (fx : BitVec 7) : FmtK :=
  { guard := always, var := 0, dst := dst, disp := disp, sa := sa, ea := false, fx := fx }

def fs (dst : BitVec 8) (sysn : BitVec 12) (sa : BitVec 8) : FmtS :=
  { guard := always, var := 0, dst := dst, sysn := sysn, sa := sa, ea := false, fx := 0 }

def fw (dst : BitVec 8) (imm : BitVec 32) : FmtW := { guard := always, var := 0, dst := dst, imm := imm, ed := false, fx := 0 }

/-! ## Well-formedness: an ill-formed term for each check of Table 5.5 -/

theorem test_wf_var : (Instr.iadd (fv 0x3 1 2 3 0 0)).encInfo = some 0x02 := by decide
theorem test_wf_dst : (Instr.iadd (fv 0xC 0xE0 2 3 0 0)).encInfo = some 0x03 := by decide
theorem test_wf_sa : (Instr.iadd (fv 0xC 1 0xE7 3 0 0)).encInfo = some 0x04 := by decide
theorem test_wf_sb : (Instr.iadd (fv 0xC 1 2 0xF8 0 0)).encInfo = some 0x05 := by decide
theorem test_wf_sc : (Instr.sel (fv 0 1 2 3 8 0)).encInfo = some 0x06 := by decide
theorem test_wf_rnd : (Instr.fadd { fv 0 1 2 3 0 0 with rnd := 5 }).encInfo = some 0x07 := by decide
theorem test_wf_sat : (Instr.imulhi { fv 0xC 1 2 3 0 0 with sat := true }).encInfo = some 0x08 := by decide
theorem test_wf_fx : (Instr.lop3 (fv 0 1 2 3 4 8)).encInfo = some 0x09 := by decide
theorem test_wf_policy : (Instr.iadd { fv 0xC 1 0xE0 3 0 0 with ea := true }).encInfo = some 0x0A := by decide
theorem test_wf_scope : (Instr.ld (fm 4 2 1 1 0xE0 0 7 1)).encInfo = some 0x0B := by decide
theorem test_wf_ord : (Instr.ld (fm 4 2 1 1 0xE0 0 0 2)).encInfo = some 0x0C := by decide
theorem test_wf_align : (Instr.iadd64 (fv 0xE 2 5 6 0 0)).encInfo = some 0x0D := by decide
theorem test_wf_sysn : (Instr.mfs (fs 2 0x055 0)).encInfo = some 0x0E := by decide
theorem test_wf_pairs : (Instr.brx { guard := always, var := 0, dst := 0, p0 := 8, mid := 0, np := 0, hi := 0, p1 := 1, p2 := 0, p3 := 0 }).encInfo =
    some 0x0F := by decide
theorem test_wf_unused : (Instr.iabs (fv 0xC 1 2 3 0 0)).encInfo = some 0x10 := by decide
theorem test_wf_lowest : (Instr.iadd (fv 0x3 0xE0 2 0xF8 0 0)).encInfo = some 0x02 := by decide
theorem test_wf_legal : (Instr.iadd (fv 0xC 1 2 3 0 0)).WellFormed := by decide

/-! ## Small states -/

/-- A handle entry with every permission, base 0. -/
def entry (space limit : Nat) : BitVec 256 := BitVec.ofNat 256 (limit * 2 ^ 64 + space * 2 ^ 128 + 15 * 2 ^ 132)

/-- The reset state with a running group whose clause holds the words of an instruction, at the first of them; handle 0 is
GLOBAL, handle 1 SCRATCH, and handle 2 is unbound. -/
def small (words : List DWord) : State :=
  let s := (State.reset.placeWords words).modLaunch State.reset.nextId (fun l => { l with handles := [entry 0 (2 ^ 20), entry 1 65536] })
  s.atWord ⟨State.reset.nextId, 0, 0⟩ false

/-- The instruction at hand in a small state. -/
def placed (i : Instr) : State := small (encode i)

/-- The group of a small state. -/
def here : GRef := ⟨State.reset.nextId, 0, 0⟩

/-- The word goes ahead in all sixteen lanes. -/
def ahead (s : State) (w : WordSpec) : Bool :=
  s.parts.isEmpty && (match s.ctx? with
    | some x => !x.waits && x.check w == .go 0xFFFF []
    | none => false)

theorem goes_of_ahead {s : State} {w : WordSpec} (h : ahead s w = true) : ∃ x, s.Goes w x 0xFFFF := by
  unfold ahead at h
  rw [Bool.and_eq_true] at h
  cases hc : s.ctx? with
  | none => rw [hc] at h; exact absurd h.2 (by simp)
  | some x =>
    rw [hc] at h
    have h2 : x.waits = false ∧ x.check w = .go 0xFFFF [] := by simpa using h.2
    refine ⟨x, hc, h2.1, ?_, h2.2⟩
    intro p hp
    have : s.parts = [] := by simpa using h.1
    simp [State.part?, this] at hp

/-! ## Words that go ahead -/

def sampleV : FmtV := fv 0xC 1 2 3 0 0
def sampleI : FmtI := fi 0xC 1 2 4 0

theorem witness_IntegerArithmeticWords :
    (let o := sampleV
     let c := { sampleV with sc := 4 }
     let a := { sampleV with sb := 0 }
     let d := fv 0xE 2 4 6 0 0
     let p := sampleI
     [specV (.iadd o) o (srcsAB o) [dst o.dst 1], specV (.isub o) o (srcsAB o) [dst o.dst 1], specV (.imul o) o (srcsAB o) [dst o.dst 1],
      specV (.imulhi o) o (srcsAB o) [dst o.dst 1], specV (.imad c) c (srcsABC c) [dst c.dst 1], specV (.iabs a) a (srcsA a) [dst a.dst 1],
      specV (.ineg a) a (srcsA a) [dst a.dst 1], specV (.imin o) o (srcsAB o) [dst o.dst 1], specV (.imax o) o (srcsAB o) [dst o.dst 1],
      specI (.iaddImm p) p [dst p.dst 1], specI (.imulImm p) p [dst p.dst 1], specI (.iminImm p) p [dst p.dst 1],
      specI (.imaxImm p) p [dst p.dst 1], specV (.iadd64 d) d [srcPair d.sa d.ea, srcPair d.sb d.eb] [dst d.dst 2]]).all
      (fun w => ahead (placed w.i) w) = true := by
  decide +kernel

theorem witness_BitWords :
    (let o := fv 0 1 2 3 0 0
     let a := fv 0 1 2 0 0 0
     let c := fv 0 1 2 3 4 0
     let f := fv 0xC 1 2 3 0 0
     let p := fi 0 1 2 4 0
     let q := fi 0xC 1 2 4 0
     [specV (.and o) o (srcsAB o) [dst o.dst 1], specV (.or o) o (srcsAB o) [dst o.dst 1], specV (.xor o) o (srcsAB o) [dst o.dst 1],
      specV (.andn o) o (srcsAB o) [dst o.dst 1], specI (.andImm p) p [dst p.dst 1], specI (.orImm p) p [dst p.dst 1],
      specI (.xorImm p) p [dst p.dst 1], specV (.popc a) a (srcsA a) [dst a.dst 1], specV (.clz a) a (srcsA a) [dst a.dst 1],
      specV (.ctz a) a (srcsA a) [dst a.dst 1], specV (.brev a) a (srcsA a) [dst a.dst 1], specV (.lop3 c) c (srcsABC c) [dst c.dst 1],
      specV (.ishl o) o (srcsAB o) [dst o.dst 1], specV (.ishr o) o (srcsAB o) [dst o.dst 1], specV (.isar o) o (srcsAB o) [dst o.dst 1],
      specV (.irot o) o (srcsAB o) [dst o.dst 1], specI (.ishlImm p) p [dst p.dst 1], specI (.ishrImm p) p [dst p.dst 1],
      specI (.isarImm p) p [dst p.dst 1], specI (.irotImm p) p [dst p.dst 1], specV (.bfx f) f (srcsAB f) [dst f.dst 1],
      specI (.bfxImm q) q [dst q.dst 1], specV (.bfi c) c (srcsABC c) [dst c.dst 1]]).all (fun w => ahead (placed w.i) w) = true := by
  decide +kernel

theorem witness_CompareWords :
    (let o := fv 0xC 1 2 3 0 2
     let p := fi 0xC 1 2 4 2
     [specV (.icmp o) o (srcsAB o) [.pred o.dst.toNat], specI (.icmpImm p) p [.pred p.dst.toNat]]).all (fun w => ahead (placed w.i) w) =
      true := by
  decide +kernel

theorem witness_MoveAndPredicateWords :
    (let o := fv 0 1 2 3 4 0
     let a := fv 0 1 2 0 0 0
     let z := fv 0 0 0 0 0 0
     let w := fw 2 7
     let two := fv 0 1 2 3 0 0
     let d : List DstOp := [.pred 1]
     [specV (.sel o) o (srcsAB o ++ [.pred o.sc.toNat]) [dst o.dst 1], specV (.mov a) a (srcsA a) [dst a.dst 1],
      { plainSpec (.movi w) w.guard with dsts := [dst w.dst 1] }, plainSpec (.nop z) z.guard,
      specV (.pand two) two [.pred 2, .pred 3] d, specV (.por two) two [.pred 2, .pred 3] d, specV (.pxor two) two [.pred 2, .pred 3] d,
      specV (.pnot a) a [.pred 2] d, specV (.pmov a) a [.pred 2] d]).all (fun w => ahead (placed w.i) w) = true := by
  decide +kernel

theorem witness_LaneWords :
    (let a := fv 0 1 2 0 0 0
     let o := fv 0 1 2 3 0 0
     let v := fv 0 1 2 0 0 0
     let b := fv 2 1 2 0 0 0
     let m := fv 1 1 2 0 0 0
     let e := fv 0 1 0 0 0 0
     [specV (.qxch a) a (srcsA a) [dst a.dst 1], specV (.qbcast o) o (srcsAB o) [dst o.dst 1], specV (.gshf o) o (srcsAB o) [dst o.dst 1],
      specV (.vote v) v [.pred v.sa.toNat] [.pred v.dst.toNat], specV (.vote b) b [.pred b.sa.toNat] [dst b.dst 1],
      specV (.matchWord a) a [.reg a.sa.toNat a.ea 1] [dst a.dst 1], specV (.matchWord m) m [.reg m.sa.toNat m.ea 2] [dst m.dst 1],
      specV (.elect e) e [] [.pred e.dst.toNat]]).all (fun w => ahead (placed w.i) w) = true := by
  decide +kernel

theorem witness_FloatWords :
    (let o := fv 0 1 2 3 0 0
     let c := fv 0 1 2 3 4 0
     let a := fv 0 1 2 0 0 0
     let h := fv 2 1 2 3 0 0
     let hc := fv 2 1 2 3 4 0
     let d := [dst (1 : BitVec 8) 1]
     [specV (.fadd o) o (fltAB o) d, specV (.fsub o) o (fltAB o) d, specV (.fmul o) o (fltAB o) d, specV (.fma c) c (fltABC c) d,
      specV (.fscale o) o (fltA o ++ [src o.sb o.eb]) d, specV (.fround a) a (fltA a) d, specV (.fmin o) o (fltAB o) d,
      specV (.fmax o) o (fltAB o) d, specV (.fminn o) o (fltAB o) d, specV (.fmaxn o) o (fltAB o) d, specV (.fabs a) a (fltA a) d,
      specV (.fneg a) a (fltA a) d, specV (.fcmp o) o (fltAB o) [.pred 1], specV (.fclass a) a (fltA a) d,
      specV (.cvt { a with var := 0xC }) { a with var := 0xC } [.reg 2 false 1] d, specV (.fpk h) h [src h.sa h.ea, src h.sb h.eb] d,
      specV (.hadd2 h) h (srcsAB h) d, specV (.hmul2 h) h (srcsAB h) d, specV (.hfma2 hc) hc (srcsABC hc) d,
      specV (.fdot2 hc) hc (srcsABC hc) d]).all (fun w => ahead (placed w.i) w) = true := by
  decide +kernel

theorem witness_FloatLateWords :
    (let a := fv 0 1 2 0 0 0
     let q := fv 4 1 2 3 0 0
     let d := [dst (1 : BitVec 8) 1]
     [specV (.frcp a) a (fltA a) d, specV (.frsq a) a (fltA a) d, specV (.fsqrt a) a (fltA a) d, specV (.fexp2 a) a (fltA a) d,
      specV (.flog2 a) a (fltA a) d, specV (.fsin a) a (fltA a) d, specV (.fcos a) a (fltA a) d, specV (.ftanh a) a (fltA a) d,
      specV (.qmx q) q (srcsAB q) d]).all (fun w => ahead (placed w.i) w) = true := by
  decide +kernel

/-- A group that enables nothing takes no floating-point trap (R31). -/
theorem witness_noTrap (x : Ctx) (lanes : Mask) (f : Nat → FRes) (h : x.g.r.fpcr = 0) : x.noTrap lanes f := by
  intro l _
  rw [show fpcrEnabled x.g.r = 0 by rw [fpcrEnabled, h]; rfl]
  exact Nat.and_zero _

/-- A test of the context at hand. -/
def inHere (s : State) (p : Ctx → Bool) : Bool := (s.ctx?.map (fun x => !x.waits && p x)).getD false

/-- `fadd` of a signalling NaN in lane 0 with the invalid flag enabled. -/
theorem witness_FloatEnabledFlagTraps :
    (let o := fv 0 1 2 3 0 0
     let s := (placed (.fadd o)).modRegs here (fun r => ({ r with fpcr := 0x10 } : Regs).write 2 0 0x7F800001)
     ahead s (specV (.fadd o) o (fltAB o) [dst 1 1]) &&
       inHere s (fun x => ((fmtOfCode 0).sum 0 false false false [x.fltVal 0 o.sa 0, x.fltVal 0 o.sb 0]).flags &&& fpcrEnabled x.g.r != 0)) =
      true := by
  decide +kernel

/-! ## Matrix words -/

/-- Descriptor 0 for 32-bit rows of 64 elements, descriptor 1 for 16-bit ones. -/
def tiled (i : Instr) : State :=
  (placed i).modRegs here (fun r => { r with desc := r.desc.mapIdx (fun k d =>
    if k = 0 then ⟨4, 64, 64, 0, 256, 0, 0⟩ else if k = 1 then ⟨3, 64, 64, 0, 128, 0, 0⟩ else d) })

/-- The descriptors pass, and their bytes can be accessed. -/
def reaches (s : State) (us : Ctx → List DescUse) (read : Bool) : Bool :=
  inHere s (fun x => (us x).all (fun u => s.descTrap x u == none) &&
    s.mtxReady x 0xFFFF ((us x).flatMap (fun u => u.bytes)) read == (s, true) && x.mtxPoison ((us x).flatMap (fun u => u.bytes)) == none)

theorem witness_MatrixWords :
    (let o := fx 0 1 1 0xE0 0xE0 0
     let s := tiled (.mma o)
     ahead s (specX (.mma o) o [src o.sa o.ea, src o.sb o.eb, .tile 0] [.tile 0] 0 true) &&
       reaches s (fun x => [mmaUse x.g.r 1 16 0 0 false (maskLanes 0xFFFF), mmaUse x.g.r 1 64 0 0 false columns]) true) = true ∧
    (let o := fx 0 0 0 0 0 0
     let s := tiled (.mld o)
     ahead (tiled (.mzero o)) (specX (.mzero o) o [] [.tile 0] 0 false) && ahead s (specX (.mld o) o [] [.tile 0] 0 false) &&
       reaches s (fun x => [rowUse x.g.r 0 4 0xFFFF]) true) = true ∧
    (let o := fx 0 0 0 0 0 0
     let s := tiled (.mst o)
     ahead s (specX (.mst o) o [.tile 0] [] 0 false) && reaches s (fun x => [rowUse x.g.r 0 4 0xFFFF]) false) = true ∧
    (let r := fx 8 0 0 2 0 0
     let w := fx 0 0 0 2 8 0
     let c := fx 0 0 0 2 0 0
     ahead (tiled (.mrd r)) (specX (.mrd r) r [.tile 0, src 2 false] [dst 8 1] 0 false) &&
       ahead (tiled (.mwr w)) (specX (.mwr w) w [src 2 false, .reg 8 false 1] [.tile 0] 0 false) &&
       ahead (tiled (.mscl c)) (specX (.mscl c) c [src 2 false, .tile 0] [.tile 0] 0 false) &&
       reaches (tiled (.mscl c)) (fun _ => []) false) = true ∧
    (let o := fx 0 0 0 2 0 1
     let s := tiled (.mscl o)
     ahead s (specX (.mscl o) o [src 2 false, .tile 0] [.tile 0] 0 false) &&
       reaches s (fun x => [{ n := 0, d := x.g.r.descOf 0, rows := 1, cols := 64, ew := 4, mx := false, koff := 0, bytes := [(0, 256)] }]) true) =
      true ∧
    (let t := fi 0 0 0xC0 1 0
     let f := fi 0 2 0 0 0
     let m := fi 0 0 0 0 0
     ahead (placed (.mtd t)) (specI (.mtd t) t []) && ahead (placed (.mfd f)) { plainSpec (.mfd f) f.guard with dsts := [dst 2 1] } &&
       ahead (placed (.mfmt m)) (plainSpec (.mfmt m) m.guard) && inHere (placed (.mfmt m)) (fun x => x.g.sameCycle x.ref.second == 0 && x.g.mfrNext.isNone) &&
       (let s := (placed (.mfmt m)).modGroup here (fun y => { y with run2 := y.run1, p2next := true })
        ahead s (plainSpec (.mfmt m) m.guard) && inHere s (fun x => x.g.sameCycle x.ref.second != 0))) = true := by
  decide +kernel

/-! ## Memory words -/

/-- The word goes ahead, and every lane passes its checks with a replay slot free (R190). -/
def sends (w : WordSpec) (o : FmtM) (f : MemForm) : Bool :=
  let s := placed w.i
  ahead s w && inHere s (fun x => (maskLanes 0xFFFF).all (fun l => s.memTrap x o f l == none) && s.slotFree x.c && x.g.sending.isEmpty)

theorem witness_AddressWords :
    (let o := fm 4 2 0 1 0xE0 0 0 0
     sends (specM (.ld o) o (srcsXY o) [dst o.dst 1]) o (loadForm opLd 4 permRead spacesAll) &&
       sends (specM (.st o) o (srcsXY o ++ [srcData o 1]) []) o (loadForm opSt 4 permWrite spacesAll)) = true ∧
    (let o := fm 4 2 1 1 0xE0 0 0 0
     sends (specM (.ldw o) o (srcsXY o) [dst o.dst 1]) o (loadForm opLdw 4 permRead [1]) &&
       sends (specM (.stf o) o (srcsXY o ++ [srcData o 1]) []) o (loadForm opStf 4 permWrite [1])) = true ∧
    (let o := fm 0 2 0 1 3 0 0 0
     sends { specM (.atom o) o [src o.sx o.ex, .reg o.sy.toNat o.ey 1] [dst o.dst 1] with region := some 0x95 } o (atomForm opAtom 4)) = true ∧
    (let o := fm 4 2 0 1 3 0 0 0
     sends { specM (.cas o) o [src o.sx o.ex, .reg o.sy.toNat o.ey 1, srcData o 1] [dst o.dst 1] with region := some 0x96 } o
       (atomForm opCas 4)) = true ∧
    (let o := fm 0 2 0 1 0xE0 0 3 0
     sends (specM (.promote o) o (srcsXY o) [dst o.dst 1]) o { atomForm opPromote 4 with useSy := true, spaces := [0] }) = true ∧
    (let o := fm 0 2 0 1 3 0 2 0
     sends (specM (.waitc o) o (srcsXY o) [dst o.dst 1]) o { atomForm opWaitc 4 with perms := permRead }) = true ∧
    (let o := fm 0 0 0 1 3 0 0 0
     sends (specM (.wbr o) o (srcsXY o) []) o (rangeForm opWbr o) && sends (specM (.invr o) o (srcsXY o) []) o (rangeForm opInvr o)) = true := by
  decide +kernel

/-- Band 0 of the launch at hand. -/
def sampleBand (members : BitVec 96) : Band :=
  { no := 0, lid := State.reset.nextId, classH := false, maxm := 4, soff := 0, hold := 1, members := members, openHold := none,
    lastKey := none, served := 0, asks := [], leaving := 0, mism := 0, expr := 0, late := 0, flt := false }

/-- A small state whose die has band 0, its core a member or not; w1 holds 128. -/
def banded (i : Instr) (members : BitVec 96) : State :=
  ((placed i).modDie 0 (fun d => { d with bands := [sampleBand members] })).modRegs here (fun r => r.write 0xC1 0 128)

theorem witness_OrderBandAndMapWords :
    (let o := fm 0 0 0 0 0 0 2 3
     ahead (placed (.fence o)) (specM (.fence o) o [] [])) = true ∧
    (let o := fm 0 0 0 1 0xE0 0 0 0
     ahead (placed (.pref o)) { specM (.pref o) o (srcsXY o) [] with quiet := true }) = true ∧
    (let o := fm 0 0 0 0xC0 0 0 0 0
     let s := banded (.bandj o) 0
     ahead s { specM (.bandj o) o [src o.sx o.ex] [] with region := some 0x9A } &&
       inHere s (fun x => (s.bandFor x (x.val o.sx 0)).any (fun e => x.member e || decide (bits96 e.members < e.maxm)))) = true ∧
    (let o := fm 0 0 0 0xC0 0 0 0 0
     let s := banded (.bandx o) 1
     ahead s { specM (.bandx o) o [src o.sx o.ex] [] with region := some 0x9C } && inHere s (fun x => (s.bandFor x (x.val o.sx 0)).any (fun e => !e.asked x.c.core))) = true ∧
    (let o := fm 0 0xC0 0 0xC2 0xC1 0 0 0
     let s := banded (.bandl o) 1
     ahead s (specM (.bandl o) o [src o.sx o.ex, src o.sy o.ey, srcData o 1] []) &&
       inHere s (fun x => s.addrTrap x.l x.c (x.l.handle 0) 0 (x.offset o false 0) 128 128 permRead [0] true == none &&
         (s.lockHit x.l x.c 1 0 128 == none) && (s.bandFor x (x.val o.dst 0)).any (fun e => x.member e && !x.asking e && e.soff == 0))) = true ∧
    (let o := fm 0 0xC1 0 0xC0 0xC2 0 0 0
     let s := banded (.mapset o) 0
     ahead s { specM (.mapset o) o [src o.sx o.ex, src o.sy o.ey, srcData o 1] [] with region := some 0x9F } &&
       inHere s (fun x => s.addrTrap x.l x.c (x.l.handle 0) 0 (x.val o.sx 0) 128 128 permRead [0] true == none &&
         x.mapTrap 0 0 (x.val o.sy 0) (x.val o.dst 0) == none)) = true ∧
    (let f := fm 0 0 0 0 0 0 0 0
     let h := fm 0 2 0 0 0 0 0 0
     ahead (placed (.mapflush f)) (specM (.mapflush f) f [] []) && ahead (placed (.hld h)) (specM (.hld h) h [] [dst 2 2])) = true := by
  decide +kernel

/-! ## Command, system and control words -/

theorem witness_CommandWords :
    (let p := fi 0 1 0xC0 0 0
     let s := placed (.push p)
     ahead s { plainSpec (.push p) p.guard with
         srcs := [.reg 0xC0 false 16], dsts := [.pred 1], priv := s.inCtx (fun x => s.foreignStorage x.l.part 0), region := some 0xC0 } &&
       inHere s (fun x => s.pushTrap x 0 (x.wBlock p.sa) == none)) = true ∧
    (let o := fv 0 1 0xE0 4 0xE0 1
     let s := placed (.tstream o)
     ahead s { specV (.tstream o) o [src o.sa o.ea, .reg 4 false 4, src o.sc o.ec] [.pred 1] with region := some 0xC1 } &&
       inHere s (fun x => s.shapeTrap x 1 0 == none && x.tstreamTrap 0 ((List.range 16).map (fun k => w32 (x.scratch.nat (4 * k) 4))) == none &&
         s.mtxReady x 0xFFFF [(0, 64)] false == (s, true) && x.mtxPoison [(0, 64)] == none)) = true ∧
    (let o := fv 0 0xC0 0xE0 0 0 0
     let s := placed (.fetcht o)
     ahead s { specV (.fetcht o) o [src o.sa o.ea] [dst 0xC0 4] with region := some 0xC2 } &&
       inHere s (fun x => (s.emit x false (.fetcht 1 0xC0)).parts.isEmpty)) = true := by
  decide +kernel

/-- The same state with a test partition. -/
def testing (s : State) : State := { s with parts := [{ Partition.unformed 0 with test := true }] }

theorem witness_SystemWords :
    (let b := fi 0 0 0xE0 3 0
     let z := fs 0 0 0
     let w := fs 0 0 0xC0
     let m := fs 2 0x001 0
     let c := fs 2 0x030 0
     let t := fs 0 0x003 0xC0
     let g := fs 2 0x000 0
     let p := fs 1 0 0
     ahead (placed (.bar b)) { specI (.bar b) b [] with region := some 0xC3 } &&
       ahead (placed (.barb b)) { specI (.barb b) b [] with region := some 0xC4 } && ahead (placed (.yield z)) (plainSpec (.yield z) z.guard) &&
       ahead (placed (.sleep w)) { plainSpec (.sleep w) w.guard with srcs := [src w.sa w.ea] } &&
       ahead (placed (.mfs m)) { plainSpec (.mfs m) m.guard with dsts := [dst 2 1], priv := sysPrivileged m.sysn } &&
       ahead (placed (.mfs c)) { plainSpec (.mfs c) c.guard with dsts := [dst 2 2], priv := sysPrivileged c.sysn } &&
       ahead (placed (.mts t)) { plainSpec (.mts t) t.guard with
         srcs := [.reg 0xC0 false 1], priv := (placed (.mts t)).inCtx (fun x => x.mtsDenied t.sysn), region := none } &&
       ahead (placed (.getc g)) { plainSpec (.getc g) g.guard with srcs := [], dsts := [dst 2 2] } &&
       ahead (placed (.xacq p)) { plainSpec (.xacq p) p.guard with dsts := [.pred 1] }) = true ∧
    (let z := fs 0 0 0
     let s := (placed (.xrel z)).modRegs here (fun r => { r with xheld := true })
     ahead s { plainSpec (.xrel z) z.guard with region := some 0xCE } && inHere s (fun x => decide (x.l.xreg ≠ 0) && x.holds && !x.g.r.extBusy)) =
      true ∧
    (let o := fs 0 0x801 0xC0
     let s := testing (placed (.inject o))
     let w : WordSpec := { plainSpec (.inject o) o.guard with srcs := [.reg 0xC0 false 1], priv := false }
     inHere s (fun x => s.injectStore x (x.active o.guard) w.srcs == s && x.check w == .go 0xFFFF []) &&
       (s.part? 0).any (fun p => p.test)) = true := by
  decide +kernel

theorem witness_ControlWords :
    (let k := fk 0 5 0 0
     let z := fk 0 0 0 0
     let q : FmtK2 := { guard := always, var := 0, dst := 0, p0 := 0x10008, mid := 0, np := 0, hi := 0, p1 := 0, p2 := 0, p3 := 0 }
     let c := fk 4 5 0 0
     let r := fk 0 0 8 0
     let j := fk 0 5 8 0
     let m := fk 0 0 8 0
     ahead (placed (.bra k)) (specK (.bra k) k [] []) && ahead (placed (.bra z)) (specK (.bra z) z [] []) &&
       ahead (placed (.brx q)) { plainSpec (.brx q) q.guard with srcs := (FmtK2pairs q).map (fun p => .pred (p.toNat / 65536 % 8)) } &&
       ahead (placed (.call c)) (specK (.call c) c [] [dst 4 2]) && ahead (placed (.ret r)) (specK (.ret r) r [srcPair 8 false] []) &&
       ahead (placed (.jmpi j)) (specK (.jmpi j) j [src 8 false] []) && ahead (placed (.rejoin m)) (specK (.rejoin m) m [src 8 false] []) &&
       ahead (placed (.kill m)) (specK (.kill m) m [src 8 false] []) && ahead (placed (.exit z)) (specK (.exit z) z [] []) &&
       ahead (placed (.trap k)) (specK (.trap k) k [] [])) = true ∧
    (let z := fk 0 0 0 0
     let s := (placed (.rett z)).modRegs here (fun r => { r with inTrap := true, handler := 0xFFFF })
     ahead s { specK (.rett z) z [] [] with priv := s.inCtx (fun x => !x.g.r.inTrap) }) = true ∧
    (let z := fk 0 0 8 1
     let s := (placed (.rett z)).modRegs here (fun r => { r with inTrap := true, handler := 0xFFFF })
     ahead s { specK (.rett z) z [srcPair 8 false] [] with priv := s.inCtx (fun x => !x.g.r.inTrap) }) = true ∧
    (let s := small [0x3F07000000000000]
     ahead s (plainSpec (.illegalInstruction always 0x3F) always)) = true := by
  decide +kernel

/-! ## Checks and frames -/

theorem witness_ChecksOfRegisterWords :
    (let o := { fv 0xC 1 2 3 0 0 with guard := ⟨false, 0⟩ }
     inHere (placed (.iadd o)) (fun x => x.active o.guard == 0)) = true ∧
    (let o := fv 0x3 1 2 3 0 0
     inHere (placed (.iadd o)) (fun x => x.active o.guard != 0) && (Instr.iadd o).encInfo == some 0x02) = true ∧
    (let o := fv 0xC 1 128 3 0 0
     inHere (placed (.iadd o)) (fun x => x.active o.guard != 0 && x.bounds (srcsAB o) [dst 1 1] == some (0x1A, 128)) &&
       (Instr.iadd o).encInfo == none) = true ∧
    (let o := fv 0xC 1 2 3 0 0
     let s := (placed (.iadd o)).modRegs here (fun r => r.setEmpty 2 1 true)
     inHere s (fun x => x.bounds (srcsAB o) [dst 1 1] == none && (x.firstEmpty (srcsAB o) 0).1 == 1)) = true ∧
    (let o := fv 0xC 1 2 3 0 0
     let s := (placed (.iadd o)).modRegs here (fun r => r.setEmpty 1 1 true)
     inHere s (fun x => x.bounds (srcsAB o) [dst 1 1] == none && !(x.dstAwaited 0xFFFF 0xFFFF [dst 1 1]).isEmpty)) = true := by
  decide +kernel

/-- `sel` with SB empty in lane 0: it waits, or under EB traps. -/
theorem witness_SelectWord :
    (let o := fv 0 1 2 3 4 0
     let s := (placed (.sel o)).modRegs here (fun r => r.setEmpty 3 1 true)
     inHere s (fun x => x.active o.guard != 0 && x.bounds (srcsAB o ++ [.pred 4]) [dst 1 1] == none && x.g.queued.isEmpty && x.g.accs.isEmpty && x.g.slots.isEmpty && x.g.poison.isEmpty &&
       (maskLanes 0xFFFF).all (fun l => !x.g.outstanding 1 l) && x.g.r.isEmpty 3 0 && !o.eb)) = true ∧
    (let o := { fv 0 1 2 3 4 0 with eb := true }
     let s := (placed (.sel o)).modRegs here (fun r => r.setEmpty 3 1 true)
     (Instr.sel o).encInfo == none && inHere s (fun x => x.active o.guard != 0 && x.g.r.isEmpty 3 0 && !x.g.r.isEmpty 3 1)) = true := by
  decide +kernel

/-- A word with another after it. -/
theorem witness_RegisterAndPredicateFrame :
    (let o := sampleV
     let s := small [o.pack 0x00, (fv 0 0 0 0 0 0).pack 0x1C]
     ahead s (specV (.iadd o) o (srcsAB o) [dst o.dst 1]) && inHere s (fun x => decide (x.i.idx + 1 < x.i.words.length) && x.i.dying == 0)) = true ∧
    (let o := fv 0xC 1 2 3 0 2
     let s := small [o.pack 0x1A, (fv 0 0 0 0 0 0).pack 0x1C]
     ahead s (specV (.icmp o) o (srcsAB o) [.pred 1]) && inHere s (fun x => decide (x.i.idx + 1 < x.i.words.length) && x.i.dying == 0)) = true := by
  decide +kernel

theorem witness_ResultsFrame : ((placed (.iadd sampleV)).group? here).isSome = true := by decide +kernel

/-- At the word of the P2 set: MFR's new value alone, and a due trap with it whose lanes live, or have all left. -/
theorem witness_CycleEnds :
    (let at2 := fun (f : Group → Group) => ((placed (.iadd sampleV)).modGroup here (fun y => { f y with run2 := y.run1, run1 := none })).atWord here true
     let due : DueTrap := ⟨0x3F, 5, 3, 8, 8⟩
     inHere (at2 id) (fun x => x.ref.second && x.g.mfrNext.isNone && x.g.due.isNone) &&
       inHere (at2 (fun y => { y with mfrNext := some 7 })) (fun x => x.ref.second && x.g.mfrNext == some 7 && x.g.due.isNone) &&
       inHere (at2 (fun y => { y with mfrNext := some 7, due := some due })) (fun x => x.ref.second && x.g.due == some due && due.lanes &&& x.g.r.live != 0) &&
       inHere (at2 (fun y => { y with r := { y.r with live := 0xFF00 }, due := some due })) (fun x =>
         x.ref.second && x.g.due == some due && due.lanes &&& x.g.r.live == 0) &&
       inHere (placed (.iadd sampleV)) (fun x => !x.ref.second)) = true := by
  decide +kernel

/-- Each address check at its boundary: an access of 4 bytes at the end of GLOBAL handle 0 and one byte beyond, at the end of the
scratchpad and beyond, without the permission, misaligned; and an unbound entry, beyond its limit of 0 and within it. -/
theorem witness_AddressAndPrivilegeChecks :
    (let o := fm 4 2 0 1 0xE0 0 0 0
     let s := placed (.ld o)
     inHere s (fun x =>
       let h := fun k => x.l.handle k
       !(h 2).bound && (h 0).bound && (h 1).bound &&
         s.addrTrap x.l x.c (h 2) 2 0 4 4 permRead spacesAll true == some (0x09, 2) &&
         s.addrTrap x.l x.c (h 2) 2 0 0 4 permRead spacesAll true == some (0x0A, 2) &&
         s.addrTrap x.l x.c (h 0) 0 (2 ^ 20 - 4) 4 4 permRead spacesAll true == none &&
         s.addrTrap x.l x.c (h 0) 0 (2 ^ 20 - 3) 4 4 permRead spacesAll true == some (0x09, 0) &&
         s.addrTrap x.l x.c (h 0) 0 (-1) 4 4 permRead spacesAll true == some (0x09, 0) &&
         s.addrTrap x.l x.c (h 1) 1 65532 4 4 permRead spacesAll true == none &&
         s.addrTrap x.l x.c (h 1) 1 65533 4 4 permRead spacesAll true == some (0x09, 1) &&
         s.addrTrap x.l x.c (h 1) 1 0 4 4 permRead [0] true == some (0x0A, 1) &&
         s.addrTrap x.l x.c (h 0) 0 2 4 4 permRead spacesAll true == some (0x0C, 0))) = true ∧
    (let o := fm 4 2 2 1 0xE0 0 0 0
     let l := placed (.ld o)
     let t := placed (.st o)
     ahead l (specM (.ld o) o (srcsXY o) [dst 2 1]) && ahead t (specM (.st o) o (srcsXY o ++ [srcData o 1]) []) &&
       inHere l (fun x => l.memTrap x o (loadForm opLd 4 permRead spacesAll) 15 == some (0x09, 2)) &&
       inHere t (fun x => t.memTrap x o (loadForm opSt 4 permWrite spacesAll) 15 == some (0x09, 2))) = true ∧
    (let m := fs 2 0x801 0
     let i := fs 0 0x801 0xC0
     let k := fk 0 0 0 0
     inHere (placed (.mfs m)) (fun x => x.active m.guard != 0) && (Instr.mfs m).encInfo == none && sysPrivileged m.sysn &&
       inHere { placed (.inject i) with parts := [Partition.unformed 0] } (fun x => x.active i.guard != 0) && (Instr.inject i).encInfo == none &&
       inHere (placed (.rett k)) (fun x => x.active k.guard != 0 && !x.g.r.inTrap) && (Instr.rett k).encInfo == none) = true := by
  decide +kernel

/-! ## Traps and regions -/

/-- A small state whose group has its handler at 0x1000. -/
def handled (i : Instr) : State := (placed i).modRegs here (fun r => { r with tvec := 0x1000 })

theorem witness_TrapEntryAndReturn :
    ((handled (.iadd sampleV)).group? here).any (fun x => !x.r.inTrap && x.r.handlerPc != 0) = true ∧
    ((placed (.iadd sampleV)).group? here).any (fun x => !x.r.inTrap && x.r.handlerPc == 0) = true ∧
    (((placed (.iadd sampleV)).modRegs here (fun r => { r with inTrap := true })).group? here).any (fun x => x.r.inTrap) = true ∧
    (let r := Regs.start 8 true
     laneNumbers.all (fun l => (r.lane l).tok == none)) = true := by
  decide +kernel

/-- Alone, and while the P2 set still issues its word of the cycle. -/
theorem witness_TrapWord :
    (let k := fk 0 255 0 0
     let s := handled (.trap k)
     let both := s.modGroup here (fun y => { y with run2 := y.run1, p2next := true })
     let fits := fun (x : Ctx) => !x.c.checked && !x.g.r.inTrap && x.g.r.handlerPc != 0 && x.g.late.isEmpty && x.g.due.isNone &&
       [false, true].all (fun b => (x.g.issue? b).all (fun i => i.dying == 0 && i.sysWrites.isEmpty))
     ahead s (specK (.trap k) k [] []) && inHere s (fun x => fits x && x.g.sameCycle x.ref.second == 0) &&
       ahead both (specK (.trap k) k [] []) && inHere both (fun x => fits x && x.g.sameCycle x.ref.second != 0)) = true := by
  decide +kernel

/-- The end of a clause that holds one system write, and of one that ends a region. -/
def ending (writes : List (Nat × DWord)) (rx : Bool) : State :=
  (placed (.iadd sampleV)).modGroup here (fun x => { x with
    r := { x.r with inReg := rx, regMask := 1 }, run1 := x.run1.map (fun i => { i with sysWrites := writes, rx := rx }) })

theorem witness_SystemWritesAtClauseEnd :
    ((ending [(0x002, 0x1FF)] false).group? here).any (fun x => (x.issue? false).any (fun i => i.sysWrites == [(0x002, 0x1FF)])) = true ∧
    (((ending [(0x002, 0x1FF)] false).retireClause here false).group? here).any (fun y => y.r.fpcr == 0x1F7) = true ∧
    (((ending [(0x019, 0x1FF)] false).retireClause here false).group? here).any (fun y => y.r.racc == 0xFF) = true ∧
    (((ending [(0x014, 0x1007)] false).retireClause here false).group? here).any (fun y => y.r.tvec == 0x1000) = true := by
  decide +kernel

/-- A header word of CLASS 0 with RE set. -/
def reClause : Clause := { slot := 0, vif := 0, pc := 0, hdr := 0xE030000000000000, words := [0], bad := false }

theorem witness_Regions :
    hdrRE reClause.hdr = true ∧
    ((ending [] true).group? here).any (fun x => (x.issue? false).any (fun i => i.rx && i.sysWrites.isEmpty) && x.r.inReg) = true ∧
    (((ending [] true).retireClause here false).group? here).any (fun y => !y.r.inReg) = true ∧
    ((ending [] false).group? here).any (fun x => (x.issue? false).any (fun i => !i.rx && i.sysWrites.isEmpty) && x.r.live != 0) = true := by
  decide +kernel

/-! ## The step -/

theorem witness_StepRunsTheDecodedWord :
    (let s := State.reset.placeWords [sampleV.pack 0x00]
     s.nextChoice == some (.word here false) && (s.issueOf here false).any (fun i => !i.ended && i.words.drop i.idx == [sampleV.pack 0x00]) &&
       decode (sampleV.pack 0x00) 0 == .ok (.iadd sampleV)) = true ∧
    decode 0x3F07000000000000 0 = .rejected (.unassigned 0x3F) ∧ decode 0x9047020407804002 0 = .rejected (.field 0x0C) ∧
    (let s : State := { State.reset with pend := [.walkStart 0] }
     s.nextChoice == some (.pending 0)) = true ∧
    (let s : State := { State.reset with inputs := [.walkStart 0] }
     s.nextChoice == some .input) = true ∧
    (let s : State := { State.reset with sched := [.vote 0 0] }
     s.nextChoice == some (.vote 0 0)) = true ∧
    (let s : State := { State.reset with turn := 17 }
     s.nextChoice == none) = true := by
  decide +kernel

theorem witness_EncodeDecodeAgree :
    (Instr.iadd sampleV).WellFormed ∧ encode (.iadd sampleV) = [0x00C7010203000000] ∧
    (let q : FmtK2 := { guard := always, var := 0, dst := 0, p0 := 0x10008, mid := 0, np := 2, hi := 0, p1 := 0xA0010, p2 := 0x7FFFC, p3 := 0 }
     (Instr.brx q).WellFormed ∧ encode (.brx q) = [0xD107001000800002, 0x0A00107FFFC00000]) ∧
    (Instr.slotVote 0 0).opc = none ∧ encode (.slotVote 0 0) = [] := by
  decide +kernel

/-! ## A place to work: one interface, one partition, tables that map the first gigabyte to itself -/

/-- The guest's tables at 0x4000 and the hypervisor's at 0x1000, each with a table at level 3 and a 1 GiB leaf at level 2. -/
def tables : Memory :=
  [(0x1000, 0x01), (0x1001, 0x20), (0x2000, 0x01), (0x2001, 0x30), (0x3000, 0xFF), (0x4000, 0x01), (0x4001, 0x50), (0x5000, 0x01),
    (0x5001, 0x60), (0x6000, 0xFF)]

def sampleVif : Vif :=
  Vif.created { vif := 0, part := 0, kdom := 0, groot := 0x4000, hroot := 0x1000, queues := [], sysWins := [], faultVector := 7,
                destination := false }

def samplePart : Partition :=
  { Partition.unformed 0 with formed := true, clusters := [0], hbms := [0], engines := [0], nsi := [(0, 0, 1, 64)] }

def sampleTlb : TlbEntry :=
  { vif := 0, va := 0, size := 65536, ipa := 0, pa := 0, perm := 0xF, dset := true, movable := false, s1gen := 0, s2gen := 0 }

def site : State :=
  { placed (.nop (fv 0 0 0 0 0 0)) with
    vifs := [sampleVif], parts := [samplePart], mem := tables, hbms := [Stack.fresh 0], ports := [Port.fresh 0],
    cores := [{ Core.fresh 0 with tlb := [sampleTlb] }] }

/-- The group of a site holds no issue set, and the site is changed at the launch, the cohort and the group. -/
def siteWith (l : Launch → Launch) (c : Cohort → Cohort) (x : Group → Group) : State :=
  ((site.modLaunch here.lid l).modCohort ⟨here.lid, here.cid⟩ c).modGroup here (fun y => x { y with run1 := none })

/-- The group stands in its cohort and launch, and a test holds of them. -/
def stands (s : State) (p : Launch → Cohort → Group → Bool) : Bool :=
  match s.cohort? ⟨here.lid, here.cid⟩, s.launch? here.lid with
  | some c, some l => (c.group? 0).any (fun x => p l c x)
  | _, _ => false

/-! ## Issue -/

def sampleClause : Clause := { slot := 0, vif := 0, pc := 8, hdr := 0xF000000000000000, words := [(fv 0 0 0 0 0 0).pack 0x1C], bad := false }

/-- The slot's buffer holds the clause at 8, where every lane stands. -/
def voting : State := (siteWith id id id).modCore 0 (fun k => { k with clauses := [sampleClause] })

/-- Lanes 8 to 15 stand at the next clause. -/
def votingTwo : State :=
  ((siteWith id id (fun x => { x with r := x.r.placeLanes 0xFF00 24 (fun _ => 24) true })).modCore 0 (fun k =>
    { k with clauses := [sampleClause, { sampleClause with pc := 24 }] }))

def votingBad : State := voting.modCore 0 (fun k => { k with clauses := [{ sampleClause with bad := true }] })

def heads (s : State) (n : Nat) (trap : Bool) : Bool :=
  let s0 := s.startFetches 0 0 (s.fetchesDue 0 0)
  s.sram.isEmpty && !s.slotBusy 0 0 && (match s0.winner 0 0 with
    | some (l, c, x) =>
      let sets := (s0.eligibleSets l c x).take (if c.checked then 1 else 2)
      sets.length == n && sets.all (fun t => (t.1.trap t.2 l x).isSome == trap)
    | none => false)

theorem witness_SlotVote :
    ((siteWith id id id).sram.isEmpty && !(siteWith id id id).slotBusy 0 0 && ((siteWith id id id).startFetches 0 0 ((siteWith id id id).fetchesDue 0 0)).winner 0 0 == none) = true ∧
    heads voting 1 false = true ∧ heads votingTwo 2 false = true ∧ heads votingBad 1 true = true ∧
    stands { siteWith id id (fun x => { x with r := { x.r with inReg := true } }) with sram := [.core ⟨here.lid, here.cid⟩] } (fun _ c _ =>
      (c.groups.filter (fun x => !x.retired && x.r.live != 0)).all (fun x => x.r.inReg)) = true := by
  decide +kernel

theorem witness_VoteTakesTheSmallestKey :
    (match voting.winner 0 0 with
     | some w => (voting.voters 0 0).contains w && !(voting.eligibleSets w.1 w.2.1 w.2.2).isEmpty && w.2.2.r.wait == .none
     | none => false) = true := by
  decide +kernel

def sampleFetch : Fetch := { slot := 0, lid := here.lid, pc := 0x8000, again := false, stuck := false }

/-- A fetch at 0x8000 of an illegal header, or of a header with one word whose check is right or wrong. -/
def fetching (again : Bool) (bytes : Memory) : State :=
  let s := (siteWith id id id).modCore 0 (fun k => { k with fetches := [{ sampleFetch with again := again }] })
  { s with mem := tables ++ bytes }

/-- The hypotheses of an arrival: read, and its check right or not. -/
def arrives (s : State) (right : Bool) : Bool :=
  match s.core? 0, s.fetchCtx 0 here.lid with
  | some k, some (l, c) =>
    let q := l.req c
    (k.fetches.find? (fun f => f.slot == 0 && f.lid == here.lid && f.pc == 0x8000)).any (fun f => !f.stuck &&
      (match s.fetchPas 0 l.vif [0x8000] with
       | .ok hp =>
         let hdr := fun (s : State) => w64 (leNat ((List.range 8).map (fun i => s.fetchByte q f.again (hp.headD 0 + i))))
         let n := if hdrTag (hdr s) = 0xF then hdrCount (hdr s) + 1 else 0
         (match s.fetchPas 0 l.vif ((List.range n).map (fun i => 0x8000 + 8 * (i + 1))) with
          | .ok bp =>
            let t := s.fetchReach q f.again (hp ++ bp)
            let words := bp.map (fun pa => w64 (leNat ((List.range 8).map (fun i => t.fetchByte q f.again (pa + i)))))
            (s.fetchBlocked q (hp ++ bp)).isNone && ((hp ++ bp).findSome? (fun pa =>
              if f.again then t.poisonIn q.kdom pa 8 else t.l1Poison q pa 8)).isNone &&
              (if right then n == 0 || clauseCheck words == (hdr t).toNat % 65536 else n != 0 && clauseCheck words != (hdr t).toNat % 65536)
          | .error _ => false)
       | .error _ => false))
  | _, _ => false

theorem witness_ClauseEvents :
    arrives (fetching false []) true = true ∧ arrives (fetching false [(0x8007, 0xF0)]) false = true ∧
    arrives (fetching true [(0x8007, 0xF0)]) false = true ∧
    (let i := { placedIssue [sampleV.pack 0x00] with hdr := 8, ended := true, held := true }
     let s := (siteWith id (fun c => { c with checked := true }) (fun x => { x with run1 := some i, ck := some x.r })).modCore 0 (fun k =>
       { k with clauses := [sampleClause] })
     stands s (fun l c x => x.ck.isSome && (x.run1.any (fun i => i.ended && !i.differs && i.held)) && s.commitFits c x && !s.bandRefused c x && !x.replaying &&
       (s.clause? c.core (x.gidx % 4) l.vif 8).isSome)) = true ∧
    (let s := siteWith id id (fun x => { x with run1 := some (placedIssue []), ck := some x.r, replaying := true })
     stands s (fun _ _ x => x.replaying && x.run1.isSome && x.ck.isSome)) = true := by
  decide +kernel

def sampleFill : Fill := { id := 5, dst := 1, regs := 1, vals := [(0, [7])], inRegion := false, poison := none, holds := 0 }

theorem witness_GroupEvents :
    stands (siteWith id id (fun x => { x with fills := [sampleFill] })) (fun _ _ x =>
      (x.fills.find? (fun f => f.id == 5)).any (fun f => f.poison == none)) = true ∧
    (let s := siteWith id id (fun x => { x with spin := { x.spin with count := 4 } })
     stands s (fun _ c x => !x.spin.lowered && !x.spin.changed && 4 ≤ x.spin.count && (s.cluster? (clusterOf c.core)).isSome)) = true ∧
    stands (siteWith id id (fun x => { x with spin := { x.spin with lowered := true } })) (fun _ _ x => x.spin.lowered) = true ∧
    stands (siteWith id id (fun x => { x with r := { x.r with wait := .sleep 5 0 } })) (fun _ _ x => x.r.wait == .sleep 5 0) = true ∧
    (let word : Imprecise := { lanes := 1, pc := 8, va := 0x9000, issuedAt := 0, full := none }
     [(⟨0x38, 0, none⟩ : Posted), ⟨0x11, 0xFF, some word⟩].all (fun p => let s := siteWith id id (fun x => { x with posted := [p] })
       stands s (fun _ c x => c.phase == .resident && !c.checked && !x.retired && !x.stopped && x.atBoundary &&
         !(x.slots.any (fun t => t.refused.isSome)) && !x.handlesRefusal && (word.lanes &&& x.r.live) != 0 && s.commitFits c x &&
         x.posted == [p]))) = true := by
  decide +kernel

/-! ## Memory -/

/-- A load of four bytes at VA 0x9000 by lane 0. -/
def sampleAccess : Access :=
  { id := 9, opc := opLd, var := 4, ord := 0, scope := 0, hnd := 0, space := 0, policy := 0, dst := 1, size := 4, addr := [(0, 0x9000)],
    data := [], cmp := [], released := 0, resv := false, unavailable := false, quiesced := false, lanes := 1, pc := 8, hdr := 8, issuedAt := 0,
    inRegion := false, noFill := false, resolved := [], behind := false }

def accessing (a : Access) : State := siteWith id id (fun x => { x with accs := [a] })

/-- The access is free to be tried at its home, where a block, if any, is the one given. -/
def tried (s : State) (block : HomeBlock) : Bool :=
  stands s (fun l c x => (x.accs.find? (fun a => a.id == 9)).any (fun a =>
    s.homeLanes l c x a != 0 && !s.behindHome l c a && s.blockOf l c a == block && (s.rereadFor here l c a).isNone))

theorem witness_HomeEvents :
    tried (accessing sampleAccess) .none = true ∧
    tried (accessing { sampleAccess with opc := opSt, data := [(0, 7)] }) .none = true ∧
    tried ((accessing sampleAccess).modDie 0 (fun d => { d with wrstep := 2 })) (.unavailable 0x9000) = true ∧
    (let s := accessing { sampleAccess with opc := opWbr }
     stands s (fun l c x => x.accs.all (fun a => s.homeLanes l c x a != 0 && !s.behindHome l c a && a.opc == opWbr))) = true ∧
    tried (accessing { sampleAccess with opc := opWaitc, data := [(0, 1)] }) .none = true ∧
    (let s := accessing { sampleAccess with opc := opSt, ord := 2, scope := 3 }
     stands s (fun l c x => x.accs.all (fun a => s.releasing l c x a != 0 && !s.releaseHeld (l.req c) (s.effScope a (s.accPas l c a)) a.id &&
       !s.releaseBlocked (l.req c) (s.effScope a (s.accPas l c a))))) = true ∧
    site.local (2 ^ 43) = false ∧ site.local 0x9000 = true ∧
    ((site.modDie 0 (fun d => { d with wrstep := 2 })).homeUnavailable 0x9000) = true ∧
    (let q : Outer := ⟨0, site.domainOf 0x9000, none, 0x9000, 4, false⟩
     !site.homeUnavailable 0x9000 && !site.quiesced q.req 0x9000 && site.hasToken q.req 0x9000 &&
       site.logRoom 0 (site.companionHits q).length && site.logRoom 0 (site.companionHits { q with write := true }).length) = true := by
  decide +kernel

theorem witness_StoreEvents :
    (site.hbms.find? (fun k => k.no == 0)).isSome = true ∧ site.local (64 * 5) = true ∧
    (let m : MapEntry := { MapEntry.unbound with bound := true, va := 0x9000, s := 128, n := 128, filling := [⟨128, none, []⟩] }
     let s := siteWith id (fun c => { c with maps := c.maps.set 0 m }) id
     stands s (fun l c _ =>
       let m := c.mapEntry 0
       let q := m.req l c
       (m.filling.find? (fun f => f.sec == 128)).any (fun f => f.data.isNone) && (match s.tlb? c.core l.vif (m.va + (128 - m.s)) needRead with
         | some t =>
           let pa := t.paOf (m.va + (128 - m.s))
           !s.homeUnavailable pa && !s.quiesced q pa && s.local pa && s.hasToken q pa && (s.fillPoison q pa).isEmpty
         | none => false))) = true := by
  decide +kernel

/-! ## Translation and faults -/

def sampleWalk (started : Bool) : Walk :=
  { id := 9, vif := 0, die := 0, core := some 0, va := 1, askedVa := 65536, acc := 1, agent := 0, classH := false, lid := here.lid, cid := 0,
    gid := 0, waiters := [(1, .fetch 0 0 here.lid 8 65536)], started := started, s1gen := 0, s2gen := 0, logging := false }

def walking (started : Bool) (mem : Memory) : State := { site with walks := [sampleWalk started], mem := mem }

/-- What the tables answer for VA 65,536. -/
def walked (s : State) (p : WalkResult → Bool) : Bool :=
  (s.walkEnv? 0).any (fun e =>
    let t := s.readTables (sampleWalk true) e
    t.2 && p (t.1.walkTables e 65536 (needOfAcc 1)) && e.part.roomFor 2 && (t.1.larder.find? (fun l => l.page == 1)).isNone)

theorem witness_Walks :
    ((walking false tables).walks.find? (fun w => w.id == 9 && !w.started)).isSome = true ∧ (walking false tables).walking 0 < 255 ∧
    ({ site with walks := List.replicate 255 (sampleWalk true) ++ [{ sampleWalk false with id := 10 }] } : State).walking 0 = 255 ∧
    ({ site with walks := List.replicate 256 (sampleWalk true) } : State).walking 0 = 256 ∧
    walked (walking true tables) (fun r => match r with
      | .ok _ _ _ _ _ _ _ _ => true
      | _ => false) = true ∧
    (let s := (walking true tables).modPart 0 (fun p => { p with formed := true })
     ({ s with drains := [0] } : State).silenced 0 = true) ∧
    walked (walking true []) (fun r => match r with
      | .fault _ _ _ _ _ => true
      | _ => false) = true ∧
    -- a storage entry of level 0: V 0, S 1, engine 0, NSI 0, page block 1, L 1, R and W
    walked (walking true (tables.take 9 ++ [(0x6000, 0x01), (0x6001, 0x70), (0x7000, 0x01), (0x7001, 0x80), (0x8008, 0x0E), (0x800A, 0x10),
      (0x800F, 0x80)])) (fun r => match r with
      | .storage _ _ => true
      | _ => false) = true := by
  decide +kernel

/-- The generation has moved while the walk ran, and wraps at its top. -/
theorem witness_WalkGenerations :
    (let s := (walking true tables).modVif 0 (fun v => { v with s1gen := 1 })
     (s.vif? 0).any (fun v => v.s1gen != (sampleWalk true).s1gen) && (s.walkEnv? 0).isSome &&
       (s.walks.find? (fun w => w.id == 9 && w.started)).isSome) = true ∧
    ((0xFFFF : BitVec 16) + 1 = 0) := by
  decide +kernel

def sampleRec (kind : Nat) (seq : Option Nat) : FaultRec :=
  { id := 9, vif := 0, kind := kind, page := 1, va := 65536, ipa := 65536, acc := 1, agent := 0, classH := false, level := 0, slot := 0, gid := 0,
    lid := here.lid, cid := 0, lanes := 1, pte := 0, nlost := 0, s2gen := 0, seq := seq, waiters := [.fetch 0 0 here.lid 8 65536], engine := 0, frame := none,
    tries := 0, rescued := none }

theorem witness_FaultRecords :
    (let s := ({ site with recs := [sampleRec 1 none] } : State).modVif 0 (fun v => { v with frbase := 0x10000, frlog := 4 })
     (s.vif? 0).any (fun v => (v.ftail + 2 ^ 32 - v.fhead) % 2 ^ 32 < 2 ^ v.frlog &&
       (s.ipaReach v (v.frbase + 64 * (v.ftail % 2 ^ v.frlog)) 64 true).2.any (fun ps => ps.map (fun p => p.pa) == [0x10000]) &&
       (({ s with mem := [] } : State).ipaReach v (v.frbase + 64 * (v.ftail % 2 ^ v.frlog)) 64 true).2.isNone &&
       2 ^ v.frlog ≤ (16 + 2 ^ 32 - v.fhead) % 2 ^ 32)) = true ∧
    (let s := ({ site with recs := [sampleRec 3 none] } : State).modVif 0 (fun v => { v with hbase := 0x20000, hlog := 4 })
     (s.vif? 0).any (fun v => (v.htail + 2 ^ 32 - v.hhead) % 2 ^ 32 < 2 ^ v.hlog &&
       (s.reachParts v (some [⟨v.hbase + 64 * (v.htail % 2 ^ v.hlog), 64, none⟩]) true).2.isSome)) = true ∧
    (let s := { site with recs := [sampleRec 1 (some 5)] }
     let named := fun (s : State) (value : DWord) => s.recs.find? (fun r => r.vif == 0 && r.hyp == false && r.seq == some (value.toNat % 2 ^ 32) && r.answered.isNone)
     let left := fun (s : State) => (s.rec? 9).any (fun r => (s.mergeAll r (s.larderOf r)).2 == (true, []))
     (named s 5).isSome && (named s 0x100000005).isSome && (0x1FFFFFFFF : DWord).toNat < 2 ^ 33 &&
       (named { site with recs := [{ sampleRec 1 (some 5) with answered := some false }] } 5).isNone && left s &&
       -- one larder byte of a page that is mapped, and of one whose partition's slices are held
       (let t := { s with larder := [{ vif := 0, page := 1, kdom := 0, recId := 9, bytes := [(0, 1)] }] }
        left t && (({ t with drains := [0] } : State).rec? 9).any (fun r =>
          (({ t with drains := [0] } : State).mergeAll r (({ t with drains := [0] } : State).larderOf r)).2 == (false, [])))) = true := by
  decide +kernel

def sampleInval : InvDesc := { vif := 0, guest := true, op := 2, stage := 1, base := 0, len := 0, done := 0x9000, resv := 0 }

theorem witness_Invalidations :
    invLegal sampleInval = true ∧ invLegal { sampleInval with op := 1, base := 65536, len := 65536 } = true ∧
    invLegal { sampleInval with op := 1, base := 8 } = false ∧
    (let at_ := fun (op : Nat) => ({ site with mem := tables ++ [(0x9000, BitVec.ofNat 8 op), (0x9001, 1)] } : State)
     -- the two operations, and one that Table 19.4 does not have
     [(1, true), (2, true), (3, false)].all (fun (op, legal) => (site.vif? 0).any (fun v => match (at_ op).ipaReach v 0x9000 32 false with
       | (t, some ps) =>
         let f := fieldLE (t.devBytes ps)
         invLegal { vif := 0, guest := true, op := f 0 1, stage := f 1 1, base := f 8 8, len := f 0x10 8, done := f 0x18 8, resv := f 2 6 } == legal
       | (_, none) => false)) && (site.vif? 0).any (fun v => (({ site with mem := [] } : State).ipaReach v 0x9000 32 false).2.isNone)) = true ∧
    (let s := { site with invs := [⟨9, sampleInval, none⟩, ⟨10, sampleInval, none⟩] }
     (s.vif? 0).any (fun v => !s.domainHeld v && (s.invs.find? (fun i => i.id == 9)).any (fun i => i.unread.isNone &&
       !(s.invs.any (fun x => x.d.vif == i.d.vif && x.id < i.id))) && (s.cleanDomain v).agentPa 0 0x9000 needWrite == some 0x9000 &&
       ((s.cleanDomain v).reachParts v (some [⟨0x9000, 8, none⟩]) true).2.isSome)) = true := by
  decide +kernel

/-- Reads and writes of a 64 KiB page homed on die 0. -/
def sampleCounter (reads : List Nat) (writes : List Nat) : Counter :=
  { slice := 0, page := 1, home := 0, reads := #v[reads.getD 0 0, reads.getD 1 0, reads.getD 2 0, reads.getD 3 0],
    writes := #v[writes.getD 0 0, writes.getD 1 0, writes.getD 2 0, writes.getD 3 0], other := 0 }

/-- The two pages of Table 19.8. -/
theorem test_placement_verdicts :
    (sampleCounter [0, 200, 3000, 0] [0, 0, 896, 0]).verdict = some (0, 2) ∧ (sampleCounter [100, 1500, 1500, 996] []).verdict = some (1, 0) := by
  decide +kernel

theorem witness_PlacementAndLogEvents :
    (sampleCounter [0, 10] []).verdict = none ∧ (sampleCounter [0, 60000] [0, 6000]).verdict = some (0, 1) ∧
    ((sampleCounter [0, 30000, 30000] []).verdict.any (fun v => v.1 == 1)) = true ∧
    (let s := site.modDie 0 (fun d => { d with counters := [sampleCounter [10, 4086] []] })
     (s.dies.findSome? (fun d => d.counters.find? (fun c => c.page == 1 && decide (4096 ≤ c.total)))).isSome) = true := by
  decide +kernel

def sampleFrame (page : Option Nat) : PoolFrame :=
  { ipa := 0x40000, saved := page.map (fun _ => 0x800000000010000E), page := page, pinned := false, writing := false, tries := 0 }

/-- A site whose context has a pool of one frame, and a storage record. -/
def pooled (f : PoolFrame) (r : FaultRec) : State :=
  ({ site with recs := [r] } : State).modVif 0 (fun v => { v with
    pool := { list := [f.ipa], bad := 0, free := if f.page.isNone then [f] else [], used := if f.page.isNone then [] else [f], hands := [] } })

def sampleStorageRec : FaultRec := { sampleRec 5 none with pte := 0x800000000010000E, ipa := 0x8008, waiters := [] }

/-- The drive of engine 0 is at work on the blocks of the sample page. -/
def driving (s : State) (work : DriveWork) : State :=
  { s with engines := [{ eng := .storage 0, queueG := [], queueH := [], drive := [s.pageIo 0 sampleStorageRec.pte.toNat false work] }] }

theorem witness_StorageEvents :
    (let s := { site with mem := tables ++ [(0x9002, 0x04), (0x900A, 0x04)] }
     (s.vif? 0).any (fun v => v.pool.used.isEmpty && (match s.ipaReach { v with fnum := 2 } 0x9000 16 false with
       | (t, some ps) => t.keepFrames 0 ((List.range 2).map (fun k => fieldLE (t.devBytes ps) (8 * k) 8)) == some ([0x40000], 1)
       | _ => false)) && (site.vif? 0).any (fun v => (({ site with dies := [] } : State).ipaReach v (2 ^ 45) 8 false).2.isNone)) = true ∧
    (let s := pooled (sampleFrame none) sampleStorageRec
     (s.vif? 0).any (fun v => (v.pool.rescue? sampleStorageRec.pte).isNone && v.pool.free.length == 1) && (s.rec? 9).any (fun r => r.frame.isNone)) = true ∧
    (let s := pooled (sampleFrame (some 1)) sampleStorageRec
     (s.vif? 0).any (fun v => (v.pool.rescue? sampleStorageRec.pte).isNone && v.pool.free.isEmpty)) = true ∧
    (let f : PoolFrame := { sampleFrame (some 1) with page := none, saved := some sampleStorageRec.pte }
     let s := pooled f sampleStorageRec
     ((s.modVif 0 (fun v => { v with pool := { v.pool with free := [], used := v.pool.free } })).vif? 0).any (fun v =>
       (v.pool.rescue? sampleStorageRec.pte).isSome)) = true ∧
    (let s := pooled (sampleFrame (some 1)) { sampleStorageRec with frame := some 0x40000 }
     let s := driving s (.read 9)
     (s.vif? 0).any (fun v => !s.homeUnavailable 0x8008 && !s.quiesced v.req 0x8008 && (s.entryBlocks 0 sampleStorageRec.pte.toNat).1 == 0 &&
       s.onDrive? (.storage 0) (.read 9) == some (s.pageIo 0 sampleStorageRec.pte.toNat false (.read 9)) &&
       !s.driveBusyFor (.storage 0) (.read 9) && (s.ipaReach v 0x40000 65536 true).2.isSome)) = true ∧
    (let s := pooled (sampleFrame (some 1)) { sampleStorageRec with frame := some 0x40000, rescued := some true }
     (s.rec? 9).any (fun r => r.rescued.isSome)) = true ∧
    (let s := pooled (sampleFrame (some 1)) sampleStorageRec
     (s.vif? 0).any (fun v => v.pool.list == [0x40000] && v.pool.free.length < v.flow && SMap.get v.pool.hands 0 0 == 0 &&
       (v.pool.used.find? (fun f => f.ipa == 0x40000 && !f.pinned && !f.writing &&
         ((f.saved.map (fun e => bitsOf e.toNat 59 56 == 0)).getD false))).isSome)) = true ∧
    (let s := driving (pooled { sampleFrame (some 1) with writing := true } sampleStorageRec) (.write 0 0x40000)
     (s.vif? 0).any (fun v => (v.pool.used.find? (fun f => f.ipa == 0x40000 && f.writing)).any (fun f =>
       f.saved == some sampleStorageRec.pte && f.tries < 2) && (s.ipaReach v 0x40000 65536 false).2.isSome) &&
       (s.onDrive? (.storage 0) (.write 0 0x40000)).isSome && !s.driveBusyFor (.storage 0) (.write 0 0x40000)) = true := by
  decide +kernel

/-! ## Commands -/

/-- A command of 64 bytes by (offset, byte). -/
def cmdOf (bs : List (Nat × Nat)) : List Word :=
  (List.range 16).map (fun k => w32 ((List.range 4).foldl (fun n i => n + 256 ^ i * ((bs.find? (fun b => b.1 == 4 * k + i)).map (fun b => b.2)).getD 0) 0))

def sampleCmd (eng : EngineId) (words : List Word) (stage : Stage) (coll : Option Coll) : Cmd :=
  { id := 9, eng := eng, classH := false, owner := here, core := 0, vif := 0, part := 0, kdom := 0, words := words, coords := [0, 0, 0, 0], coff := 0,
    gate := 0, stage := stage, coll := coll, reserved := false, child := none, waiting := false, ran := false, lost := false, notify := none, freed := false }

/-- A fill of 4 bytes at offset 0x9000 of handle 0; a copy of 4 bytes. -/
def fillCmd : List Word := cmdOf [(0, 2), (0x11, 0x90), (0x14, 4), (0x18, 1)]
def copyCmd : List Word := cmdOf [(0, 1), (0x0D, 0xA0), (0x11, 0x90), (0x14, 4), (0x18, 1)]
/-- A shape record: 1 dimension, 1-byte elements, 16 of 16, at offset 0x9000 of handle 0. -/
def boxCmd : List Word := cmdOf [(5, 0x90), (8, 16), (0x24, 16)]
/-- A read and a write of one block at LBA 0 of namespace 1; a flush; a launch from a record at 0x9000. -/
def blockCmd (op : Nat) : List Word := cmdOf [(0, op), (8, 1), (0x11, 0x90), (0x14, 1)]
def launchCmd : List Word := cmdOf [(0, 1), (0x0D, 0x90)]
/-- An all-reduce of one element of bucket 3 in group 0, at 0x9000 and 0xA000. -/
def reduceCmd (op : Nat) : List Word := cmdOf [(0, op), (0x0D, 0x90), (0x11, 0xA0), (0x14, 1), (0x1E, 3)]

def sampleMGroup (view : Nat) (members : BitVec 288) : MGroup :=
  { no := 0, defined := 7, view := view, members := members, suspects := 0, accepted := [], leading := none, follows := 288, stopped := false,
    suspt := 2000000, joining := [], pausing := none, held := [], told := [] }

def commanded (k : Cmd) : State :=
  { siteWith id id id with cmds := [k], engines := [{ eng := k.eng, queueG := if k.stage = .queued then [9] else [], queueH := [] }],
                           mgroups := [sampleMGroup 1 7] }

/-- The first command at hand and its launch. -/
def onCmd (s : State) (p : Launch → Cmd → Bool) : Bool :=
  match s.cmd? 9, s.launch? here.lid with
  | some k, some l => p l k
  | _, _ => false

/-- What the completion record of a command that is done with status 0 leaves. -/
def recorded (s : State) (l : Launch) (k : Cmd) : Except State State :=
  (((((s.driveFinish l k).freeLocks k.id).modCmd k.id (fun k => { k with ran := false })).freeChild k).writeRecord l k 0)

theorem witness_CommandEvents :
    (let s := commanded (sampleCmd (.copy 0) fillCmd .queued none)
     (s.engine? (.copy 0)).any (fun x => ((s.startable x.queueG).or (s.startable x.queueH)).any (fun k =>
       s.cmd? k.id == some k && onCmd (s.unqueue k) (fun l _ => ((s.unqueue k).validate l k).isNone)))) = true ∧
    (let s := commanded (sampleCmd (.copy 0) (cmdOf [(0, 7)]) .queued none)
     (s.engine? (.copy 0)).any (fun x => ((s.startable x.queueG).or (s.startable x.queueH)).any (fun k =>
       onCmd (s.unqueue k) (fun l _ => (s.unqueue k).validate l k == some 1)))) = true ∧
    (let s := commanded (sampleCmd (.copy 0) (cmdOf [(0, 2), (1, 3), (2, 0), (5, 0xB0), (0x11, 0x90), (0x14, 4), (0x18, 1)]) (.done 0) none)
     onCmd s (fun l k => !k.waiting && !s.driveBusy k && (match recorded s l k with
       | .ok t => (((t.sendAborts k 0).tellGroups k).dropCmd k).cmdGroup k == none
       | .error _ => false))) = true ∧
    (let s := commanded (sampleCmd (.collective 0) (reduceCmd 1) (.done 0) none)
     onCmd s (fun l k => (match recorded s l k with
       | .ok t => (((t.sendAborts k 0).tellGroups k).dropCmd k).cmdGroup k |>.isSome
       | .error _ => false))) = true ∧
    -- page work of each class, and an explicit command between the two
    (let s := { commanded (sampleCmd (.storage 0) (blockCmd 1) .queued none) with queues := [] }
     let io := s.pageIo 0 sampleStorageRec.pte.toNat false (.read 9)
     let at_ := fun (f : Engine → Engine) => s.modEngine (.storage 0) f
     let here_ := fun (s : State) (p : Engine → Bool) => (s.engine? (.storage 0)).any p
     here_ (at_ (fun x => { x with pageG := [io] })) (fun x => x.nextPage false == some io) &&
       here_ (at_ (fun x => { x with queueG := [], pageH := [{ io with classH := true }] })) (fun x =>
         x.nextPage false == none && (s.nextCmd (.storage 0) x).isNone && (x.nextPage true).isSome) &&
       here_ s (fun x => x.nextPage false == none && (s.nextCmd (.storage 0) x).any (fun k => s.cmd? k.id == some k &&
         onCmd (s.unqueue k) (fun l _ => ((s.unqueue k).validate l k).isNone)))) = true := by
  decide +kernel

/-- A started command that waits for nothing and whose touches can all be accessed. -/
def works (s : State) (ts : State → Launch → Cmd → List Touch) : Bool :=
  onCmd s (fun l k => k.stage == .started && !k.waiting && (s.engineStop k (ts s l k)).isNone && (s.scratchStop l k).isNone && (s.tokenStop k (ts s l k)).isNone &&
    (s.logTouches k (ts s l k)).isSome)

theorem witness_EngineWork :
    works (commanded (sampleCmd (.copy 0) fillCmd .started none)) State.copyTouches = true ∧
    works (commanded (sampleCmd (.copy 0) copyCmd .started none)) State.copyTouches = true ∧
    works (commanded (sampleCmd (.tstream 0) boxCmd .started none)) State.boxTouches = true ∧
    ([1, 2].all (fun op => let s := commanded (sampleCmd (.storage 0) (blockCmd op) .started none)
      works s State.storageTouches && onCmd s (fun _ k => k.blocks == some (0, 1, 0, 1) && k.op == op && !s.driveBusy k))) = true ∧
    works (commanded (sampleCmd (.storage 0) (blockCmd 3) .started none)) (fun _ _ _ => []) = true ∧
    (let s := commanded (sampleCmd .launchQueue launchCmd .started none)
     works s State.childTouches && onCmd s (fun _ k => !(k.classH && s.childless.any (fun j => !j.classH)))) = true := by
  decide +kernel

theorem witness_CompletionRecordBytes : ([0, 0, 0, 0, 0, 0, 0, 0] : List Byte).length = 8 := by decide

def sampleColl : Coll := Coll.start (sampleMGroup 1 7) 3 false

theorem witness_CollectiveEvents :
    ([1, 2, 3, 4].all (fun op => let s := commanded (sampleCmd (.collective 0) (reduceCmd op) .started (some sampleColl))
      works s State.sourceTouches && onCmd s (fun l k =>
        (match s.logTouches k (s.sourceTouches l k) with
         | some t => ((t.sendFirst l k sampleColl).cmd? 9).any (fun k2 => ((t.sendFirst l k sampleColl).takeHeld k2).cmd? 9 |>.isSome)
         | none => false)))) = true ∧
    (({ site with drains := [0] } : State).silenced 0 = true ∧ site.silenced 0 = false) ∧
    (let s := commanded (sampleCmd (.collective 0) (reduceCmd 1) .queued none)
     (s.mgroup? 0).any (fun m => (2 : BitVec 16) != BitVec.ofNat 16 m.view && (1 : BitVec 16) == BitVec.ofNat 16 m.view && m.view != 0 &&
       m.members.getLsbD s.pkg) && (s.collOf 0 3).isNone) = true ∧
    (let s := commanded (sampleCmd (.collective 0) (reduceCmd 1) .started (some { sampleColl with sent := true }))
     (s.collOf 0 3).any (fun k => k.coll.any (fun c => !c.stopped && c.sent && c.view == 1) &&
       (((s.takeBody k (.partialSum 0 [1])).cmd? k.id).isSome)) &&
       (s.cmds.find? (fun k => (s.cmdGroup k).map (fun g => g.no) == some 0 && cmdField k.words 0x1E 2 == 3 && (match k.stage with
         | .done _ => false
         | _ => true))).isSome) = true := by
  decide +kernel

def samplePacket (view sender leader : Nat) (members : BitVec 288) : ViewPacket :=
  { group := 0, view := view, sender := sender, leader := leader, members := members, suspect := 0, cmds := [] }

def membered (m : MGroup) : State := { site with mgroups := [m] }

theorem witness_MembershipEvents :
    ((membered (sampleMGroup 1 7)).mgroup? 0).any (fun m => (3 : BitVec 288).getLsbD 0 && m.view < 2 && !m.accepted.contains 2 && 1 ≤ m.follows &&
      (m.view == 0 || (3 &&& ~~~m.members) == 0)) = true ∧
    ((membered { sampleMGroup 1 7 with accepted := [2], follows := 1 }).mgroup? 0).any (fun m => m.accepted.contains 2 && m.follows < 2 && m.view < 2) =
      true ∧
    (let s := { commanded (sampleCmd (.collective 0) (reduceCmd 1) .started (some sampleColl)) with mgroups := [sampleMGroup 1 3] }
     (s.mgroup? 0).any (fun m => m.view != 0 && (7 &&& ~~~m.members) != 0) &&
       ((s.modMGroup 0 (fun m => { m with accepted := m.accepted ++ [2], follows := 1, leading := none, pausing := some (samplePacket 2 1 1 7) })).collLeft 0)) =
      true ∧
    (let a : Agreement := { view := 2, members := 3, accepted := 1, maps := [], joiner := none }
     ((membered { sampleMGroup 1 7 with leading := some a }).mgroup? 0).any (fun m => m.leading == some a && a.view == 2 && a.members.getLsbD 1)) = true ∧
    (let s := membered (sampleMGroup 1 3)
     (s.mgroup? 0).any (fun m => m.view != 0 && !m.members.getLsbD 2 && m.leader == some 0 && m.leading.isNone && s.pkg == 0)) = true ∧
    (let s := { membered (sampleMGroup 1 3) with pkg := 1 }
     (s.mgroup? 0).any (fun m => m.view != 0 && !m.members.getLsbD 2 && m.leader.any (fun l => l != s.pkg))) = true ∧
    (let s := membered (sampleMGroup 1 7)
     (s.mgroup? 0).any (fun m => m.view != 0 && m.view < 2 && !((6 : BitVec 288).getLsbD s.pkg))) = true := by
  decide +kernel

theorem witness_ExcludedPackage :
    (let s := membered (sampleMGroup 1 7)
     (s.mgroup? 0).any (fun m => m.view != 0 && m.view < 2 && !((6 : BitVec 288).getLsbD s.pkg))) = true ∧
    (let o := fi 0 1 0xC0 0x1000 0
     let s := { placed (.push o) with mgroups := [sampleMGroup 0 7] }
     ahead s { plainSpec (.push o) o.guard with
         srcs := [.reg 0xC0 false 16], dsts := [.pred 1], priv := s.inCtx (fun x => s.foreignStorage x.l.part 0x1000), region := some 0xC0 } &&
       bitsOf 0x1000 15 12 == 1 && inHere s (fun x => (s.mgroup? (cmdField (x.wBlock o.sa) 0x1C 2)).any (fun m => m.view == 0) &&
         cmdFlags (x.wBlock o.sa) % 4 == 0)) = true := by
  decide +kernel

/-! ## Cohorts, queues and bands -/

def sampleReq : TileReq := { g := here, n := 4, dst := 0xC0 }

/-- Cluster 0 has a request waiting and cluster 1 is its first victim. -/
def dispensing (mine theirs : List TileRange) (steals victimSteals : List Steal) : State :=
  let s := siteWith id id id
  { s with clusters := [{ Cluster.fresh 0 with waiting := [sampleReq], ranges := mine, steals := steals },
                        { Cluster.fresh 1 with ranges := theirs, steals := victimSteals }] }

def sampleRange (lo hi : Nat) : TileRange := { lid := here.lid, lo := lo, hi := hi }

def stealIn (a : StealState) (victim : Nat) : State := dispensing [] [] [⟨here.lid, victim, a⟩] []

theorem witness_DispenserEvents :
    ((dispensing [sampleRange 0 10] [] [] []).cluster? 0).any (fun k => (k.waiting.find? (fun w => w.g.lid == here.lid)).isSome &&
      (k.ranges.find? (fun t => t.lid == here.lid)).isSome) = true ∧
    (let s := dispensing [] [] [] []
     ((s.serveTiles 0 here.lid 1).cluster? 0).any (fun k => k.waits here.lid && (k.steal? here.lid).isNone)) = true ∧
    (let s := dispensing [sampleRange 0 10] [] [] []
     ((s.serveTiles 0 here.lid 1).cluster? 0).any (fun k => !k.waits here.lid)) = true ∧
    (let s := dispensing [] [sampleRange 0 10] [⟨here.lid, 0, .asking⟩] []
     (victims 0).getD 0 0 == 1 && (s.cluster? 1).any (fun v => v.steals.isEmpty && v.ranges == [sampleRange 0 10]) && !s.clusterAway 1) = true ∧
    (let s := dispensing [] [] [⟨here.lid, 0, .asking⟩] []
     (s.cluster? 1).any (fun v => v.steals.isEmpty && v.tiles here.lid == 0)) = true ∧
    (let s := dispensing [] [] [⟨here.lid, 0, .asking⟩] [⟨here.lid, 1, .asking⟩]
     (s.cluster? 1).any (fun v => !v.steals.isEmpty) && !s.waitRing 0 32 1) = true ∧
    [stealIn .wait 0, stealIn (.shipped [(5, 10)]) 0, stealIn .empty 0, stealIn .empty 30].all (fun s =>
      ((s.cluster? 0).bind (fun k => k.steal? here.lid)).isSome) = true := by
  decide +kernel

/-- A QCB at 0x10000 whose ring lies at 0x20000 and whose completion ring lies at 0x30000, with 16 entries each. -/
def sampleQueue : Queue :=
  { Queue.created 0 { qid := 3, slot := 2, qcb := 0x10000, shadow := [], disabled := false, vector := 5 } with
    ring := 0x20000, rlog := 4, cring := 0x30000, clog := 4 }

def queued (q : Queue) (record : Memory) : State :=
  { siteWith id id id with
    queues := [q]
    mem := tables ++ [(0x10022, 0x02), (0x10028, 0x04), (0x1003A, 0x03), (0x10040, 0x04)] ++ record }

/-- A launch record: ENTRY 0, tables at 0x40000, one tile, one core, one group of 8 registers. -/
def sampleRecord : Memory :=
  [(0x2000A, 0x04), (0x20010, 1), (0x20014, 1), (0x20018, 1), (0x2001C, 1), (0x2001E, 1), (0x20020, 1), (0x20024, 1), (0x20028, 1),
    (0x2002A, 8)]

def takes (s : State) (ok : Bool) : Bool :=
  match s.queue? 3, s.vif? 0 with
  | some q, some v =>
    q.kicks.isEmpty && !q.reread && q.waitRec.isNone && q.head != q.tail && v.mig == .running && v.tdisp == .unlocked && !q.refusedRead &&
      (match s.headPages q v with
       | .error _ => false
       | .ok (r, _) =>
         (match r.queuePages q v .record (q.ring + 64 * (q.head % 2 ^ q.rlog)) 64 false with
          | .error _ => false
          | .ok (r, ps) =>
            let rcd := r.pageData ps (q.ring + 64 * (q.head % 2 ^ q.rlog)) 64
            if !ok then (recordCode rcd).isSome
            else (recordCode rcd).isNone && (match r.queuePages q v .record (fieldLE rcd 8 8) 2304 false with
              | .error _ => false
              | .ok (r, ts) => (match r.logPages v.part v.no 0 9 accRead needRead (ps ++ ts) with
                | some t => (match t.readLaunch q t.nextId q.head rcd (t.pageData ts (fieldLE rcd 8 8) 2304) with
                  | .ok l => l.grp == 1
                  | .error _ => false)
                | none => false))))
  | _, _ => false

theorem witness_QueueEvents :
    (let s := queued sampleQueue []
     (s.queues.find? (fun q => q.vif == 0 && q.slot == 2)).isSome && (s.vif? 0).any (fun v => v.mig == .running)) = true ∧
    (((queued sampleQueue []).modVif 0 (fun v => { v with mig := .stopped })).vif? 0).any (fun v => v.mig == .stopped) = true ∧
    (let s := queued sampleQueue []
     let ps : Pages := [(0x10000, 0x10000, 256)]
     let f := fun off n => s.qcbNat sampleQueue ps off n
     s.pageData ps sampleQueue.qcb 32 == sampleQueue.shadow.take 32 && sampleQueue.shadow.length == 32 && f 0x20 8 % 64 == 0 && f 0x28 1 ≤ 12 &&
       f 0x38 8 % 32 == 0 && f 0x40 1 ≤ 12 && (16 + 2 ^ 32 - sampleQueue.head) % 2 ^ 32 ≤ 2 ^ f 0x28 1) = true ∧
    takes (queued { sampleQueue with tail := 1 } []) false = true ∧ takes (queued { sampleQueue with tail := 1 } sampleRecord) true = true ∧
    (let e : Completion := { cring := sampleQueue.cring, clog := sampleQueue.clog, idx := 0, stat := 0, code := 0, left := 0, tag := 7, tpc := 0, taddr := 0 }
     let s := queued { sampleQueue with compl := [e] } []
     (match s.queue? 3, s.vif? 0 with
      | some q, some v =>
        !q.refusedEntry && !q.reread && (match s.qcbPages q v .entry with
          | .error _ => false
          | .ok (r, qs) =>
            let s1 := r.modQueue 3 (fun q => { q with chead := r.qcbNat q qs 0x48 4 })
            decide ((q.ctail + 2 ^ 32 - r.qcbNat q qs 0x48 4) % 2 ^ 32 < 2 ^ e.clog) &&
              (match s1.queuePages q v .entry (e.cring + 32 * (q.ctail % 2 ^ e.clog)) 32 true with
               | .ok (s2, ps) => (s2.logPages v.part v.no 0 9 accWrite needWrite ps).isSome
               | .error _ => false))
      | _, _ => false)) = true := by
  decide +kernel

theorem witness_RetirementEvents :
    (let s := siteWith id id (fun x => { x with r := { x.r with live := 0 } })
     stands s (fun _ c x => x.r.live == 0 && !x.retired && x.accs.isEmpty && x.slots.isEmpty && x.sending.isEmpty && x.run1.isNone && x.run2.isNone && x.tileOps.isEmpty &&
       !c.spatial && !(s.clusters.any (fun k => k.waiting.any (fun w => w.g == here))))) = true ∧
    (let s := siteWith id id (fun x => { x with retired := true })
     stands s (fun _ c _ => c.groups.all (fun g => g.retired) && (s.cohortCmds c.ref).isEmpty && s.asksDone c && (s.flushMaps c s.nextId).2 &&
       ((s.flushMaps c s.nextId).1.cohorts.find? (fun c => c.ref == ⟨here.lid, here.cid⟩)).isSome)) = true := by
  decide +kernel

def sampleBind : BindRec :=
  { core := 1, slot := 0, lid := here.lid, cid := 1, bid := 1, regb := 0, scrb := 0, gidx := 0, accb := 0, valid := true, restore := false, classH := false,
    checked := false, blk := 0, frame := 0, resv := 0 }

/-- The launch declares 8 registers and no scratchpad; core 1 is free. -/
def binding (c : Cohort → Cohort) : State :=
  let s := siteWith (fun l => { l with breg := 8, xreg := 0, scr := 0, acc := 0, bound := 1 }) c id
  { s with cores := s.cores ++ [Core.fresh 1] }

theorem witness_SaveAndRestoreEvents :
    stands (siteWith id (fun c => { c with phase := .saving 2 }) id) (fun _ c _ => c.phase == .saving 2) = true ∧
    (let vacated := fun (x : Group) => { x with stopped := true }
     let s := siteWith id (fun c => { c with budget := some 5 }) vacated
     stands s (fun _ c _ => c.phase == .resident && c.budget.isSome && !c.spatial && c.groups.all Group.handlerOver &&
       !(c.groups.all (fun x => x.retired)) && s.lightOk c && (s.flushMaps c s.nextId).2)) = true ∧
    (let vacated := fun (x : Group) => { x with stopped := true, slots := [{ idx := 0, acc := sampleAccess, recs := [9], refused := none, held := false }] }
     let s := { siteWith id (fun c => { c with budget := some 5, spatial := true }) vacated with recs := [sampleRec 1 none] }
     stands s (fun _ c _ => c.spatial && c.groups.all Group.handlerOver && !s.lightOk c)) = true ∧
    -- every lane of the group waits for a clause whose page faults
    (let s := ({ siteWith id id id with recs := [{ sampleRec 1 none with waiters := [.fetch 0 0 here.lid 8 8] }] } : State).modCore 0 (fun k =>
       { k with fetches := [{ slot := 0, lid := here.lid, pc := 8, again := false, stuck := true }] })
     stands s (fun l c _ => c.groups.all (s.starved c l) && c.groups.any (fun x => !x.retired) && s.recs.any c.servedBy && (s.part? l.part).isSome)) =
      true ∧
    (let s := binding id
     stands s (fun l _ _ => blockShape l [sampleBind] && sampleBind.cid == l.nextCid && !(s.writeBind sampleBind).spilling sampleBind l && !s.refuses sampleBind l 1 && !s.frameBad l sampleBind && ((s.writeBind sampleBind).victims sampleBind l).isEmpty &&
       s.refuses { sampleBind with cid := 0, bid := 0 } l 1 && s.frameBad l { sampleBind with restore := true } &&
       !s.refuses { sampleBind with restore := true } l 1) && (s.launch? 99).isNone) = true ∧
    (let s := siteWith id (fun c => { c with phase := .evicting }) id
     (s.cohorts.filter (fun c => c.core == 0 && c.phase == .evicting)).length == 1 && (s.cohorts.filter (fun c => c.core == 1 && c.phase == .evicting)).isEmpty) =
      true ∧
    -- what the record names is still on its way out of the core
    (let s := (binding id).modCore 1 (fun k => { k with spills := [⟨[], [], [], [0]⟩] })
     stands s (fun l _ _ => !s.refuses sampleBind l 1 && (s.writeBind sampleBind).spilling sampleBind l)) = true ∧
    (let s := binding (fun c => { c with classH := true })
     let r := { sampleBind with core := 0, slot := 1 }
     stands s (fun l _ _ => blockShape l [r] && !s.refuses r l 1 && !((s.writeBind r).victims r l).isEmpty)) = true ∧
    (let c0 := placedCohort here.lid []
     let f : Frame := { id := 7, die := 0, kind := 2, g := 1, b := 8, x := 0, acc := 0, scr := 0, fbytes := 0, cohort := c0, cmds := [], locks := [], nslot := 0,
                        ndef := 0, masks := 0, mapDirty := [] }
     let s := { siteWith id (fun c => { c with phase := .restoring 7 }) id with frames := [f] }
     let t := { s with frames := [{ f with mapDirty := [(0x9000, 1)] }] }
     let u := s.modCohort ⟨here.lid, here.cid⟩ (fun c => { c with deferred := [⟨0, 128, 0x9000, 0, 8, false, 0⟩] })
     let ready := fun (s : State) (c : Cohort) => (((s.rejoinBands c).cohorts.filter (fun x =>
       ((s.rejoinBands c).wholeBlock c.ref).contains x.ref)).all (fun x => (s.rejoinBands c).frameReady x && x.benr == 0 && x.deferred.isEmpty))
     stands s (fun _ c _ => c.phase == .restoring 7 && s.frameReady c && ready s c) && stands t (fun _ c _ => !t.frameReady c) &&
       stands u (fun _ c _ => u.frameReady c && !ready u c)) = true := by
  decide +kernel

def sampleAsk : BandAsk := { core := 0, g := here, key := ⟨0x9000, 128⟩, arrived := false, after := 0, hdr := 8, pc := 8, issuedAt := 0 }

/-- The state of the bands with one ask on its way. -/
def asking (b : Band → Band) : State :=
  (siteWith id id id).modDie 0 (fun d => { d with bands := [b { sampleBand 1 with asks := [sampleAsk] }] })

def asked (s : State) (p : Band → Bool) : Bool :=
  (s.band? 0 0).any (fun b => !((b.asks.filter (fun a => a.core == 0 && !a.arrived)).any s.askHeld) &&
    (b.asks.find? (fun a => a.core == 0 && !a.arrived)).isSome && p b)

theorem witness_BandEvents :
    asked (asking (fun b => { b with openHold := some ⟨⟨0x9000, 128⟩, 1, 0⟩ })) (fun b => b.openHold.any (fun h => h.key == sampleAsk.key)) = true ∧
    asked (asking (fun b => { b with openHold := some ⟨⟨0xA000, 128⟩, 1, 0⟩ })) (fun b => b.openHold.any (fun h => h.key != sampleAsk.key)) = true ∧
    asked (asking (fun b => { b with lastKey := some sampleAsk.key })) (fun b => b.openHold.isNone && b.lastKey == some sampleAsk.key &&
      b.served &&& coreBit 0 == 0) = true ∧
    asked (asking id) (fun b => b.openHold.isNone && b.lastKey != some sampleAsk.key) = true ∧
    (let f : BandFill := { id := 4, band := 0, key := sampleAsk.key, targets := 1, data := some [], poison := [], deferred := false, recId := 0 }
     let s := fun (f : BandFill) => (asking id).modDie 0 (fun d => { d with bandFills := [f] })
     ((s f).die? 0).any (fun d => d.bandFills.any (fun f => f.data.isSome && !f.deferred && !(s f).landBlocked 0 f)) &&
       ((s { f with deferred := true }).die? 0).any (fun d => d.bandFills.any (fun f => f.data.isSome && f.deferred)) &&
       ((s { f with data := none }).die? 0).any (fun d => d.bandFills.any (fun f => f.data.isNone)) &&
       (let m : MapEntry := { MapEntry.unbound with bound := true, va := 0x9000, s := 0, n := 128, filling := [⟨0, none, []⟩] }
        ((s f).modCohort ⟨here.lid, here.cid⟩ (fun c => { c with maps := c.maps.set 0 m })).landBlocked 0 f)) = true := by
  decide +kernel

/-! ## Service and interfaces -/

def sampleScrub : ScrubDef := { reason := 4, vif := 1, part := 0, kdom := 0, ranges := [(0x9000, 64)], ipa := 0x20000 }

def sampleReblock : ReblockDef := { die := 0, losing := 0, gaining := 1, clusters := [0], hbms := [0], slices := [5], rdcWays := [2] }

def samplePartDef : PartDef :=
  { part := 2, clusters := [9], hbms := [9], slices := [(1, 0)], rdcWays := [(1, 0)], engines := [3], ports := [3], ranges := [], test := false,
    depth := 64, depths := [], nsi := [] }

theorem witness_ServiceEvents :
    site.scrubBusy sampleScrub = false ∧ site.scrubBusy { sampleScrub with reason := 3 } = true ∧
    (let bytes := List.replicate 64 (1 : Byte)
     (site.vif? 1).isNone && (site.vif? 0).any (fun v => (site.ipaPut v 0x20000 bytes).isSome && (site.ipaReach v 0x20000 64 true).2.isSome &&
       (({ site with mem := [] } : State).ipaPut v 0x20000 bytes).isNone)) = true ∧
    -- a descriptor of 4 records at 0x20000 with DONE at 0x30000, and one whose buffer is not aligned
    (let s := ({ site with mem := tables ++ [(0x9002, 0x02), (0x9008, 4), (0x9012, 0x03)] } : State).modPart 0 (fun p => { p with log := [[1]] })
     let at_ := fun (s : State) (p : (Nat → Nat → Nat) → State → Vif → Bool) => (s.vif? 0).any (fun v => match s.ipaReach v 0x9000 24 false with
       | (t, some ds) => p (fieldLE (t.devBytes ds)) { t with hearth := { t.hearth with count := t.hearth.count + 1 } } v
       | (_, none) => false)
     (s.part? 0).any (fun p => p.logReader == 0 && exportCount p.log 4 == 1) &&
       at_ s (fun f t v => f 0 8 % 4096 == 0 && f 8 8 == 4 && f 16 8 == 0x30000 && (t.ipaPut v (f 0 8) (List.replicate 64 1)).any (fun u =>
         (u.ipaPut v (f 16 8) (leBytes 1 8)).isSome)) &&
       at_ { s with mem := tables ++ [(0x9000, 0x08)] } (fun f _ _ => f 0 8 % 4096 != 0) &&
       -- a buffer, and a DONE, beyond what is mapped; and no descriptor
       at_ { s with mem := tables ++ [(0x9006, 0x01)] } (fun f t v => f 0 8 % 4096 == 0 && (t.ipaPut v (f 0 8) (List.replicate 64 1)).isNone) &&
       at_ { s with mem := tables ++ [(0x9002, 0x02), (0x9016, 0x01)] } (fun f t v => f 0 8 % 4096 == 0 &&
         (t.ipaPut v (f 0 8) (List.replicate 64 1)).any (fun u => (u.ipaPut v (f 16 8) (leBytes 1 8)).isNone)) &&
       (s.vif? 0).any (fun v => (({ s with mem := [] } : State).ipaReach v 0x9000 24 false).2.isNone)) = true ∧
    ((site.modPart 0 (fun p => { p with logReader := 3 })).part? 0).any (fun p => p.logReader != 0) = true ∧
    (let s := { site with parts := [{ samplePart with slices := [(0, 5)], rdcWays := [(0, 2)] }, { Partition.unformed 1 with formed := true }] }
     s.reblockOk sampleReblock && !site.reblockOk sampleReblock &&
       ((s.modDie 0 (fun k => { k with reblock := some sampleReblock })).die? 0).any (fun k => k.reblock == some sampleReblock)) = true ∧
    (site.part? 0).isSome = true ∧ ({ site with drains := [0] } : State).drains.contains 0 = true ∧ site.partFree samplePartDef = true ∧
    (site.modPart 0 (fun p => { p with formed := false, unscrubbed := true })).parts.any (fun q => q.unscrubbed &&
      q.clusters.any (fun c => ({ samplePartDef with clusters := q.clusters } : PartDef).clusters.contains c)) = true := by
  decide +kernel

theorem witness_InterfaceEvents :
    [Tdisp.unlocked, .locked, .run, .error].all (fun t => ((site.modVif 0 (fun v => { v with tdisp := t })).vif? 0).any (fun v => v.tdisp == t)) = true ∧
    (let s := site.modVif 0 (fun v => { v with tdisp := .locked })
     let idle := ({ s with cohorts := [] } : State).modLaunch here.lid (fun l => { l with phase := .over })
     s.vifBusy 0 && !(idle.vifBusy 0) && (idle.vif? 0).any (fun v => (idle.unlockScrub v).isSome &&
       (({ idle with drains := [0] } : State).unlockScrub v).isNone)) = true ∧
    -- from RUN the launches end first
    (let s := (site.modVif 0 (fun v => { v with tdisp := .locked })).vifEnd 0 0x38
     !(s.vifBusy 0) && (s.vif? 0).any (fun v => (s.unlockScrub v).isSome)) = true ∧
    (let s := { site with hearth := { Hearth.off with step := 8 } }
     s.hearth.step ≥ 6 && !s.vifBusy 1 && (s.vif? 1).isNone && s.queues.isEmpty) = true ∧
    site.hearth.step < 6 ∧
    ({ site with kdoms := [⟨3, true, 1, false⟩] } : State).kdoms.any (fun k => k.no == 3 && k.loaded) = true := by
  decide +kernel

theorem witness_RegisterWrites :
    (let s := { queued sampleQueue [] with mgroups := [sampleMGroup 1 7] }
     (s.queues.find? (fun q => q.vif == 0 && q.slot == 2)).isSome && (s.vif? 0).any (fun v => v.no == 0 && v.tdisp == .unlocked) &&
       !s.partGuarded 0 && (s.queue? 3).isSome) = true ∧
    ((site.modVif 0 (fun v => { v with tdisp := .locked })).vif? 0).any (fun v => v.tdisp != .unlocked) = true ∧
    (let s := site.modVif 0 (fun v => { v with tdisp := .error })
     (s.vif? 0).any (fun v => v.tdisp == .error) && !(s.vifs.any (fun v => v.part == 0 && v.no == 3 && v.tdisp == .error)) &&
       [1, 2, 3, 4, 5].all (fun c => (migEvent 0 c).isSome)) = true := by
  decide +kernel

theorem witness_MigrationEvents :
    [Mig.running, .precopy, .stopping, .stopped, .resuming].all (fun m =>
      ((site.modVif 0 (fun v => { v with mig := m, dest := true })).vif? 0).any (fun v => v.mig == m && v.tdisp == .unlocked)) = true ∧
    ((site.modVif 0 (fun v => { v with tdisp := .run })).vif? 0).any (fun v => v.tdisp == .run) = true ∧
    (let v : Vif := { sampleVif with chunks := [1, 2, 3, 4, 5, 6, 7, 8].map (fun k => ⟨k, 0, List.replicate 8 0⟩) }
     [1, 2, 3, 4, 5, 6, 7, 8].all v.whole && !(sampleVif.whole 1)) = true ∧
    (let s : State := { site with cohorts := [] }
     let t := s.modVif 0 (fun v => { v with mig := .stopping })
     (t.vif? 0).any (fun v => v.mig == .stopping) && (t.vifCohorts 0).isEmpty && t.cmds.isEmpty && (t.vifFrames 0).isEmpty &&
       -- a frame with an outstanding result is not settled
       site.unsettled (placedCohort here.lid []) == false) = true := by
  decide +kernel

/-- The boundary of the clusters' slots, and each condition of the reset order and of the boost arbiter. -/
theorem witness_DeviceEvents :
    (State.reset.hearth.step = 0 ∧ State.reset.flash.authentic = true) ∧
    (let h := fun p => ({ site with hearth := { Hearth.off with released := [p] } } : State)
     [Processor.scheduling 0, .storageEngine 3, .collectiveEngine 1, .ioManagement 0, .pager 0].all (fun p =>
       (h p).hearth.released.contains p && !((h p).hearth.heard.contains p))) = true ∧
    [0, 1, 2, 3, 4, 5, 6, 7].all (fun n => ((site.modDie 0 (fun d => { d with wrstep := n })).die? 0).any (fun k => k.wrstep + 1 == n + 1)) = true ∧
    (site.core? 0).any (fun c => !c.suspect) = true ∧
    ((site.modCore 0 (fun c => { c with suspect := true })).core? 0).any (fun c => c.suspect) = true ∧
    (let s := site.modCluster 0 (fun k => { k with claim := 4 })
     let slots := fun (n : Nat) => (List.range n).map (fun k => (⟨k + 1, true, false⟩ : BoostSlot))
     (s.cluster? 0).any (fun k => k.claim == 4 && 2 ≤ k.permits) && !(s.boostSlots.any (fun b => b.cluster == 0)) && (slots 16).length == 16 &&
       !s.claimH 0 && ({ s with cohorts := [] } : State).claimH 0) = true := by
  decide +kernel

/-! ## One step: the spec's worked examples and the corners of its rules -/

/-- The registers after a word in a small state whose v2, v3 and v4 hold the values given in every lane. -/
def ran (i : Instr) (a b c : Word) : Option Regs :=
  let fill := fun (r : Regs) => (List.range 16).foldl (fun r l => ((r.write 2 l a).write 3 l b).write 4 l c) r
  match exec i ((placed i).modRegs here fill) with
  | .next s => ((s.group? here).map (fun x => x.r))
  | _ => none

/-- v1 of every lane, and the flags raised (Table 2.3: IV 1, DZ 2, OF 4, UF 8, IX 16). -/
def gives (i : Instr) (a b c v flags : Word) : Bool :=
  (ran i a b c).any (fun r => (List.range 16).all (fun l => r.read 1 l == v) && r.fpsr == flags)

/-- Chapter 7's `bfx.s32 v1, v2, 0x0804` of 0xF30. -/
theorem test_bfx : gives (.bfxImm (fi 0xC 1 2 0x0804 0)) 0xF30 0 0 0xFFFFFFF3 0 = true := by decide +kernel

/-- The consequences listed after Table 7.2. -/
theorem test_iabs_of_most_negative : gives (.iabs (fv 0xC 1 2 0 0 0)) 0x80000000 0 0 0x80000000 0 = true := by decide +kernel
theorem test_iabs_saturates : gives (.iabs { fv 0xC 1 2 0 0 0 with sat := true }) 0x80000000 0 0 0x7FFFFFFF 0 = true := by decide +kernel
theorem test_ineg_z32_saturates : gives (.ineg { fv 0xD 1 2 0 0 0 with sat := true }) 5 0 0 0 0 = true := by decide +kernel
theorem test_iadd_wraps : gives (.iadd (fv 0xC 1 2 3 0 0)) 0x7FFFFFFF 1 0 0x80000000 0 = true := by decide +kernel
theorem test_isar_beyond_width : gives (.isar (fv 0 1 2 3 0 0)) 0x80000000 32 0 0xFFFFFFFF 0 = true := by decide +kernel

/-- Steps of Table 7.5. -/
theorem test_udiv32_imulhi : gives (.imulhi (fv 0xD 1 2 3 0 0)) 0x24924800 0x800 0 292 0 = true := by decide +kernel
theorem test_udiv32_fmul : gives (.fmul { fv 0 1 2 3 0 0 with rnd := 2 }) 0x3E124925 0x4F7FFFF8 0 0x4E124920 16 = true := by decide +kernel

/-- Rows of Table 8.5. -/
theorem test_cvt_e4m3_overflows : gives (.cvt { fv 4 1 2 0 0 0 with rnd := 1 }) 0x43FA0000 0 0 0x7F 20 = true := by decide +kernel
theorem test_cvt_e4m3_saturates : gives (.cvt { fv 4 1 2 0 0 0 with rnd := 1, sat := true }) 0x43FA0000 0 0 0x7E 20 = true := by
  decide +kernel
theorem test_cvt_e4m3_tie : gives (.cvt { fv 4 1 2 0 0 0 with rnd := 1 }) 0x43E80000 0 0 0x7E 16 = true := by decide +kernel
theorem test_cvt_e2m1_tie : gives (.cvt { fv 6 1 2 0 0 0 with rnd := 1 }) 0x40200000 0 0 4 16 = true := by decide +kernel
theorem test_cvt_bf16_tie : gives (.cvt { fv 3 1 2 0 0 0 with rnd := 1 }) 0x3F808000 0 0 0x3F80 16 = true := by decide +kernel
theorem test_cvt_e8m0 : gives (.cvt (fv 7 1 2 0 0 0)) 0x40400000 0 0 0x80 16 = true := by decide +kernel
theorem test_cvt_s32_out_of_range : gives (.cvt { fv 0xC 1 2 0 0 0 with rnd := 2 }) 0xCF1502F9 0 0 0x80000000 1 = true := by decide +kernel
theorem test_cvt_z32_nan : gives (.cvt (fv 0xD 1 2 0 0 0)) 0x7FC00000 0 0 0 1 = true := by decide +kernel
theorem test_cvt_s8_wraps : gives (.cvt (fv 8 1 2 0 0 0xC)) 300 0 0 0x2C 0 = true := by decide +kernel
theorem test_cvt_s8_saturates : gives (.cvt { fv 8 1 2 0 0 0xC with sat := true }) 300 0 0 0x7F 0 = true := by decide +kernel

/-- Chapter 8's packing of −15/16 and −1 under the block scale 2^−8: 0xF7 and 0xF8. -/
theorem test_fpk : gives (.fpk { fv 4 1 2 3 0xE0 0 with rnd := 1, sat := true }) 0xC3800000 0xC3700000 0 0xF7F8 0 = true := by decide +kernel

/-- `frcp` of 7 fills 1/7 in RNE (Table 7.5). -/
theorem test_frcp :
    (match exec (.frcp (fv 0 1 2 0 0 0)) ((placed (.frcp (fv 0 1 2 0 0 0))).modRegs here (fun r => r.write 2 0 0x40E00000)) with
     | .next s => (s.group? here).any (fun x => x.fills.any (fun f => f.dst == 1 && f.vals.any (fun v => v.1 == 0 && v.2 == [0x3E124925])))
     | _ => false) = true := by
  decide +kernel

/-- The header of chapter 3: `.clause mem wait=v4,w2 re` with two body words. -/
theorem test_header :
    (let h : DWord := 0xF630096140000000
     hdrTag h = 0xF ∧ hdrClass h = 3 ∧ hdrCount h = 1 ∧ hdrRE h = true ∧ hdrWaits h = [4, 194]) := by
  decide

/-- The footprints of chapter 12. -/
theorem test_footprint : footprint 256 56 0 = 950272 ∧ footprint 64 128 64 = 663552 := by decide

/-- The storage entry of chapter 20: engine 3, LBAs from 0x12340. -/
theorem test_storage_entry :
    (bitsOf 0x930000012340000E 59 56 = 3 ∧ bitsOf 0x930000012340000E 62 60 = 1 ∧ 16 * bitsOf 0x930000012340000E 55 20 = 0x12340) ∧
    (site.entryBlocks 0 0x930000012340000E).2.2 = 0x12340 := by
  decide +kernel

end Sys2Proof.Tests
end

section
/-!
PROOF. What stores do to memory and to the RDCs: bytes that were put read back, the operations of a home access that leave both alone,
a write performed at home, a dirty line's write-back, and the recall of a line's copies (R3, R246, R258).
-/
namespace Sys2Proof.Machine

/-! ## Bytes put at rising addresses -/

theorem Memory.byte_putBytes (m : Memory) (a : Nat) (bs : List Byte) (c : Nat) :
    (m.putBytes a bs).byte c = if a ≤ c ∧ c < a + bs.length then bs.getD (c - a) 0 else m.byte c := by
  induction bs generalizing m a with
  | nil =>
    have hout : ¬(a ≤ c ∧ c < a + ([] : List Byte).length) := by
      rw [List.length_nil]
      omega
    rw [if_neg hout]
    rfl
  | cons b rest ih =>
    simp only [Memory.putBytes, ih, Memory.byte_put, List.length_cons]
    by_cases hfirst : c = a
    · subst hfirst
      have hafter : ¬(c + 1 ≤ c ∧ c < c + 1 + rest.length) := by omega
      have hwhole : c ≤ c ∧ c < c + (rest.length + 1) := by omega
      rw [if_neg hafter, if_pos rfl, if_pos hwhole, Nat.sub_self, List.getD_cons_zero]
    by_cases hin : a + 1 ≤ c ∧ c < a + 1 + rest.length
    · have hwhole : a ≤ c ∧ c < a + (rest.length + 1) := by omega
      have hoff : c - a = c - (a + 1) + 1 := by omega
      rw [if_pos hin, if_pos hwhole, hoff, List.getD_cons_succ]
    · have hwhole : ¬(a ≤ c ∧ c < a + (rest.length + 1)) := by omega
      rw [if_neg hin, if_neg hwhole, if_neg hfirst]

/-! ## Memory and the RDCs together -/

theorem foldl_frame {σ α β : Type} (view : σ → β) (f : σ → α → σ) (h : ∀ s a, view (f s a) = view s) (xs : List α) (s : σ) :
    view (xs.foldl f s) = view s := by
  induction xs generalizing s with
  | nil => rfl
  | cons a rest ih => rw [List.foldl_cons, ih, h]

/-- The RDC lines of each die, by its number. -/
def State.rdcs (s : State) : List (Nat × List CacheLine) := s.dies.map (fun d => (d.no, d.rdc))

/-- Memory and the RDCs: where a stored byte can stand beyond the L1s. -/
def State.stored (s : State) : Memory × List (Nat × List CacheLine) := (s.mem, s.rdcs)

theorem State.mem_of_stored {s t : State} (h : t.stored = s.stored) : t.mem = s.mem := congrArg Prod.fst h

theorem State.rdcs_of_stored {s t : State} (h : t.stored = s.stored) : t.rdcs = s.rdcs := congrArg Prod.snd h

theorem State.rdcLine?_eq (s : State) (die pa : Nat) :
    s.rdcLine? die pa = (s.rdcs.find? (fun r => r.1 == die)).bind (fun r => r.2.find? (fun l => l.line == pa / 128)) := by
  simp only [State.rdcs, List.find?_map, Option.bind_map]
  rfl

theorem State.rdcLine?_of_rdcs {s t : State} (h : t.rdcs = s.rdcs) (die pa : Nat) : t.rdcLine? die pa = s.rdcLine? die pa := by
  rw [State.rdcLine?_eq, State.rdcLine?_eq, h]

/-! ## Operations that leave memory and the RDCs alone -/

theorem State.stored_ite {s t u : State} {c : Prop} [Decidable c] (ht : t.stored = s.stored) (hu : u.stored = s.stored) :
    (if c then t else u).stored = s.stored := by
  split
  · exact ht
  · exact hu

theorem State.stored_modDie (s : State) (k : Nat) (f : Die → Die) (h : ∀ d, (f d).no = d.no ∧ (f d).rdc = d.rdc) :
    (s.modDie k f).stored = s.stored := by
  have hkeep : ∀ d : Die, (if d.no == k then f d else d).no = d.no ∧ (if d.no == k then f d else d).rdc = d.rdc := by
    intro d
    split
    · exact h d
    · exact ⟨rfl, rfl⟩
  simp only [State.stored, State.rdcs, State.modDie, updateWhere, List.map_map, Function.comp_def, hkeep]

@[simp] theorem State.stored_post (s : State) (i : Instr) : (s.post i).stored = s.stored := by
  simp only [State.stored, State.rdcs, State.post_mem, State.post_dies]

@[simp] theorem State.stored_charge (s : State) (q : Req) (pa : Nat) : (s.charge q pa).stored = s.stored := by
  unfold State.charge; split <;> rfl

@[simp] theorem State.stored_spendToken (s : State) (q : Req) (pa : Nat) : (s.spendToken q pa).stored = s.stored :=
  State.stored_ite rfl (State.stored_charge s q pa)

@[simp] theorem State.stored_chargeVictim (s : State) (l : L2Line) : (s.chargeVictim l).stored = s.stored :=
  State.stored_ite (State.stored_charge s _ _) rfl

@[simp] theorem State.stored_dropL2 (s : State) (p : L2Line → Bool) : (s.dropL2 p).stored = s.stored :=
  foldl_frame State.stored State.chargeVictim State.stored_chargeVictim _ s

@[simp] theorem State.stored_l2Domain (s : State) (q : Req) (pa : Nat) : (s.l2Domain q pa).stored = s.stored := by
  unfold State.l2Domain
  split
  · exact State.stored_ite rfl (State.stored_dropL2 s _)
  · rfl

@[simp] theorem State.stored_l2Alloc (s : State) (q : Req) (pa : Nat) : (s.l2Alloc q pa).stored = s.stored := by
  unfold State.l2Alloc
  split
  · rfl
  split
  · rfl
  dsimp only
  split
  · rfl
  split
  · rfl
  · exact State.stored_chargeVictim s _

@[simp] theorem State.stored_modL2 (s : State) (pa : Nat) (q : Req) (f : L2Line → L2Line) : (s.modL2 pa q f).stored = s.stored :=
  (State.stored_l2Alloc (s.l2Domain q pa) q pa).trans (State.stored_l2Domain s q pa)

@[simp] theorem State.stored_modSector (s : State) (pa : Nat) (f : Sector → Sector) : (s.modSector pa f).stored = s.stored := by
  unfold State.modSector; split <;> rfl

@[simp] theorem State.stored_spinTouch (s : State) (line : Nat) : (s.spinTouch line).stored = s.stored := rfl

@[simp] theorem State.stored_dropReplicas (s : State) (pa : Nat) : (s.dropReplicas pa).stored = s.stored := by
  simp only [State.stored, State.rdcs, State.dropReplicas, List.map_map, Function.comp_def]

@[simp] theorem State.stored_wakeWaitc (s : State) : s.wakeWaitc.stored = s.stored := by
  refine foldl_frame State.stored _ (fun s c => ?_) _ s
  refine foldl_frame State.stored _ (fun s g => ?_) _ s
  refine foldl_frame State.stored _ (fun s a => ?_) _ s
  exact State.stored_ite (State.stored_post s _) rfl

@[simp] theorem State.stored_noticed (s : State) (pas : List Nat) : (s.noticed pas).stored = s.stored := by
  rw [State.noticed, State.stored_wakeWaitc]
  exact foldl_frame State.stored _ (fun s a => State.stored_dropReplicas (s.spinTouch (a / 128)) a) pas s

@[simp] theorem State.stored_countAccess (s : State) (q : Req) (from? : Option Nat) (pa : Nat) (write : Bool) :
    (s.countAccess q from? pa write).stored = s.stored := by
  unfold State.countAccess
  refine State.stored_ite rfl ?_
  dsimp only
  cases s.die? (paDie pa) with
  | none => rfl
  | some d =>
    refine State.stored_ite rfl (State.stored_ite ?_ ?_)
    · rw [State.stored_post, State.stored_modDie]
      exact fun _ => ⟨rfl, rfl⟩
    · rw [State.stored_modDie]
      exact fun _ => ⟨rfl, rfl⟩

@[simp] theorem State.stored_spendAllowance (s : State) (q : Req) : (s.spendAllowance q).stored = s.stored := by
  unfold State.spendAllowance; split <;> rfl

@[simp] theorem State.stored_backHome (s : State) (w : Req) (die pa : Nat) : (s.backHome w die pa).stored = s.stored :=
  State.stored_ite (State.stored_countAccess s w _ pa true) (State.stored_spendAllowance s w)

/-! ## A write performed at home -/

/-- Memory takes the bytes, and the RDCs stay: every other effect of the write is a mark, a token or a waiter. -/
theorem State.stored_homeWrite (s : State) (q : Req) (pa : Nat) (bs : List Byte) :
    (s.homeWrite q pa bs).stored = (s.mem.putBytes pa bs, s.rdcs) := by
  unfold State.homeWrite
  cases bs with
  | nil => rfl
  | cons b rest =>
    have hput : ∀ t : State, t.stored = s.stored →
        (({ t with mem := t.mem.putBytes pa (b :: rest) } : State).noticed (linesOf pa (b :: rest).length)).stored =
          (s.mem.putBytes pa (b :: rest), s.rdcs) := by
      intro t ht
      rw [State.stored_noticed, ← State.mem_of_stored ht, ← State.rdcs_of_stored ht]
      rfl
    refine hput _ ?_
    rw [foldl_frame State.stored _ (fun s a => (State.stored_modL2 _ a q _).trans (State.stored_spendToken s q a)),
      foldl_frame State.stored _ (fun s k => State.stored_modSector s _ _)]

theorem State.mem_homeWrite (s : State) (q : Req) (pa : Nat) (bs : List Byte) : (s.homeWrite q pa bs).mem = s.mem.putBytes pa bs :=
  congrArg Prod.fst (s.stored_homeWrite q pa bs)

theorem State.rdcs_homeWrite (s : State) (q : Req) (pa : Nat) (bs : List Byte) : (s.homeWrite q pa bs).rdcs = s.rdcs :=
  congrArg Prod.snd (s.stored_homeWrite q pa bs)

theorem State.memOk_homeWrite {s : State} (q : Req) (pa : Nat) (bs : List Byte) (h : s.memOk) : (s.homeWrite q pa bs).memOk := by
  rw [State.memOk, State.mem_homeWrite]
  exact Memory.wf_putBytes s.mem pa bs h

/-! ## Write-backs of dirty lines (R246) -/

theorem State.memOk_homeWrites {s : State} (q : Req) (rs : List (Nat × List Byte)) (h : s.memOk) :
    (rs.foldl (fun s r => s.homeWrite q r.1 r.2) s).memOk :=
  List.foldlRecOn rs _ h (fun _ ht r _ => State.memOk_homeWrite q r.1 r.2 ht)

theorem State.cleanRdcLine_of_clean (s : State) (q : Req) (die : Nat) {l : CacheLine} (h : l.dirtyBytes = []) :
    s.cleanRdcLine q die l = s := by
  rw [State.cleanRdcLine, h]
  rfl

theorem State.memOk_cleanRdcLine {s : State} (q : Req) (die : Nat) (l : CacheLine) (h : s.memOk) : (s.cleanRdcLine q die l).memOk := by
  unfold State.cleanRdcLine
  split
  · exact h
  · have hhome : (s.backHome (l.req q) die (128 * l.line)).memOk := by
      rw [State.memOk, State.mem_of_stored (State.stored_backHome s (l.req q) die (128 * l.line))]
      exact h
    exact State.memOk_homeWrites (l.req q) (byteRuns l.dirtyBytes) hhome

theorem State.rdcLine?_cleaned_none {s : State} (k n : Nat) {die a : Nat} (h : s.rdcLine? die a = none) :
    (s.modDie k (fun d => { d with rdc := updateWhere (fun x => x.line == n) CacheLine.clean d.rdc })).rdcLine? die a = none := by
  unfold State.rdcLine? at h ⊢
  rw [State.die?_modDie]
  case h => exact fun _ => rfl
  split
  · cases hd : s.die? die with
    | none => rfl
    | some d =>
      rw [hd] at h
      have hnone : d.rdc.find? (fun x => x.line == a / 128) = none := h
      have hclean := find_updateWhere_key CacheLine.line n (a / 128) CacheLine.clean d.rdc (fun _ => rfl)
      simp only [Option.map_some, Option.bind_some, Die.rdcLine?, hclean, hnone, Option.map_none, ite_self]
  · exact h

theorem State.rdcLine?_cleanRdcLine_none {s : State} (q : Req) (k : Nat) (l : CacheLine) {die a : Nat} (h : s.rdcLine? die a = none) :
    (s.cleanRdcLine q k l).rdcLine? die a = none := by
  unfold State.cleanRdcLine
  split
  · exact h
  dsimp only
  generalize ht : (byteRuns l.dirtyBytes).foldl _ _ = t
  have hrdcs : t.rdcs = s.rdcs := by
    rw [← ht, foldl_frame State.rdcs _ (fun s r => State.rdcs_homeWrite s _ _ _)]
    exact State.rdcs_of_stored (State.stored_backHome s _ _ _)
  exact State.rdcLine?_cleaned_none k l.line ((State.rdcLine?_of_rdcs hrdcs die a).trans h)

/-! ## Recalling every copy of a line (R246) -/

theorem State.rdcLine?_rdcDrop_all (s : State) (pa die a : Nat) :
    (s.rdcDrop pa (fun _ => true)).rdcLine? die a = if a / 128 = pa / 128 then none else s.rdcLine? die a := by
  simp only [State.rdcLine?, State.die?, State.rdcDrop, List.find?_map, Option.bind_map, if_true]
  change (s.dies.find? (fun d => d.no == die)).bind _ = _
  cases s.dies.find? (fun d => d.no == die) with
  | none => exact (ite_self none).symm
  | some d =>
    simp only [Option.bind_some, Function.comp_apply, Die.rdcLine?, List.find?_filter]
    split
    · next he =>
      refine List.find?_eq_none.mpr (fun x _ => ?_)
      simp only [decide_eq_true_eq, bne_iff_ne, ne_eq, beq_iff_eq, he]
      exact fun h => h.1 h.2
    · next hne =>
      congr 1
      funext l
      by_cases hl : l.line = a / 128 <;> simp [hl, hne]

/-- A recall is some cleanings and one drop: the induction over the dies, once for every property. -/
theorem State.recall_keeps {P : State → Prop} {s : State} (q : Req) (pa : Nat) (hclean : ∀ t die l, P t → P (t.cleanRdcLine q die l))
    (hdrop : ∀ t : State, P t → P (t.rdcDrop pa (fun _ => true))) (h : P s) : P (s.recall q pa) := by
  refine hdrop _ (List.foldlRecOn s.dies _ h (fun t ht d _ => ?_))
  split
  · exact hclean t d.no _ ht
  · exact ht

theorem State.memOk_recall {s : State} (q : Req) (pa : Nat) (h : s.memOk) : (s.recall q pa).memOk :=
  State.recall_keeps (P := State.memOk) q pa (fun _ die l => State.memOk_cleanRdcLine q die l) (fun _ ht => ht) h

theorem State.rdcLine?_recall_same (s : State) (q : Req) (pa die : Nat) : (s.recall q pa).rdcLine? die pa = none := by
  rw [State.recall, State.rdcLine?_rdcDrop_all, if_pos rfl]

theorem State.rdcLine?_recall_none {s : State} (q : Req) (pa : Nat) {die a : Nat} (h : s.rdcLine? die a = none) :
    (s.recall q pa).rdcLine? die a = none := by
  refine State.recall_keeps (P := fun t => t.rdcLine? die a = none) q pa
    (fun _ k l => State.rdcLine?_cleanRdcLine_none q k l) (fun t ht => ?_) h
  rw [State.rdcLine?_rdcDrop_all, ht, ite_self]

/-- No die holds a dirty copy of the line of an address. -/
def State.rdcClean (s : State) (a : Nat) : Prop := ∀ die l, s.rdcLine? die a = some l → l.dirtyBytes = []

theorem State.recall_of_rdcClean {s : State} (q : Req) {pa : Nat} (h : s.rdcClean pa) :
    s.recall q pa = s.rdcDrop pa (fun _ => true) := by
  refine congrArg (fun t => State.rdcDrop t pa (fun _ => true))
    (List.foldlRecOn (motive := fun t => t = s) s.dies _ rfl (fun t ht d _ => ?_))
  subst ht
  split
  · next l hl => exact State.cleanRdcLine_of_clean t q d.no (h d.no l hl)
  · rfl

theorem State.rdcClean_rdcDrop {s : State} (pa : Nat) {a : Nat} (h : s.rdcClean a) : (s.rdcDrop pa (fun _ => true)).rdcClean a := by
  intro die l hl
  rw [State.rdcLine?_rdcDrop_all] at hl
  split at hl
  · cases hl
  · exact h die l hl

/-! ## Recalling several lines, as a store does -/

/-- Every RDC copy of some lines leaves. -/
def State.recallAll (s : State) (q : Req) (as : List Nat) : State := as.foldl (fun s a => s.recall q a) s

theorem State.homeStore_eq (s : State) (q : Req) (pa : Nat) (bs : List Byte) :
    s.homeStore q pa bs = (s.recallAll q (linesOf pa bs.length)).homeWrite q pa bs := rfl

theorem State.memOk_recallAll {s : State} (q : Req) (as : List Nat) (h : s.memOk) : (s.recallAll q as).memOk :=
  List.foldlRecOn as _ h (fun _ ht a _ => State.memOk_recall q a ht)

theorem State.rdcLine?_recallAll_none {s : State} (q : Req) (as : List Nat) {die a : Nat} (h : s.rdcLine? die a = none) :
    (s.recallAll q as).rdcLine? die a = none :=
  List.foldlRecOn (motive := fun t : State => t.rdcLine? die a = none) as _ h (fun _ ht b _ => State.rdcLine?_recall_none q b ht)

theorem State.rdcLine?_recallAll (s : State) (q : Req) (as : List Nat) (die : Nat) {a : Nat} (ha : a ∈ as) :
    (s.recallAll q as).rdcLine? die a = none := by
  induction as generalizing s with
  | nil => cases ha
  | cons b rest ih =>
    cases ha with
    | head => exact State.rdcLine?_recallAll_none q rest (State.rdcLine?_recall_same s q a die)
    | tail _ hrest => exact ih (s.recall q b) hrest

theorem State.mem_recallAll_of_rdcClean {s : State} (q : Req) (as : List Nat) (h : ∀ a, a ∈ as → s.rdcClean a) :
    (s.recallAll q as).mem = s.mem := by
  induction as generalizing s with
  | nil => rfl
  | cons b rest ih =>
    have hdrop : s.recall q b = s.rdcDrop b (fun _ => true) := State.recall_of_rdcClean q (h b (.head _))
    have hrest : ∀ a, a ∈ rest → (s.recall q b).rdcClean a := by
      intro a ha
      rw [hdrop]
      exact State.rdcClean_rdcDrop b (h a (.tail _ ha))
    calc ((s.recall q b).recallAll q rest).mem = (s.recall q b).mem := ih hrest
      _ = s.mem := by rw [hdrop]; rfl

/-! ## A store at home -/

theorem State.mem_homeStore (s : State) (q : Req) (pa : Nat) (bs : List Byte) :
    (s.homeStore q pa bs).mem = (s.recallAll q (linesOf pa bs.length)).mem.putBytes pa bs := by
  rw [State.homeStore_eq, State.mem_homeWrite]

theorem State.memOk_homeStore {s : State} (q : Req) (pa : Nat) (bs : List Byte) (h : s.memOk) : (s.homeStore q pa bs).memOk :=
  State.memOk_homeWrite q pa bs (State.memOk_recallAll q _ h)

theorem State.rdcLine?_homeStore (s : State) (q : Req) (pa : Nat) (bs : List Byte) (die : Nat) {a : Nat}
    (ha : a ∈ linesOf pa bs.length) : (s.homeStore q pa bs).rdcLine? die a = none := by
  rw [State.homeStore_eq, State.rdcLine?_of_rdcs (State.rdcs_homeWrite _ q pa bs)]
  exact State.rdcLine?_recallAll s q _ die ha

/-- Settles O31: the bytes put read back by induction on them, and a store at home is a recall of its lines, which changes memory by
write-backs alone, followed by a write whose bytes memory takes. -/
theorem memoryReadsBackAfterStores : Obligations.MemoryReadsBackAfterStores := by
  unfold Obligations.MemoryReadsBackAfterStores
  refine ⟨fun m a bs => ⟨Memory.wf_putBytes m a bs, Memory.byte_putBytes m a bs⟩, fun s q pa bs => ?_⟩
  dsimp only
  refine ⟨State.memOk_homeStore q pa bs, fun b => ?_, fun b hlo hhi => ?_, fun a ha die => ?_, fun hclean b => ?_⟩
  · rw [State.mem_homeWrite, Memory.byte_putBytes]
  · rw [State.mem_homeStore, Memory.byte_putBytes, if_pos ⟨hlo, hhi⟩]
  · exact State.rdcLine?_homeStore s q pa bs die ha
  · rw [State.mem_homeStore, State.mem_recallAll_of_rdcClean q _ hclean, Memory.byte_putBytes]

end Sys2Proof.Machine
end

section
/-!
PROOF. A word whose lanes raise enabled flags: its results and its trap 0x07, lane by lane (R30, R31, R131).
-/
namespace Sys2Proof.Machine

/-! ## A word that traps in some lanes -/

/-- A word that goes ahead and whose effect traps in some lanes leaves the effect of the others and takes the trap. -/
theorem State.runWord_done_traps {s : State} {w : WordSpec} {x : Ctx} {lanes : Mask} {body} {t : State} {ts : List LaneTrap}
    (hw : w.quiet = false) (g : s.Goes w x lanes) (hb : body x lanes s = .done t ts) (hq : t.calm x.l.part) (hts : ts ≠ []) :
    s.runWord w body = s.trapOr x (t.wordTrap x lanes ts false []) := by
  have hstore := State.injectStore_quiet s x lanes w.srcs g.quiet
  have hresult := State.injectResult_quiet t x lanes w.dsts hq
  have hsome : ts.isEmpty = false := List.isEmpty_eq_false_iff.mpr hts
  unfold State.runWord
  simp only [g.ctx, g.moves, hstore, g.check, g.lanes_ne hw, Ctx.check_lanes hw g.check, hb, hresult, hsome, List.nil_append,
    Bool.false_eq_true, if_false]

/-! ## The lanes' results -/

/-- A lane raises a flag that FPCR enables. -/
def Regs.flagHit (r : Regs) (f : Nat → FRes) (l : Nat) : Bool := (f l).flags &&& fpcrEnabled r != 0

/-- What the lanes of a mask computed, as `State.runFlags` lists it. -/
def laneResults (lanes : Mask) (f : Nat → FRes) : List LaneRes := (maskLanes lanes).map (fun l => ⟨l, (f l).pat, (f l).flags⟩)

theorem Regs.raise_laneResults (r : Regs) (lanes : Mask) (f : Nat → FRes) :
    r.raise (laneResults lanes f) = { r with fpsr := r.fpsr ||| raisedBy lanes f } := by
  rw [Regs.raise, laneResults, List.foldl_map, raisedBy]

theorem completing_laneResults (r : Regs) (lanes : Mask) (f : Nat → FRes) :
    completing r (laneResults lanes f) =
      ((maskLanes lanes).filter (fun l => !r.flagHit f l)).map (fun l => ⟨l, (f l).pat, (f l).flags⟩) := by
  simp only [completing, laneResults, List.filter_map, Function.comp_def, Regs.flagHit, bne, Bool.not_not]

theorem flagTraps_laneResults (r : Regs) (lanes : Mask) (f : Nat → FRes) :
    flagTraps r (laneResults lanes f) = ((maskLanes lanes).filter (r.flagHit f)).map (fun l => ⟨l, 0x07, (f l).flags⟩) := by
  rw [flagTraps, laneResults, List.filter_map, List.map_map]
  rfl

theorem flagTraps_laneResults_ne_nil {r : Regs} {lanes : Mask} {f : Nat → FRes} (h : (maskLanes lanes).any (r.flagHit f) = true) :
    flagTraps r (laneResults lanes f) ≠ [] := by
  obtain ⟨l, hl, hhit⟩ := List.any_eq_true.mp h
  rw [flagTraps_laneResults]
  exact List.ne_nil_of_mem (List.mem_map_of_mem (List.mem_filter.mpr ⟨hl, hhit⟩))

/-- FPSR takes the flags of every lane, and the lanes that raise no enabled flag have the n words of their patterns written. -/
def State.wroteUnhit (s : State) (x : Ctx) (lanes : Mask) (d n : Nat) (f : Nat → FRes) : State :=
  s.modGroup x.ref.g (fun y =>
    ((maskLanes lanes).filter (fun l => !x.g.r.flagHit f l)).foldl (fun y l => y.put lanes d l (wordsOf (f l).pat n))
      { y with r := { y.r with fpsr := y.r.fpsr ||| raisedBy lanes f } })

theorem State.wroteUnhit_eq (s : State) (x : Ctx) (lanes : Mask) (d n : Nat) (f : Nat → FRes) :
    s.wroteUnhit x lanes d n f = s.modGroup x.ref.g (fun y => (completing x.g.r (laneResults lanes f)).foldl
      (fun y r => y.put lanes d r.lane (wordsOf r.pat n)) { y with r := y.r.raise (laneResults lanes f) }) := by
  simp only [State.wroteUnhit, completing_laneResults, List.foldl_map, Regs.raise_laneResults]

/-! ## A word whose results have a fixed latency -/

/-- R30, R31: for every word that raises flags and writes its registers at once, whatever it computes. -/
theorem State.runFlags_traps {s : State} {w : WordSpec} {x : Ctx} {lanes : Mask} {d n : Nat} {f : Ctx → Mask → Nat → FRes}
    (hw : w.quiet = false) (g : s.Goes w x lanes) (h : (maskLanes lanes).any (x.g.r.flagHit (f x lanes)) = true) :
    s.runFlags w d n f =
      s.trapOr x ((s.wroteUnhit x lanes d n (f x lanes)).wordTrap x lanes
        (((maskLanes lanes).filter (x.g.r.flagHit (f x lanes))).map (fun l => ⟨l, 0x07, (f x lanes l).flags⟩)) false []) := by
  rw [← flagTraps_laneResults]
  refine State.runWord_done_traps hw g ?_ g.quiet (flagTraps_laneResults_ne_nil h)
  simp only [Ctx.check_lanes hw g.check, State.wroteUnhit_eq]
  rfl

/-- Settles O10: `fadd` is one of the words whose results have a fixed latency. -/
theorem floatEnabledFlagTraps : Obligations.FloatEnabledFlagTraps := by
  unfold Obligations.FloatEnabledFlagTraps
  intro s x lanes o f hit hgoes hany
  exact congrArg Host.Outcome.next (State.runFlags_traps rfl hgoes hany)

end Sys2Proof.Machine
end

section
/-!
PROOF. What a register reads after words are put in lanes: v registers lane by lane, w registers by the first active lane (R47, R65).
-/
namespace Sys2Proof.Machine

/-! ## What a register reads after writes -/

@[simp] theorem Regs.read_note (r : Regs) (k n l : Nat) : (r.note k).read n l = r.read n l := by
  simp only [Regs.read, Regs.note_v, Regs.note_w]

theorem vKey_inj {n m l k : Nat} (hl : l < 16) (hk : k < 16) : vKey n l = vKey m k ↔ n = m ∧ l = k := by
  unfold vKey; omega

/-- R47 to R49: a v register is written in its lane, a w register for all lanes. -/
theorem Regs.read_write (r : Regs) (d k : Nat) (x : Word) (n l : Nat) (hk : k < 16) (hl : l < 16) :
    (r.write d k x).read n l = if n = d ∧ (0xC0 ≤ d ∨ l = k) then x else r.read n l := by
  unfold Regs.write
  by_cases hd : d < 0xC0 <;> by_cases hn : n < 0xC0
  · have hw : ¬ 0xC0 ≤ d := by omega
    simp only [Regs.read, hd, hn, hw, if_true, SMap.get_set, vKey_inj hl hk, Regs.note_v, false_or]
  · have hne : n ≠ d := by omega
    simp only [Regs.read, hd, hn, hne, if_true, if_false, Regs.note_w, false_and]
  · have hne : n ≠ d := by omega
    simp only [Regs.read, hd, hn, hne, if_true, if_false, Regs.note_v, false_and]
  · have hkey : n - 0xC0 = d - 0xC0 ↔ n = d := by omega
    have hw : 0xC0 ≤ d := by omega
    simp only [Regs.read, hd, hn, hw, hkey, if_false, SMap.get_set, Regs.note_w, true_or, and_true]

/-! ## One register put in several lanes -/

theorem Group.read_put_one (y : Group) (act : Mask) (d k : Nat) (v : Word) (l : Nat) (hk : k < 16) (hl : l < 16) :
    (y.put act d k [v]).r.read d l =
      if 0xC0 ≤ d then (if firstLane act = some k then v else y.r.read d l) else (if l = k then v else y.r.read d l) := by
  unfold Group.put
  by_cases hd : 0xC0 ≤ d <;> by_cases hf : firstLane act = some k <;>
    simp [hd, hf, Regs.writeFrom, Regs.read_write _ _ _ _ _ _ hk hl]

/-- The lanes of a list have register d put one after another, as `State.wrote` does. -/
def Group.putAll (y : Group) (act : Mask) (d : Nat) (f : Nat → Word) (ks : List Nat) : Group :=
  ks.foldl (fun y l => y.put act d l [f l]) y

theorem Group.read_putAll_v (y : Group) (act : Mask) {d : Nat} (f : Nat → Word) (ks : List Nat) (l : Nat) (hd : d < 0xC0)
    (hks : ∀ k, k ∈ ks → k < 16) (hl : l < 16) : (y.putAll act d f ks).r.read d l = if l ∈ ks then f l else y.r.read d l := by
  induction ks generalizing y with
  | nil => rfl
  | cons k rest ih =>
    have hk := hks k (.head _)
    have hw : ¬ 0xC0 ≤ d := by omega
    have hstep := ih (y.put act d k [f k]) (fun j hj => hks j (.tail _ hj))
    rw [Group.read_put_one y act d k (f k) l hk hl, if_neg hw] at hstep
    refine hstep.trans ?_
    by_cases hr : l ∈ rest
    · simp [hr]
    · by_cases hlk : l = k <;> simp [hr, hlk]

theorem Regs.read_w_lane (r : Regs) {d : Nat} (hd : 0xC0 ≤ d) (l k : Nat) : r.read d l = r.read d k := by
  simp only [Regs.read, if_neg (show ¬ d < 0xC0 by omega)]

theorem Group.read_putAll_w (y : Group) {act : Mask} {d j : Nat} (f : Nat → Word) (ks : List Nat) (l : Nat) (hd : 0xC0 ≤ d)
    (hj : firstLane act = some j) (hks : ∀ k, k ∈ ks → k < 16) :
    (y.putAll act d f ks).r.read d l = if j ∈ ks then f j else y.r.read d l := by
  rw [Regs.read_w_lane _ hd l 0, Regs.read_w_lane _ hd l 0]
  induction ks generalizing y with
  | nil => rfl
  | cons k rest ih =>
    have hstep := ih (y.put act d k [f k]) (fun i hi => hks i (.tail _ hi))
    rw [Group.read_put_one y act d k (f k) 0 (hks k (.head _)) (by decide), if_pos hd, hj] at hstep
    refine hstep.trans ?_
    by_cases hr : j ∈ rest
    · simp [hr]
    · by_cases hjk : j = k <;> simp [hr, hjk]

theorem Group.putAll_w_of_none (y : Group) {act : Mask} {d : Nat} (f : Nat → Word) (ks : List Nat) (hd : 0xC0 ≤ d)
    (hact : firstLane act = none) : y.putAll act d f ks = y :=
  List.foldlRecOn (motive := fun z => z = y) ks _ rfl (fun z hz k _ => by
    rw [hz, Group.put, if_pos ⟨hd, by simp [hact]⟩])

/-- Settles O20: the lanes of the mask are put one after another; a v register is each lane's own, a w register the first active lane's. -/
theorem uniformDestinations : Obligations.UniformDestinations := by
  unfold Obligations.UniformDestinations
  intro y act lanes d f
  have hks : ∀ k, k ∈ maskLanes lanes → k < 16 := fun k hk => mem_maskLanes_lt hk
  refine ⟨fun hd l hl => ?_, fun hd => ⟨fun l hact => ?_, fun l k hk => ?_⟩, fun l k hd => Regs.read_w_lane _ hd l k⟩
  · have h := Group.read_putAll_v y act f (maskLanes lanes) l hd hks hl
    simp only [mem_maskLanes] at h
    exact h
  · have hnone : firstLane act = none := by rw [hact]; decide
    exact congrArg (fun z : Group => z.r.read d l) (Group.putAll_w_of_none y f (maskLanes lanes) hd hnone)
  · have h := Group.read_putAll_w y f (maskLanes lanes) l hd hk hks
    simp only [mem_maskLanes] at h
    exact h

end Sys2Proof.Machine
end

section
/-!
PROOF. The events of a group: fills, the spin detector, sleeps, posted traps and retiring matrix operations (R51, R53, R101, R102, R161,
R206, R208, R211).
-/
namespace Sys2Proof.Machine

theorem State.Stands.group? {s : State} {g : GRef} {l : Launch} {c : Cohort} {x : Group} (h : s.Stands g l c x) :
    s.group? g = some x := by
  simp only [State.group?, h.cohort, h.group]

/-! ## A fill lands in live lanes alone (R53) -/

theorem Regs.read_writeFrom_of_not_mem (r : Regs) (d k : Nat) (vs : List Word) (n l : Nat) (hk : k < 16) (hl : l < 16)
    (h : ¬ (d ≤ n ∧ (0xC0 ≤ n ∨ l = k))) : (r.writeFrom d k vs).read n l = r.read n l := by
  induction vs generalizing r d with
  | nil => rfl
  | cons v rest ih =>
    have hrest : ¬ (d + 1 ≤ n ∧ (0xC0 ≤ n ∨ l = k)) := by omega
    have hne : ¬ (n = d ∧ (0xC0 ≤ d ∨ l = k)) := by omega
    calc ((r.write d k v).writeFrom (d + 1) k rest).read n l = (r.write d k v).read n l := ih (r.write d k v) (d + 1) hrest
      _ = r.read n l := by rw [Regs.read_write r d k v n l hk hl, if_neg hne]

@[simp] theorem Regs.read_setEmpty (r : Regs) (d : Nat) (m : Mask) (e : Bool) (n l : Nat) :
    (r.setEmpty d m e).read n l = r.read n l := by
  simp only [Regs.read, Regs.setEmpty_v, Regs.setEmpty_w]

@[simp] theorem Regs.read_setEmptyN (r : Regs) (d k : Nat) (m : Mask) (e : Bool) (n l : Nat) :
    (r.setEmptyN d k m e).read n l = r.read n l :=
  foldl_frame (fun r : Regs => r.read n l) _ (fun r j => Regs.read_setEmpty r (d + j) m e n l) _ r

/-- A lane that takes a fill of v registers is live. -/
theorem Fill.live_of_taken {f : Fill} {live : Mask} {k : Nat} (hd : f.dst < 0xC0) (h : (f.taken live).getLsbD k = true) :
    live.getLsbD k = true := by
  rw [Fill.taken, if_neg (Nat.not_le.mpr hd), BitVec.getLsbD_and, Bool.and_eq_true] at h
  exact h.2

theorem Group.read_land_of_dead (x : Group) (f : Fill) {n i : Nat} (hi : i < 16) (hn : n < 0xC0) (hdead : x.r.live.getLsbD i = false) :
    (x.land f).r.read n i = x.r.read n i := by
  simp only [Group.land, Regs.read_setEmptyN]
  refine List.foldlRecOn (motive := fun r : Regs => r.read n i = x.r.read n i) _ _ rfl (fun r hr p hp => ?_)
  have htaken : (f.taken x.r.live).getLsbD p.1 = true := (List.mem_filter.mp hp).2
  refine (Regs.read_writeFrom_of_not_mem r f.dst p.1 p.2 n i (BitVec.lt_of_getLsbD htaken) hi ?_).trans hr
  rintro ⟨hdn, hw | rfl⟩
  · omega
  · have hlive := Fill.live_of_taken (by omega) htaken
    rw [hdead] at hlive
    cases hlive

/-! ## Posted traps (R206, R208) -/

/-- The state in which a group that is not checked takes the first of its posted traps: what its issue sets were doing has ended, unless
its handler only holds the trap. -/
def State.unposted (s : State) (g : GRef) (x : Group) (p : Posted) (rest : List Posted) : State :=
  (if x.r.inTrap && asyncCause p.code then s
   else s.modGroup g (fun y => { y.trapShelve with ck := none, unsent := [], replaying := false })).modGroup g
    (fun y => { y with posted := rest })

section
variable {s : State} {g : GRef} {l : Launch} {c : Cohort} {x : Group} {p : Posted} {rest : List Posted}

theorem State.interrupt_unchecked (hst : s.Stands g l c x) (hck : c.checked = false) :
    s.interrupt g = s.modGroup g (fun y => { y.trapShelve with ck := none, unsent := [], replaying := false }) := by
  simp only [State.interrupt, hst.cohort, hst.group?, hck, Bool.false_eq_true, if_false]

theorem State.unposted_eq (hst : s.Stands g l c x) (hck : c.checked = false) :
    (if x.r.inTrap && asyncCause p.code then s.modGroup g (fun y => { y with posted := rest })
     else (s.interrupt g).modGroup g (fun y => { y with posted := rest })) = s.unposted g x p rest := by
  rw [State.interrupt_unchecked hst hck, State.unposted]
  split <;> rfl

theorem State.deliverPosted_wordless (hst : s.Stands g l c x) (hck : c.checked = false) (hpo : x.posted = p :: rest)
    (hw : p.word = none) : s.deliverPosted g x =
      (s.unposted g x p rest).tick.takeTrap g p.code p.info x.r.live (w64 (Config.freeNat s.fresh)) 0 0 := by
  have hfresh : (s.unposted g x p rest).fresh = s.fresh := by
    simp only [State.unposted, State.modGroup_fresh]
    split <;> rfl
  simp only [State.deliverPosted, hpo, State.unposted_eq hst hck, hw, hfresh]

theorem State.deliverPosted_word (hst : s.Stands g l c x) (hck : c.checked = false) (hpo : x.posted = p :: rest) {w : Imprecise}
    (hw : p.word = some w) (hfull : w.full = none) (hlanes : w.lanes &&& x.r.live ≠ 0) :
    s.deliverPosted g x = (s.unposted g x p rest).takeTrap g p.code p.info (w.lanes &&& x.r.live) w.pc w.va
      (w32 (x.slots.length % 256 * 65536 + (((s.unposted g x p rest).group? g).map (fun y => y.skid w.issuedAt)).getD 0)) := by
  simp only [State.deliverPosted, hpo, State.unposted_eq hst hck, hw, hfull, if_neg hlanes]

/-- R206, R337: a live resident group at a clause boundary, whose commit fits and with no refusal of its own to take first, takes its
first posted trap, unless that names a word and a refusal is being handled. -/
theorem State.asyncTrapDelivery_delivers (hst : s.Stands g l c x) (hphase : c.phase = .resident) (hret : x.retired = false)
    (hstop : x.stopped = false) (hlive : x.r.live ≠ 0) (hbound : x.atBoundary = true)
    (href : x.slots.any (fun t => t.refused.isSome) = false ∨ x.handlesRefusal = true) (hfit : s.commitFits c x = true)
    (hword : (x.handlesRefusal && (x.posted.head?.bind (fun p => p.word)).isSome) = false) :
    exec (.asyncTrapDelivery g) s = .next (s.deliverPosted g x) := by
  have hlive' : ¬ x.r.live = 0#16 := hlive
  have hslots : (x.slots.any (fun t => t.refused.isSome) && !x.handlesRefusal) = false := by
    rcases href with h | h <;> simp [h]
  change execAsyncTrapDelivery g s = _
  simp [execAsyncTrapDelivery, hst.group?, hst.cohort, hphase, hret, hstop, hlive', hbound, hfit, hslots, hword]

end

/-! ## The events -/

section
variable {s : State} {g : GRef} {l : Launch} {c : Cohort} {x : Group}

theorem exec_registerFill_clean (hst : s.Stands g l c x) {fill : Nat} {f : Fill}
    (hf : x.fills.find? (fun f => f.id == fill) = some f) (hp : f.poison = none) :
    exec (.registerFill g fill) s =
      .next (((s.modGroup g (fun y => { y with fills := y.fills.filter (fun k => k.id != f.id) })).modGroup g (fun y =>
        let z := ((y.land f).noteChange (regsChanged y.r (y.land f).r)).unpark
        { z with r := z.r.settleXrel, ck := z.ck.map Regs.settleXrel })).wakeOne (GRefCohort g)) := by
  change execRegisterFill g fill s = _
  simp only [execRegisterFill, hst.group?, Option.bind_some, hf, State.landReg, hp]

theorem exec_spinDetectLower_fourth (hst : s.Stands g l c x) {k : Cluster} (hk : s.cluster? (clusterOf c.core) = some k)
    (hlow : x.spin.lowered = false) (hch : x.spin.changed = false) (hcount : 4 ≤ x.spin.count) :
    exec (.spinDetectLower g) s =
      .next ((s.modGroup g (fun y => { y with spin := { y.spin with lowered := true, loweredAt := k.cyc } })).post
        (.spinReleaseTimeout g)) := by
  change execSpinDetectLower g s = _
  simp [execSpinDetectLower, hst.cohort, hst.group, hlow, hch, Nat.not_lt.mpr hcount, hk]

theorem exec_spinReleaseTimeout_lowered (hst : s.Stands g l c x) (hlow : x.spin.lowered = true) :
    exec (.spinReleaseTimeout g) s =
      .next ((s.cycTo c.core (x.spin.loweredAt + 4096)).modGroup g (fun y => { y with spin := y.spin.restart })) := by
  change execSpinReleaseTimeout g s = _
  simp only [execSpinReleaseTimeout, hst.cohort, hst.group, hlow, if_true]

theorem exec_sleepExpiry_sleeping (hst : s.Stands g l c x) {n start : Nat} (hw : x.r.wait = .sleep n start) :
    exec (.sleepExpiry g) s =
      .next ((s.cycTo c.core (start + n)).modRegs g (fun r => { r with wait := r.wait.drop Wait.isSleep })) := by
  have hhas : x.r.wait.has Wait.isSleep = true := by rw [hw]; rfl
  have hend : x.r.wait.sleepEnd = start + n := by rw [hw]; rfl
  change execSleepExpiry g s = _
  simp only [execSleepExpiry, hst.cohort, hst.group, hhas, hend, if_true]

end

/-- Settles O36: each event by its lemma above; a retiring matrix operation is the model's own equation. -/
theorem groupEvents : Obligations.GroupEvents := by
  unfold Obligations.GroupEvents
  refine ⟨fun s g fill l c x f hst hf hp => ⟨exec_registerFill_clean hst hf hp, fun i n hi hn hdead =>
      Group.read_land_of_dead x f hi hn hdead⟩,
    fun s g l c x k hst hk => ⟨exec_spinDetectLower_fourth hst hk, exec_spinReleaseTimeout_lowered hst, fun n start =>
      exec_sleepExpiry_sleeping hst⟩,
    fun s g l c x p rest hst hphase hck hret hstop hlive hbound href hpo hfit => ?_, fun s g op => rfl⟩
  have hdeliver := State.asyncTrapDelivery_delivers hst hphase hret hstop hlive hbound href hfit
  refine ⟨fun hw => ?_, fun w hw hfull hhandles hlanes => ?_⟩
  · rw [hdeliver (by simp [hpo, hw]), State.deliverPosted_wordless hst hck hpo hw]
    rfl
  · rw [hdeliver (by simp [hhandles]), State.deliverPosted_word hst hck hpo hw hfull hlanes]
    rfl

end Sys2Proof.Machine
end

section
/-!
PROOF. The events of clauses: the arrival of a fetched clause and its check (R60, R61), and the comparison of a checked clause (R106, R107,
R384).
-/
namespace Sys2Proof.Machine

/-! ## A fetched clause arrives -/

/-- The header that a fetch reads, whose bytes start at the first PA. -/
def State.fetchedHdr (s : State) (q : Req) (f : Fetch) (hp : List Nat) : DWord :=
  w64 (leNat ((List.range 8).map (fun i => s.fetchByte q f.again (hp.headD 0 + i))))

/-- The words that a header announces; none without the tag of a header. -/
def hdrWords (hdr : DWord) : Nat := if hdrTag hdr = 0xF then hdrCount hdr + 1 else 0

/-- The words that a fetch reads at their PAs, as they arrive. -/
def State.fetchedWords (s : State) (q : Req) (f : Fetch) (bp : List Nat) (noise : Nat) : List DWord :=
  noisy (bp.map (fun pa => w64 (leNat ((List.range 8).map (fun i => s.fetchByte q f.again (pa + i)))))) noise

/-- The arrival of a clause that was read: its check decides, and a clause read once is read again. -/
def State.checkArrival (s : State) (core slot lid vif n : Nat) (f : Fetch) (hdr : DWord) (words : List DWord) : State :=
  if n = 0 ∨ clauseCheck words = hdr.toNat % 65536 then s.installClause core slot vif lid f.pc hdr words false
  else if f.again then s.installClause core slot vif lid f.pc hdr words true
  else (s.modFetch core slot lid f.pc (some (fun f => { f with again := true }))).post (.clauseFetchDone core slot lid f.pc.toNat 0)

section
variable {s : State} {core slot lid : Nat} {f : Fetch} {l : Launch} {c : Cohort}

theorem exec_clauseFetchDone_arrives {pc noise : Nat} {k : Core} (hcore : s.core? core = some k)
    (hfetch : k.fetches.find? (fun f => f.slot == slot && f.lid == lid && f.pc == w64 pc) = some f) (hstuck : f.stuck = false)
    (hctx : s.fetchCtx core lid = some (l, c)) :
    exec (.clauseFetchDone core slot lid pc noise) s = .next (s.fetchArrives core slot lid f l c noise) := by
  change execClauseFetchDone core slot lid pc noise s = _
  simp only [execClauseFetchDone, hcore, hfetch, hstuck, hctx, Option.bind_some, Bool.false_eq_true, if_false]

/-- A clause whose pages have translations, whose homes can answer and whose bytes carry no poison is read and checked. -/
theorem State.fetchArrives_readable {noise : Nat} {hp bp : List Nat} (hhp : s.fetchPas core l.vif [f.pc.toNat] = .ok hp)
    (hbp : s.fetchPas core l.vif
      ((List.range (hdrWords (s.fetchedHdr (l.req c) f hp))).map (fun i => f.pc.toNat + 8 * (i + 1))) = .ok bp)
    (hblock : s.fetchBlocked (l.req c) (hp ++ bp) = none) {t : State} (ht : t = s.fetchReach (l.req c) f.again (hp ++ bp))
    (hclean : (hp ++ bp).findSome? (fun pa => if f.again then t.poisonIn (l.req c).kdom pa 8 else t.l1Poison (l.req c) pa 8) = none) :
    s.fetchArrives core slot lid f l c noise =
      t.checkArrival core slot lid l.vif (hdrWords (s.fetchedHdr (l.req c) f hp)) f (t.fetchedHdr (l.req c) f hp)
        (t.fetchedWords (l.req c) f bp noise) := by
  subst ht
  simp only [State.fetchArrives, hhp]
  unfold hdrWords State.fetchedHdr at hbp
  rw [hbp]
  simp only [hblock, hclean]
  rfl

end

theorem State.checkArrival_right {s : State} {core slot lid vif n : Nat} {f : Fetch} {hdr : DWord} {words : List DWord}
    (h : n = 0 ∨ clauseCheck words = hdr.toNat % 65536) :
    s.checkArrival core slot lid vif n f hdr words = s.installClause core slot vif lid f.pc hdr words false := if_pos h

theorem State.checkArrival_wrong {s : State} {core slot lid vif n : Nat} {f : Fetch} {hdr : DWord} {words : List DWord}
    (hn : n ≠ 0) (h : clauseCheck words ≠ hdr.toNat % 65536) :
    s.checkArrival core slot lid vif n f hdr words =
      if f.again then s.installClause core slot vif lid f.pc hdr words true
      else (s.modFetch core slot lid f.pc (some (fun f => { f with again := true }))).post (.clauseFetchDone core slot lid f.pc.toNat 0) :=
  if_neg (not_or.mpr ⟨hn, h⟩)

/-! ## A checked clause is compared -/

section
variable {s : State} {g : GRef} {l : Launch} {c : Cohort} {x : Group} {i : Issue} {r : Regs}

theorem exec_checkedCompare_agrees (hst : s.Stands g l c x) (hrun : x.run1 = some i) (hck : x.ck = some r) (hend : i.ended = true)
    (hsame : i.differs = false) (hfit : s.commitFits c x = true) (hband : s.bandRefused c x = false) :
    exec (.checkedCompare g false) s = .next ((s.sendAll g).retireClause g false) := by
  change execCheckedCompare g false s = _
  simp [execCheckedCompare, hst.launch, hst.cohort, hst.group, hrun, hck, hend, hsame, hfit, hband]

theorem exec_checkedCompare_first (hst : s.Stands g l c x) (hrun : x.run1 = some i) (hck : x.ck = some r)
    (hreplay : x.replaying = false) {k : Clause} (hk : s.clause? c.core (x.gidx % 4) l.vif i.hdr = some k) :
    exec (.checkedCompare g true) s = .next ((s.logError (mismatchRec l c g 4 0 1 i.hdr i.differs)).replayClause g i k.hdr) := by
  change execCheckedCompare g true s = _
  simp [execCheckedCompare, hst.launch, hst.cohort, hst.group, hrun, hck, hreplay, hk]

theorem exec_checkedCompare_second (hst : s.Stands g l c x) (hrun : x.run1 = some i) (hck : x.ck = some r)
    (hreplay : x.replaying = true) : exec (.checkedCompare g true) s = .next (s.secondMismatch g l c i) := by
  change execCheckedCompare g true s = _
  simp [execCheckedCompare, hst.launch, hst.cohort, hst.group, hrun, hck, hreplay]

/-- A stopped word whose cause still holds gives up its slot; one whose cause is over does not. -/
theorem exec_checkedWaitExpiry_held (hst : s.Stands g l c x) (hrun : x.run1 = some i) {why : Park} (hheld : i.held = true)
    (hwhy : i.why = some why) :
    exec (.checkedWaitExpiry g) s = .next (if c.parkOver x why then s
      else (s.modGroup g (fun y =>
        let z := y.discardClause
        let z := { z with r := z.r.placeLanes i.lanes i.hdr (fun _ => i.hdr) true }
        ({ z.park { why with lanes := i.lanes } with replaying := false }).setIssue false none)).post (.asyncTrapDelivery g)) := by
  change execCheckedWaitExpiry g s = _
  simp only [execCheckedWaitExpiry, hst.cohort, hst.group?, hrun, hheld, hwhy, if_true]

end

/-- Settles O35: an arrival is read and checked by `State.checkArrival`; a comparison and a stopped word by the lemmas of their cases. -/
theorem clauseEvents : Obligations.ClauseEvents := by
  unfold Obligations.ClauseEvents
  refine ⟨fun s core slot lid pc noise k f l c hp bp => ?_, fun s g l c x i k r hst hrun hck => ⟨exec_checkedCompare_agrees hst hrun hck,
    fun hreplay => exec_checkedCompare_first hst hrun hck hreplay, exec_checkedCompare_second hst hrun hck, fun why hheld hwhy => ?_⟩⟩
  · intro q hdr n t words hcore hfetch hstuck hctx hhp hbp hblock hclean
    have harrives := (exec_clauseFetchDone_arrives (noise := noise) hcore hfetch hstuck hctx).trans
      (congrArg Host.Outcome.next (State.fetchArrives_readable hhp hbp hblock rfl hclean))
    refine ⟨fun hright => ?_, fun hn hwrong hagain => ?_, fun hn hwrong hagain => ?_⟩
    · exact harrives.trans (congrArg Host.Outcome.next (State.checkArrival_right hright))
    · refine harrives.trans (congrArg Host.Outcome.next ((State.checkArrival_wrong hn hwrong).trans ?_))
      rw [if_pos hagain]
    · refine harrives.trans (congrArg Host.Outcome.next ((State.checkArrival_wrong hn hwrong).trans ?_))
      rw [if_neg (Bool.eq_false_iff.mp hagain)]
  · have hexpiry := exec_checkedWaitExpiry_held hst hrun hheld hwhy
    exact ⟨fun hover => by rw [hexpiry, if_pos hover], fun hover => by rw [hexpiry, if_neg (Bool.eq_false_iff.mp hover)]⟩

end Sys2Proof.Machine
end

section
/-!
PROOF. A register word may end its clause although another word stands behind it: where the clause has a `brx` at the word's place, the
clause moves on by two words (R56). The frame of the words of chapter 7 fails there.
-/
namespace Sys2Proof.Machine

theorem State.mem_pend_post (s : State) (i : Instr) : i ∈ (s.post i).pend := by
  unfold State.post
  split
  · rename_i h
    exact List.contains_iff_mem.mp h
  · exact List.mem_append_right _ (.head _)

/-- Only the word of the P2 set ends a cycle. -/
theorem State.endCycle_first (s : State) {x : Ctx} (hsecond : x.ref.second = false) : s.endCycle x = s := by
  simp only [State.endCycle, hsecond, Bool.not_false, if_true]

/-- R106: at the last word of a checked clause the comparison of its copies is posted. -/
theorem State.checkedCompare_mem_pend_advance (s : State) {x : Ctx} (act : Mask) (hsecond : x.ref.second = false)
    (hlast : x.i.isLast = true) (hchecked : x.c.checked = true) : .checkedCompare x.ref.g false ∈ (s.advance x act).pend := by
  simp only [State.advance, State.endCycle_first _ hsecond, hlast, if_true, State.endClause, hchecked]
  exact State.mem_pend_post _ _

/-- `iadd v1, v2, v3` on signed words, in every lane. -/
def plainAdd : FmtV :=
  { guard := ⟨false, 7⟩, var := 0xC, dst := 1, sa := 2, sb := 3, sc := 0, ea := false, eb := false, ec := false, rnd := 0, sat := false, fx := 0 }

/-- Its specification. -/
def plainAddSpec : WordSpec := specV (.iadd plainAdd) plainAdd (srcsAB plainAdd) [dst plainAdd.dst 1]

/-- The reset state with a checked group at the first word of a clause, a `brx`. -/
def atBrx : State :=
  ((State.reset.placeWords [0xD100000000000000, 0]).modCohort ⟨State.reset.nextId, 0⟩ (fun c => { c with checked := true })).atWord
    ⟨State.reset.nextId, 0, 0⟩ false

/-- The context of its issue. -/
def atBrxCtx : Ctx := atBrx.ctx?.get (by decide +kernel)

theorem atBrx_goes : atBrx.Goes plainAddSpec atBrxCtx 0xFFFF where
  ctx := (Option.some_get _).symm
  moves := by decide +kernel
  quiet := fun p hp => nomatch hp
  check := by decide +kernel

/-- Refutes O17, in its first half: `iadd` where the clause of a checked group has a `brx` with one word behind it. `Ctx.inner` counts words
and so takes the word for one inside its clause, but the clause ends with it: a comparison of its copies is posted, which is no change to
a group. No step meets this, for a step runs the word that it decodes, and the statement does not say that the word is the clause's. -/
theorem not_registerAndPredicateFrame : ¬ Obligations.RegisterAndPredicateFrame := by
  unfold Obligations.RegisterAndPredicateFrame
  rintro ⟨hframe, -⟩
  have hsecond : atBrxCtx.ref.second = false := by decide +kernel
  have hlast : atBrxCtx.i.isLast = true := by decide +kernel
  have hchecked : atBrxCtx.c.checked = true := by decide +kernel
  have hinner : atBrxCtx.inner := ⟨by decide +kernel, by decide +kernel⟩
  obtain ⟨u, act, hruns⟩ : ∃ u act, exec (.iadd plainAdd) atBrx = .next (State.advance u atBrxCtx act) :=
    ⟨_, _, congrArg Host.Outcome.next (State.runLanes_does rfl atBrx_goes)⟩
  have hposted := State.checkedCompare_mem_pend_advance u act hsecond hlast hchecked
  obtain ⟨t, hexec, -, hgroup, -⟩ := hframe atBrx atBrxCtx 0xFFFF plainAdd
    { guard := ⟨false, 7⟩, var := 0xC, dst := 1, sa := 2, imm := 0, ea := false, rnd := 0, sat := false, fx := 0 }
    plainAddSpec 1 1 (.head _) atBrx_goes
  obtain ⟨f, rfl⟩ := hgroup hinner
  rw [Host.Outcome.next.inj (hruns.symm.trans hexec), State.endCycle_first _ hsecond, State.modGroup_pend] at hposted
  have hpend : atBrx.pend = [] := rfl
  rw [hpend] at hposted
  cases hposted

end Sys2Proof.Machine
end

section
/-!
PROOF. The checks of a register word in their order: what steps 10 to 13 of Table 5.6 decide, what a word does at each verdict, and that each
register word of chapter 7 is such a word (R92, R94, R58).
-/
namespace Sys2Proof.Machine

/-! ## What a word does at each verdict -/

section
variable {s : State} {x : Ctx} {w : WordSpec} {body : Ctx → Mask → State → WordRes} (hctx : s.ctx? = some x) (hmoves : x.waits = false)
  (hcalm : s.calm x.l.part)
include hctx hmoves hcalm

theorem State.runWord_skip (hcheck : x.check w = .skip) : s.runWord w body = s.advance x 0 := by
  simp only [State.runWord, hctx, hmoves, Bool.false_eq_true, if_false, State.injectStore_quiet s x _ _ hcalm, hcheck]

theorem State.runWord_trap {code info : Nat} (hcheck : x.check w = .trap code info) :
    s.runWord w body = s.trapOr x (s.wordTrap x 0 (trapAll (x.active w.guard) code info) false []) := by
  simp only [State.runWord, hctx, hmoves, Bool.false_eq_true, if_false, State.injectStore_quiet s x _ _ hcalm, hcheck, trapAll]

theorem State.runWord_park {why : Park} (hcheck : x.check w = .park why) : s.runWord w body = ((s.parkWord x why).reap x).endCycle x := by
  simp only [State.runWord, hctx, hmoves, Bool.false_eq_true, if_false, State.injectStore_quiet s x _ _ hcalm, hcheck]

end

/-! ## The verdict of steps 10 to 13 -/

/-- A word that every group may execute, in a region too, that uses no tile and that traps at its operands. -/
structure WordSpec.Ordinary (w : WordSpec) : Prop where
  priv : w.priv = false
  region : w.region = none
  tile : w.tile = none
  quiet : w.quiet = false

/-- The active lanes that take trap 0x06 at a source (R52). -/
def Ctx.emptyTrapped (x : Ctx) (w : WordSpec) : Mask :=
  maskOf ((maskLanes (x.active w.guard)).filter (fun l => (x.firstEmpty w.srcs l).1 == 2))

/-- The destinations with an outstanding result, in the lanes that do not trap (R53). -/
def Ctx.lateDsts (x : Ctx) (w : WordSpec) : List (Nat × Nat) :=
  x.dstAwaited (x.active w.guard) (x.active w.guard &&& ~~~x.emptyTrapped w) w.dsts

/-- The word waits for its operands: a policy-0 source that is empty in an active lane, or a destination with an outstanding result. -/
def Ctx.Awaits (x : Ctx) (w : WordSpec) : Prop :=
  (∃ l, l ∈ maskLanes (x.active w.guard) ∧ (x.firstEmpty w.srcs l).1 = 1) ∨ x.lateDsts w ≠ []

section
variable {x : Ctx} {w : WordSpec}

theorem Ctx.check_inactive (hact : x.active w.guard = 0) : x.check w = .skip := if_pos hact

theorem Ctx.check_encoding (hact : x.active w.guard ≠ 0) {info : Nat} (henc : w.i.encInfo = some info) :
    x.check w = .trap 0x01 info := by
  simp only [Ctx.check, if_neg hact, henc]

theorem Ctx.check_bounds (hact : x.active w.guard ≠ 0) (henc : w.i.encInfo = none) (hw : w.Ordinary) {t : Nat × Nat}
    (hbounds : x.bounds w.srcs w.dsts = some t) : x.check w = .trap t.1 t.2 := by
  simp only [Ctx.check, if_neg hact, henc, hw.priv, hw.region, hw.quiet, hbounds, Option.isSome_none, Bool.and_false, Bool.false_eq_true,
    if_false]

theorem Ctx.check_awaits (hact : x.active w.guard ≠ 0) (henc : w.i.encInfo = none) (hw : w.Ordinary)
    (hbounds : x.bounds w.srcs w.dsts = none) (hawaits : x.Awaits w) :
    x.check w = .park ⟨x.i.lanes, x.awaited (x.active w.guard) w.srcs ++ x.lateDsts w, none, [], false⟩ := by
  have hwait : ((maskLanes (x.active w.guard)).any (fun l => (x.firstEmpty w.srcs l).1 == 1) || !(x.lateDsts w).isEmpty) = true := by
    simpa [Ctx.Awaits] using hawaits
  unfold Ctx.lateDsts Ctx.emptyTrapped at hwait ⊢
  simp only [Ctx.check, if_neg hact, henc, hw.priv, hw.region, hw.tile, hbounds, Option.isSome_none, Bool.and_false, Bool.false_eq_true,
    if_false, Option.map_none, Option.getD_none, Bool.or_false, List.any_map, List.filter_map, List.map_map, Function.comp_def,
    List.map_id', hwait, if_true]

end

/-! ## The register words of chapter 7 -/

/-- An ordinary word whose lanes that go ahead each write from register d on. -/
structure WordSpec.WritesLanes (w : WordSpec) (d : Nat) : Prop where
  ordinary : w.Ordinary
  runs : ∃ f, ∀ s, exec w.i s = .next (s.runLanes w d f)

/-- Word by word: its specification is an ordinary one, and its execution is by definition a run with that specification. -/
theorem registerWords_writesLanes (o : FmtV) (p : FmtI) : ∀ e ∈ registerWords o p, e.1.WritesLanes e.2.1 := by
  simp only [registerWords, List.forall_mem_cons, List.not_mem_nil, false_implies, implies_true, and_true]
  and_intros
  all_goals exact ⟨⟨rfl, rfl, rfl, rfl⟩, _, fun _ => rfl⟩

/-- Settles O16: the verdict of each failing check, and what a word does at it. -/
theorem checksOfRegisterWords : Obligations.ChecksOfRegisterWords := by
  unfold Obligations.ChecksOfRegisterWords
  intro s x o p w d n hmem hctx hmoves hcalm
  obtain ⟨hw, _, hexec⟩ := registerWords_writesLanes o p _ hmem
  refine ⟨fun hact => ?_, fun hact => ⟨fun info henc => ?_, fun henc => ⟨fun t hbounds => ?_, fun hbounds hawaits => ?_⟩⟩⟩
  · exact (hexec s).trans (congrArg Host.Outcome.next (State.runWord_skip hctx hmoves hcalm (Ctx.check_inactive hact)))
  · exact (hexec s).trans (congrArg Host.Outcome.next (State.runWord_trap hctx hmoves hcalm (Ctx.check_encoding hact henc)))
  · exact (hexec s).trans (congrArg Host.Outcome.next (State.runWord_trap hctx hmoves hcalm (Ctx.check_bounds hact henc hw hbounds)))
  · exact (hexec s).trans (congrArg Host.Outcome.next (State.runWord_park hctx hmoves hcalm (Ctx.check_awaits hact henc hw hbounds hawaits)))

end Sys2Proof.Machine
end

section
/-!
PROOF. The floating-point words while no lane raises an enabled flag: the lanes' results are all kept, a word of fixed latency or of a
predicate writes them at once, and a word of the transcendental pipe leaves them to one fill (R31, R51, R134 to R146).
-/
namespace Sys2Proof.Machine

/-! ## Lanes that raise no enabled flag -/

section
variable {x : Ctx} {lanes : Mask} {f : Nat → FRes} (h : x.noTrap lanes f)
include h

theorem completing_of_noTrap : completing x.g.r (laneResults lanes f) = laneResults lanes f := by
  refine List.filter_eq_self.mpr fun r hr => ?_
  obtain ⟨l, hl, rfl⟩ := List.mem_map.mp hr
  exact beq_iff_eq.mpr (h l hl)

theorem flagTraps_of_noTrap : flagTraps x.g.r (laneResults lanes f) = [] := by
  refine List.map_eq_nil_iff.mpr (List.filter_eq_nil_iff.mpr fun r hr => ?_)
  obtain ⟨l, hl, rfl⟩ := List.mem_map.mp hr
  exact fun hhit => bne_iff_ne.mp hhit (h l hl)

end

/-! ## Words that write their results at once -/

/-- Words of Tables 8.3 and 8.6: the results have a fixed latency. -/
theorem State.Does.of_runFlags {s : State} {w : WordSpec} {x : Ctx} {lanes : Mask} {d n : Nat} {f : Ctx → Mask → Nat → FRes}
    (hw : w.quiet = false) (hexec : ∀ s, exec w.i s = .next (s.runFlags w d n f)) (h : x.noTrap lanes (f x lanes)) :
    s.Does w x lanes (s.wroteFlt x lanes d n (f x lanes)) := by
  intro g
  have heffect : s.modGroup x.ref.g (fun y => (completing x.g.r (laneResults lanes (f x lanes))).foldl
        (fun y r => y.put (x.active w.guard) d r.lane (wordsOf r.pat n)) { y with r := y.r.raise (laneResults lanes (f x lanes)) }) =
      s.wroteFlt x lanes d n (f x lanes) := by
    simp only [completing_of_noTrap h, Regs.raise_laneResults, Ctx.check_lanes hw g.check]
    simp only [laneResults, List.foldl_map, State.wroteFlt]
  exact (hexec s).trans (congrArg Host.Outcome.next
    (State.runWord_done hw g (congr (congrArg WordRes.done heffect) (flagTraps_of_noTrap h)) g.quiet))

/-- A predicate and flags, as `State.runFlagPred` lists them. -/
def predRes (c : Bool × Nat) : FRes := ⟨if c.1 then 1 else 0, c.2⟩

theorem predRes_pat (c : Bool × Nat) : ((predRes c).pat == 1) = c.1 := by
  obtain ⟨b, _⟩ := c
  cases b <;> rfl

/-- Comparisons (R138). -/
theorem State.Does.of_runFlagPred {s : State} {w : WordSpec} {x : Ctx} {lanes : Mask} {p : Nat} {c : Ctx → Nat → Bool × Nat}
    (hw : w.quiet = false) (hexec : ∀ s, exec w.i s = .next (s.runFlagPred w p c))
    (h : ∀ l, l ∈ maskLanes lanes → (c x l).2 &&& fpcrEnabled x.g.r = 0) : s.Does w x lanes (s.wroteFltPred x lanes p (c x)) := by
  intro g
  have h : x.noTrap lanes (fun l => predRes (c x l)) := h
  have heffect : s.modRegs x.ref.g (fun r => (completing x.g.r (laneResults lanes (fun l => predRes (c x l)))).foldl
        (fun r y => r.setPred p y.lane (y.pat == 1)) (r.raise (laneResults lanes (fun l => predRes (c x l))))) =
      s.wroteFltPred x lanes p (c x) := by
    simp only [completing_of_noTrap h, Regs.raise_laneResults]
    simp only [laneResults, List.foldl_map, predRes_pat]
    rfl
  exact (hexec s).trans (congrArg Host.Outcome.next
    (State.runWord_done hw g (congr (congrArg WordRes.done heffect) (flagTraps_of_noTrap h)) g.quiet))

/-- A pattern of n bits as two's complement. -/
theorem toInt_ofNat_eq_sextNat (n v : Nat) : (BitVec.ofNat n v).toInt = sextNat v n := by
  have hpow : ((2 ^ n : Nat) : Int) = (2 : Int) ^ n := Int.natCast_pow 2 n
  rw [BitVec.toInt_eq_toNat_cond, BitVec.toNat_ofNat, hpow, sextNat]

/-- The integer operand of `fscale`. -/
theorem Ctx.toInt_word (x : Ctx) (f : BitVec 8) (l : Nat) : (x.word f l).toInt = sextNat (x.val f l) 32 :=
  toInt_ofNat_eq_sextNat 32 (x.val f l)

/-- FX[3:0]. -/
theorem mod_16_eq_bitsOf (n : Nat) : n % 16 = bitsOf n 3 0 := congrArg (· % 16) (Nat.div_one n).symm

/-- Settles O8: each word is by definition a run of its operation over the lanes; `fscale` reads an integer, and `fcmp` and `cvt` a field
of FX. -/
theorem floatWords : Obligations.FloatWords := by
  unfold Obligations.FloatWords
  refine ⟨fun s x lanes o => ?_, fun s x lanes o => ?_⟩
  · simp only [Ctx.toInt_word]
    and_intros
    all_goals
      intro h
      apply State.Does.of_runFlags rfl (fun _ => rfl) h
  · simp only [mod_16_eq_bitsOf]
    refine ⟨fun c hc h => ?fcmp, ?_⟩
    case fcmp =>
      obtain rfl : c = fun l => fltCompare (bitsOf o.fx.toNat 3 0) (x.fltVal o.var o.sa l) (x.fltVal o.var o.sb l) := funext hc
      apply State.Does.of_runFlagPred rfl (fun _ => rfl) h
    and_intros
    all_goals
      intro h
      apply State.Does.of_runFlags rfl (fun _ => rfl) h

/-! ## Words that leave their results to a fill -/

/-- The lowest lane of a mask that has one. -/
theorem exists_firstLane {m : Mask} (h : m ≠ 0) : ∃ j, j ∈ maskLanes m ∧ firstLane m = some j := by
  have hne : maskLanes m ≠ [] := fun hnil => h (by rw [← maskOf_maskLanes m, hnil, maskOf_nil])
  refine ⟨(maskLanes m).head hne, List.head_mem hne, ?_⟩
  rw [← List.head?_eq_some_head hne]
  exact List.head?_filter.symm

/-- What a fill of register d keeps of its lanes' words: of a w register those of the first lane alone (R65). -/
def keptVals (lanes : Mask) (d : Nat) (vals : List (Nat × List Word)) : List (Nat × List Word) :=
  if d < 0xC0 then vals else vals.filter (fun p => firstLane lanes == some p.1)

theorem keptVals_ne_nil {lanes : Mask} (d : Nat) (f : Nat → List Word) (h : lanes ≠ 0) :
    keptVals lanes d ((maskLanes lanes).map (fun l => (l, f l))) ≠ [] := by
  obtain ⟨j, hj, hfirst⟩ := exists_firstLane h
  have hmem : (j, f j) ∈ (maskLanes lanes).map (fun l => (l, f l)) := List.mem_map_of_mem hj
  unfold keptVals
  split
  · exact List.ne_nil_of_mem hmem
  · exact List.ne_nil_of_mem (List.mem_filter.mpr ⟨hmem, beq_iff_eq.mpr hfirst⟩)

section
variable (s : State) (g : GRef) (d n : Nat) (lanes : Mask) (vals : List (Nat × List Word)) (inRegion : Bool)
  (poison : Option (Poison × Nat)) (holds : Mask)

theorem State.addFillHeld_keptVals :
    s.addFillHeld g d n lanes (keptVals lanes d vals) inRegion poison holds = s.addFillHeld g d n lanes vals inRegion poison holds := by
  by_cases hd : d < 0xC0 <;> simp only [State.addFillHeld, keptVals, hd, if_true, if_false, List.filter_filter, Bool.and_self]

@[simp] theorem State.addFillHeld_parts : (s.addFillHeld g d n lanes vals inRegion poison holds).parts = s.parts := by
  by_cases hnone : (keptVals lanes d vals).isEmpty
  · rw [show s.addFillHeld g d n lanes vals inRegion poison holds = s from if_pos hnone]
  · rw [State.addFillHeld, if_neg (by exact hnone), State.post_parts, State.modGroup_parts]

end

/-- A partition's test mark stands in the table of partitions. -/
theorem State.calm_of_parts {s t : State} {p : Nat} (h : t.parts = s.parts) (hs : s.calm p) : t.calm p := by
  unfold State.calm State.part? at hs ⊢
  rwa [h]

theorem State.calm_wroteLate {s : State} {p : Nat} (x : Ctx) (lanes : Mask) (d : Nat) (f : Nat → FRes) (h : s.calm p) :
    (s.wroteLate x lanes d f).calm p :=
  State.calm_of_parts (by rw [State.wroteLate, State.addFillHeld_parts, State.modGroup_parts]) h

theorem maskOf_laneResults (lanes : Mask) (f : Nat → FRes) : maskOf ((laneResults lanes f).map (fun r => r.lane)) = lanes := by
  rw [laneResults, List.map_map]
  exact (congrArg maskOf (List.map_id _)).trans (maskOf_maskLanes lanes)

theorem map_laneResults (lanes : Mask) (f : Nat → FRes) (v : Nat → List Word) :
    (laneResults lanes f).map (fun r => (r.lane, v r.pat)) = (maskLanes lanes).map (fun l => (l, v (f l).pat)) :=
  List.map_map

/-- Transcendental words and `qmx`: the destination is empty until the fill (R51), and FPCR with a flag enabled holds the whole issue set
(R131). -/
theorem State.Does.of_runLate {s : State} {w : WordSpec} {x : Ctx} {lanes : Mask} {d : Nat} {f : Ctx → Mask → Nat → FRes}
    (hw : w.quiet = false) (hexec : ∀ s, exec w.i s = .next (s.runLate w d f)) (h : x.noTrap lanes (f x lanes)) :
    s.Does w x lanes (s.wroteLate x lanes d (f x lanes)) := by
  intro g
  refine (hexec s).trans (congrArg Host.Outcome.next (State.runWord_done hw g ?_ (State.calm_wroteLate x lanes d _ g.quiet)))
  have hresults : (maskLanes lanes).map (fun i => LaneRes.mk i (f x lanes i).pat (f x lanes i).flags) = laneResults lanes (f x lanes) := rfl
  have hvals := map_laneResults lanes (f x lanes) (fun p => [w32 p])
  have hsome := List.isEmpty_eq_false_iff.mpr (keptVals_ne_nil d (fun l => [w32 (f x lanes l).pat]) (g.lanes_ne hw))
  have hfill := State.addFillHeld_keptVals (d := d) (lanes := lanes) (vals := (maskLanes lanes).map (fun l => (l, [w32 (f x lanes l).pat])))
  have hheld : x.i.lanes &&& ~~~(lanes &&& ~~~lanes) = x.i.lanes := by
    rw [BitVec.and_not_self, show ~~~(0 : Mask) = BitVec.allOnes 16 by decide, BitVec.and_allOnes]
  unfold keptVals at hsome hfill
  simp only [hresults, completing_of_noTrap h, flagTraps_of_noTrap h, Ctx.check_lanes hw g.check, maskOf_laneResults, hvals, hsome, hfill,
    hheld, Regs.raise_laneResults, Bool.false_eq_true, if_false, State.wroteLate]

/-- Settles O9: each word is by definition a late run of its function over the lanes. -/
theorem floatLateWords : Obligations.FloatLateWords := by
  unfold Obligations.FloatLateWords
  intro s x lanes o
  dsimp only
  and_intros
  all_goals
    intro h
    apply State.Does.of_runLate rfl (fun _ => rfl) h

end Sys2Proof.Machine
end

section
/-!
PROOF. The matrix words: a word whose descriptors pass and whose bytes can be accessed has its effect at once, a tile word writes no
register, so the injector's datapath event leaves it alone, and a word that reads a tile or a descriptor leaves its result to one fill
(R51, R150 to R163, R392).
-/
namespace Sys2Proof.Machine

/-! ## Words that write no register -/

/-- A destination that names registers. -/
def DstOp.isReg : DstOp → Bool
  | .reg _ _ => true
  | _ => false

/-- The injector's datapath event meets words that write a register alone (R392). -/
theorem State.injectResult_of_no_register (s : State) (x : Ctx) (act : Mask) {ds : List DstOp} (h : ds.any DstOp.isReg = false) :
    s.injectResult x act ds = (s, false) := by
  unfold State.injectResult
  split
  · next hfind _ =>
    obtain ⟨d, hd, hsome⟩ := List.exists_of_findSome?_eq_some hfind
    have hreg := List.any_eq_false.mp h d hd
    cases d with
    | reg => exact absurd rfl hreg
    | pred | tile => cases hsome
  · rfl

section
variable {s t : State} {w : WordSpec} {x : Ctx} {lanes : Mask} {body : Ctx → Mask → State → WordRes} (hw : w.quiet = false)
  (hexec : exec w.i s = .next (s.runWord w body))
include hw hexec

/-- A word without a register destination, whatever its effect does. -/
theorem State.Does.of_no_register (hds : w.dsts.any DstOp.isReg = false) (hbody : body x lanes s = .done t []) : s.Does w x lanes t := by
  intro g
  rw [hexec]
  simp only [State.runWord, g.ctx, g.moves, State.injectStore_quiet s x _ _ g.quiet, g.check, g.lanes_ne hw, hbody,
    State.injectResult_of_no_register t x lanes hds, Bool.false_eq_true, if_false, List.append_nil, List.isEmpty_nil, if_true]

/-- A word with a register destination whose effect leaves the partitions as they are. -/
theorem State.Does.of_same_parts (hparts : t.parts = s.parts)
    (hbody : x.active w.guard = lanes → lanes ≠ 0 → body x lanes s = .done t []) : s.Does w x lanes t := fun g =>
  hexec.trans (congrArg Host.Outcome.next
    (State.runWord_done hw g (hbody (Ctx.check_lanes hw g.check) (g.lanes_ne hw)) (State.calm_of_parts hparts g.quiet)))

end

/-! ## Descriptors and scratchpad bytes (R150, R162, R163, R187) -/

/-- The common course of a word with descriptors, where nothing stops it. -/
theorem State.withDescs_of_reaches {s : State} {x : Ctx} {lanes : Mask} {us : List DescUse} {read : Bool} (h : s.Reaches x lanes us read)
    (f : State → State) : s.withDescs x lanes us read f = .done (f s) [] := by
  have hdescs : us.findSome? (fun u => s.descTrap x u) = none := List.findSome?_eq_none_iff.mpr h.descs
  cases read with
  | true => simp only [State.withDescs, hdescs, h.ready, h.clean rfl, if_true, Option.map_none, Option.or_none]
  | false =>
    have hwritable : us.findSome? (fun u => u.bytes.findSome? (fun p => x.readOnlyHandle p.1 p.2)) = none :=
      List.findSome?_eq_none_iff.mpr fun u hu => List.findSome?_eq_none_iff.mpr (h.writable rfl u hu)
    simp only [State.withDescs, hdescs, hwritable, h.ready, Bool.false_eq_true, if_false, Option.map_none, Option.or_none]

/-! ## Results that a fill brings (R51) -/

theorem State.fillLater_eq_awaits (s : State) (x : Ctx) {act lanes : Mask} (d n : Nat) (f : Nat → List Word) (hact : act = lanes)
    (h : lanes ≠ 0) : s.fillLater x act lanes d n f = s.awaits x lanes d n f := by
  subst hact
  obtain ⟨j, hj, hfirst⟩ := exists_firstLane h
  have hin : act.getLsbD j = true := (mem_maskLanes act j).mp hj
  simp only [State.fillLater, hfirst, Option.any_some, hin, Bool.not_true, Bool.and_false, Bool.false_eq_true, if_false, State.awaits]

@[simp] theorem State.awaits_parts (s : State) (x : Ctx) (lanes : Mask) (d n : Nat) (f : Nat → List Word) :
    (s.awaits x lanes d n f).parts = s.parts := by
  simp only [State.awaits, State.addFill, State.addFillHeld_parts, State.modGroup_parts]

@[simp] theorem State.startTileOp_parts (s : State) (g : GRef) (tile : Nat) (mma : Bool) :
    (s.startTileOp g tile mma).parts = s.parts := by
  simp only [State.startTileOp, State.post_parts, State.modGroup_parts]

/-! ## The words -/

/-- Settles O11: `mrd` and `mfd` leave their results to a fill; every other word writes no register, and its effect is by definition the one
stated, for `mma`, `mld`, `mst` and `mscl` once their descriptors pass. -/
theorem matrixWords : Obligations.MatrixWords := by
  unfold Obligations.MatrixWords
  refine ⟨fun s x lanes o => ?_, fun s x lanes o => ?_⟩
  · rw [mod_16_eq_bitsOf o.fx.toNat]
    refine ⟨fun h => ?mma, ?mzero, fun h => ?mld, fun h => ?mst, ⟨?mrd, ?mwr⟩, fun hcols h => ?msclCols, fun hcols h => ?mscl⟩
    case mma | mld | mst =>
      exact State.Does.of_no_register rfl rfl rfl (State.withDescs_of_reaches h _)
    case mzero | mwr =>
      exact State.Does.of_no_register rfl rfl rfl rfl
    case mrd =>
      exact State.Does.of_same_parts rfl rfl (by simp) fun hact hne =>
        congrArg (fun t : State => WordRes.done (t.startTileOp x.ref.g o.ta.toNat false) [])
          (State.fillLater_eq_awaits s x _ _ _ hact hne)
    case msclCols | mscl =>
      refine State.Does.of_no_register rfl rfl rfl ?_
      simp only [hcols, Bool.false_eq_true, if_true, if_false]
      exact State.withDescs_of_reaches h _
  · refine ⟨?mtd, ?mfd, fun hsame hnext => ?mfmt, fun hsame => ?mfmtLate⟩
    case mtd => exact State.Does.of_no_register rfl rfl rfl rfl
    case mfd =>
      exact State.Does.of_same_parts rfl rfl (by simp) fun hact hne =>
        congrArg (fun t => WordRes.done t []) (State.fillLater_eq_awaits s x _ _ _ hact hne)
    case mfmt =>
      refine State.Does.of_no_register rfl rfl rfl ?_
      simp only [hsame, hnext, bne_self_eq_false, Option.isSome_none, Bool.or_self, Bool.false_eq_true, if_false]
    case mfmtLate =>
      refine State.Does.of_no_register rfl rfl rfl ?_
      simp only [bne_iff_ne.mpr hsame, Bool.true_or, if_true]

end Sys2Proof.Machine
end

section
/-!
PROOF. A lane's access to the scratchpad: what it writes over the bytes present, what that leaves alone, and what a load reads (R170, R172,
R238).
-/
namespace Sys2Proof.Machine

/-! ## Changes of a cohort that leave the scratchpad's bytes alone -/

@[simp] theorem Cohort.setScrPoison_scratch (c : Cohort) (o n : Nat) (p : Option Poison) : (c.setScrPoison o n p).scratch = c.scratch := rfl
@[simp] theorem Cohort.spinScr_scratch (c : Cohort) (o n : Nat) : (c.spinScr o n).scratch = c.scratch := rfl
@[simp] theorem Cohort.modMap_scratch (c : Cohort) (k : Nat) (f : MapEntry → MapEntry) : (c.modMap k f).scratch = c.scratch := rfl
@[simp] theorem Cohort.setGranules_scratch (c : Cohort) (o n : Nat) (full : Bool) : (c.setGranules o n full).scratch = c.scratch := rfl

/-- Beside its bytes a write sets only marks: poison, dirty bits and granules. -/
theorem Cohort.scratch_scrWrite (c : Cohort) (o : Nat) (bs : List Byte) (full : Bool) :
    (c.scrWrite o bs full).scratch = c.scratch.putBytes o bs := by
  unfold Cohort.scrWrite
  dsimp only
  rw [apply_ite Cohort.scratch, Cohort.setGranules_scratch, ite_self]
  refine (foldl_frame Cohort.scratch _ (fun c k => ?_) _ _).trans
    ((Cohort.spinScr_scratch _ o _).trans (Cohort.setScrPoison_scratch _ o _ none))
  split
  · exact Cohort.modMap_scratch c _ _
  · rfl

/-! ## One lane of an access -/

theorem Cohort.scratch_scratchLane_st (c : Cohort) {a : Access} (i o : Nat) (old : List Byte) (scr : Nat) (h : a.opc = opSt) :
    (c.scratchLane a i o old scr).1.scratch = c.scratch.putBytes o ((leBytes (a.dataOf i) a.size).take (scr - o)) := by
  have hnew : a.newBytes i old = some (leBytes (a.dataOf i) a.size) := if_pos (by rw [h]; rfl)
  have hclr : (a.opc == opLdw && a.var.getLsbD 3) = false := by rw [h]; rfl
  simp only [Cohort.scratchLane, hnew, hclr, Bool.false_eq_true, if_false, Cohort.scratch_scrWrite]

theorem Cohort.scratch_scratchLane_ld (c : Cohort) {a : Access} (i o : Nat) (old : List Byte) (scr : Nat) (h : a.opc = opLd) :
    (c.scratchLane a i o old scr).1.scratch = c.scratch := by
  have hnew : a.newBytes i old = none := by rw [Access.newBytes, h]; rfl
  have hclr : (a.opc == opLdw && a.var.getLsbD 3) = false := by rw [h]; rfl
  simp only [Cohort.scratchLane, hnew, hclr, Bool.false_eq_true, if_false]

/-! ## The bytes -/

@[simp] theorem length_leBytes (x n : Nat) : (leBytes x n).length = n := by
  rw [leBytes, List.length_map, List.length_range]

/-- Byte k of a number, low byte first. -/
theorem getD_leBytes {x n k : Nat} (h : k < n) : (leBytes x n).getD k 0 = BitVec.ofNat 8 (x / 256 ^ k) := by
  simp only [leBytes, List.getD_eq_getElem?_getD, List.getElem?_map, List.getElem?_range h, Option.map_some, Option.getD_some]

/-- Of the bytes put, those from `k` on are cut off. -/
theorem Memory.byte_putBytes_take (m : Memory) (o x n k b : Nat) :
    (m.putBytes o ((leBytes x n).take k)).byte b =
      if o ≤ b ∧ b < o + n ∧ b < o + k then BitVec.ofNat 8 (x / 256 ^ (b - o)) else m.byte b := by
  rw [Memory.byte_putBytes, List.length_take, length_leBytes]
  by_cases hin : o ≤ b ∧ b < o + n ∧ b < o + k
  · have hput : o ≤ b ∧ b < o + min k n := by omega
    have htake : b - o < k := by omega
    have hsize : b - o < n := by omega
    rw [if_pos hin, if_pos hput, ← getD_leBytes hsize]
    simp only [List.getD_eq_getElem?_getD, List.getElem?_take_of_lt htake]
  · have hput : ¬(o ≤ b ∧ b < o + min k n) := by omega
    rw [if_neg hin, if_neg hput]

/-- A range inside the scratchpad holds no free value. -/
theorem State.scratchBytes_inside (s : State) (c : Cohort) {scr o n : Nat} (h : o + n ≤ scr) :
    s.scratchBytes c scr o n = c.scratch.bytes o n := by
  have hall : min n (scr - o) = n := by omega
  rw [State.scratchBytes, hall, Nat.sub_self]
  exact List.append_nil _

/-- Settles O32: a store puts the bytes of its lane cut off at S, a load puts none, and a range inside S is read as it stands. -/
theorem scratchpadAccesses : Obligations.ScratchpadAccesses := by
  unfold Obligations.ScratchpadAccesses
  intro s c a i o scr
  refine ⟨fun hst b => ?_, fun hld => Cohort.scratch_scratchLane_ld c i o _ scr hld, fun hin => State.scratchBytes_inside s c hin⟩
  have hend : (o ≤ b ∧ b < o + a.size ∧ b < o + (scr - o)) ↔ (o ≤ b ∧ b < o + a.size ∧ b < scr) := by omega
  simp only [Cohort.scratch_scratchLane_st c i o _ scr hst, Memory.byte_putBytes_take, hend]

end Sys2Proof.Machine
end

section
/-!
PROOF. The words with an address in each lane: each is by definition a run of its form, which sends the access that its lanes ask for
(R169 to R180, R186).
-/
namespace Sys2Proof.Machine

/-! ## What a word adds to the access of its lanes -/

/-- What the access returns goes to the registers that a field names. -/
def returnsTo (f : BitVec 8) (_ : Ctx) (a : Access) : Access := { a with dst := f.toNat }

/-- The access carries n registers of each lane, captured from a field. -/
def carriesRegs (f : BitVec 8) (n : Nat) (x : Ctx) (a : Access) : Access := { a with data := laneData a.lanes (fun l => x.valN f n l) }

/-- The access carries the value of a 32-bit field in each lane. -/
def carriesVal (f : BitVec 8) (x : Ctx) (a : Access) : Access := { a with data := laneData a.lanes (fun l => x.val f l) }

/-- The access carries the values that each lane compares with. -/
def comparesRegs (f : BitVec 8) (n : Nat) (x : Ctx) (a : Access) : Access :=
  { a with cmp := (maskLanes a.lanes).map (fun l => (l, w64 (x.valN f n l))) }

/-! ## The words -/

/-- Of every such word, whatever it adds to the access. -/
theorem State.Sends.of_runMem {s : State} {w : WordSpec} {x : Ctx} {lanes : Mask} {o : FmtM} {f : MemForm} {early : Bool} {a : Access}
    (adds : Ctx → Access → Access) (hw : w.quiet = false) (hexec : exec w.i s = s.runMem w o f early adds)
    (ha : adds x (x.asks o f (x.l.handle o.hnd.toNat) lanes) = a) : s.Sends w x lanes o f early a := by
  subst ha
  exact fun ht hslot hfirst hcalm g => hexec.trans (State.runMem_sends hw g ht hslot hfirst hcalm)

/-- Settles O12: each word is by definition a run of its form, with what it adds to the access. -/
theorem addressWords : Obligations.AddressWords := by
  unfold Obligations.AddressWords
  intro s x lanes o
  refine ⟨?ld, ?st, ?ldw, ?stf, ?atom, ?cas, ?promote, ?waitc, ?wbr, ?invr⟩
  case ld | ldw | promote => exact .of_runMem (returnsTo o.dst) rfl rfl rfl
  case st | stf => exact .of_runMem (carriesRegs o.dst (memRegs o.var)) rfl rfl rfl
  case atom => exact .of_runMem (fun x a => carriesRegs o.sy (atomSize o.var / 4) x (returnsTo o.dst x a)) rfl rfl rfl
  case cas =>
    exact .of_runMem (fun x a => comparesRegs o.sy (memSize o.var / 4) x (carriesRegs o.dst (memSize o.var / 4) x (returnsTo o.dst x a)))
      rfl rfl rfl
  case waitc => exact .of_runMem (fun x a => carriesVal o.sy x (returnsTo o.dst x a)) rfl rfl rfl
  case wbr | invr => exact .of_runMem (carriesVal o.sy) rfl rfl rfl

end Sys2Proof.Machine
end

section
/-!
PROOF. The checks of R169 in their order, and what a word does that fails one: a memory word all of whose lanes trap (R69, R170), and a
word that its group may not execute (R92, R209, R213, R207).
-/
namespace Sys2Proof.Machine

/-! ## The address checks (R169, R248) -/

/-- Bounds, permissions and spaces, alignment. -/
theorem Handle.check_eq (h : Handle) (k : Nat) (o : Int) (n a scr : Nat) (p : Perms) (spaces : List Nat) :
    h.check k o n a scr p spaces =
      if o < 0 ∨ (h.limit : Int) < o + n ∨ (h.space = 1 ∧ (scr : Int) < o + n) then some (0x09, k)
      else if h.bound = false ∨ h.allows p = false ∨ h.space ∉ spaces then some (0x0A, k)
      else if ((h.base : Int) + o) % a ≠ 0 then some (0x0C, k) else Option.none := by
  have hunbound : h.bound = false → h.allows p = false ∨ h.space ∉ spaces := fun hb =>
    .inl (by simp only [Handle.allows, hb, Bool.false_and])
  have hperm : (!h.allows p || !spaces.contains h.space) = true ↔ h.bound = false ∨ h.allows p = false ∨ h.space ∉ spaces := by
    rw [or_iff_right_of_imp hunbound]
    simp only [Bool.or_eq_true, Bool.not_eq_true', List.contains_eq_mem, decide_eq_false_iff_not]
  unfold Handle.check
  simp only [hperm]
  by_cases hlimit : o < 0 ∨ (h.limit : Int) < o + n
  · rw [if_pos hlimit, if_pos (hlimit.imp_right .inl)]
  · rw [if_neg hlimit]
    simp only [not_or] at hlimit
    simp only [hlimit.1, hlimit.2, false_or]

/-- A failed check comes before the range locks. -/
theorem State.addrTrap_some (s : State) (l : Launch) (c : Cohort) {h : Handle} {k n a : Nat} {o : Int} {p : Perms} {spaces : List Nat}
    (locks : Bool) {t : Nat × Nat} (ht : h.check k o n a l.scr p spaces = some t) :
    s.addrTrap l c h k o n a p spaces locks = some t := by
  rw [State.addrTrap, ht]

theorem State.addrTrap_none (s : State) (l : Launch) (c : Cohort) {h : Handle} {k n a : Nat} {o : Int} {p : Perms} {spaces : List Nat}
    (locks : Bool) (ht : h.check k o n a l.scr p spaces = none) :
    s.addrTrap l c h k o n a p spaces locks =
      if locks then (s.lockHit l c h.space (h.base + o.toNat) n).map (fun e => (0x0B, e)) else none := by
  rw [State.addrTrap, ht]

/-! ## A memory word that traps in every lane -/

/-- Where every element gives one, none is left out. -/
theorem filterMap_eq_map_of_some {α β : Type} {f : α → Option β} {g : α → β} {xs : List α} (h : ∀ a, a ∈ xs → f a = some (g a)) :
    xs.filterMap f = xs.map g := by
  induction xs with
  | nil => rfl
  | cons a rest ih => rw [List.filterMap_cons_some (h a (.head _)), List.map_cons, ih (fun b hb => h b (.tail _ hb))]

theorem State.runMem_traps {s : State} {w : WordSpec} {x : Ctx} {lanes : Mask} {o : FmtM} {f : MemForm} {early : Bool}
    {fill : Ctx → Access → Access} {trap : Nat → Nat × Nat} (hw : w.quiet = false) (g : s.Goes w x lanes)
    (ht : ∀ l, l ∈ maskLanes lanes → s.memTrap x o f l = some (trap l)) :
    s.runMem w o f early fill =
      .next (s.trapOr x (s.wordTrap x lanes ((maskLanes lanes).map (fun l => ⟨l, (trap l).1, (trap l).2⟩)) false [])) := by
  have hts : (maskLanes lanes).filterMap (fun i => (s.memTrap x o f i).map (fun t => LaneTrap.mk i t.1 t.2)) =
      (maskLanes lanes).map (fun l => ⟨l, (trap l).1, (trap l).2⟩) :=
    filterMap_eq_map_of_some fun l hl => congrArg (Option.map (fun t => LaneTrap.mk l t.1 t.2)) (ht l hl)
  have hall : maskOf (((maskLanes lanes).map (fun l => LaneTrap.mk l (trap l).1 (trap l).2)).map (fun t => t.lane)) = lanes := by
    rw [List.map_map]
    exact (congrArg maskOf (List.map_id _)).trans (maskOf_maskLanes lanes)
  obtain ⟨j, hj, -⟩ := exists_firstLane (g.lanes_ne hw)
  refine congrArg Host.Outcome.next (State.runWord_done_traps hw g ?_ g.quiet (List.ne_nil_of_mem (List.mem_map_of_mem hj)))
  simp only [hts, hall, BitVec.and_not_self, BitVec.ofNat_eq_ofNat, if_true]

/-! ## A word that its group may not execute -/

theorem Ctx.check_privileged {x : Ctx} {w : WordSpec} (hact : x.active w.guard ≠ 0) (henc : w.i.encInfo = none) (hpriv : w.priv = true) :
    x.check w = .trap 0x04 0 := by
  simp only [Ctx.check, if_neg hact, henc, hpriv, if_true]

section
variable {s : State} {x : Ctx} {w : WordSpec} {body : Ctx → Mask → State → WordRes} (hctx : s.ctx? = some x) (hmoves : x.waits = false)
  (hcalm : s.calm x.l.part)
include hctx hmoves hcalm

/-- Step 11 of Table 5.6, of every word. -/
theorem State.runWord_privileged (hact : x.active w.guard ≠ 0) (henc : w.i.encInfo = none) (hpriv : w.priv = true) :
    (.next (s.runWord w body) : Out) = .next (s.trapOr x (s.wordTrap x 0 (trapAll (x.active w.guard) 0x04 0) false [])) :=
  congrArg Host.Outcome.next (State.runWord_trap hctx hmoves hcalm (Ctx.check_privileged hact henc hpriv))

end

theorem State.inCtx_eq {s : State} {x : Ctx} (h : s.ctx? = some x) (p : Ctx → Bool) : s.inCtx p = p x := by
  rw [State.inCtx, h]
  rfl

/-- Settles O21: the checks of an address by their order, the words all of whose lanes fail one, and the words of a group that lacks the
privilege. -/
theorem addressAndPrivilegeChecks : Obligations.AddressAndPrivilegeChecks := by
  unfold Obligations.AddressAndPrivilegeChecks
  refine ⟨fun s l c h k n a o p spaces locks => ?addresses, fun s x lanes o trap => ?lanes, fun s x o k p => ?privilege⟩
  case addresses =>
    have hcheck := Handle.check_eq h k o n a l.scr p spaces
    refine ⟨fun hfar => ?_, fun hfar hrefused => ?_, fun hfar hrefused hmis => ?_, fun hfar hrefused hal => ?_⟩
    · rw [if_pos hfar] at hcheck
      exact State.addrTrap_some s l c locks hcheck
    · rw [if_neg hfar, if_pos hrefused] at hcheck
      exact State.addrTrap_some s l c locks hcheck
    · rw [if_neg hfar, if_neg hrefused, if_pos hmis] at hcheck
      exact State.addrTrap_some s l c locks hcheck
    · rw [if_neg hfar, if_neg hrefused, if_neg (not_not_intro hal)] at hcheck
      exact State.addrTrap_none s l c locks hcheck
  case lanes =>
    refine ⟨fun g ht => ?ld, fun g ht => ?st⟩
    case ld =>
      change execLd o s = _
      exact State.runMem_traps rfl g ht
    case st =>
      change execSt o s = _
      exact State.runMem_traps rfl g ht
  case privilege =>
    intro trap hctx hmoves hcalm
    refine ⟨fun hact henc hpriv => ?mfs, fun hact henc hpart => ?inject, fun hact henc hin => ?rett⟩
    case mfs =>
      exact State.runWord_privileged hctx hmoves hcalm hact henc hpriv
    case inject =>
      have hpriv : s.inCtx (fun x => !((s.part? x.l.part).map (fun p => p.test)).getD false) = true := by
        rw [State.inCtx_eq hctx, hpart, Option.map_some, hcalm p hpart]
        rfl
      exact State.runWord_privileged hctx hmoves hcalm hact henc hpriv
    case rett =>
      have hpriv : s.inCtx (fun x => !x.g.r.inTrap) = true := by rw [State.inCtx_eq hctx, hin]; rfl
      exact State.runWord_privileged hctx hmoves hcalm hact henc hpriv

end Sys2Proof.Machine
end

section
/-!
PROOF. The words without an address in each lane: `hld` and `pref`, the fence, the band words and the map words (R178, R181 to R189, R276).
-/
namespace Sys2Proof.Machine

/-! ## A word that takes no part in some lanes (R185) -/

/-- A word without a register destination that may be left with no lane, where it has no effect. -/
theorem State.Does.of_quiet {s t : State} {w : WordSpec} {x : Ctx} {lanes : Mask} {body : Ctx → Mask → State → WordRes}
    (hexec : exec w.i s = .next (s.runWord w body)) (hds : w.dsts.any DstOp.isReg = false) (hnone : lanes = 0 → t = s)
    (hbody : body x lanes s = .done t []) : s.Does w x lanes t := by
  intro g
  rw [hexec]
  simp only [State.runWord, g.ctx, g.moves, State.injectStore_quiet s x _ _ g.quiet, g.check, Bool.false_eq_true, if_false]
  by_cases hlanes : lanes = 0
  · rw [if_pos hlanes, hnone hlanes, List.isEmpty_nil, if_pos rfl]
  · simp only [if_neg hlanes, hbody, State.injectResult_of_no_register t x lanes hds, Bool.false_eq_true, if_false, List.append_nil,
      List.isEmpty_nil, if_true]

/-! ## The value of `hld` (R189) -/

/-- The two words of eight bytes of a handle entry. -/
theorem wordsOf_bitsOf_dword (h : BitVec 256) (k : Nat) :
    wordsOf (bitsOf h.toNat (k + 63) k) 2 =
      [((h >>> k).setWidth 64).extractLsb' 0 32, ((h >>> k).setWidth 64).extractLsb' 32 32] := by
  have hq : bitsOf h.toNat (k + 63) k = ((h >>> k).setWidth 64 : DWord).toNat := by
    have hwidth : k + 63 + 1 - k = 64 := by omega
    rw [bitsOf, hwidth, BitVec.toNat_setWidth, BitVec.toNat_ushiftRight, Nat.shiftRight_eq_div_pow]
  have hword : ∀ (q : DWord) (j : Nat), w32 (q.toNat / 2 ^ j) = q.extractLsb' j 32 := by
    intro q j
    apply BitVec.eq_of_toNat_eq
    rw [w32, BitVec.toNat_ofNat, BitVec.extractLsb'_toNat, Nat.shiftRight_eq_div_pow]
  rw [hq, wordsOf]
  simp only [hword, List.range_succ, List.range_zero, List.nil_append, List.cons_append, List.map_cons, List.map_nil, Nat.mul_zero,
    Nat.mul_one]

/-! ## The words -/

/-- Settles O13: `hld` leaves its pair to a fill, `pref` goes lane by lane, and every other word writes no register and sends its operation
once its checks pass. -/
theorem orderBandAndMapWords : Obligations.OrderBandAndMapWords := by
  unfold Obligations.OrderBandAndMapWords
  intro s x lanes o e
  dsimp only
  refine ⟨⟨?hld, ?pref⟩, fun hfirst => ⟨?fence, fun hband hroom => ?bandj, fun hband hasked => ?bandx,
    fun haddr hband hmul hlow hhigh hfits hlock hmember hasking => ?bandl, fun haddr hmap => ?mapset, ?mapflush⟩⟩
  case hld =>
    refine State.Does.of_same_parts rfl rfl (State.awaits_parts ..) fun hact hne => ?_
    rw [← wordsOf_bitsOf_dword]
    exact congrArg (fun t => WordRes.done t []) (State.fillLater_eq_awaits s x _ _ _ hact hne)
  case pref =>
    refine State.Does.of_quiet rfl rfl (fun hnone => ?_) rfl
    rw [hnone, maskLanes_zero]
    rfl
  case fence | mapflush => exact State.Does.of_no_register rfl rfl rfl (Ctx.sendFirst_nil hfirst)
  case bandj =>
    have hgo : (!x.member e && decide (e.maxm ≤ bits96 (e.members &&& ~~~(coreBit x.c.core)))) = false := by
      rcases hroom with h | h
      · simp only [h, Bool.not_true, Bool.false_and]
      · simp only [decide_eq_false (Nat.not_le.mpr h), Bool.and_false]
    refine State.Does.of_no_register rfl rfl rfl ?_
    simp only [hband, hgo, Bool.false_eq_true, if_false, Ctx.sendFirst_nil hfirst]
  case bandx =>
    refine State.Does.of_no_register rfl rfl rfl ?_
    simp only [hband, hasked, Bool.false_eq_true, if_false, Ctx.sendFirst_nil hfirst]
  case bandl =>
    have hrange : ¬ (x.val o.sy ((firstLane lanes).getD 0) % 128 ≠ 0 ∨ x.val o.sy ((firstLane lanes).getD 0) < 128 ∨
        65536 < x.val o.sy ((firstLane lanes).getD 0) ∨ x.l.scr < e.soff + x.val o.sy ((firstLane lanes).getD 0)) := by omega
    refine State.Does.of_no_register rfl rfl rfl ?_
    simp only [haddr, hband, if_neg hrange, hlock, hmember, hasking, Bool.not_true, Bool.or_self, Bool.false_eq_true, if_false,
      Ctx.sendFirst_nil hfirst]
  case mapset =>
    refine State.Does.of_no_register rfl rfl rfl ?_
    simp only [haddr, hmap, Option.or_none, Ctx.sendFirst_nil hfirst]

end Sys2Proof.Machine
end

section
/-!
PROOF. Requests at their home: the accesses of lanes (R172, R177, R180, R415) and those of the companion (R7, R269, R356).
-/
namespace Sys2Proof.Machine

/-! ## The accesses of lanes -/

section
variable {s : State} {g : GRef} {l : Launch} {c : Cohort} {x : Group} {a : Access} {id : Nat} (hst : s.Stands g l c x)
  (hacc : x.accs.find? (fun a => a.id == id) = some a)
include hst hacc

section
variable {reread : Bool} (hlanes : s.homeLanes l c x a ≠ 0) (hturn : (!reread && s.behindHome l c a) = false)
include hlanes hturn

/-- A `wbr` or `invr` whose turn has come writes its sectors back. -/
theorem State.tryHome_range (hopc : a.opc = opWbr ∨ a.opc = opInvr) :
    s.tryHome g id reread = (s.performRange g l c a (s.homeLanes l c x a)).wake := by
  have hrange : (a.opc == opWbr || a.opc == opInvr) = true := by
    simpa only [Bool.or_eq_true, beq_iff_eq] using hopc
  simp only [State.tryHome, hst.cohort, hst.launch, hst.group?, hacc, decide_eq_false hlanes, hturn, Bool.or_self, hrange,
    Bool.false_eq_true, if_false, if_true]

variable (hopc : (a.opc == opWbr || a.opc == opInvr) = false)
include hopc

theorem State.tryHome_unavailable {pa : Nat} (hblock : s.blockOf l c a = .unavailable pa) :
    s.tryHome g id reread = ((s.countUnavailable pa).modAccess g id (fun a => { a with unavailable := true })).post
      (.homeUnavailableRetry (.access g id)) := by
  simp only [State.tryHome, hst.cohort, hst.launch, hst.group?, hacc, decide_eq_false hlanes, hturn, Bool.or_self, hopc,
    Bool.false_eq_true, if_false, hblock]

theorem State.tryHome_performs (hblock : s.blockOf l c a = .none) (hclean : s.rereadFor g l c a = none) :
    s.tryHome g id reread = (s.performGlobal g l c a (s.homeLanes l c x a)).wake := by
  simp only [State.tryHome, hst.cohort, hst.launch, hst.group?, hacc, decide_eq_false hlanes, hturn, Bool.or_self, hopc,
    Bool.false_eq_true, if_false, hblock, hclean]

end

theorem exec_releaseActionsDone {out : Mask} (hout : s.releasing l c x a = out) (hne : out ≠ 0)
    (hheld : s.releaseHeld (l.req c) (s.effScope a (s.accPas l c a)) a.id = false)
    (hblocked : s.releaseBlocked (l.req c) (s.effScope a (s.accPas l c a)) = false) :
    exec (.releaseActionsDone g id) s =
      .next (let t := s.releaseActions (l.req c) (s.effScope a (s.accPas l c a))
        if a.addressed then t.markReleased g id out else t.afterRelease g c a out).wake := by
  change execReleaseActionsDone g id s = _
  simp only [execReleaseActionsDone, hst.cohort, hst.launch, hst.group?, hacc, hout, decide_eq_false hne, hheld, hblocked, Bool.or_self,
    Bool.false_eq_true, if_false]

end

/-! ## Requests of the companion -/

section
variable {s : State} {o : Outer} {r : HomeReq}

theorem State.outerHome_abroad (hlocal : s.local o.pa = false) : s.outerHome o r = s.performAbroad o r := by
  simp only [State.outerHome, hlocal, Bool.not_false, if_true]

variable (hlocal : s.local o.pa = true) (hpkg : o.pkg = none)
include hlocal hpkg

theorem State.outerHome_unavailable (hun : s.homeUnavailable o.pa = true) :
    s.outerHome o r = (s.countUnavailable o.pa).send (.homeUnavailable o.pa) := by
  simp only [State.outerHome, hlocal, hpkg, hun, Bool.not_true, Option.isSome_none, Bool.false_and, Bool.false_eq_true, if_false, if_true]

theorem State.outerHome_served (hun : s.homeUnavailable o.pa = false) (hquiet : s.quiesced o.req o.pa = false)
    (htoken : s.hasToken o.req o.pa = true) (hroom : s.logRoom o.part (s.companionHits o).length = true) :
    s.outerHome o r =
      (s.logAccess o.part (s.companionHits o) (if o.write then accWrite else accRead) 8 0xFF 0 0 o.pa).performOuter o r := by
  simp only [State.outerHome, hlocal, hpkg, hun, hquiet, htoken, hroom, Bool.not_true, Option.isSome_none, Option.isNone_none,
    Bool.false_and, Bool.or_self, Bool.false_eq_true, if_false, if_true]

end

/-- Settles O37: an access at home by what `State.tryHome` decides, a request of the companion by what `State.outerHome` does. -/
theorem homeEvents : Obligations.HomeEvents := by
  unfold Obligations.HomeEvents
  refine ⟨fun s g id l c x a hst hacc lanes hl hne hturn => ?accesses, fun s pa n bs reg => ?companion⟩
  case accesses =>
    subst hl
    have hturn : (!false && s.behindHome l c a) = false := hturn
    refine ⟨fun hwbr hinvr => ?atHome, fun hopc => ?range, fun t ht d y b hst hacc hopc hne hblock hclean => ?reread, rfl,
      fun out hout hne hheld hblocked => exec_releaseActionsDone hst hacc hout hne hheld hblocked⟩
    case atHome =>
      have hopc : (a.opc == opWbr || a.opc == opInvr) = false := by
        simp only [beq_eq_false_iff_ne.mpr hwbr, beq_eq_false_iff_ne.mpr hinvr, Bool.or_self]
      exact ⟨fun hblock hclean => congrArg Host.Outcome.next (State.tryHome_performs hst hacc hne hturn hopc hblock hclean),
        fun pa hblock => congrArg Host.Outcome.next (State.tryHome_unavailable hst hacc hne hturn hopc hblock)⟩
    case range => exact congrArg Host.Outcome.next (State.tryHome_range hst hacc hne hturn hopc)
    case reread =>
      subst ht
      have hopc : (b.opc == opWbr || b.opc == opInvr) = false := by rw [hopc]; rfl
      exact congrArg Host.Outcome.next (State.tryHome_performs hst hacc hne rfl hopc hblock hclean)
  case companion =>
    refine ⟨⟨fun hreg => ?register, fun k hk => ?record⟩, fun hlocal => ⟨?read, ?write⟩, fun hlocal hun => ?away,
      fun hlocal hun hquiet htoken => ⟨fun hroom => ?served, fun hroom => ?stored⟩⟩
    case register =>
      change Host.Outcome.next (s.answerRegister reg) = _
      unfold State.answerRegister
      split
      · next k => exact absurd rfl (hreg k)
      · rfl
    case record =>
      subst hk
      rfl
    case read => exact congrArg Host.Outcome.next (State.outerHome_abroad hlocal)
    case write => exact congrArg Host.Outcome.next (State.outerHome_abroad hlocal)
    case away => exact congrArg Host.Outcome.next (State.outerHome_unavailable hlocal rfl hun)
    case served => exact congrArg Host.Outcome.next (State.outerHome_served hlocal rfl hun hquiet htoken hroom)
    case stored => exact congrArg Host.Outcome.next (State.outerHome_served hlocal rfl hun hquiet htoken hroom)

end Sys2Proof.Machine
end

section
/-!
PROOF. A completion record: bytes of a number read back, and the two words of the record (R197).
-/
namespace Sys2Proof.Machine

theorem leBytes_succ (x n : Nat) : leBytes x (n + 1) = BitVec.ofNat 8 x :: leBytes (x / 256) n := by
  simp only [leBytes, List.range_succ_eq_map, List.map_cons, List.map_map, Nat.pow_zero, Nat.div_one, Function.comp_def, Nat.pow_succ',
    Nat.div_div_eq_div_mul]

/-- Bytes written low byte first read back, as far as they reach. -/
theorem leNat_leBytes (x n : Nat) : leNat (leBytes x n) = x % 256 ^ n := by
  induction n generalizing x with
  | zero => simp [leBytes, leNat, Nat.mod_one]
  | succ n ih =>
    calc leNat (leBytes x (n + 1)) = x % 256 + 256 * leNat (leBytes (x / 256) n) := by
          rw [leBytes_succ, leNat, List.foldr_cons, BitVec.toNat_ofNat]
          rfl
      _ = x % 256 ^ (n + 1) := by rw [ih, Nat.pow_succ', Nat.mod_mul]

/-- The first word of a record. -/
theorem take_recordBytes (cntv stv : Bool) (status : Word) {old : List Byte} (h : old.length = 8) :
    (recordBytes cntv stv status old).take 4 = if cntv then leBytes ((leNat (old.take 4) + 1) % 2 ^ 32) 4 else old.take 4 := by
  refine List.take_left' ?_
  split
  · exact length_leBytes _ 4
  · simp [h]

/-- The second word of a record. -/
theorem drop_recordBytes (cntv stv : Bool) (status : Word) {old : List Byte} (h : old.length = 8) :
    (recordBytes cntv stv status old).drop 4 = if stv then leBytes status.toNat 4 else old.drop 4 := by
  have hrest : (old.drop 4).take 4 = old.drop 4 := List.take_of_length_le (by simp [h])
  refine (List.drop_left' ?_).trans (by rw [hrest])
  split
  · exact length_leBytes _ 4
  · simp [h]

theorem length_recordBytes (cntv stv : Bool) (status : Word) {old : List Byte} (h : old.length = 8) :
    (recordBytes cntv stv status old).length = 8 := by
  cases cntv <;> cases stv <;> simp [recordBytes, h]

/-- Settles O47: each word of the record is the one written or the one that stood there. -/
theorem completionRecordBytes : Obligations.CompletionRecordBytes := by
  unfold Obligations.CompletionRecordBytes
  intro cntv stv status old h
  refine ⟨length_recordBytes cntv stv status h, ?_, ?_⟩
  · rw [take_recordBytes cntv stv status h]
    split
    · rw [leNat_leBytes]
      exact Nat.mod_mod _ _
    · rfl
  · rw [drop_recordBytes cntv stv status h]
    split
    · rw [leNat_leBytes]
      exact Nat.mod_eq_of_lt status.isLt
    · rfl

end Sys2Proof.Machine
end

section
/-!
PROOF. Taking a trap and returning from its handler: what both leave alone, and where the lanes stand after them (R206 to R208, Table
11.8).
-/
namespace Sys2Proof.Machine

/-! ## Changes of lanes that leave their predicates alone -/

theorem Regs.pred_modLanes (r : Regs) (m : Mask) {f : Nat → Lane → Lane} (h : ∀ i l, (f i l).preds = l.preds) (n i : Nat) :
    (r.modLanes m f).pred n i = r.pred n i := by
  rw [Regs.pred_eq, Regs.pred_eq]
  by_cases hi : i < 16
  · rw [Regs.lane_modLanes r m f i hi]
    rw [apply_ite Lane.preds, h, ite_self]
  · rw [Regs.lane_beyond _ i (Nat.le_of_not_lt hi), Regs.lane_beyond r i (Nat.le_of_not_lt hi)]

/-- A part of the registers that no change of lanes touches, but one of their predicates. -/
def Regs.LanesAside {β : Type} (view : Regs → β) : Prop :=
  ∀ (r : Regs) (m : Mask) (f : Nat → Lane → Lane), (∀ i l, (f i l).preds = l.preds) → view (r.modLanes m f) = view r

theorem Regs.lanesAside_pred (n i : Nat) : Regs.LanesAside (fun r => r.pred n i) := fun r m _ h => r.pred_modLanes m h n i

/-- The rejoins change lanes alone, and no predicate of theirs. -/
theorem Regs.evalRejoin_frame {β : Type} {view : Regs → β} (h : Regs.LanesAside view) (r : Regs) : view r.evalRejoin = view r :=
  foldl_frame view Regs.evalRejoinAt (fun r _ => h r _ _ (fun _ _ => rfl)) r.tokenAddrs r

/-- Without tokens nothing waits at a rejoin. -/
theorem Regs.evalRejoin_of_no_token {r : Regs} (h : ∀ l, l < 16 → (r.lane l).tok = none) : r.evalRejoin = r := by
  have hnone : (maskLanes r.live).filterMap (fun i => if (r.lane i).waiting then some (r.lane i).pc else none) = [] := by
    refine List.filterMap_eq_nil_iff.mpr fun i hi => ?_
    simp [Lane.waiting, h i (mem_maskLanes_lt hi)]
  rw [Regs.evalRejoin, Regs.tokenAddrs, hnone]
  rfl

/-! ## Entering the handler -/

theorem asyncCause_iff (code : Nat) : asyncCause code = true ↔ code = 0x20 ∨ code = 0x38 := by
  simp only [asyncCause, Bool.or_eq_true, beq_iff_eq]

theorem toNat_tcauseOf (code info : Nat) (lanes : Mask) :
    (tcauseOf code info lanes).toNat = lanes.toNat * 65536 + info % 256 * 256 + code % 256 := by
  have hlanes := lanes.isLt
  rw [tcauseOf, w32, BitVec.toNat_ofNat]
  omega

/-- The lanes that a cause names (R206): those that trap, and every live lane for 0x18, 0x20 and 0x38. -/
def Regs.trapLanes (r : Regs) (code : Nat) (lanes : Mask) : Mask := if code = 0x18 ∨ asyncCause code then r.live else lanes

theorem Regs.trapLanes_eq (r : Regs) (code : Nat) (lanes : Mask) :
    r.trapLanes code lanes = if code = 0x18 ∨ code = 0x20 ∨ code = 0x38 then r.live else lanes := by
  simp only [Regs.trapLanes, asyncCause_iff]

section
variable (r : Regs) (code info : Nat) (lanes : Mask) (tpc taddr : DWord) (tskid : Word)

/-- The trap is recorded (step 2 of Table 11.8); the lanes stand as they did. -/
def Regs.trapRecorded : Regs :=
  { r with tcause := tcauseOf code info (r.trapLanes code lanes), tpc := tpc, taddr := taddr,
           tskid := if impreciseCause code then tskid else r.tskid,
           inTrap := true, handler := r.trapLanes code lanes &&& r.live, retted := 0,
           outer := if asyncCause code then r.wait.drop Wait.isSleep else r.wait, wait := .none }

/-- Steps 3 and 4 of Table 11.8 change lanes alone. -/
theorem Regs.enterTrap_eq : r.enterTrap code info lanes tpc taddr tskid =
    ((r.trapRecorded code info lanes tpc taddr tskid).modLanes r.live (fun _ l => { l with resumePc := l.pc, resumeHdr := l.hdr })).modLanes
      (r.trapLanes code lanes &&& r.live) (fun _ l => { l with pc := r.handlerPc, hdr := r.handlerPc, parked := false }) := rfl

theorem Regs.enterTrap_frame {β : Type} {view : Regs → β} (h : Regs.LanesAside view) :
    view (r.enterTrap code info lanes tpc taddr tskid) = view (r.trapRecorded code info lanes tpc taddr tskid) := by
  rw [Regs.enterTrap_eq, h, h] <;> exact fun _ _ => rfl

theorem Regs.trapRecorded_tskid : (r.trapRecorded code info lanes tpc taddr tskid).tskid =
    if code = 0x10 ∨ code = 0x11 ∨ code = 0x12 then tskid else r.tskid := by
  simp only [Regs.trapRecorded, impreciseCause, Bool.or_eq_true, beq_iff_eq, or_assoc]

theorem Regs.enterTrap_lane {i : Nat} (hi : i < 16) : (r.enterTrap code info lanes tpc taddr tskid).lane i =
    let l := if r.live.getLsbD i then { r.lane i with resumePc := (r.lane i).pc, resumeHdr := (r.lane i).hdr } else r.lane i
    if (r.trapLanes code lanes &&& r.live).getLsbD i then { l with pc := r.handlerPc, hdr := r.handlerPc, parked := false } else l := by
  rw [Regs.enterTrap_eq, Regs.lane_modLanes _ _ _ i hi, Regs.lane_modLanes _ _ _ i hi]
  rfl

/-- The resume PCs are the present ones. -/
theorem Regs.enterTrap_resumePc {i : Nat} (hi : i < 16) (hlive : r.live.getLsbD i = true) :
    ((r.enterTrap code info lanes tpc taddr tskid).lane i).resumePc = (r.lane i).pc := by
  rw [Regs.enterTrap_lane r _ _ _ _ _ _ hi, if_pos hlive]
  dsimp only
  split <;> rfl

/-- The handler's lanes stand at its address. -/
theorem Regs.enterTrap_pc {i : Nat} (hi : i < 16) : ((r.enterTrap code info lanes tpc taddr tskid).lane i).pc =
    if (r.trapLanes code lanes &&& r.live).getLsbD i then r.handlerPc else (r.lane i).pc := by
  rw [Regs.enterTrap_lane r _ _ _ _ _ _ hi]
  dsimp only
  split
  · rfl
  · split <;> rfl

end

/-- A group that a change names. -/
theorem State.group?_modGroup_some {s : State} {g : GRef} {x : Group} (hg : s.group? g = some x) {f : Group → Group}
    (h : ∀ x, (f x).gid = x.gid) : (s.modGroup g f).group? g = some (f x) := by
  rw [State.group?_modGroup s g f h, hg, Option.map_some]

section
variable {s : State} {g : GRef} {x : Group} (hg : s.group? g = some x) (code info : Nat) (lanes : Mask) (tpc taddr : DWord) (tskid : Word)
include hg

theorem State.takeTrap_enters (hin : x.r.inTrap = false) (hpc : x.r.handlerPc ≠ 0) :
    s.takeTrap g code info lanes tpc taddr tskid = s.modGroup g (fun y => { y with r := y.r.enterTrap code info lanes tpc taddr tskid }) := by
  simp only [State.takeTrap, hg, hin, if_neg hpc, Bool.false_eq_true, if_false]

theorem State.takeTrap_unhandled (hin : x.r.inTrap = false) (hpc : x.r.handlerPc = 0) :
    s.takeTrap g code info lanes tpc taddr tskid =
      if code = 0x38 then s.startSave (GRefCohort g) 2
      else s.failLaunch g.lid code tpc taddr (tcauseOf code info (if code = 0x18 ∨ asyncCause code then x.r.live else lanes)) 0 := by
  simp only [State.takeTrap, hg, hin, if_pos hpc, Bool.false_eq_true, if_false]

theorem State.takeTrap_inTrap (hin : x.r.inTrap = true) :
    s.takeTrap g code info lanes tpc taddr tskid =
      if code = 0x20 then s.modRegs g (fun r => { r with held20 := some info })
      else if code = 0x38 then s.modRegs g (fun r => { r with held38 := some info })
      else s.failLaunch g.lid code tpc taddr (tcauseOf code info lanes) x.r.tcause := by
  simp only [State.takeTrap, hg, hin, if_true]

end

/-! ## The return -/

/-- The registers at the return, before the rejoins are evaluated. -/
def Regs.returned (r : Regs) : Regs :=
  { (r.modLanes (r.handler &&& r.live) (fun _ l => { l with pc := l.resumePc, hdr := l.resumeHdr, parked := false })) with
    inTrap := false, handler := 0, retted := 0, wait := r.wait.join r.outer, outer := .none }

theorem Regs.returnTrap_eq (r : Regs) : r.returnTrap = r.returned.evalRejoin := rfl

/-- What neither a change of lanes nor the end of the handler touches. -/
theorem Regs.returnTrap_frame {β : Type} {view : Regs → β} (h : Regs.LanesAside view) (r : Regs) : view r.returnTrap = view r.returned :=
  Regs.evalRejoin_frame h r.returned

theorem Regs.returned_lane (r : Regs) {i : Nat} (hi : i < 16) : r.returned.lane i =
    if (r.handler &&& r.live).getLsbD i then { r.lane i with pc := (r.lane i).resumePc, hdr := (r.lane i).resumeHdr, parked := false }
    else r.lane i :=
  Regs.lane_modLanes r _ _ i hi

theorem Regs.returned_pred (r : Regs) (n i : Nat) : r.returned.pred n i = r.pred n i :=
  r.pred_modLanes (r.handler &&& r.live) (f := fun _ l => { l with pc := l.resumePc, hdr := l.resumeHdr, parked := false })
    (fun _ _ => rfl) n i

/-- Without tokens each returning lane stands at its resume PC. -/
theorem Regs.returnTrap_pc {r : Regs} (htok : ∀ l, l < 16 → (r.lane l).tok = none) {i : Nat} (hi : i < 16) :
    (r.returnTrap.lane i).pc = if (r.handler &&& r.live).getLsbD i then (r.lane i).resumePc else (r.lane i).pc := by
  have hnone : ∀ l, l < 16 → (r.returned.lane l).tok = none := by
    intro l hl
    rw [Regs.returned_lane r hl]
    split <;> exact htok l hl
  rw [Regs.returnTrap_eq, Regs.evalRejoin_of_no_token hnone, Regs.returned_lane r hi]
  split <;> rfl

theorem Regs.returnDue_iff (r : Regs) : r.returnDue = true ↔
    r.inTrap = true ∧ ∀ l, l < 16 → r.handler.getLsbD l = true → r.live.getLsbD l = true → r.retted.getLsbD l = true := by
  rw [Regs.returnDue, Bool.and_eq_true, beq_iff_eq]
  refine and_congr_right fun _ => ⟨fun h l hl hh hv => ?_, fun h => BitVec.eq_of_getLsbD_eq fun l hl => ?_⟩
  · have hbit := congrArg (fun m : Mask => m.getLsbD l) h
    simpa [hl, hh, hv] using hbit
  · have hbit := h l hl
    cases hh : r.handler.getLsbD l <;> cases hv : r.live.getLsbD l <;> simp_all

/-- Settles O22: the entry by what it does to the registers of the group alone, the other causes by the cases of `State.takeTrap`, and the
return by its lanes and by what the rejoins leave alone. -/
theorem trapEntryAndReturn : Obligations.TrapEntryAndReturn := by
  unfold Obligations.TrapEntryAndReturn
  refine ⟨fun s g x code info lanes tpc taddr tskid hg hin hpc => ?entry, fun s g x code info lanes tpc taddr tskid hg => ?elsewhere,
    fun r => ?back⟩
  case entry =>
    have ht := State.takeTrap_enters hg code info lanes tpc taddr tskid hin hpc
    have hframe {β : Type} (view : Regs → β) (h : Regs.LanesAside view) := Regs.enterTrap_frame x.r code info lanes tpc taddr tskid h
    have hfields := hframe (fun r => (r.inTrap, r.tpc, r.taddr, r.tcause, r.tskid, r.handler, r.live)) (fun _ _ _ _ => rfl)
    simp only [Prod.mk.injEq] at hfields
    obtain ⟨hinTrap, htpc, htaddr, htcause, htskid, hhandler, hlive⟩ := hfields
    dsimp only
    rw [ht, ← Regs.trapLanes_eq]
    refine ⟨{ x with r := x.r.enterTrap code info lanes tpc taddr tskid }, ?_, rfl, ⟨_, rfl⟩, hinTrap, htpc, htaddr,
      (congrArg BitVec.toNat htcause).trans (toNat_tcauseOf ..), htskid.trans (x.r.trapRecorded_tskid ..), hhandler, hlive,
      fun l hl hlive => x.r.enterTrap_resumePc _ _ _ _ _ _ hl hlive, fun l hl => ?_, fun n l => ?_, fun n l => ?_, fun n i j => ?_⟩
    · exact State.group?_modGroup_some hg (fun _ => rfl)
    · rw [x.r.enterTrap_pc _ _ _ _ _ _ hl, hhandler]
      rfl
    · exact hframe (fun r => r.read n l) (fun _ _ _ _ => rfl)
    · exact hframe (fun r => r.pred n l) (Regs.lanesAside_pred n l)
    · exact hframe (fun r => r.accRead n i j) (fun _ _ _ _ => rfl)
  case elsewhere =>
    refine ⟨fun hin hpc => ?_, fun hin => ?_⟩
    · simp only [State.takeTrap_unhandled hg code info lanes tpc taddr tskid hin hpc, asyncCause_iff]
      refine ⟨fun hcode => if_pos hcode, fun hcode => (if_neg hcode).trans ?_⟩
      simp only [hcode, or_false]
    · rw [State.takeTrap_inTrap hg code info lanes tpc taddr tskid hin]
      exact ⟨fun hcode => if_pos hcode, fun hcode => by subst hcode; rfl, fun h20 h38 => by rw [if_neg h20, if_neg h38]⟩
  case back =>
    have hfields := Regs.returnTrap_frame (view := fun r => (r.inTrap, r.handler, r.wait, r.tvec, r.live, r.tcause)) (fun _ _ _ _ => rfl) r
    simp only [Prod.mk.injEq] at hfields
    obtain ⟨hin, hhandler, hwait, htvec, hlive, htcause⟩ := hfields
    dsimp only
    refine ⟨hin, hhandler, hwait, fun n l => ?_, fun n l => ?_, htvec, hlive, htcause, fun htok l hl => Regs.returnTrap_pc htok hl,
      r.returnDue_iff⟩
    · exact Regs.returnTrap_frame (view := fun r => r.read n l) (fun _ _ _ _ => rfl) r
    · exact (Regs.returnTrap_frame (Regs.lanesAside_pred n l) r).trans (r.returned_pred n l)

end Sys2Proof.Machine
end

section
/-!
PROOF. The end of a clause: its `mts` writes change the system registers that they name, and what follows them (the end of a region, the
waits, the return from a handler, a rejoin deadlock) leaves registers, predicates, status registers and memory alone (R99, R209).
-/
namespace Sys2Proof.Machine

/-! ## The registers that a clause's end may only change by `mts` -/

/-- FPCR, FPSR, TVEC, RACC, the registers and the predicates. -/
def Regs.shown (r : Regs) : Word × Word × DWord × Word × (Nat → Nat → Word) × (Nat → Nat → Bool) :=
  (r.fpcr, r.fpsr, r.tvec, r.racc, r.read, r.pred)

theorem Regs.shown_modLanes (r : Regs) (m : Mask) {f : Nat → Lane → Lane} (h : ∀ i l, (f i l).preds = l.preds) :
    (r.modLanes m f).shown = r.shown := by
  have hpred : (r.modLanes m f).pred = r.pred := funext fun n => funext fun i => r.pred_modLanes m h n i
  rw [Regs.shown, Regs.shown, hpred]
  rfl

@[simp] theorem Regs.shown_removeLanes (r : Regs) (m : Mask) : (r.removeLanes m).shown = r.shown :=
  Regs.shown_modLanes { r with live := r.live &&& ~~~m } m (f := fun _ l => { l with tok := none, parked := false }) (fun _ _ => rfl)

@[simp] theorem Regs.shown_evalRejoin (r : Regs) : r.evalRejoin.shown = r.shown :=
  Regs.evalRejoin_frame (fun r m _ h => r.shown_modLanes m h) r

@[simp] theorem Regs.shown_settleXrel (r : Regs) : r.settleXrel.shown = r.shown := by
  unfold Regs.settleXrel
  split <;> rfl

@[simp] theorem Regs.shown_returnTrap (r : Regs) : r.returnTrap.shown = r.shown :=
  (Regs.shown_evalRejoin r.returned).trans (Regs.shown_modLanes r (r.handler &&& r.live)
    (f := fun _ l => { l with pc := l.resumePc, hdr := l.resumeHdr, parked := false }) (fun _ _ => rfl))

@[simp] theorem Regs.shown_enterTrap (r : Regs) (code info : Nat) (lanes : Mask) (tpc taddr : DWord) (tskid : Word) :
    (r.enterTrap code info lanes tpc taddr tskid).shown = r.shown :=
  Regs.enterTrap_frame r code info lanes tpc taddr tskid (fun r m _ h => r.shown_modLanes m h)

@[simp] theorem Regs.shown_exitRegion (r : Regs) : r.exitRegion.shown = r.shown := by
  unfold Regs.exitRegion
  split <;> rfl

@[simp] theorem Group.shown_leaveRegion (x : Group) : x.leaveRegion.r.shown = x.r.shown := by
  unfold Group.leaveRegion
  split
  · exact x.r.shown_exitRegion
  · rfl

@[simp] theorem Group.leaveRegion_gid (x : Group) : x.leaveRegion.gid = x.gid := by
  unfold Group.leaveRegion
  split <;> rfl

@[simp] theorem Group.setIssue_r (x : Group) (second : Bool) (i : Option Issue) : (x.setIssue second i).r = x.r := by
  cases second <;> rfl

@[simp] theorem Group.setIssue_gid (x : Group) (second : Bool) (i : Option Issue) : (x.setIssue second i).gid = x.gid := by
  cases second <;> rfl

/-! ## A launch that fails (R208) -/

theorem State.rootLid_of_launches {s t : State} (h : t.launches = s.launches) (n lid : Nat) : t.rootLid n lid = s.rootLid n lid := by
  induction n generalizing lid with
  | zero => rfl
  | succ n ih => simp only [State.rootLid, State.launch?, h, ih]

@[simp] theorem State.complete_launches (s : State) (l : Launch) (stat code : Nat) (tpc taddr : DWord) :
    (s.complete l stat code tpc taddr).launches = s.launches := State.post_launches _ _

@[simp] theorem State.complete_mem (s : State) (l : Launch) (stat code : Nat) (tpc taddr : DWord) :
    (s.complete l stat code tpc taddr).mem = s.mem := State.post_mem _ _

@[simp] theorem State.endCmd_mem (s : State) (id status : Nat) : (s.endCmd id status).mem = s.mem := State.post_mem _ _

/-- A tree's end drops what runs and leaves the bytes of memory. -/
@[simp] theorem State.endTree_mem (s : State) (root stat code : Nat) (tpc taddr : DWord) :
    (s.endTree root stat code tpc taddr).mem = s.mem := by
  refine (foldl_frame State.mem _ (fun s id => State.endCmd_mem s id 5) _ _).trans ?_
  split
  · split
    · rfl
    · exact State.complete_mem ..
  · rfl

/-- No cohort of the tree is left, on a core or in a frame. -/
theorem State.group?_endTree (s : State) {root : Nat} (stat code : Nat) (tpc taddr : DWord) {g : GRef} (h : s.inTree root g.lid = true) :
    (s.endTree root stat code tpc taddr).group? g = none := by
  have hdead : ∀ c : Cohort, (!s.inTree root c.ref.lid) = true → (c.ref == GRefCohort g) = false := by
    intro c hlive
    refine beq_eq_false_iff_ne.mpr fun hc => ?_
    rw [hc] at hlive
    simp only [GRefCohort, h, Bool.not_true, Bool.false_eq_true] at hlive
  have hcohort : (s.endTree root stat code tpc taddr).cohort? (GRefCohort g) = none := by
    unfold State.cohort? State.endTree
    rw [List.find?_eq_none.mpr, List.find?_eq_none.mpr]
    · rfl
    · intro f hf
      simp only [hdead f.cohort (List.mem_filter.mp hf).2, Bool.false_eq_true, not_false_eq_true]
    · intro c hc
      simp only [hdead c (List.mem_filter.mp hc).2, Bool.false_eq_true, not_false_eq_true]
  simp only [State.group?, hcohort]

/-- What a failing launch reports before its tree ends (R298). -/
def State.lateReport (s : State) (root code : Nat) (tpc taddr : DWord) : State :=
  match s.launch? root with
  | some r => if r.phase = LaunchPhase.over then s.complete r 2 code tpc taddr else s
  | none => s

theorem State.lateReport_launches (s : State) (root code : Nat) (tpc taddr : DWord) :
    (s.lateReport root code tpc taddr).launches = s.launches := by
  unfold State.lateReport
  split
  · split
    · exact State.complete_launches ..
    · rfl
  · rfl

theorem State.lateReport_mem (s : State) (root code : Nat) (tpc taddr : DWord) : (s.lateReport root code tpc taddr).mem = s.mem := by
  unfold State.lateReport
  split
  · split
    · exact State.complete_mem ..
    · rfl
  · rfl

/-- A launch fails with its tree, or it is over already. -/
theorem State.failLaunch_cases (s : State) (lid code : Nat) (tpc taddr : DWord) (tcause first : Word) :
    s.failLaunch lid code tpc taddr tcause first = s ∨ ∃ vif, s.failLaunch lid code tpc taddr tcause first =
      ((s.lateReport (s.rootLid s.launches.length lid) code tpc taddr).endTree (s.rootLid s.launches.length lid) 2 code tpc taddr).send
        (.faultReport vif tcause tpc first) := by
  unfold State.failLaunch
  split
  · exact .inl rfl
  · split
    · exact .inl rfl
    · exact .inr ⟨_, rfl⟩

theorem State.failLaunch_mem (s : State) (lid code : Nat) (tpc taddr : DWord) (tcause first : Word) :
    (s.failLaunch lid code tpc taddr tcause first).mem = s.mem := by
  obtain h | ⟨vif, h⟩ := s.failLaunch_cases lid code tpc taddr tcause first
  · rw [h]
  · rw [h, State.send_mem, State.endTree_mem, State.lateReport_mem]

/-- A group of a launch that fails is as it was, where the launch was over already, or gone. -/
theorem State.group?_failLaunch {s : State} {g : GRef} {code : Nat} {tpc taddr : DWord} {tcause first : Word} {y : Group}
    (h : (s.failLaunch g.lid code tpc taddr tcause first).group? g = some y) : s.group? g = some y := by
  obtain hs | ⟨vif, hs⟩ := s.failLaunch_cases g.lid code tpc taddr tcause first
  · rwa [hs] at h
  · have hlaunches := s.lateReport_launches (s.rootLid s.launches.length g.lid) code tpc taddr
    have htree : (s.lateReport (s.rootLid s.launches.length g.lid) code tpc taddr).inTree (s.rootLid s.launches.length g.lid) g.lid = true := by
      rw [State.inTree, hlaunches, State.rootLid_of_launches hlaunches, beq_self_eq_true]
    rw [hs] at h
    change (State.endTree _ _ _ _ _ _).group? g = some y at h
    rw [State.group?_endTree _ _ _ _ _ htree] at h
    cases h

/-! ## A rejoin deadlock (R126, R228) -/

@[simp] theorem State.group?_post (s : State) (i : Instr) (g : GRef) : (s.post i).group? g = s.group? g := by
  simp only [State.group?, State.cohort?, State.post_cohorts, State.post_frames]

/-- Trap 0x18 or nothing. -/
theorem State.checkDeadlock_cases (s : State) (g : GRef) :
    s.checkDeadlock g = s ∨ ∃ lanes pc, s.checkDeadlock g = s.takeTrap g 0x18 0 lanes pc 0 0 := by
  unfold State.checkDeadlock
  split
  · split
    · exact .inl rfl
    · split
      · exact .inr ⟨_, _, rfl⟩
      · exact .inl rfl
  · exact .inl rfl

section
variable (s : State) (g : GRef) (lanes : Mask) (tpc taddr : DWord) (tskid : Word)

/-- Trap 0x18 is no asynchronous one: the handler is entered or the launch fails. -/
theorem State.takeTrap_deadlock_cases : s.takeTrap g 0x18 0 lanes tpc taddr tskid = s ∨
    s.takeTrap g 0x18 0 lanes tpc taddr tskid =
      s.modGroup g (fun y => { y with r := y.r.enterTrap 0x18 0 lanes tpc taddr tskid }) ∨
    ∃ tcause first, s.takeTrap g 0x18 0 lanes tpc taddr tskid = s.failLaunch g.lid 0x18 tpc taddr tcause first := by
  cases hg : s.group? g with
  | none => exact .inl (by simp only [State.takeTrap, hg])
  | some x =>
    cases hin : x.r.inTrap with
    | true =>
      refine .inr (.inr ⟨tcauseOf 0x18 0 lanes, x.r.tcause, ?_⟩)
      rw [State.takeTrap_inTrap hg _ _ _ _ _ _ hin, if_neg (by decide), if_neg (by decide)]
    | false =>
      by_cases hpc : x.r.handlerPc = 0
      · refine .inr (.inr ⟨tcauseOf 0x18 0 (x.r.trapLanes 0x18 lanes), 0, ?_⟩)
        rw [State.takeTrap_unhandled hg _ _ _ _ _ _ hin hpc, if_neg (by decide)]
        rfl
      · exact .inr (.inl (State.takeTrap_enters hg 0x18 0 lanes tpc taddr tskid hin hpc))

end

/-- A change of a group that shows nothing of it. -/
theorem State.shown_of_modGroup {s : State} {g : GRef} {f : Group → Group} {y : Group} (h : (s.modGroup g f).group? g = some y)
    (hgid : ∀ x, (f x).gid = x.gid) (hshown : ∀ x, (f x).r.shown = x.r.shown) : ∃ x, s.group? g = some x ∧ y.r.shown = x.r.shown := by
  rw [State.group?_modGroup s g f hgid] at h
  obtain ⟨x, hx, rfl⟩ := Option.map_eq_some_iff.mp h
  exact ⟨x, hx, hshown x⟩

theorem State.shown_of_checkDeadlock {s : State} {g : GRef} {y : Group} (h : (s.checkDeadlock g).group? g = some y) :
    ∃ x, s.group? g = some x ∧ y.r.shown = x.r.shown := by
  obtain hs | ⟨lanes, pc, hs⟩ := s.checkDeadlock_cases g
  · exact ⟨y, hs ▸ h, rfl⟩
  rw [hs] at h
  obtain ht | ht | ⟨tcause, first, ht⟩ := s.takeTrap_deadlock_cases g lanes pc 0 0
  · exact ⟨y, ht ▸ h, rfl⟩
  · rw [ht] at h
    exact State.shown_of_modGroup h (fun _ => rfl) (fun x => x.r.shown_enterTrap ..)
  · rw [ht] at h
    exact ⟨y, State.group?_failLaunch h, rfl⟩

theorem State.checkDeadlock_mem (s : State) (g : GRef) : (s.checkDeadlock g).mem = s.mem := by
  obtain hs | ⟨lanes, pc, hs⟩ := s.checkDeadlock_cases g
  · rw [hs]
  obtain ht | ht | ⟨tcause, first, ht⟩ := s.takeTrap_deadlock_cases g lanes pc 0 0
  · rw [hs, ht]
  · rw [hs, ht, State.modGroup_mem]
  · rw [hs, ht, State.failLaunch_mem]

/-! ## After a clause -/

/-- The return from the handler is due (R207). -/
def Group.comesBack (x : Group) : Bool := x.r.returnDue && x.r.live != 0

/-- The return from the handler, if it is due; within a budget it stops a group that comes back from a 0x38. -/
def Group.back (budget : Bool) (x : Group) : Group :=
  if x.comesBack then
    { x with r := { x.r.returnTrap with held20 := none, held38 := none }
             stopped := x.stopped || (budget && x.r.returnDue && x.r.live != 0 && x.r.tcause.toNat % 256 == 0x38)
             posted := x.posted ++ x.r.heldTraps
             slots := x.slots.map (fun t => { t with held := false }) }
  else x

/-- Rejoins, the region's end with the last lane, and the return. -/
def Group.settled (budget : Bool) (x : Group) : Group :=
  Group.back budget (if x.r.evalRejoin.settleXrel.live = 0 then ({ x with r := x.r.evalRejoin.settleXrel } : Group).leaveRegion
    else { x with r := x.r.evalRejoin.settleXrel })

/-- The cohort of a group runs within a pre-emption budget. -/
def State.hasBudget (s : State) (g : GRef) : Bool := ((s.cohort? (GRefCohort g)).map (fun c => c.budget.isSome)).getD false

/-- What a settled group posts, and the trap of a group that stands still. -/
def State.afterSettling (s : State) (g : GRef) (saves : Bool) : State :=
  match s.group? g with
  | none => s
  | some x =>
    if x.r.live = 0 then s.post (.groupRetire g)
    else
      let s := if saves then s.post (.saveComplete (GRefCohort g)) else s
      let s := if !x.r.inTrap && (!x.posted.isEmpty || x.slots.any (fun t => t.refused.isSome)) then s.post (.asyncTrapDelivery g) else s
      s.checkDeadlock g

theorem State.settleGroup_eq (s : State) (g : GRef) : ∃ saves,
    s.settleGroup g = (s.modGroup g (Group.settled (s.hasBudget g))).afterSettling g saves := ⟨_, rfl⟩

theorem Group.shown_back (budget : Bool) (x : Group) : (x.back budget).r.shown = x.r.shown := by
  unfold Group.back
  split
  · exact x.r.shown_returnTrap
  · rfl

theorem Group.back_gid (budget : Bool) (x : Group) : (x.back budget).gid = x.gid := by
  unfold Group.back
  split <;> rfl

theorem Group.shown_settled (budget : Bool) (x : Group) : (x.settled budget).r.shown = x.r.shown := by
  rw [Group.settled, Group.shown_back]
  split
  · rw [Group.shown_leaveRegion, Regs.shown_settleXrel, Regs.shown_evalRejoin]
  · rw [Regs.shown_settleXrel, Regs.shown_evalRejoin]

theorem Group.settled_gid (budget : Bool) (x : Group) : (x.settled budget).gid = x.gid := by
  rw [Group.settled, Group.back_gid]
  split
  · exact Group.leaveRegion_gid _
  · rfl

/-- A settled group posts, and then it may stand still. -/
theorem State.afterSettling_cases (s : State) (g : GRef) (saves : Bool) : ∃ t : State, t.mem = s.mem ∧ t.group? g = s.group? g ∧
    (s.afterSettling g saves = t ∨ s.afterSettling g saves = t.checkDeadlock g) := by
  unfold State.afterSettling
  split
  · exact ⟨s, rfl, rfl, .inl rfl⟩
  · split
    · exact ⟨_, State.post_mem .., State.group?_post .., .inl rfl⟩
    · refine ⟨_, ?_, ?_, .inr rfl⟩
      · split <;> split <;> simp only [State.post_mem]
      · split <;> split <;> simp only [State.group?_post]

theorem State.settleGroup_mem (s : State) (g : GRef) : (s.settleGroup g).mem = s.mem := by
  obtain ⟨saves, hs⟩ := s.settleGroup_eq g
  obtain ⟨t, hmem, -, ht | ht⟩ := State.afterSettling_cases (s.modGroup g (Group.settled (s.hasBudget g))) g saves
  · rw [hs, ht, hmem, State.modGroup_mem]
  · rw [hs, ht, State.checkDeadlock_mem, hmem, State.modGroup_mem]

theorem State.shown_of_settleGroup {s : State} {g : GRef} {y : Group} (h : (s.settleGroup g).group? g = some y) :
    ∃ x, s.group? g = some x ∧ y.r.shown = x.r.shown := by
  obtain ⟨saves, hs⟩ := s.settleGroup_eq g
  obtain ⟨t, -, hgroup, ht⟩ := State.afterSettling_cases (s.modGroup g (Group.settled (s.hasBudget g))) g saves
  have hsettled : ∃ z, t.group? g = some z ∧ y.r.shown = z.r.shown := by
    obtain ht | ht := ht
    · exact ⟨y, by rw [← ht, ← hs, h], rfl⟩
    · exact State.shown_of_checkDeadlock (by rw [← ht, ← hs, h])
  obtain ⟨z, hz, hyz⟩ := hsettled
  rw [hgroup] at hz
  obtain ⟨x, hx, hzx⟩ := State.shown_of_modGroup hz (Group.settled_gid _) (Group.shown_settled _)
  exact ⟨x, hx, hyz.trans hzx⟩

/-! ## The writes of a clause (R209) -/

theorem Regs.writeSys_fpcr (r : Regs) (n : Nat) (v : DWord) :
    (r.writeSys n v).fpcr = if n = 0x002 then v.setWidth 32 &&& 0x1F7#32 else r.fpcr := by
  unfold Regs.writeSys
  split <;> simp_all [Regs.removeLanes]

theorem Regs.writeSys_fpsr (r : Regs) (n : Nat) (v : DWord) :
    (r.writeSys n v).fpsr = if n = 0x003 then r.fpsr &&& ~~~(v.setWidth 32) else r.fpsr := by
  unfold Regs.writeSys
  split <;> simp_all [Regs.removeLanes]

theorem Regs.writeSys_tvec (r : Regs) (n : Nat) (v : DWord) :
    (r.writeSys n v).tvec = if n = 0x014 then v &&& ~~~7#64 else r.tvec := by
  unfold Regs.writeSys
  split <;> simp_all [Regs.removeLanes]

theorem Regs.writeSys_racc (r : Regs) (n : Nat) (v : DWord) :
    (r.writeSys n v).racc = if n = 0x019 then v.setWidth 32 &&& 0xFF#32 else r.racc := by
  unfold Regs.writeSys
  split <;> simp_all [Regs.removeLanes]

theorem Regs.writeSys_read (r : Regs) (n : Nat) (v : DWord) : (r.writeSys n v).read = r.read := by
  unfold Regs.writeSys
  split <;> rfl

theorem Regs.writeSys_pred (r : Regs) (n : Nat) (v : DWord) : (r.writeSys n v).pred = r.pred := by
  unfold Regs.writeSys
  split
  · have hshown := r.shown_removeLanes (r.live &&& ~~~(v.setWidth 16))
    simp only [Regs.shown, Prod.mk.injEq] at hshown
    obtain ⟨-, -, -, -, -, hpred⟩ := hshown
    exact hpred
  all_goals rfl

theorem Group.shown_endEffects (x : Group) (i : Issue) :
    (x.endEffects i).r.shown = (i.sysWrites.foldl (fun (r : Regs) (p : Nat × DWord) => r.writeSys p.1 p.2) x.r).shown := by
  unfold Group.endEffects
  dsimp only
  split
  · exact Group.shown_leaveRegion { x with r := i.sysWrites.foldl (fun (r : Regs) (p : Nat × DWord) => r.writeSys p.1 p.2) x.r }
  · rfl

theorem Group.endEffects_gid (x : Group) (i : Issue) : (x.endEffects i).gid = x.gid := by
  unfold Group.endEffects
  dsimp only
  split
  · exact Group.leaveRegion_gid _
  · rfl

/-- A group whose issue set has retired its clause. -/
def Group.clauseEnded (i : Issue) (second : Bool) (x : Group) : Group :=
  ({ x.endEffects i with ck := none, replaying := false } : Group).setIssue second none

theorem Group.clauseEnded_gid (i : Issue) (second : Bool) (x : Group) : (x.clauseEnded i second).gid = x.gid :=
  (Group.setIssue_gid _ second none).trans (x.endEffects_gid i)

theorem Group.shown_clauseEnded (i : Issue) (second : Bool) (x : Group) : (x.clauseEnded i second).r.shown =
    (i.sysWrites.foldl (fun (r : Regs) (p : Nat × DWord) => r.writeSys p.1 p.2) x.r).shown := by
  rw [Group.clauseEnded, Group.setIssue_r]
  exact x.shown_endEffects i

theorem State.spinIterate_mem (s : State) (g : GRef) (hdr : DWord) : (s.spinIterate g hdr).mem = s.mem := by
  unfold State.spinIterate
  dsimp only
  split
  · split
    · exact State.post_mem ..
    · rfl
  · rfl

theorem State.shown_of_spinIterate {s : State} {g : GRef} {hdr : DWord} {y : Group} (h : (s.spinIterate g hdr).group? g = some y) :
    ∃ x, s.group? g = some x ∧ y.r.shown = x.r.shown := by
  have hmod : (s.modGroup g (fun y => { y with spin := y.spin.iterate hdr })).group? g = some y := by
    refine Eq.trans ?_ h
    unfold State.spinIterate
    dsimp only
    split
    · split
      · exact (State.group?_post ..).symm
      · rfl
    · rfl
  exact State.shown_of_modGroup hmod (fun _ => rfl) (fun _ => rfl)

section
variable {s : State} {g : GRef} {second : Bool} {x : Group} {i : Issue} (hg : s.group? g = some x) (hi : x.issue? second = some i)
include hg hi

theorem State.retireClause_eq : s.retireClause g second =
    (if i.loops then (s.modGroup g (Group.clauseEnded i second)).spinIterate g i.hdr
      else s.modGroup g (Group.clauseEnded i second)).settleGroup g := by
  simp only [State.retireClause, hg, hi]
  rfl

theorem State.retireClause_mem : (s.retireClause g second).mem = s.mem := by
  rw [State.retireClause_eq hg hi, State.settleGroup_mem]
  split
  · rw [State.spinIterate_mem, State.modGroup_mem]
  · rw [State.modGroup_mem]

/-- What is seen of a group after its clause is what its `mts` writes have made of it. -/
theorem State.shown_of_retireClause {y : Group} (hy : (s.retireClause g second).group? g = some y) :
    y.r.shown = (i.sysWrites.foldl (fun (r : Regs) (p : Nat × DWord) => r.writeSys p.1 p.2) x.r).shown := by
  rw [State.retireClause_eq hg hi] at hy
  obtain ⟨z, hz, hyz⟩ := State.shown_of_settleGroup hy
  have hended : ∃ w, (s.modGroup g (Group.clauseEnded i second)).group? g = some w ∧ z.r.shown = w.r.shown := by
    split at hz
    · exact State.shown_of_spinIterate hz
    · exact ⟨z, hz, rfl⟩
  obtain ⟨w, hw, hzw⟩ := hended
  rw [State.group?_modGroup_some hg (Group.clauseEnded_gid i second)] at hw
  obtain rfl := Option.some.inj hw
  rw [hyz, hzw, Group.shown_clauseEnded]

end

/-- Settles O24: the end of a clause shows what its one write makes of the group's registers, and each register takes its defined bits. -/
theorem systemWritesAtClauseEnd : Obligations.SystemWritesAtClauseEnd := by
  unfold Obligations.SystemWritesAtClauseEnd
  intro s g second x y i n v hg hi hwrites hy
  have hshown := State.shown_of_retireClause hg hi hy
  simp only [hwrites, List.foldl_cons, List.foldl_nil, Regs.shown, Prod.mk.injEq, Regs.writeSys_fpcr, Regs.writeSys_fpsr,
    Regs.writeSys_tvec, Regs.writeSys_racc, Regs.writeSys_read, Regs.writeSys_pred] at hshown
  obtain ⟨hfpcr, hfpsr, htvec, hracc, hread, hpred⟩ := hshown
  exact ⟨hfpcr, hfpsr, htvec, hracc, fun r l => by rw [hread], fun p l => by rw [hpred], State.retireClause_mem hg hi⟩

end Sys2Proof.Machine
end

section
/-!
PROOF. The encoding check of `trap`: VAR must be zero too (R91).
-/
namespace Sys2Proof.Machine

/-- `trap` with VAR 1 and every other field zero. -/
def trapWithVar : FmtK := { guard := ⟨false, 7⟩, var := 1, dst := 0, disp := 0, sa := 0, ea := false, fx := 0 }

/-- VAR stands in no form of `trap`, so a word that sets it fails with the code of VAR (Table 5.5). -/
theorem encInfo_trapWithVar : (Instr.trap trapWithVar).encInfo = some 0x02 := by decide

/-- Refutes O23, in its second part: a word `trap` whose DST, SA, policy bit, FX and DISP are as listed, but whose VAR is 1, fails its
encoding check (R91), and the statement says that it passes. -/
theorem not_trapWord : ¬ Obligations.TrapWord := by
  unfold Obligations.TrapWord
  rintro ⟨-, hfields, -⟩
  have hlisted : trapWithVar.dst = 0 ∧ trapWithVar.sa = 0 ∧ trapWithVar.ea = false ∧ trapWithVar.fx = 0 ∧
      trapWithVar.disp.toNat < 256 := by decide
  have hpasses := (hfields trapWithVar).mpr hlisted
  rw [encInfo_trapWithVar] at hpasses
  cases hpasses

end Sys2Proof.Machine
end

section
/-!
PROOF. Engine commands, barriers, sleeps, system registers, the extended set and the injector's write: each word is by definition a run of
its effect once its checks pass (R194 to R196, R200 to R204, R209 to R213).
-/
namespace Sys2Proof.Machine

/-! ## Engine commands -/

/-- A word with a register destination whose effect leaves its partition calm. -/
theorem State.Does.of_calm {s t : State} {w : WordSpec} {x : Ctx} {lanes : Mask} {body : Ctx → Mask → State → WordRes}
    (hw : w.quiet = false) (hexec : exec w.i s = .next (s.runWord w body)) (hcalm : t.calm x.l.part)
    (hbody : body x lanes s = .done t []) : s.Does w x lanes t :=
  fun g => hexec.trans (congrArg Host.Outcome.next (State.runWord_done hw g hbody hcalm))

/-- Settles O14: `push` and `tstream` write no register and send once their own checks pass; `fetcht` only empties its destination. -/
theorem commandWords : Obligations.CommandWords := by
  unfold Obligations.CommandWords
  intro s x lanes p o
  dsimp only
  refine ⟨fun htrap => ?push, fun hshape hrecord hready hclean => ?tstream, fun hcalm => ?fetcht⟩
  case push =>
    refine State.Does.of_no_register rfl rfl rfl ?_
    simp only [htrap]
  case tstream =>
    refine State.Does.of_no_register rfl rfl rfl ?_
    simp only [hshape, hready, hclean, hrecord, Option.isSome_none, Bool.false_eq_true, if_false]
  case fetcht => exact State.Does.of_calm rfl rfl hcalm rfl

/-! ## System words -/

theorem State.sysValue_cyc (s : State) (x : Ctx) : s.sysValue x 0x030 = s.cycOf x.c.core := rfl

/-- A word of any partition that writes no register and whose sources the injector does not strike (R392). -/
theorem State.exec_of_unstruck {s t : State} {w : WordSpec} {x : Ctx} {lanes : Mask} {body : Ctx → Mask → State → WordRes}
    (hw : w.quiet = false) (hexec : exec w.i s = .next (s.runWord w body)) (hds : w.dsts.any DstOp.isReg = false)
    (hbody : body x lanes s = .done t []) (hctx : s.ctx? = some x) (hmoves : x.waits = false)
    (hstore : s.injectStore x (x.active w.guard) w.srcs = s) (hcheck : x.check w = .go lanes []) :
    exec w.i s = .next (t.advance x lanes) := by
  have hact := Ctx.check_lanes hw hcheck
  have hne : lanes ≠ 0 := by
    rintro rfl
    rw [Ctx.check_inactive hact] at hcheck
    cases hcheck
  rw [hact] at hstore
  rw [hexec]
  simp only [State.runWord, hctx, hmoves, hstore, hcheck, if_neg hne, hbody, State.injectResult_of_no_register t x lanes hds, hact,
    Bool.false_eq_true, if_false, List.append_nil, List.isEmpty_nil, if_true]

/-- Settles O15: each word by its effect; `mfs` and `getc` deliver what they read, and `inject` goes ahead in a test partition too. -/
theorem systemWords : Obligations.SystemWords := by
  unfold Obligations.SystemWords
  refine ⟨fun s x lanes p o => ?_, fun s x lanes o p => ?_⟩
  · dsimp only
    refine ⟨?bar, ?barb, ?yield, ⟨fun hn => ?sleepNot, fun hn => ?sleep⟩, fun hk => ?mfs, fun hk => ?mfsCyc, ?mts, fun hk => ?getc,
      fun hx => ?xacq, fun hx hholds hbusy => ?xrel⟩
    case bar | barb | yield | mts => exact State.Does.of_no_register rfl rfl rfl rfl
    case sleepNot =>
      refine State.Does.of_no_register rfl rfl rfl ?_
      simp only [hn, if_true]
    case sleep =>
      refine State.Does.of_no_register rfl rfl rfl ?_
      simp only [if_neg hn]
    case mfs =>
      refine State.Does.of_same_parts rfl rfl rfl fun hact hne => ?_
      simp only [if_neg hk]
      exact congrArg (fun act => WordRes.done (s.modGroup x.ref.g (fun y => (maskLanes lanes).foldl (fun y i =>
        y.put act o.dst.toNat i _) y)) []) hact
    case mfsCyc =>
      refine State.Does.of_same_parts rfl rfl (State.awaits_parts ..) fun hact hne => ?_
      simp only [hk, if_true, State.sysValue_cyc]
      exact congrArg (fun t => WordRes.done t []) (State.fillLater_eq_awaits _ x _ _ _ hact hne)
    case getc =>
      refine State.Does.of_same_parts rfl rfl (State.awaits_parts ..) fun hact hne => ?_
      simp only [if_neg hk]
      exact congrArg (fun t => WordRes.done t []) (State.fillLater_eq_awaits s.tick x _ _ _ hact hne)
    case xacq =>
      refine State.Does.of_no_register rfl rfl rfl ?_
      simp only [if_neg hx]
    case xrel =>
      refine State.Does.of_no_register rfl rfl rfl ?_
      simp only [hholds, hbusy, Bool.not_true, Bool.or_self, Bool.false_eq_true, if_false, decide_eq_false hx]
  · intro n w hctx hmoves _ _ hstore hcheck
    exact State.exec_of_unstruck (w := w) rfl rfl rfl rfl hctx hmoves hstore hcheck

end Sys2Proof.Machine
end

section
/-!
PROOF. Commands: what an engine starts next, the validation that ends or starts a command, and the completion of one that is done (R195,
R197, R198, R348).
-/
namespace Sys2Proof.Machine

/-! ## What an engine starts next -/

section
variable {s : State} {e : EngineId} {x : Engine} (he : s.engine? e = some x)
include he

/-- Page work of class G comes first. -/
theorem exec_engineCommandStart_pageG {io : DriveIo} (hpage : x.nextPage false = some io) :
    exec (.engineCommandStart e) s = .next (s.submitPage e io) := by
  change execEngineCommandStart e s = _
  simp only [execEngineCommandStart, he, hpage]

/-- Page work of class H comes after the explicit commands. -/
theorem exec_engineCommandStart_pageH {io : DriveIo} (hnone : x.nextPage false = none) (hcmd : s.nextCmd e x = none)
    (hpage : x.nextPage true = some io) : exec (.engineCommandStart e) s = .next (s.submitPage e io) := by
  change execEngineCommandStart e s = _
  simp only [execEngineCommandStart, he, hnone, hcmd, hpage]

theorem exec_engineCommandStart_cmd {k : Cmd} (hnone : x.nextPage false = none) (hcmd : s.nextCmd e x = some k) :
    exec (.engineCommandStart e) s = .next ((s.startCmd k).post (.engineCommandStart e)) := by
  change execEngineCommandStart e s = _
  simp only [execEngineCommandStart, he, hnone, hcmd]

end

theorem State.nextCmd_of_not_storage (s : State) {e : EngineId} (x : Engine) (h : ∀ n, e ≠ .storage n) :
    s.nextCmd e x = (s.startable x.queueG).or (s.startable x.queueH) := by
  cases e with
  | storage n => exact absurd rfl (h n)
  | copy | tstream | collective | launchQueue => rfl

/-! ## A command starts -/

/-- A command has passed its validation: it is started, a collective one with its state (R399, R405), and a storage one goes to its drive
(R348). -/
def State.begun (s : State) (k : Cmd) : State :=
  (s.modCmd k.id (fun c => { c with stage := .started, ran := true, coll := (s.cmdGroup k).map (fun m => match k.coll with
    | some c => Coll.start m c.pushed c.reweigh
    | none => Coll.start m (membersOf m.members).length false) })).toDrive k

/-- The work of a command is posted, if the command is still there. -/
def State.postStarted (s : State) (id : Nat) : State :=
  match s.cmd? id with
  | some k => s.postWork k
  | none => s

theorem State.postStarted_some {s : State} {id : Nat} {k : Cmd} (hk : s.cmd? id = some k) : s.postStarted id = s.postWork k := by
  simp only [State.postStarted, hk]

section
variable {s : State} {k : Cmd} {l : Launch} (hl : (s.unqueue k).launch? k.owner.lid = some l)
include hl

theorem State.startCmd_refused {status : Nat} (h : (s.unqueue k).validate l k = some status) :
    s.startCmd k = (s.unqueue k).endCmd k.id status := by
  simp only [State.startCmd, hl, h]

theorem State.startCmd_passed (h : (s.unqueue k).validate l k = none) : s.startCmd k = ((s.unqueue k).begun k).postStarted k.id := by
  simp only [State.startCmd, hl, h]
  rfl

end

/-! ## A command completes -/

theorem State.completeCmd_done {s t : State} {k : Cmd} {l : Launch} {status : Word} (hl : s.launch? k.owner.lid = some l)
    (hfree : s.driveBusy k = false)
    (hrecord : (((((if k.ran && unfinished status.toNat && !k.lost then (s.driveFinish l k).scramble l k else s.driveFinish l k).freeLocks
      k.id).modCmd k.id (fun k => { k with ran := false })).freeChild k).writeRecord l k status) = .ok t) :
    s.completeCmd k status = ((t.sendAborts k status.toNat).tellGroups k).dropCmd k := by
  simp only [State.completeCmd, hl, hfree, hrecord, Bool.false_eq_true, if_false]

section
variable {s t : State} {k : Cmd} {status : Word} (hk : s.cmd? k.id = some k) (hdone : k.stage = .done status) (hfree : k.waiting = false)
  (ht : s.completeCmd k status = t)
include hk hdone hfree ht

theorem exec_commandCompletion_alone (hgroup : t.cmdGroup k = none) : exec (.commandCompletion k.id) s = .next t := by
  change execCommandCompletion k.id s = _
  simp only [execCommandCompletion, hk, hdone, hfree, ht, hgroup, Bool.false_eq_true, if_false]

/-- The end of a group's command lets the member go on with a join that it was asked for. -/
theorem exec_commandCompletion_grouped {m : MGroup} (hgroup : t.cmdGroup k = some m) :
    exec (.commandCompletion k.id) s = .next (t.resumeJoin m.no) := by
  change execCommandCompletion k.id s = _
  simp only [execCommandCompletion, hk, hdone, hfree, ht, hgroup, Bool.false_eq_true, if_false]

end

/-- Settles O45: the choice of an engine by its cases, a start by the verdict of the validation, and a completion by the steps of R197. -/
theorem commandEvents : Obligations.CommandEvents := by
  unfold Obligations.CommandEvents
  refine ⟨fun s e x k l he => ?start, fun s k l status t hk hdone hfree hl hdrive => ?completion⟩
  case start =>
    refine ⟨fun io => exec_engineCommandStart_pageG he, fun io => exec_engineCommandStart_pageH he,
      fun h => s.nextCmd_of_not_storage x h, fun hnone hcmd _ => ?_⟩
    have hstart := exec_engineCommandStart_cmd he hnone hcmd
    intro q hl
    refine ⟨fun status h => ?refused, fun h => ?started⟩
    case refused => rw [hstart, State.startCmd_refused hl h]
    case started =>
      intro coll t k' hk'
      have hbegun : t = q.begun k := rfl
      rw [hstart, State.startCmd_passed hl h, ← hbegun, State.postStarted_some hk']
  case completion =>
    intro s0 s1 hrecord u
    have hu : s.completeCmd k status = u := State.completeCmd_done hl hdrive hrecord
    exact ⟨exec_commandCompletion_alone hk hdone hfree hu, fun m => exec_commandCompletion_grouped hk hdone hfree hu⟩

end Sys2Proof.Machine
end

section
/-!
PROOF. What the engines do: the work of a started command that can access everything it touches, and the five kinds of it (R201, R349,
Tables 11.4 to 11.6).
-/
namespace Sys2Proof.Machine

/-- A command that can work does its work, and what waited for it goes on. -/
theorem State.Works.engineDo {s t : State} {k : Cmd} {l : Launch} {ts : Launch → Cmd → List Touch} (h : s.Works k l (ts l k) t)
    (f : Launch → Cmd → State → State) : s.engineDo k.id ts f = (f l k t).wake := by
  have hruns : ¬ (k.stage ≠ .started ∨ k.waiting = true) := by simp [h.started, h.free]
  simp only [State.engineDo, h.cmd, if_neg hruns, h.launch, h.pages, h.sectors, h.tokens, h.logged]

/-! ## Storage commands (R349) -/

section
variable {t : State} {l : Launch} {k : Cmd} (hfree : t.driveBusy k = false)
include hfree

theorem State.storageWork_failed : t.storageWork l k false = (t.leaveDrive k.eng (.cmd k.id)).endCmd k.id 3 := by
  simp only [State.storageWork, hfree, Bool.not_false, Bool.false_eq_true, if_false, if_true]

variable {e nsid lba n : Nat} (hblocks : k.blocks = some (e, nsid, lba, n))
include hblocks

theorem State.storageWork_read (hop : k.op = 1) : t.storageWork l k true =
    ((t.engineWrite k ((l.handle (cmdField k.words 0x0C 1)).base + cmdField k.words 0x10 4) (l.handle (cmdField k.words 0x0C 1)).policy
      ((t.readBlocks e nsid lba n k.kdom).map (fun b => (b, none)))).leaveDrive k.eng (.cmd k.id)).endCmd k.id 0 := by
  simp only [State.storageWork, hfree, hblocks, hop, Bool.not_true, Bool.false_eq_true, if_false, if_true]

theorem State.storageWork_write (hop : k.op = 2) {r : State × List PByte}
    (hr : r = t.engineRead k ((l.handle (cmdField k.words 0x0C 1)).base + cmdField k.words 0x10 4) (4096 * n)
      (l.handle (cmdField k.words 0x0C 1)).policy) : t.storageWork l k true =
    ((r.1.writeBlocks e nsid lba n k.kdom (r.2.map (fun b => b.1))).leaveDrive k.eng (.cmd k.id)).endCmd k.id 0 := by
  subst hr
  have hread : ¬ k.op = 1 := by omega
  simp only [State.storageWork, hfree, hblocks, if_neg hread, Bool.not_true, Bool.false_eq_true, if_false]

end

/-! ## Launch commands (R298) -/

theorem exec_launchCommand_runs {s t : State} {k : Cmd} {l : Launch} (h : s.Works k l (s.childTouches l k) t)
    (hfirst : (k.classH && s.childless.any (fun j => !j.classH)) = false) :
    exec (.launchCommand k.id) s = .next (((t.startChild l k).wake.childless.filter (fun j => j.id != k.id && !j.waiting)).foldl
      (fun s j => s.postWork j) (t.startChild l k).wake) := by
  change execLaunchCommand k.id s = _
  simp only [execLaunchCommand, h.cmd, Option.map_some, Option.getD_some, hfirst, Bool.false_eq_true, if_false, h.engineDo]

/-- Settles O46: every command works by `State.Works.engineDo`, with the work of its own kind. -/
theorem engineWork : Obligations.EngineWork := by
  unfold Obligations.EngineWork
  intro s k l t f
  refine ⟨fun h => ⟨?copy, ?fill⟩, fun h => ⟨?load, ?store⟩, fun h e nsid lba n hblocks hfree => ?storage, fun h ok => ?flush,
    fun h => ?child⟩
  case copy | fill | load | store | flush => exact congrArg Host.Outcome.next (h.engineDo _)
  case storage =>
    have hwork (ok : Bool) : s.engineDo k.id s.storageTouches (fun l k s => s.storageWork l k ok) = (t.storageWork l k ok).wake :=
      h.engineDo _
    intro g va ended
    refine ⟨fun hop => congrArg Host.Outcome.next ((hwork true).trans ?_), fun hop => congrArg Host.Outcome.next ((hwork true).trans ?_),
      congrArg Host.Outcome.next ((hwork false).trans ?_), congrArg Host.Outcome.next ((hwork false).trans ?_)⟩
    · rw [State.storageWork_read hfree hblocks hop]
    · rw [State.storageWork_write hfree hblocks hop rfl]
    · rw [State.storageWork_failed hfree]
    · rw [State.storageWork_failed hfree]
  case child => exact exec_launchCommand_runs h

end Sys2Proof.Machine
end

section
/-!
PROOF. The dispensers: grants from the first range, steals from the next victim, and what an answer brings about (R203, R220, R221).
-/
namespace Sys2Proof.Machine

/-! ## Grants (R203) -/

theorem State.serveTiles_succ {s : State} {cluster lid : Nat} {k : Cluster} {w : TileReq} {r : TileRange} (n : Nat)
    (hk : s.cluster? cluster = some k) (hw : k.waiting.find? (fun w => w.g.lid == lid) = some w)
    (hr : k.ranges.find? (fun t => t.lid == lid) = some r) :
    s.serveTiles cluster lid (n + 1) =
      ((s.modCluster cluster (fun c => { c with
        waiting := removeFirst w c.waiting,
        ranges := replaceRange r (if r.lo + min (max w.n 1) (r.hi - r.lo) < r.hi
          then [{ r with lo := r.lo + min (max w.n 1) (r.hi - r.lo) }] else []) c.ranges })).answerTiles
          w r.lo (min (max w.n 1) (r.hi - r.lo))).serveTiles cluster lid n := by
  rw [State.serveTiles]
  simp only [hk, hw, hr]

/-! ## Requests that a dispenser cannot serve (R220) -/

/-- A dispenser asks every other one of the package. -/
theorem length_victims (cluster : Nat) : (victims cluster).length = 31 := by
  simp [victims]

section
variable {s st : State} {cluster lid : Nat} {k : Cluster}
  (hst : st = s.serveTiles cluster lid (((s.cluster? cluster).map (fun c => c.waiting.length)).getD 0)) (hk : st.cluster? cluster = some k)
include hst hk

theorem exec_dispenserRequest_steals (hwaits : k.waits lid = true) (hnone : k.steal? lid = none) :
    exec (.dispenserRequest cluster lid) s =
      .next ((st.modCluster cluster (fun c => { c with steals := c.steals ++ [Steal.mk lid 0 .asking] })).post
        (.stealRequest cluster lid)) := by
  subst hst
  change Host.Outcome.next (s.dispense cluster lid) = _
  simp only [State.dispense, hk, hwaits, hnone, Bool.not_true, Option.isSome_none, Bool.or_self, Bool.false_eq_true, if_false]

theorem exec_dispenserRequest_served (hwaits : k.waits lid = false) : exec (.dispenserRequest cluster lid) s = .next st := by
  subst hst
  change Host.Outcome.next (s.dispense cluster lid) = _
  simp only [State.dispense, hk, hwaits, Bool.not_false, Bool.true_or, if_true]

end

/-! ## The victim (R221) -/

/-- The upper half of a range is shipped, the lower half is kept. -/
theorem splitLow_half {lid : Nat} {r : TileRange} (hlid : r.lid = lid) (hsize : r.lo + 1 < r.hi) :
    splitLow lid ((r.hi - r.lo) / 2) [r] =
      ([{ r with hi := r.lo + (r.hi - r.lo) / 2 }], [{ r with lo := r.lo + (r.hi - r.lo) / 2 }]) := by
  have hsome : (r.hi - r.lo) / 2 ≠ 0 := by omega
  have hless : ¬ r.hi - r.lo ≤ (r.hi - r.lo) / 2 := by omega
  simp only [splitLow, hlid, ne_eq, not_true_eq_false, if_false, if_neg hsome, if_neg hless]

theorem Cluster.tiles_one {v : Cluster} {r : TileRange} (hr : v.ranges = [r]) : v.tiles r.lid = r.hi - r.lo := by
  simp only [Cluster.tiles, hr, List.foldl_cons, List.foldl_nil, if_true, Nat.zero_add]

section
variable {s : State} {cluster lid : Nat} {k : Cluster} {t : Steal} (hk : s.cluster? cluster = some k) (ht : k.steal? lid = some t)
include hk ht

section
variable {v : Cluster} (hv : s.cluster? ((victims cluster).getD t.victim 0) = some v)
  (hhere : s.clusterAway ((victims cluster).getD t.victim 0) = false)
include hv hhere

theorem exec_stealRequest_wait (hsteals : v.steals ≠ []) (hring : s.waitRing cluster 32 ((victims cluster).getD t.victim 0) = false) :
    exec (.stealRequest cluster lid) s =
      .next ((s.modSteal cluster lid (fun t => { t with st := .wait })).post (.stealAnswer cluster lid)) := by
  have hsome : v.steals.isEmpty = false := List.isEmpty_eq_false_iff.mpr hsteals
  change execStealRequest cluster lid s = _
  simp only [execStealRequest, hk, Option.bind_some, ht, hv, hhere, hsome, hring, Bool.not_false, Bool.and_self, Bool.false_eq_true,
    if_false, if_true]

variable (hsteals : v.steals = [])
include hsteals

theorem exec_stealRequest_empty (htiles : v.tiles lid = 0) :
    exec (.stealRequest cluster lid) s =
      .next ((s.modSteal cluster lid (fun t => { t with st := .empty })).post (.stealAnswer cluster lid)) := by
  change execStealRequest cluster lid s = _
  simp only [execStealRequest, hk, Option.bind_some, ht, hv, hhere, hsteals, List.isEmpty_nil, Bool.not_true, Bool.false_and, htiles,
    Bool.false_eq_true, if_false, if_true]

theorem exec_stealRequest_shipped {r : TileRange} (hr : v.ranges = [r]) (hlid : r.lid = lid) (hsize : r.lo + 1 < r.hi) :
    exec (.stealRequest cluster lid) s =
      .next (((s.modCluster ((victims cluster).getD t.victim 0)
          (fun c => { c with ranges := [{ r with hi := r.lo + (r.hi - r.lo) / 2 }] })).modSteal cluster lid
            (fun t => { t with st := .shipped [(r.lo + (r.hi - r.lo) / 2, r.hi)] })).post (.stealAnswer cluster lid)) := by
  have htiles : v.tiles lid = r.hi - r.lo := hlid ▸ Cluster.tiles_one hr
  have hsome : ¬ r.hi - r.lo = 0 := by omega
  change execStealRequest cluster lid s = _
  simp only [execStealRequest, hk, Option.bind_some, ht, hv, hhere, hsteals, List.isEmpty_nil, Bool.not_true, Bool.false_and, htiles,
    if_neg hsome, hr, splitLow_half hlid hsize, hlid, List.filter_cons, List.filter_nil, beq_self_eq_true, bne_self_eq_false,
    List.append_nil, List.map_cons, List.map_nil, Bool.false_eq_true, if_false, if_true]

end

/-! ## The answer (R221) -/

theorem exec_stealAnswer_wait (hwait : t.st = .wait) : exec (.stealAnswer cluster lid) s =
    .next ((s.modSteal cluster lid (fun t => { t with st := .asking })).post (.stealRequest cluster lid)) := by
  change execStealAnswer cluster lid s = _
  simp only [execStealAnswer, hk, Option.bind_some, ht, hwait]

theorem exec_stealAnswer_shipped {rs : List (Nat × Nat)} (hshipped : t.st = .shipped rs) : exec (.stealAnswer cluster lid) s =
    .next (((((s.dropSteal cluster lid).addRanges cluster lid rs).dispense cluster lid).wakeDispensers lid).rehome cluster lid) := by
  change execStealAnswer cluster lid s = _
  simp only [execStealAnswer, hk, Option.bind_some, ht, hshipped]

theorem exec_stealAnswer_empty (hempty : t.st = .empty) : exec (.stealAnswer cluster lid) s =
    .next (if t.victim + 1 < 31 then
        (s.modSteal cluster lid (fun t => { t with st := .asking, victim := t.victim + 1 })).post (.stealRequest cluster lid)
      else s.exhausted cluster lid) := by
  change execStealAnswer cluster lid s = _
  simp only [execStealAnswer, hk, Option.bind_some, ht, hempty, length_victims]

end

/-- Settles O51: each event by the lemma of its case. -/
theorem dispenserEvents : Obligations.DispenserEvents := by
  unfold Obligations.DispenserEvents
  refine ⟨fun s cluster lid k w r n hk hw hr => State.serveTiles_succ n hk hw hr, fun s cluster lid k v t st =>
    ⟨fun hst hk => ⟨exec_dispenserRequest_steals hst hk, exec_dispenserRequest_served hst hk⟩, fun hk ht => ⟨?request, ?answer⟩⟩⟩
  case request =>
    exact fun hv hhere => ⟨exec_stealRequest_wait hk ht hv hhere, exec_stealRequest_empty hk ht hv hhere,
      fun hsteals r hr hlid hsize => exec_stealRequest_shipped hk ht hv hhere hsteals hr hlid hsize⟩
  case answer =>
    refine ⟨exec_stealAnswer_wait hk ht, fun rs => exec_stealAnswer_shipped hk ht, fun hempty hmore => ?_, fun hempty hlast => ?_⟩
    · rw [exec_stealAnswer_empty hk ht hempty, if_pos hmore]
    · rw [exec_stealAnswer_empty hk ht hempty, if_neg (Nat.not_lt.mpr hlast)]

end Sys2Proof.Machine
end

section
/-!
PROOF. Regions: what the issue of an RE clause sets, what the end of a region leaves to read in the tiles, and that the end of a clause ends
a region under RX or without live lanes alone (R164, R227, R229).
-/
namespace Sys2Proof.Machine

/-! ## Sparse maps -/

/-- A filter on the keys drops the entries that it refuses. -/
theorem SMap.get_filter_key {α : Type} (m : SMap α) (d : α) (p : Nat → Bool) (j : Nat) :
    SMap.get (m.filter (fun e => p e.1)) d j = if p j then SMap.get m d j else d := by
  induction m with
  | nil => simp only [List.filter_nil, SMap.get, ite_self]
  | cons e rest ih =>
    obtain ⟨k, v⟩ := e
    rw [List.filter_cons, SMap.get_cons]
    by_cases hj : j = k
    · subst hj
      split
      · rw [SMap.get_cons, if_pos rfl, if_pos rfl]
      · rename_i hp
        rw [ih, if_neg hp]
    · rw [if_neg hj]
      split
      · rw [SMap.get_cons, if_neg hj, ih]
      · exact ih

/-- Entries written over a map, the first of a key last, hide the map's. -/
theorem SMap.get_foldr_set {α : Type} [DecidableEq α] (m base : SMap α) (d : α) (j : Nat) :
    SMap.get (m.foldr (fun e b => SMap.set b d e.1 e.2) base) d j = SMap.get m (SMap.get base d j) j := by
  induction m with
  | nil => rfl
  | cons e rest ih => rw [List.foldr_cons, SMap.get_set, SMap.get_cons, ih]

/-! ## The end of a region (R164) -/

theorem accKey_div {n i j : Nat} (hi : i < 16) (hj : j < 64) : accKey n i j / 1024 = n := by
  unfold accKey
  omega

/-- After the commit the primary of a masked tile is what its shadow was, and the others are as they were. -/
theorem Regs.commitShadows_get (r : Regs) (k : Nat) : SMap.get r.commitShadows.acc 0 k =
    if r.regMask.getLsbD (k / 1024) then SMap.get r.shadow 0 k else SMap.get r.acc 0 k := by
  have hcommit : SMap.get r.commitShadows.acc 0 k = SMap.get (r.shadow.filter (fun e => r.regMask.getLsbD (e.1 / 1024)))
      (SMap.get (r.acc.filter (fun e => !r.regMask.getLsbD (e.1 / 1024))) 0 k) k := SMap.get_foldr_set ..
  have hkept := SMap.get_filter_key r.acc 0 (fun a => !r.regMask.getLsbD (a / 1024)) k
  rw [hcommit, hkept, SMap.get_filter_key r.shadow _ (fun a => r.regMask.getLsbD (a / 1024)) k]
  cases r.regMask.getLsbD (k / 1024) <;> rfl

theorem Regs.exitRegion_of_open {r : Regs} (h : r.inReg = true) :
    r.exitRegion = { r.commitShadows with inReg := false, written := [] } := if_pos h

theorem Regs.exitRegion_of_closed {r : Regs} (h : r.inReg = false) : r.exitRegion = r := by
  rw [Regs.exitRegion, h]
  rfl

theorem Regs.exitRegion_inReg (r : Regs) : r.exitRegion.inReg = false := by
  cases h : r.inReg with
  | true => rw [Regs.exitRegion_of_open h]
  | false => rw [Regs.exitRegion_of_closed h, h]

theorem Regs.exitRegion_shadow {r : Regs} (h : r.inReg = true) : r.exitRegion.shadow = [] := by
  rw [Regs.exitRegion_of_open h]
  rfl

theorem Regs.exitRegion_live (r : Regs) : r.exitRegion.live = r.live := by
  unfold Regs.exitRegion
  split <;> rfl

theorem Regs.exitRegion_racc (r : Regs) : r.exitRegion.racc = r.racc := by
  unfold Regs.exitRegion
  split <;> rfl

theorem Regs.exitRegion_exitRegion (r : Regs) : r.exitRegion.exitRegion = r.exitRegion :=
  Regs.exitRegion_of_closed r.exitRegion_inReg

/-- The tiles read as the region left them. -/
theorem Regs.exitRegion_accRead (r : Regs) {n i j : Nat} (hi : i < 16) (hj : j < 64) :
    r.exitRegion.accRead n i j = r.accRead n i j := by
  cases h : r.inReg with
  | false => rw [Regs.exitRegion_of_closed h]
  | true =>
    have hprimary : r.exitRegion.accRead n i j = SMap.get r.commitShadows.acc 0 (accKey n i j) := by
      rw [Regs.exitRegion_of_open h]
      rfl
    rw [hprimary, Regs.commitShadows_get, accKey_div hi hj, Regs.accRead, Regs.shadowed, h, Bool.true_and]

theorem Group.leaveRegion_r (x : Group) : x.leaveRegion.r = x.r.exitRegion := by
  unfold Group.leaveRegion Regs.exitRegion
  split <;> rfl

/-! ## The issue of an RE clause -/

theorem Group.enterRegion_r (x : Group) (hdr : DWord) : (x.enterRegion hdr).r = x.r.exitRegion.enterRegion hdr := by
  rw [← Group.leaveRegion_r]
  rfl

theorem Group.spinSee_r (x : Group) (hdr : DWord) : (x.spinSee hdr).r = x.r := by
  unfold Group.spinSee
  split <;> rfl

/-- What the issue of an RE clause does to the registers: the region's entry, and then the lanes' PCs. -/
theorem Group.begin_r_of_re (x : Group) (second checked : Bool) {t : LaneSet} {k : Clause} (htop : t.pc = t.hdr)
    (hre : hdrRE k.hdr = true) : (x.begin second checked t k).r =
      (x.r.exitRegion.enterRegion t.hdr).modLanes t.lanes (fun _ l => { l with pc := t.hdr + 8, parked := false }) := by
  have hnone : x.late.filter (fun _ => false) = [] := List.filter_eq_nil_iff.mpr fun _ _ => Bool.false_ne_true
  have hheader (y : Group) : ((y.atHeader t.hdr k.hdr).spinSee t.hdr).r = y.r.exitRegion.enterRegion t.hdr := by
    rw [Group.spinSee_r, Group.atHeader, if_pos hre, Group.enterRegion_r]
  cases checked <;>
    simp only [Group.begin, Group.setIssue_r, htop, beq_self_eq_true, Bool.not_true, Bool.false_and, hnone, List.flatMap_nil,
      Regs.callBack, List.foldr_nil, if_true, if_false, Bool.false_eq_true, Group.snapshot, hheader]

/-- R229, at entry: a region that is open ends first, and leaves RACC and the live lanes alone. -/
theorem Group.begin_region (x : Group) (second checked : Bool) {t : LaneSet} {k : Clause} (htop : t.pc = t.hdr)
    (hre : hdrRE k.hdr = true) : (x.begin second checked t k).r.rpc = t.hdr ∧
      (x.begin second checked t k).r.regMask = x.r.racc.setWidth 8 ∧ (x.begin second checked t k).r.entryMask = x.r.live ∧
      (x.begin second checked t k).r.inReg = true := by
  rw [x.begin_r_of_re second checked htop hre]
  have hclosed : x.r.exitRegion.enterRegion t.hdr = Regs.takeShadows { x.r.exitRegion with
      rpc := t.hdr, regMask := x.r.exitRegion.racc.setWidth 8, entryMask := x.r.exitRegion.live, inReg := true, written := [] } := by
    rw [Regs.enterRegion, x.r.exitRegion_inReg]
    rfl
  rw [hclosed, Regs.exitRegion_racc, Regs.exitRegion_live]
  exact ⟨rfl, rfl, rfl, rfl⟩

/-! ## What the end of a clause leaves of a region -/

/-- The live lanes, INREG, the region's mask, and the tiles with their shadows. -/
def Regs.region (r : Regs) : Mask × Bool × BitVec 8 × SMap Word × SMap Word := (r.live, r.inReg, r.regMask, r.acc, r.shadow)

theorem Regs.region_lanesAside : Regs.LanesAside Regs.region := fun _ _ _ _ => rfl

/-- The registers, with their region ended if `ends`. -/
def Regs.endRegionIf (r : Regs) (ends : Bool) : Regs := if ends then r.exitRegion else r

theorem Regs.fields_of_region {a b : Regs} (h : a.region = b.region) :
    a.live = b.live ∧ a.inReg = b.inReg ∧ a.shadow = b.shadow ∧ a.accRead = b.accRead := by
  simp only [Regs.region, Prod.mk.injEq] at h
  obtain ⟨hlive, hin, hmask, hacc, hshadow⟩ := h
  refine ⟨hlive, hin, hshadow, funext fun n => funext fun i => funext fun j => ?_⟩
  rw [Regs.accRead, Regs.accRead, Regs.shadowed, Regs.shadowed, hin, hmask, hacc, hshadow]

/-- How a region ends depends on the region alone. -/
theorem Regs.region_exitRegion {a b : Regs} (h : a.region = b.region) : a.exitRegion.region = b.exitRegion.region := by
  have hall := h
  simp only [Regs.region, Prod.mk.injEq] at hall
  obtain ⟨hlive, hin, hmask, hacc, hshadow⟩ := hall
  cases hb : b.inReg with
  | true =>
    rw [Regs.exitRegion_of_open hb, Regs.exitRegion_of_open (hin.trans hb)]
    simp only [Regs.region, Regs.commitShadows, hlive, hmask, hacc, hshadow]
  | false => rw [Regs.exitRegion_of_closed hb, Regs.exitRegion_of_closed (hin.trans hb), h]

theorem Regs.region_endRegionIf {a b : Regs} (h : a.region = b.region) (ends : Bool) :
    (a.endRegionIf ends).region = (b.endRegionIf ends).region := by
  cases ends with
  | true => exact Regs.region_exitRegion h
  | false => exact h

theorem Regs.endRegionIf_live (r : Regs) (ends : Bool) : (r.endRegionIf ends).live = r.live := by
  cases ends with
  | true => exact r.exitRegion_live
  | false => rfl

theorem Regs.endRegionIf_twice (r : Regs) (a b : Bool) : (r.endRegionIf a).endRegionIf b = r.endRegionIf (a || b) := by
  cases a with
  | false => cases b <;> rfl
  | true =>
    cases b with
    | false => rfl
    | true => exact r.exitRegion_exitRegion

theorem Regs.endRegionIf_accRead (r : Regs) (ends : Bool) {n i j : Nat} (hi : i < 16) (hj : j < 64) :
    (r.endRegionIf ends).accRead n i j = r.accRead n i j := by
  cases ends with
  | true => exact r.exitRegion_accRead hi hj
  | false => rfl

/-! ## Rejoins, the return from a handler, and a rejoin deadlock -/

/-- Rejoins and the extended set's release leave the region alone. -/
theorem Regs.region_rejoined (r : Regs) : r.evalRejoin.settleXrel.region = r.region := by
  refine Eq.trans ?_ (Regs.evalRejoin_frame Regs.region_lanesAside r)
  unfold Regs.settleXrel
  split <;> rfl

theorem Group.region_back (budget : Bool) (x : Group) : (x.back budget).r.region = x.r.region := by
  unfold Group.back
  split
  · exact Regs.returnTrap_frame Regs.region_lanesAside x.r
  · rfl

/-- The region ends with the last live lane (R127). -/
theorem Group.region_settled (budget : Bool) (x : Group) :
    (x.settled budget).r.region = (x.r.endRegionIf (x.r.live == 0)).region := by
  have hrejoined := x.r.region_rejoined
  obtain ⟨hlive, -⟩ := Regs.fields_of_region hrejoined
  rw [Group.settled, Group.region_back, hlive]
  by_cases h : x.r.live = 0
  · rw [if_pos h, Group.leaveRegion_r, h]
    exact Regs.region_exitRegion hrejoined
  · rw [if_neg h, beq_eq_false_iff_ne.mpr h]
    exact hrejoined

/-- A group after a change of its own. -/
theorem State.exists_of_modGroup {s : State} {g : GRef} {f : Group → Group} {y : Group} (h : (s.modGroup g f).group? g = some y)
    (hgid : ∀ x, (f x).gid = x.gid) : ∃ x, s.group? g = some x ∧ y = f x := by
  rw [State.group?_modGroup s g f hgid] at h
  obtain ⟨x, hx, rfl⟩ := Option.map_eq_some_iff.mp h
  exact ⟨x, hx, rfl⟩

theorem State.region_of_checkDeadlock {s : State} {g : GRef} {y : Group} (h : (s.checkDeadlock g).group? g = some y) :
    ∃ x, s.group? g = some x ∧ y.r.region = x.r.region := by
  obtain hs | ⟨lanes, pc, hs⟩ := s.checkDeadlock_cases g
  · exact ⟨y, hs ▸ h, rfl⟩
  rw [hs] at h
  obtain ht | ht | ⟨tcause, first, ht⟩ := s.takeTrap_deadlock_cases g lanes pc 0 0
  · exact ⟨y, ht ▸ h, rfl⟩
  · rw [ht] at h
    obtain ⟨x, hx, rfl⟩ := State.exists_of_modGroup h (fun _ => rfl)
    exact ⟨x, hx, Regs.enterTrap_frame _ _ _ _ _ _ _ Regs.region_lanesAside⟩
  · rw [ht] at h
    exact ⟨y, State.group?_failLaunch h, rfl⟩

theorem State.region_of_settleGroup {s : State} {g : GRef} {y : Group} (h : (s.settleGroup g).group? g = some y) :
    ∃ x, s.group? g = some x ∧ y.r.region = (x.r.endRegionIf (x.r.live == 0)).region := by
  obtain ⟨saves, hs⟩ := s.settleGroup_eq g
  obtain ⟨t, -, hgroup, ht⟩ := State.afterSettling_cases (s.modGroup g (Group.settled (s.hasBudget g))) g saves
  have hsettled : ∃ z, t.group? g = some z ∧ y.r.region = z.r.region := by
    obtain ht | ht := ht
    · exact ⟨y, by rw [← ht, ← hs, h], rfl⟩
    · exact State.region_of_checkDeadlock (by rw [← ht, ← hs, h])
  obtain ⟨z, hz, hyz⟩ := hsettled
  rw [hgroup] at hz
  obtain ⟨x, hx, rfl⟩ := State.exists_of_modGroup hz (Group.settled_gid _)
  exact ⟨x, hx, hyz.trans (x.region_settled _)⟩

/-! ## The retirement of a clause -/

theorem Group.region_clauseEnded (x : Group) {i : Issue} (second : Bool) (hwrites : i.sysWrites = []) :
    (x.clauseEnded i second).r.region = (x.r.endRegionIf i.rx).region := by
  rw [Group.clauseEnded, Group.setIssue_r]
  simp only [Group.endEffects, hwrites, List.foldl_nil, Regs.endRegionIf]
  split
  · rw [← Group.leaveRegion_r]
    rfl
  · rfl

/-- Counting an iteration touches the spin detector alone. -/
theorem State.r_of_spinIterate {s : State} {g : GRef} {hdr : DWord} {y : Group} (h : (s.spinIterate g hdr).group? g = some y) :
    ∃ x, s.group? g = some x ∧ y.r = x.r := by
  have hposts (t : State) (b : Bool) : (if b then t.post (.spinDetectLower g) else t).group? g = t.group? g := by
    cases b with
    | true => exact State.group?_post ..
    | false => rfl
  have hmod : (s.modGroup g (fun y => { y with spin := y.spin.iterate hdr })).group? g = some y := by
    rw [← h, State.spinIterate]
    split
    · exact (hposts ..).symm
    · rfl
  obtain ⟨x, hx, rfl⟩ := State.exists_of_modGroup hmod (fun _ => rfl)
  exact ⟨x, hx, rfl⟩

/-- A clause without `mts` ends the region if it is an RX clause or no live lane is left, and else leaves it alone. -/
theorem State.region_of_retireClause {s : State} {g : GRef} {second : Bool} {x y : Group} {i : Issue} (hg : s.group? g = some x)
    (hi : x.issue? second = some i) (hwrites : i.sysWrites = []) (hy : (s.retireClause g second).group? g = some y) :
    y.r.region = (x.r.endRegionIf (i.rx || x.r.live == 0)).region := by
  rw [State.retireClause_eq hg hi] at hy
  obtain ⟨z, hz, hyz⟩ := State.region_of_settleGroup hy
  have hended : ∃ w, (s.modGroup g (Group.clauseEnded i second)).group? g = some w ∧ z.r = w.r := by
    split at hz
    · exact State.r_of_spinIterate hz
    · exact ⟨z, hz, rfl⟩
  obtain ⟨w, hw, hzw⟩ := hended
  rw [State.group?_modGroup_some hg (Group.clauseEnded_gid i second)] at hw
  obtain rfl := Option.some.inj hw
  have hclause := x.region_clauseEnded second hwrites
  obtain ⟨hlive, -⟩ := Regs.fields_of_region hclause
  rw [hyz, hzw, hlive, Regs.endRegionIf_live, Regs.region_endRegionIf hclause, Regs.endRegionIf_twice]

/-- Settles O25: the entry by what an RE clause's issue does to the registers, the end by what the retirement leaves of the region. -/
theorem regions : Obligations.Regions := by
  unfold Obligations.Regions
  refine ⟨fun x second checked t k htop hre => x.begin_region second checked htop hre, fun s g second x y i hg hi hwrites hy => ?_⟩
  obtain ⟨-, hin, hshadow, hread⟩ := Regs.fields_of_region (State.region_of_retireClause hg hi hwrites hy)
  rw [hin, hshadow, hread]
  refine ⟨fun hends => ?ended, fun hrx hlive => ?goesOn, fun n j k hj hk => x.r.endRegionIf_accRead _ hj hk⟩
  case ended =>
    have hcond : (i.rx || x.r.live == 0) = true := by rwa [Bool.or_eq_true, beq_iff_eq]
    rw [hcond]
    exact ⟨x.r.exitRegion_inReg, Regs.exitRegion_shadow⟩
  case goesOn =>
    rw [hrx, beq_eq_false_iff_ne.mpr hlive]
    rfl

end Sys2Proof.Machine
end

section
/-!
PROOF. The decoder and the encoder undo each other: the fields of a word stand where its format packs them, and the major opcode names the
form (Tables 3.5, 3.6 and 5.1).
-/
namespace Sys2Proof

/-! ## Fields of an appended word -/

section
variable {n m s k : Nat} (a : BitVec n) (b : BitVec m)

theorem extractLsb'_append_high (h : m ≤ s) : (a ++ b).extractLsb' s k = a.extractLsb' (s - m) k :=
  BitVec.extractLsb'_append_eq_of_le h

theorem extractLsb'_append_low (h : s + k ≤ m) : (a ++ b).extractLsb' s k = b.extractLsb' s k := by
  apply BitVec.eq_of_getLsbD_eq
  intro i hi
  have hlow : s + i < m := by omega
  simp only [BitVec.getLsbD_extractLsb', BitVec.getLsbD_append, hlow, if_true]

theorem extractLsb'_whole (h : s = 0) : a.extractLsb' s n = a := by
  subst h
  exact BitVec.extractLsb'_eq_self

/-- A field put back above the bits below it. -/
theorem extractLsb'_append_rest (w : BitVec s) : w.extractLsb' m n ++ w.extractLsb' 0 m = w.extractLsb' 0 (n + m) := by
  apply BitVec.eq_of_getLsbD_eq
  intro i hi
  simp only [BitVec.getLsbD_extractLsb', BitVec.getLsbD_append, Nat.zero_add, hi]
  by_cases hlow : i < m
  · simp [hlow]
  · have hin : i - m < n := by omega
    have hback : m + (i - m) = i := by omega
    simp [hlow, hin, hback]

theorem bit1_getLsbD (w : BitVec n) (i : Nat) : bit1 (w.getLsbD i) = w.extractLsb' i 1 := by
  apply BitVec.eq_of_getLsbD_eq
  intro j hj
  obtain rfl : j = 0 := by omega
  simp [bit1]

theorem bit1_beq_one (c : Bool) : (bit1 c == 1#1) = c := by cases c <;> rfl

/-- A bit is a field of width one. -/
theorem getLsbD_eq_extractLsb' (w : BitVec n) (i : Nat) : w.getLsbD i = (w.extractLsb' i 1 == 1#1) := by
  rw [← bit1_getLsbD, bit1_beq_one]

end

/-! ## Each format's fields, packed and parsed -/

theorem FmtV.wordOpc_pack (o : FmtV) (opc : BitVec 8) : wordOpc (o.pack opc) = opc := Laws.wordOpc_packCommon ..

theorem FmtV.parse_pack (o : FmtV) (opc : BitVec 8) : FmtV.parse (o.pack opc) = o := by
  simp (disch := omega) only [FmtV.parse, FmtV.pack, packCommon, wordGuard, wordVar, wordDst, getLsbD_eq_extractLsb',
    extractLsb'_append_low, extractLsb'_append_high, extractLsb'_whole, bit1_beq_one]

theorem FmtV.pack_parse {w : DWord} {opc : BitVec 8} (h : opc = wordOpc w) : (FmtV.parse w).pack opc = w := by
  subst h
  simp only [FmtV.pack, FmtV.parse, packCommon, wordGuard, wordVar, wordDst, wordOpc, bit1_getLsbD, extractLsb'_append_rest]
  exact BitVec.extractLsb'_eq_self

theorem FmtI.wordOpc_pack (o : FmtI) (opc : BitVec 8) : wordOpc (o.pack opc) = opc := Laws.wordOpc_packCommon ..

theorem FmtI.parse_pack (o : FmtI) (opc : BitVec 8) : FmtI.parse (o.pack opc) = o := by
  simp (disch := omega) only [FmtI.parse, FmtI.pack, packCommon, wordGuard, wordVar, wordDst, getLsbD_eq_extractLsb',
    extractLsb'_append_low, extractLsb'_append_high, extractLsb'_whole, bit1_beq_one]

theorem FmtI.pack_parse {w : DWord} {opc : BitVec 8} (h : opc = wordOpc w) : (FmtI.parse w).pack opc = w := by
  subst h
  simp only [FmtI.pack, FmtI.parse, packCommon, wordGuard, wordVar, wordDst, wordOpc, bit1_getLsbD, extractLsb'_append_rest]
  exact BitVec.extractLsb'_eq_self

theorem FmtW.wordOpc_pack (o : FmtW) (opc : BitVec 8) : wordOpc (o.pack opc) = opc := Laws.wordOpc_packCommon ..

theorem FmtW.parse_pack (o : FmtW) (opc : BitVec 8) : FmtW.parse (o.pack opc) = o := by
  simp (disch := omega) only [FmtW.parse, FmtW.pack, packCommon, wordGuard, wordVar, wordDst, getLsbD_eq_extractLsb',
    extractLsb'_append_low, extractLsb'_append_high, extractLsb'_whole, bit1_beq_one]

theorem FmtW.pack_parse {w : DWord} {opc : BitVec 8} (h : opc = wordOpc w) : (FmtW.parse w).pack opc = w := by
  subst h
  simp only [FmtW.pack, FmtW.parse, packCommon, wordGuard, wordVar, wordDst, wordOpc, bit1_getLsbD, extractLsb'_append_rest]
  exact BitVec.extractLsb'_eq_self

theorem FmtM.wordOpc_pack (o : FmtM) (opc : BitVec 8) : wordOpc (o.pack opc) = opc := Laws.wordOpc_packCommon ..

theorem FmtM.parse_pack (o : FmtM) (opc : BitVec 8) : FmtM.parse (o.pack opc) = o := by
  simp (disch := omega) only [FmtM.parse, FmtM.pack, packCommon, wordGuard, wordVar, wordDst, getLsbD_eq_extractLsb',
    extractLsb'_append_low, extractLsb'_append_high, extractLsb'_whole, bit1_beq_one]

theorem FmtM.pack_parse {w : DWord} {opc : BitVec 8} (h : opc = wordOpc w) : (FmtM.parse w).pack opc = w := by
  subst h
  simp only [FmtM.pack, FmtM.parse, packCommon, wordGuard, wordVar, wordDst, wordOpc, bit1_getLsbD, extractLsb'_append_rest]
  exact BitVec.extractLsb'_eq_self

theorem FmtX.wordOpc_pack (o : FmtX) (opc : BitVec 8) : wordOpc (o.pack opc) = opc := Laws.wordOpc_packCommon ..

theorem FmtX.parse_pack (o : FmtX) (opc : BitVec 8) : FmtX.parse (o.pack opc) = o := by
  simp (disch := omega) only [FmtX.parse, FmtX.pack, packCommon, wordGuard, wordVar, wordDst, getLsbD_eq_extractLsb',
    extractLsb'_append_low, extractLsb'_append_high, extractLsb'_whole, bit1_beq_one]

theorem FmtX.pack_parse {w : DWord} {opc : BitVec 8} (h : opc = wordOpc w) : (FmtX.parse w).pack opc = w := by
  subst h
  simp only [FmtX.pack, FmtX.parse, packCommon, wordGuard, wordVar, wordDst, wordOpc, bit1_getLsbD, extractLsb'_append_rest]
  exact BitVec.extractLsb'_eq_self

theorem FmtK.wordOpc_pack (o : FmtK) (opc : BitVec 8) : wordOpc (o.pack opc) = opc := Laws.wordOpc_packCommon ..

theorem FmtK.parse_pack (o : FmtK) (opc : BitVec 8) : FmtK.parse (o.pack opc) = o := by
  simp (disch := omega) only [FmtK.parse, FmtK.pack, packCommon, wordGuard, wordVar, wordDst, getLsbD_eq_extractLsb',
    extractLsb'_append_low, extractLsb'_append_high, extractLsb'_whole, bit1_beq_one]

theorem FmtK.pack_parse {w : DWord} {opc : BitVec 8} (h : opc = wordOpc w) : (FmtK.parse w).pack opc = w := by
  subst h
  simp only [FmtK.pack, FmtK.parse, packCommon, wordGuard, wordVar, wordDst, wordOpc, bit1_getLsbD, extractLsb'_append_rest]
  exact BitVec.extractLsb'_eq_self

theorem FmtS.wordOpc_pack (o : FmtS) (opc : BitVec 8) : wordOpc (o.pack opc) = opc := Laws.wordOpc_packCommon ..

theorem FmtS.parse_pack (o : FmtS) (opc : BitVec 8) : FmtS.parse (o.pack opc) = o := by
  simp (disch := omega) only [FmtS.parse, FmtS.pack, packCommon, wordGuard, wordVar, wordDst, getLsbD_eq_extractLsb',
    extractLsb'_append_low, extractLsb'_append_high, extractLsb'_whole, bit1_beq_one]

theorem FmtS.pack_parse {w : DWord} {opc : BitVec 8} (h : opc = wordOpc w) : (FmtS.parse w).pack opc = w := by
  subst h
  simp only [FmtS.pack, FmtS.parse, packCommon, wordGuard, wordVar, wordDst, wordOpc, bit1_getLsbD, extractLsb'_append_rest]
  exact BitVec.extractLsb'_eq_self

/-- The two words of `brx`. -/
theorem FmtK2.pack_eq (o : FmtK2) : o.pack =
    [packCommon 0xD1 o.var o.guard o.dst (o.p0 ++ (o.mid ++ o.np)), o.hi ++ (o.p1 ++ (o.p2 ++ o.p3))] := rfl

theorem FmtK2.parse_pack (o : FmtK2) :
    FmtK2.parse (packCommon 0xD1 o.var o.guard o.dst (o.p0 ++ (o.mid ++ o.np))) (o.hi ++ (o.p1 ++ (o.p2 ++ o.p3))) = o := by
  simp (disch := omega) only [FmtK2.parse, packCommon, wordGuard, wordVar, wordDst, getLsbD_eq_extractLsb', extractLsb'_append_low,
    extractLsb'_append_high, extractLsb'_whole, bit1_beq_one]

theorem FmtK2.pack_parse {w : DWord} (w1 : DWord) (h : 0xD1 = wordOpc w) : (FmtK2.parse w w1).pack = [w, w1] := by
  rw [FmtK2.pack_eq, h]
  simp only [FmtK2.parse, packCommon, wordGuard, wordVar, wordDst, wordOpc, bit1_getLsbD, extractLsb'_append_rest]
  exact congr (congrArg List.cons BitVec.extractLsb'_eq_self) (congrArg (fun b => [b]) BitVec.extractLsb'_eq_self)

/-! ## The form of an opcode -/

theorem opc_of_assignForm {w w1 : DWord} {i : Instr} (h : assignForm w w1 = some i) : i.opc = some (wordOpc w) := by
  unfold assignForm at h
  split at h
  case h_135 => cases h
  all_goals
    obtain rfl := Option.some.inj h
    exact congrArg some (BitVec.eq_of_toNat_eq (Eq.symm ‹_›))

theorem assignForm_encode {i : Instr} {w : DWord} {rest : List DWord} (h : encode i = w :: rest) :
    assignForm w (rest.headD 0) = some i := by
  cases i
  case iadd o | isub o | imul o | imulhi o | imad o | iadd64 o | iabs o | ineg o | imin o | imax o | ishl o | ishr o | isar o | irot o |
    popc o | clz o | ctz o | brev o | and o | or o | xor o | andn o | lop3 o | bfx o | bfi o | sel o | icmp o | mov o | nop o | pand o |
    por o | pxor o | pnot o | pmov o | qxch o | qbcast o | gshf o | vote o | matchWord o | elect o | fadd o | fsub o | fmul o | fma o |
    fmin o | fmax o | fminn o | fmaxn o | fabs o | fneg o | fcmp o | fclass o | fround o | fscale o | frcp o | frsq o | fsqrt o | fexp2 o |
    flog2 o | fsin o | fcos o | ftanh o | cvt o | fpk o | hadd2 o | hmul2 o | hfma2 o | fdot2 o | qmx o | tstream o | fetcht o =>
    obtain ⟨rfl, rfl⟩ := List.cons.inj h
    rw [assignForm, FmtV.wordOpc_pack, FmtV.parse_pack]
    rfl
  case iaddImm o | imulImm o | iminImm o | imaxImm o | ishlImm o | ishrImm o | isarImm o | irotImm o | andImm o | orImm o | xorImm o |
    icmpImm o | bfxImm o | mtd o | mfd o | mfmt o | push o | bar o | barb o =>
    obtain ⟨rfl, rfl⟩ := List.cons.inj h
    rw [assignForm, FmtI.wordOpc_pack, FmtI.parse_pack]
    rfl
  case movi o =>
    obtain ⟨rfl, rfl⟩ := List.cons.inj h
    rw [assignForm, FmtW.wordOpc_pack, FmtW.parse_pack]
    rfl
  case mma o | mzero o | mld o | mst o | mrd o | mwr o | mscl o =>
    obtain ⟨rfl, rfl⟩ := List.cons.inj h
    rw [assignForm, FmtX.wordOpc_pack, FmtX.parse_pack]
    rfl
  case ld o | st o | ldw o | stf o | pref o | atom o | cas o | fence o | promote o | waitc o | bandj o | bandl o | bandx o | wbr o | invr o |
    mapset o | mapflush o | hld o =>
    obtain ⟨rfl, rfl⟩ := List.cons.inj h
    rw [assignForm, FmtM.wordOpc_pack, FmtM.parse_pack]
    rfl
  case mfs o | mts o | getc o | yield o | sleep o | xacq o | xrel o | inject o =>
    obtain ⟨rfl, rfl⟩ := List.cons.inj h
    rw [assignForm, FmtS.wordOpc_pack, FmtS.parse_pack]
    rfl
  case bra o | call o | ret o | jmpi o | rejoin o | kill o | exit o | trap o | rett o =>
    obtain ⟨rfl, rfl⟩ := List.cons.inj h
    rw [assignForm, FmtK.wordOpc_pack, FmtK.parse_pack]
    rfl
  case brx o =>
    obtain ⟨rfl, rfl⟩ := List.cons.inj h
    rw [assignForm, Laws.wordOpc_packCommon, List.headD_cons, FmtK2.parse_pack]
    rfl
  all_goals exact nomatch h

theorem encode_of_assignForm {w w1 : DWord} {i : Instr} (h : assignForm w w1 = some i) :
    encode i = if i.words = 2 then [w, w1] else [w] := by
  have hopc := opc_of_assignForm h
  cases i
  case iadd o | isub o | imul o | imulhi o | imad o | iadd64 o | iabs o | ineg o | imin o | imax o | ishl o | ishr o | isar o | irot o |
    popc o | clz o | ctz o | brev o | and o | or o | xor o | andn o | lop3 o | bfx o | bfi o | sel o | icmp o | mov o | nop o | pand o |
    por o | pxor o | pnot o | pmov o | qxch o | qbcast o | gshf o | vote o | matchWord o | elect o | fadd o | fsub o | fmul o | fma o |
    fmin o | fmax o | fminn o | fmaxn o | fabs o | fneg o | fcmp o | fclass o | fround o | fscale o | frcp o | frsq o | fsqrt o | fexp2 o |
    flog2 o | fsin o | fcos o | ftanh o | cvt o | fpk o | hadd2 o | hmul2 o | hfma2 o | fdot2 o | qmx o | tstream o | fetcht o =>
    have hword := Option.some.inj hopc
    rw [assignForm, ← hword] at h
    cases h
    exact congrArg (fun w => [w]) (FmtV.pack_parse hword)
  case iaddImm o | imulImm o | iminImm o | imaxImm o | ishlImm o | ishrImm o | isarImm o | irotImm o | andImm o | orImm o | xorImm o |
    icmpImm o | bfxImm o | mtd o | mfd o | mfmt o | push o | bar o | barb o =>
    have hword := Option.some.inj hopc
    rw [assignForm, ← hword] at h
    cases h
    exact congrArg (fun w => [w]) (FmtI.pack_parse hword)
  case movi o =>
    have hword := Option.some.inj hopc
    rw [assignForm, ← hword] at h
    cases h
    exact congrArg (fun w => [w]) (FmtW.pack_parse hword)
  case mma o | mzero o | mld o | mst o | mrd o | mwr o | mscl o =>
    have hword := Option.some.inj hopc
    rw [assignForm, ← hword] at h
    cases h
    exact congrArg (fun w => [w]) (FmtX.pack_parse hword)
  case ld o | st o | ldw o | stf o | pref o | atom o | cas o | fence o | promote o | waitc o | bandj o | bandl o | bandx o | wbr o | invr o |
    mapset o | mapflush o | hld o =>
    have hword := Option.some.inj hopc
    rw [assignForm, ← hword] at h
    cases h
    exact congrArg (fun w => [w]) (FmtM.pack_parse hword)
  case mfs o | mts o | getc o | yield o | sleep o | xacq o | xrel o | inject o =>
    have hword := Option.some.inj hopc
    rw [assignForm, ← hword] at h
    cases h
    exact congrArg (fun w => [w]) (FmtS.pack_parse hword)
  case bra o | call o | ret o | jmpi o | rejoin o | kill o | exit o | trap o | rett o =>
    have hword := Option.some.inj hopc
    rw [assignForm, ← hword] at h
    cases h
    exact congrArg (fun w => [w]) (FmtK.pack_parse hword)
  case brx o =>
    have hword := Option.some.inj hopc
    rw [assignForm, ← hword] at h
    cases h
    exact FmtK2.pack_parse w1 hword
  all_goals exact nomatch hopc

/-! ## Decoding -/

theorem decode_ok_iff {w w1 : DWord} {i : Instr} : decode w w1 = .ok i ↔ assignForm w w1 = some i ∧ i.WellFormed := by
  unfold decode
  cases h : assignForm w w1 with
  | none => simp
  | some j =>
    simp only [Option.some.injEq]
    cases hj : j.encInfo with
    | none =>
      rw [Decoded.ok.injEq]
      exact ⟨fun e => e ▸ ⟨rfl, hj⟩, fun e => e.1⟩
    | some info =>
      refine ⟨nofun, ?_⟩
      rintro ⟨rfl, hwf⟩
      exact nomatch hj.symm.trans hwf

/-- The forms with words are those with an opcode. -/
theorem isEmpty_encode (i : Instr) : (encode i).isEmpty = i.opc.isNone := by
  cases i <;> rfl

theorem encode_eq_nil_iff (i : Instr) : encode i = [] ↔ i.opc = none := by
  rw [← List.isEmpty_iff, isEmpty_encode, Option.isNone_iff_eq_none]

theorem Instr.words_of_ne_two {i : Instr} (h : i.words ≠ 2) : i.words = 1 := by
  unfold Instr.words at h ⊢
  split
  · exact absurd rfl h
  · rfl

theorem length_encode {i : Instr} {w : DWord} {rest : List DWord} (h : encode i = w :: rest) : rest.length + 1 = i.words := by
  have hwords := encode_of_assignForm (assignForm_encode h)
  rw [h] at hwords
  split at hwords
  · next htwo => rw [htwo, (List.cons.inj hwords).2, List.length_singleton]
  · next hone => rw [(List.cons.inj hwords).2, List.length_nil, Instr.words_of_ne_two hone]

/-- Settles O28. -/
theorem encodeDecodeAgree : Obligations.EncodeDecodeAgree := by
  unfold Obligations.EncodeDecodeAgree
  refine ⟨fun i hwf w rest h => ⟨decode_ok_iff.mpr ⟨assignForm_encode h, hwf⟩, length_encode h⟩, encode_eq_nil_iff, fun w w1 i h => ?_⟩
  exact encode_of_assignForm (decode_ok_iff.mp h).1

end Sys2Proof
end

section
/-!
PROOF. Words written out from their encodings, the machine at reset, and a group at its start (Tables 5.7 and 5.8, R418, R29).
-/
namespace Sys2Proof.Machine

/-- Settles O27: the kernel evaluates the decoder on each written word. -/
theorem writtenWordsDecode : Obligations.WrittenWordsDecode := by
  unfold Obligations.WrittenWordsDecode
  decide +kernel

theorem SMap.get_nil {α : Type} (d : α) (k : Nat) : SMap.get [] d k = d := rfl

section
variable (entry : DWord) (first : Bool)

theorem Regs.lane_start {l : Nat} (hl : l < 16) : (Regs.start entry first).lane l = Lane.start entry := by
  simp only [Regs.lane, Regs.start, Vector.toList_replicate, List.getD_eq_getElem?_getD, List.getElem?_replicate_of_lt hl, Option.getD_some]

/-- No predicate is set in any lane, nor beyond the sixteenth. -/
theorem Regs.preds_start (l : Nat) : ((Regs.start entry first).lane l).preds = 0 := by
  by_cases hl : l < 16
  · rw [Regs.lane_start entry first hl]
    rfl
  · rw [Regs.lane_beyond _ l (Nat.le_of_not_lt hl)]
    rfl

theorem Regs.read_start (n l : Nat) : (Regs.start entry first).read n l = 0 := ite_self 0

theorem Regs.isEmpty_start (n l : Nat) : (Regs.start entry first).isEmpty n l = false := by
  simp only [Regs.isEmpty, Regs.start, SMap.get_nil, BitVec.ofNat_eq_ofNat, BitVec.getLsbD_zero, ite_self]

theorem Regs.pred_start {n : Nat} (l : Nat) (hn : n < 7) : (Regs.start entry first).pred n l = false := by
  rw [Regs.pred_eq, if_neg (Nat.ne_of_lt hn), Regs.preds_start]
  exact BitVec.getLsbD_zero

end

/-- Settles O30: a group's registers at its start are those of `Regs.start`, whose maps are empty. -/
theorem resetState : Obligations.ResetState := by
  unfold Obligations.ResetState
  refine ⟨Memory.wf_nil, fun _ => rfl, rfl, rfl, rfl, rfl, rfl, rfl, fun gid gidx age entry => ?group⟩
  refine ⟨rfl, rfl, rfl, rfl, rfl, rfl, rfl, rfl, rfl, Regs.read_start entry _, Regs.isEmpty_start entry _,
    fun n l => Regs.pred_start entry _ l, fun _ => rfl, fun _ _ _ => rfl, fun l hl => ?lanes⟩
  have hlane : (Group.start gid gidx age entry).r.lane l = Lane.start entry := Regs.lane_start entry _ hl
  rw [hlane]
  exact ⟨rfl, rfl⟩

end Sys2Proof.Machine
end

section
/-!
PROOF. Ways, sector reads, refills and first-touch fills (R237, R241, R267, R362, R364, R385, R391).
-/
namespace Sys2Proof.Machine

/-! ## Bytes that were put and are read again -/

theorem Memory.bytes_putBytes (m : Memory) (a : Nat) (bs : List Byte) : (m.putBytes a bs).bytes a bs.length = bs := by
  refine List.ext_getElem (by simp only [Memory.bytes, List.length_map, List.length_range]) fun k _ hk => ?_
  have hin : a ≤ a + k ∧ a + k < a + bs.length := by omega
  simp only [Memory.bytes, List.getElem_map, List.getElem_range, Memory.byte_putBytes, if_pos hin, Nat.add_sub_cancel_left,
    List.getD_eq_getElem?_getD, List.getElem?_eq_getElem hk, Option.getD_some]

theorem Cohort.poisonUnits_scratch (c : Cohort) (o n : Nat) (bad : List (Nat × Poison)) : (c.poisonUnits o n bad).scratch = c.scratch := by
  unfold Cohort.poisonUnits
  exact foldl_frame Cohort.scratch _ (fun c _ => c.setScrPoison_scratch _ _ _) bad c

/-- A sector that has landed holds its bytes. -/
theorem Cohort.landSector_scratch (c : Cohort) (e sec : Nat) (bs : List Byte) (bad : List (Nat × Poison)) :
    (c.landSector e sec bs bad).scratch = c.scratch.putBytes sec bs :=
  Cohort.poisonUnits_scratch ..

/-! ## First-touch fills -/

section
variable {s : State} {r : CRef} {e sec : Nat} {l : Launch} {c : Cohort}

/-- A fill reads when its page is translated, its home can take the load, and no half of the sector is poisoned. -/
theorem State.fillSector_reads {t : TlbEntry} {q : Req} {pa : Nat} (hq : (c.mapEntry e).req l c = q)
    (hpa : t.paOf ((c.mapEntry e).va + (sec - (c.mapEntry e).s)) = pa)
    (ht : s.tlb? c.core l.vif ((c.mapEntry e).va + (sec - (c.mapEntry e).s)) needRead = some t)
    (hhome : s.homeUnavailable pa = false) (hquiet : s.quiesced q pa = false) (hpart : s.silenced l.part = false)
    (htoken : s.cached q pa 128 = true ∨ s.hasToken q pa = true) (hclean : s.fillPoison q pa = []) :
    s.fillSector r l c e sec = (s.readSector r q t e sec pa).post (.firstTouchFillDone r e sec) := by
  have hgo : (!s.cached q pa 128 && !s.hasToken q pa) = false := by
    rcases htoken with h | h <;> simp only [h, Bool.not_true, Bool.false_and, Bool.and_false]
  simp only [State.fillSector, ht, hq, hpa, hhome, hquiet, hpart, hgo, hclean, Bool.or_self, Bool.false_eq_true, if_false,
    List.findSome?_nil]

variable {f : Filling} (hc : s.cohort? r = some c) (hl : s.launch? r.lid = some l)
  (hf : (c.mapEntry e).filling.find? (fun f => f.sec == sec) = some f)
include hc hl hf

theorem exec_firstTouchFillDone : exec (.firstTouchFillDone r e sec) s =
    .next (if f.data.isNone then s.fillSector r l c e sec else s.landFilling r c.core e f) := by
  change execFirstTouchFillDone r e sec s = _
  simp only [execFirstTouchFillDone, hc, hl, hf]

end

/-- Settles O38: the store's own events branch by branch, a first-touch fill by whether it has read and what its read meets. -/
theorem storeEvents : Obligations.StoreEvents := by
  unfold Obligations.StoreEvents
  refine ⟨fun s core stripe sector stack port chk k => ?stores, fun s r e sec l c f => ?fills⟩
  case stores =>
    refine ⟨fun hway => ?way, fun hlocal => ?clean, fun hlocal => ?poisoned, fun hk => ?patrol, fun hk => ?regulator, fun hp => ?port⟩
    case way => exact congrArg Host.Outcome.next (if_pos hway)
    case clean => exact congrArg Host.Outcome.next (if_pos hlocal)
    case poisoned => exact congrArg Host.Outcome.next (if_pos hlocal)
    case patrol =>
      change execPatrolScrubRead stack ⟨.clean, true⟩ s = _
      simp only [execPatrolScrubRead, hk]
      rfl
    case regulator => exact congrArg Host.Outcome.next (if_pos hk)
    case port => exact congrArg Host.Outcome.next (if_pos hp)
  case fills =>
    intro m q hc hl hf
    refine ⟨fun t hnone ht => ?reads, fun bs hbs => ⟨?lands, fun hlen => ?bytes⟩⟩
    case reads =>
      intro pa hhome hquiet hpart htoken hclean
      rw [exec_firstTouchFillDone hc hl hf, hnone, Option.isNone_none, if_pos rfl,
        State.fillSector_reads rfl rfl ht hhome hquiet hpart htoken hclean]
    case lands =>
      rw [exec_firstTouchFillDone hc hl hf, hbs]
      rfl
    case bytes =>
      rw [Cohort.landSector_scratch, ← hlen]
      exact Memory.bytes_putBytes ..

end Sys2Proof.Machine
end

section
/-!
PROOF. Asks of a band, its hold timer, and fills that land (R241, R279 to R281).
-/
namespace Sys2Proof.Machine

/-! ## Asks (R279) -/

/-- The ask of a core has reached the home slice. -/
def State.askArrived (s : State) (die band core : Nat) : State :=
  s.modBand die band (fun b => { b with asks := updateWhere (fun a => a.core == core) (fun a => { a with arrived := true }) b.asks })

section
variable {s : State} {die band core : Nat} {b : Band} {a : BandAsk} (hb : s.band? die band = some b)
  (hfree : (b.asks.filter (fun a => a.core == core && !a.arrived)).any s.askHeld = false)
  (ha : b.asks.find? (fun a => a.core == core && !a.arrived) = some a)
include hb hfree ha

/-- An ask that nothing holds back arrives: it joins the open hold, is filled alone, or opens a hold (Table 15.2). -/
theorem exec_bandAskArrival : exec (.bandAskArrival die band core) s =
    let t := s.askArrived die band core
    .next (match b.openHold with
      | some h =>
        if h.key = a.key then
          (t.modBand die band (fun b => { b with openHold := some { h with askers := h.askers ||| coreBit core } })).evalHold die band
        else
          ((t.modBand die band (fun b => { b with mism := sat127 b.mism, openHold := some { h with wait := h.wait &&& ~~~coreBit core } })).makeFill
            die band a.key (coreBit core) false).evalHold die band
      | none =>
        if b.lastKey = some a.key ∧ b.served &&& coreBit core = 0 then
          (t.modBand die band (fun b => { b with late := sat127 b.late })).makeFill die band a.key (coreBit core) false
        else
          ((t.modBand die band (fun b => { b with openHold := some ⟨a.key, b.members, coreBit core⟩ })).post
            (.bandHoldTimerExpiry die band)).evalHold die band) := by
  change execBandAskArrival die band core s = _
  simp only [execBandAskArrival, hb, hfree, Bool.false_eq_true, if_false, State.askArrive, ha] <;> rfl

end

/-! ## The hold timer and landing fills (R280, R281) -/

section
variable {s : State} {die fill : Nat} {d : Die} {f : BandFill} (hd : s.die? die = some d)
  (hf : d.bandFills.find? (fun f => f.id == fill) = some f)
include hd hf

theorem exec_bandFillLand : exec (.bandFillLand die fill) s =
    .next (if f.data.isNone then s.readFill die fill
      else if s.landBlocked die f then s
      else
        let t := (s.landFill die fill).resumeDie die
        if f.deferred then (t.cohorts.filter (fun c => (coresOf die f.targets).contains c.core)).foldl (fun s c => s.resumePhase c) t
        else t) := by
  change execBandFillLand die fill s = _
  simp only [execBandFillLand, hd, Option.bind_some, hf]

end

theorem exec_bandHoldTimerExpiry {s : State} {die band : Nat} {b : Band} {h : Hold} (hb : s.band? die band = some b)
    (hh : b.openHold = some h) : exec (.bandHoldTimerExpiry die band) s =
      .next ((s.modBand die band (fun b => { b with
        openHold := none, lastKey := some h.key, served := h.askers, expr := sat127 b.expr })).makeFill die band h.key h.askers false) := by
  change Host.Outcome.next (s.endHold die band true) = _
  simp only [State.endHold, hb, hh, if_true]

/-- Settles O55: an ask by the hold that it finds, a fill by whether it has read and may land. -/
theorem bandEvents : Obligations.BandEvents := by
  unfold Obligations.BandEvents
  intro s die band core fill b a h d f bit arrived
  refine ⟨fun hb hfree ha => ?asks, fun hb hh => exec_bandHoldTimerExpiry hb hh, fun hd hf => ?fills⟩
  case asks =>
    rw [exec_bandAskArrival hb hfree ha]
    refine ⟨fun hh hkey => ?joins, fun hh hkey => ?mismatch, fun hh hkey hserved => ?late, fun hh hnew => ?opens⟩
    case joins => rw [hh]; exact congrArg Host.Outcome.next (if_pos hkey)
    case mismatch => rw [hh]; exact congrArg Host.Outcome.next (if_neg hkey)
    case late => rw [hh]; exact congrArg Host.Outcome.next (if_pos ⟨hkey, hserved⟩)
    case opens =>
      have hother : ¬(b.lastKey = some a.key ∧ b.served &&& coreBit core = 0) :=
        fun ⟨hkey, hserved⟩ => hnew.elim (fun h => h hkey) fun h => h hserved
      rw [hh]
      exact congrArg Host.Outcome.next (if_neg hother)
  case fills =>
    rw [exec_bandFillLand hd hf]
    have hread (h : f.data.isSome = true) : f.data.isNone = false := by rw [Option.isNone_eq_false_iff]; exact h
    refine ⟨fun hnone => ?reads, fun hdata hblock => ?blocked, fun hdata hblock hdef => ?lands, fun hdata hblock hdef => ?deferred⟩
    case reads => rw [hnone]; rfl
    case blocked => simp only [hread hdata, hblock, Bool.false_eq_true, if_false, if_true]
    case lands => simp only [hread hdata, hblock, hdef, Bool.false_eq_true, if_false]
    case deferred => simp only [hread hdata, hblock, hdef, Bool.false_eq_true, if_false, if_true]

end Sys2Proof.Machine
end

section
/-!
PROOF. Walks: when one starts, what one does that its generations have left behind, and what the tables make of the others (R325 to R329,
R333, R361).
-/
namespace Sys2Proof.Machine

/-! ## Walks that start, and that start again (R326, R329) -/

/-- A walk that begins with the present generations of its interface. -/
def State.walkBegan (s : State) (w : Walk) (v : Vif) : State :=
  (s.modWalk w.id (fun w => { w with started := true, s1gen := v.s1gen, s2gen := v.s2gen, logging := false })).post (.walkComplete w.id)

section
variable {s : State} {id : Nat} {w : Walk} {v : Vif} (hv : s.vif? w.vif = some v)
include hv

theorem State.beginWalk_eq : s.beginWalk w = s.walkBegan w v := by
  rw [State.beginWalk, hv]
  rfl

theorem exec_walkStart_next (hw : s.walks.find? (fun w => w.id == id && !w.started) = some w) (hfree : s.walking w.die < 256)
    (hnext : (s.nextWalk w.die).map (fun n => n.id) = some w.id) :
    exec (.walkStart id) s = .next ((s.walkBegan w v).postNextWalk w.die) := by
  change execWalkStart id s = _
  simp only [execWalkStart, hw, hnext, decide_eq_false (Nat.not_le.mpr hfree), bne_self_eq_false, Bool.or_self, Bool.false_eq_true,
    if_false, State.beginWalk_eq hv]

section
variable {e : WalkEnv} (hw : s.walks.find? (fun w => w.id == id && w.started) = some w) (he : s.walkEnv? w.vif = some e)
include hw he

theorem exec_walkComplete_stale (hgen : v.s1gen ≠ w.s1gen ∨ v.s2gen ≠ w.s2gen) :
    exec (.walkComplete id) s = .next (s.walkBegan w v) := by
  have hstale : (decide (v.s1gen = w.s1gen) && decide (v.s2gen = w.s2gen)) = false := by
    rcases hgen with h | h <;> simp only [h, decide_false, Bool.false_and, Bool.and_false]
  change execWalkComplete id s = _
  simp only [execWalkComplete, hw, hv, he, hstale, Bool.false_eq_true, if_false, State.beginWalk_eq hv]

theorem exec_walkComplete_present (h1 : v.s1gen = w.s1gen) (h2 : v.s2gen = w.s2gen) {t : State} {b : Bool}
    (ht : s.readTables w e = (t, b)) : exec (.walkComplete id) s = .next (if b then t.completeWalk w v e else t) := by
  change execWalkComplete id s = _
  simp only [execWalkComplete, hw, hv, he, decide_eq_true h1, decide_eq_true h2, Bool.and_self, if_true, ht]
  cases b with
  | true => rw [if_pos rfl]
  | false => rfl

end
end

theorem exec_walkStart_waits {s : State} {id : Nat} {w : Walk} (hw : s.walks.find? (fun w => w.id == id && !w.started) = some w)
    (hwait : 256 ≤ s.walking w.die ∨ (s.nextWalk w.die).map (fun n => n.id) ≠ some w.id) : exec (.walkStart id) s = .next s := by
  have hstay : (decide (256 ≤ s.walking w.die) || (s.nextWalk w.die).map (fun n => n.id) != some w.id) = true := by
    rwa [Bool.or_eq_true, decide_eq_true_iff, bne_iff_ne]
  change execWalkStart id s = _
  simp only [execWalkStart, hw, hstay, if_true]

/-- Settles O40: a walk begins with the present generations, and begins again when they have moved. -/
theorem walkGenerations : Obligations.WalkGenerations := by
  unfold Obligations.WalkGenerations
  intro s id w v e hv began
  exact ⟨fun hw hfree hnext => exec_walkStart_next hv hw hfree hnext, fun hw he hgen => exec_walkComplete_stale hv hw he hgen⟩

/-! ## What the tables make of a walk (R325, R328, R333) -/

/-- AF and D go to a leaf that lacks them, and nowhere else. -/
theorem State.useLeaf_eq (s : State) (q : Req) (pa e : Nat) (write : Bool) :
    s.useLeaf q pa e write = if usedEntry e write = e then s else s.homeStore q pa (leBytes (usedEntry e write) 8) := rfl

section
variable {t : State} {w : Walk} {v : Vif} {e : WalkEnv}

theorem State.completeWalk_fault {kind level entry ipa : Nat} {table : Bool}
    (hw : t.walkTables e (w.va * 65536) (needOfAcc w.acc) = .fault kind level entry ipa table) :
    t.completeWalk w v e = (t.faultWaiters w ⟨kind, level, entry, ipa, table, 0⟩).endWalk w := by
  rw [State.completeWalk, hw]

theorem State.completeWalk_storage {entry ea : Nat} (hw : t.walkTables e (w.va * 65536) (needOfAcc w.acc) = .storage entry ea) :
    t.completeWalk w v e = (t.faultWaiters w (if accAllowed (ptePerm entry) w.acc
      then ⟨5, 0, entry, ea, false, bitsOf entry 59 56⟩ else ⟨2, 0, entry, 0, false, 0⟩)).endWalk w := by
  rw [State.completeWalk, hw]
  dsimp only
  split <;> rfl

end

/-- Settles O39: a start by the order of the walks, a completion by the generations and then by what the tables say. -/
theorem walks : Obligations.Walks := by
  unfold Obligations.Walks
  refine ⟨fun s id w n v e hv => ?starts, fun s t id w v e hw hv he h1 h2 => ⟨fun hread => ?waits, fun hread => ?reads⟩⟩
  case starts =>
    refine ⟨fun hw hn => ?_, fun hw he hgen => exec_walkComplete_stale hv hw he hgen⟩
    have hnext : (s.nextWalk w.die).map (fun n => n.id) = some n.id := congrArg (Option.map fun n => n.id) hn
    refine ⟨fun hfree hid => exec_walkStart_next hv hw hfree (hid ▸ hnext), fun hwait => exec_walkStart_waits hw ?_⟩
    rw [hnext]
    exact hwait.imp_right fun hne h => hne (Option.some.inj h)
  case waits => exact exec_walkComplete_present hv hw he h1 h2 hread
  case reads =>
    rw [exec_walkComplete_present hv hw he h1 h2 hread, if_pos rfl]
    refine ⟨fun ipa pa size perm ga ge ha hh htables hlarder => ?ok, fun kind level entry ipa table htables =>
      congrArg Host.Outcome.next (State.completeWalk_fault htables), fun entry ea htables =>
        congrArg Host.Outcome.next (State.completeWalk_storage htables)⟩
    intro hits write ge' he' s1 s2 s3 entry hroom
    have hroom : (!e.part.roomFor (e.part.hits (alignDown pa size) size perm).length) = false := by
      rw [Bool.not_eq_false']
      exact hroom
    rw [State.completeWalk, htables]
    dsimp only
    rw [hlarder, Option.bind_none, hroom]
    rfl

end Sys2Proof.Machine
end

section
/-!
PROOF. Fault records: what writes one to its ring, which record FRESP names, and what an answer does (R334, R336, R337, R343, R344).
-/
namespace Sys2Proof.Machine

/-! ## Records written to their rings (R334) -/

theorem FaultRec.hyp_iff (r : FaultRec) : r.hyp = true ↔ r.kind = 3 ∨ r.kind = 4 := by
  simp only [FaultRec.hyp, Bool.or_eq_true, beq_iff_eq]

section
variable {s : State} {id : Nat} {r : FaultRec} {v : Vif} (hr : s.rec? id = some r) (hv : s.vif? r.vif = some v) (hseq : r.seq = none)
  (hk5 : r.kind ≠ 5)
include hr hv hseq hk5

theorem exec_faultRecordWrite_full (hhyp : r.hyp = false) (hfull : 2 ^ v.frlog ≤ (v.ftail + 2 ^ 32 - v.fhead) % 2 ^ 32) :
    exec (.faultRecordWrite id) s = .next s := by
  change execFaultRecordWrite id s = _
  simp only [execFaultRecordWrite, hr, hv, hseq, Option.isSome_none, decide_eq_false hk5, hhyp, Bool.or_self, Bool.false_eq_true, if_false,
    hfull, if_true]

variable (hk6 : r.kind ≠ 6) {t : State} {ps? : Option (List DevPart)}
include hk6

/-- The guest's ring. -/
theorem exec_faultRecordWrite_guest (hhyp : r.hyp = false) (hroom : (v.ftail + 2 ^ 32 - v.fhead) % 2 ^ 32 < 2 ^ v.frlog)
    (hreach : s.ipaReach v (v.frbase + 64 * (v.ftail % 2 ^ v.frlog)) 64 true = (t, ps?)) :
    exec (.faultRecordWrite id) s = .next (ps?.elim t fun ps =>
      (((t.devStore v ps (r.toBytes v.ftail (t.recSkid r))).modVif r.vif (fun v => { v with ftail := (v.ftail + 1) % 2 ^ 32 })).signal
        r.vif v.faultVector).modRec id (fun r => { r with seq := some v.ftail })) := by
  change execFaultRecordWrite id s = _
  simp only [execFaultRecordWrite, hr, hv, hseq, Option.isSome_none, decide_eq_false hk5, hhyp, Bool.or_self, Bool.false_eq_true, if_false,
    if_neg (Nat.not_le.mpr hroom), hreach]
  cases ps? with
  | none => rfl
  | some ps => simp only [Option.elim_some, if_neg hk6]

/-- The hypervisor's ring. -/
theorem exec_faultRecordWrite_hyp (hhyp : r.hyp = true) (hroom : (v.htail + 2 ^ 32 - v.hhead) % 2 ^ 32 < 2 ^ v.hlog)
    (hreach : s.reachParts v (some [⟨v.hbase + 64 * (v.htail % 2 ^ v.hlog), 64, none⟩]) true = (t, ps?)) :
    exec (.faultRecordWrite id) s = .next (ps?.elim t fun ps =>
      ((t.devStore v ps (r.toBytes v.htail (t.recSkid r))).modVif r.vif (fun v => { v with htail := (v.htail + 1) % 2 ^ 32 })).modRec id
        (fun r => { r with seq := some v.htail })) := by
  change execFaultRecordWrite id s = _
  simp only [execFaultRecordWrite, hr, hv, hseq, Option.isSome_none, decide_eq_false hk5, hhyp, Bool.or_self, Bool.false_eq_true, if_false,
    if_true, if_neg (Nat.not_le.mpr hroom), hreach]
  cases ps? with
  | none => rfl
  | some ps => simp only [Option.elim_some, if_neg hk6]

end

/-! ## Answers (R336, R337, R343) -/

section
variable {s : State} {vif : Nat} {hyp : Bool} {value : DWord}

/-- The record that a write of FRESP names. -/
def State.frespNames (s : State) (vif : Nat) (hyp : Bool) (value : DWord) : Option FaultRec :=
  s.recs.find? (fun r => r.vif == vif && r.hyp == hyp && r.seq == some (value.toNat % 2 ^ 32) && r.answered.isNone)

theorem bitsOf_high_of_lt (hvalue : value.toNat < 2 ^ 33) : bitsOf value.toNat 63 33 = 0 := by
  rw [bitsOf, Nat.div_eq_of_lt hvalue, Nat.zero_mod]

theorem exec_fresp_none (hnone : s.frespNames vif hyp value = none) : exec (.fresp vif hyp value) s = .next s := by
  unfold State.frespNames at hnone
  change execFresp vif hyp value s = _
  simp only [execFresp, hnone, ite_self]

theorem exec_fresp_named {r : FaultRec} (hr : s.frespNames vif hyp value = some r) (hvalue : value.toNat < 2 ^ 33) :
    exec (.fresp vif hyp value) s = .next ((s.modRec r.id (fun r => { r with answered := some (value.getLsbD 32) })).post
      (if value.getLsbD 32 then .faultAnswerRefused r.id else .faultAnswerResolved r.id)) := by
  unfold State.frespNames at hr
  change execFresp vif hyp value s = _
  simp only [execFresp, bitsOf_high_of_lt hvalue, ne_eq, not_true_eq_false, if_false, hr, State.postRecord]

end

/-- A "resolved" answer by what the merge of the record's larder bytes comes to. -/
theorem State.answerResolved_eq {s t : State} {r : FaultRec} {ok : Bool} {left : List (Larder × Stop)}
    (hmerge : s.mergeAll r (s.larderOf r) = (t, ok, left)) : s.answerResolved r =
      if ok then
        let u := left.foldl (fun s x => s.larderFault r x.1 x.2) { t with recs := t.recs.filter (fun x => x.id != r.id) }
        r.waiters.foldl (fun s w => s.resume w) (u.releaseSlots r).wake
      else t.modRec r.id (fun r => { r with answered := some false }) := by
  rw [State.answerResolved, hmerge]
  cases ok <;> rfl

/-- Settles O41: a record by its ring, FRESP by the record that it names, an answer by the model's own functions. -/
theorem faultRecords : Obligations.FaultRecords := by
  unfold Obligations.FaultRecords
  refine ⟨fun s t id r v hr hv hseq hk5 hk6 => ?written, fun s t id vif hyp value r => ?answered⟩
  case written =>
    have hguest (h : ¬(r.kind = 3 ∨ r.kind = 4)) : r.hyp = false := by rwa [← FaultRec.hyp_iff, Bool.not_eq_true] at h
    refine ⟨fun hhyp hroom => ⟨fun hreach => ?waits, fun ps hreach => ?guest⟩, fun hhyp hfull => ?full,
      fun hhyp hroom ps hreach => ?hypervisor⟩
    case waits => exact exec_faultRecordWrite_guest hr hv hseq hk5 hk6 (hguest hhyp) hroom hreach
    case guest => exact exec_faultRecordWrite_guest hr hv hseq hk5 hk6 (hguest hhyp) hroom hreach
    case full => exact exec_faultRecordWrite_full hr hv hseq hk5 (hguest hhyp) hfull
    case hypervisor => exact exec_faultRecordWrite_hyp hr hv hseq hk5 hk6 (r.hyp_iff.mpr hhyp) hroom hreach
  case answered =>
    refine ⟨fun hr hvalue => ⟨fun hbit => ?resolved, fun hbit => ?refused⟩, exec_fresp_none,
      fun hr => ⟨fun left hmerge => ?merged, fun left hmerge => ?held, ?discarded⟩⟩
    case resolved | refused =>
      rw [exec_fresp_named hr hvalue, hbit]
      rfl
    case merged | held =>
      change execFaultAnswerResolved id s = _
      rw [execFaultAnswerResolved, hr]
      exact congrArg Host.Outcome.next (State.answerResolved_eq hmerge)
    case discarded =>
      change execFaultAnswerRefused id s = _
      rw [execFaultAnswerRefused, hr]
      rfl

end Sys2Proof.Machine
end

section
/-!
PROOF. Invalidation requests: firmware's, the guest's, and their end (R330, R331); placement verdicts and records that wait for the access
log (R345 to R347, R377).
-/
namespace Sys2Proof.Machine

/-! ## Requests (R330, R331) -/

theorem State.invalidate_legal (s : State) {d : InvDesc} (hd : invLegal d = true) : s.invalidate d =
    (({ s with nextId := s.nextId + 1, invs := s.invs ++ [{ id := s.nextId, d := d }] } : State).dropEntries d).post
      (.invalidationDone s.nextId) := by
  rw [State.invalidate, hd]
  rfl

theorem State.invalidate_illegal (s : State) {d : InvDesc} (hd : invLegal d = false) : s.invalidate d = s := by
  rw [State.invalidate, hd]
  rfl

/-- The place that an INVREQ takes among the requests of its context, with its descriptor unread. -/
def Inval.unreadOf (id vif : Nat) (value : DWord) : Inval :=
  { id := id, d := { vif := vif, guest := true, op := 0, stage := 0, base := 0, len := 0, done := 0, resv := 0 }, unread := some value }

/-- The request has taken its place. -/
def State.asksInv (s : State) (vif : Nat) (value : DWord) : State :=
  { s with nextId := s.nextId + 1, invs := s.invs ++ [Inval.unreadOf s.nextId vif value] }

theorem exec_invreq {s : State} {vif : Nat} {v : Vif} (hv : s.vif? vif = some v) (value : DWord) :
    exec (.invreq vif value) s = .next ((s.asksInv vif value).readInv (Inval.unreadOf s.nextId vif value) value) := by
  change Host.Outcome.next (s.invreq vif value) = _
  rw [State.invreq, hv]
  rfl

section
variable {u t : State} {i : Inval} {v : Vif} (hv : u.vif? i.d.vif = some v) {at_ : DWord}
include hv

/-- The kernel must not evaluate the access of the descriptor, so the access is a variable where the branch is taken. -/
theorem State.readInv_unreached (hreach : u.ipaReach v at_.toNat 32 false = (t, none)) : u.readInv i at_ = t := by
  rw [State.readInv]
  generalize State.ipaReach = reach at hreach ⊢
  as_aux_lemma =>
    rw [hv]
    dsimp only
    rw [hreach]

/-- A descriptor that has been read is obeyed when it is legal, and ignored else. -/
theorem State.readInv_reached {ps : List DevPart} (hreach : u.ipaReach v at_.toNat 32 false = (t, some ps)) : u.readInv i at_ =
    if invLegal (invDesc v.no (t.devBytes ps)) then
      (({ t with
        invs := updateWhere (fun x => x.id == i.id) (fun x => { x with d := invDesc v.no (t.devBytes ps), unread := none }) t.invs } : State).dropEntries
          (invDesc v.no (t.devBytes ps))).post (.invalidationDone i.id)
    else t.endInv i := by
  rw [State.readInv]
  generalize State.ipaReach = reach at hreach ⊢
  as_aux_lemma =>
    rw [hv]
    dsimp only
    rw [hreach]

end

/-! ## The end of a request (R331) -/

theorem State.finishInv_writes {s t : State} {i : Inval} {v : Vif} {pa : Nat} {ps : List DevPart}
    (hfirst : s.invs.any (fun x => x.d.vif == i.d.vif && x.id < i.id) = false) (hheld : s.domainHeld v = false)
    (hpa : (if i.d.guest then (s.cleanDomain v).agentPa v.no i.d.done needWrite else some i.d.done) = some pa)
    (hreach : (s.cleanDomain v).reachParts v (some [⟨pa, 8, none⟩]) true = (t, some ps)) :
    s.finishInv i v = (t.devStore v ps (leBytes 1 8)).endInv i := by
  simp only [State.finishInv, hfirst, hheld, Bool.or_self, Bool.false_eq_true, if_false, hpa, hreach]

/-- The next request of the context goes on, if there is one. -/
theorem State.endInv_eq (s : State) (i : Inval) : s.endInv i =
    let t : State := { s with invs := s.invs.filter (fun x => x.id != i.id) }
    (t.invs.find? (fun x => x.d.vif == i.d.vif)).elim t fun n => t.post (.invalidationDone n.id) := by
  unfold State.endInv
  dsimp only
  split <;> rename_i h <;> rw [h] <;> rfl

/-- Settles O42: firmware's request by its legality, the guest's by what its descriptor says, the end by the request that comes next. -/
theorem invalidations : Obligations.Invalidations := by
  unfold Obligations.Invalidations
  intro s t d vif id value pa i v ps cut dropped
  refine ⟨fun hd => ?legal, fun hd => ?illegal, fun hv => ?guest, fun hi hread hv hfirst hheld hpa hreach => ?done⟩
  case legal =>
    exact ⟨congrArg Host.Outcome.next (s.invalidate_legal hd), congrArg Host.Outcome.next (s.invalidate_legal hd)⟩
  case illegal =>
    exact ⟨congrArg Host.Outcome.next (s.invalidate_illegal hd), congrArg Host.Outcome.next (s.invalidate_illegal hd)⟩
  case guest =>
    rw [exec_invreq hv]
    have hv' : (s.asksInv vif value).vif? (Inval.unreadOf s.nextId vif value).d.vif = some v := hv
    refine ⟨fun hreach => congrArg Host.Outcome.next (State.readInv_unreached hv' hreach), fun hreach => ?_⟩
    have hread := State.readInv_reached hv' hreach
    refine ⟨fun hq => congrArg Host.Outcome.next (hread.trans (if_pos hq)), fun hq => congrArg Host.Outcome.next (hread.trans (if_neg ?_))⟩
    exact Bool.not_eq_true _ ▸ hq
  case done =>
    have hend : exec (.invalidationDone id) s = .next ((t.devStore v ps (leBytes 1 8)).endInv i) := by
      change execInvalidationDone id s = _
      rw [execInvalidationDone, hi]
      dsimp only
      rw [hread, hv]
      exact congrArg Host.Outcome.next (State.finishInv_writes hfirst hheld hpa hreach)
    rw [hend, State.endInv_eq]
    refine ⟨fun hnone => congrArg Host.Outcome.next ?_, fun n hn => congrArg Host.Outcome.next ?_⟩
    · exact congrArg (Option.elim · _ _) hnone
    · exact congrArg (Option.elim · _ _) hn

/-! ## Placement (R345 to R347) -/

/-- Settles O43: a verdict by its kind, the waiting records by the room that there is. -/
theorem placementAndLogEvents : Obligations.PlacementAndLogEvents := by
  unfold Obligations.PlacementAndLogEvents
  refine ⟨fun s page c hc => ?placement, fun s part p rs hparts hno hwait hroom => ?log⟩
  case placement =>
    intro clear t
    refine ⟨fun hnone => ?stays, fun k hk => ?moves, fun k hk => ?replicas⟩
    case stays =>
      change execPlacementCountThreshold page s = _
      simp only [execPlacementCountThreshold, hc, hnone]
      rfl
    case moves =>
      change execPlacementCountThreshold page s = _
      simp only [execPlacementCountThreshold, hc, hk]
      rfl
    case replicas =>
      change execPlacementCountThreshold page s = _
      simp only [execPlacementCountThreshold, hc, hk]
      rfl
  case log =>
    change execAccessLogRecord part s = _
    unfold execAccessLogRecord
    subst hno
    simp [State.modPart, State.part?, hparts, updateWhere, hwait, hroom]

end Sys2Proof.Machine
end

section
/-!
PROOF. Queues: kicks, launch records and completion entries (R291 to R297, R370).
-/
namespace Sys2Proof.Machine

/-! ## Kicks (R291 to R293, R370) -/

section
variable {s : State} {vif slot : Nat} {v : Vif} {q : Queue}
  (hv : s.vif? vif = some v) (hq : s.queues.find? (fun q => q.vif == vif && q.slot == slot) = some q)
include hv hq

theorem State.kickIn_eq (value : DWord) : s.kickIn vif slot value =
    if v.mig = .stopping ∨ v.mig = .stopped ∨ v.mig = .resuming then
      s.modVif vif (fun v => { v with heldKicks := v.heldKicks ++ [(slot, value)] })
    else (s.modQueue q.qid (fun q => { q with kicks := q.kicks ++ [(value, v.tdisp == .locked || v.tdisp == .error)] })).runKicks q.qid
      (q.kicks.length + 1) := by
  rw [State.kickIn, hv, hq]

end

theorem State.kickAt_disabled (s : State) {q : Queue} (v : Vif) (ps : Pages) (value : DWord) (hq : q.disabled = true) :
    s.kickAt q v ps value false = s.orStatus q v ps (2 ^ 10) := by
  rw [State.kickAt, hq]
  rfl

theorem privBits_same (shadow : List Byte) : privBits shadow (shadow.take 32) = 0 := by
  simp [privBits]

/-- The ring fields of Table 17.1 are legal. -/
theorem State.badRing_eq_false {s : State} {q : Queue} {ps : Pages} (hring : s.qcbNat q ps 0x20 8 % 64 = 0)
    (hrlog : s.qcbNat q ps 0x28 1 ≤ 12) (hcring : s.qcbNat q ps 0x38 8 % 32 = 0) (hclog : s.qcbNat q ps 0x40 1 ≤ 12) :
    s.badRing q ps = false := by
  simp [State.badRing, *]

/-- A kick of an enabled queue whose fields are its shadow's and legal, with a tail that is legal too. -/
theorem State.kickAt_publishes {s : State} {q : Queue} {v : Vif} {ps : Pages} {value : DWord} (hq : q.disabled = false)
    (hpriv : s.pageData ps q.qcb 32 = q.shadow.take 32) (hring : s.badRing q ps = false)
    (htail : ¬(2 ^ 32 ≤ value.toNat ∨ 2 ^ s.qcbNat q ps 0x28 1 < (value.toNat % 2 ^ 32 + 2 ^ 32 - q.head) % 2 ^ 32 ∨
      2 ^ 31 ≤ (value.toNat % 2 ^ 32 + 2 ^ 32 - q.tail) % 2 ^ 32)) (hcompl : q.compl = []) :
    s.kickAt q v ps value false =
      ((s.readRing q ps).modQueue q.qid (fun q => { q with tail := value.toNat % 2 ^ 32 })).post (.launchRecordTake q.qid) := by
  simp only [State.kickAt, hq, hpriv, privBits_same, Bool.or_self, Bool.false_eq_true, if_false, if_true, hring, htail, hcompl,
    List.isEmpty_nil]

/-! ## Launch records (R294, R296, R297) -/

theorem State.renewRing_kept (s : State) {q : Queue} (v : Vif) (hq : q.reread = false) : s.renewRing q v = s := by
  rw [State.renewRing, hq]
  rfl

/-- A queue that has a record to take, no kick before it and nothing to read again, of an interface that may run. -/
theorem exec_launchRecordTake {s : State} {qid : Nat} {q : Queue} {v : Vif} (hq : s.queue? qid = some q) (hv : s.vif? q.vif = some v)
    (hkicks : q.kicks = []) (hreread : q.reread = false) (hwait : q.waitRec = none) (hhead : q.head ≠ q.tail)
    (hmig : v.mig = .running ∨ v.mig = .precopy) (htdisp : v.tdisp = .unlocked ∨ v.tdisp = .run) :
    exec (.launchRecordTake qid) s = .next (s.takeRecord q v) := by
  have hm : (v.mig == .running || v.mig == .precopy) = true := by simpa using hmig
  have ht : (v.tdisp == .unlocked || v.tdisp == .run) = true := by simpa using htdisp
  have hbind : (s.queue? qid).bind (fun q => (s.vif? q.vif).map (fun v => (q, v))) = some (q, v) := by
    rw [hq, Option.bind_some, hv, Option.map_some]
  have hlength : ((s.queue? qid).map (fun q => q.kicks.length)).getD 0 = 0 := by
    rw [hq, Option.map_some, hkicks]
    rfl
  change execLaunchRecordTake qid s = _
  rw [execLaunchRecordTake, hbind]
  generalize State.takeRecord = take
  have hrenew := State.renewRing_kept s v hreread
  have hrun : s.runKicks qid 0 = s := rfl
  generalize State.renewRing = renew at hrenew ⊢
  generalize State.runKicks = run at hrun ⊢
  as_aux_lemma =>
    dsimp only
    rw [hrenew, hlength, hrun, hq]
    dsimp only
    rw [hv]
    dsimp only
    rw [if_neg (by simp [hhead, hreread, hwait, hkicks, hm, ht])]

section
variable {s r : State} {q : Queue} {v : Vif} {qs : Option Pages} (hhead : s.headPages q v = .ok (r, qs))
include hhead

/-- A record whose fault was refused, its tag as far as it can be read. -/
theorem State.takeRecord_refusedRead (hrefused : q.refusedRead = true) :
    ∃ tag, s.takeRecord q v = (r.refuseLaunch q tag 0x0B).advanceHead q v qs := by
  refine ⟨((r.agentPages q.vif (q.ring + 64 * (q.head % 2 ^ q.rlog)) 64 needRead).map
    (fun ps => fieldLE (r.pageData ps (q.ring + 64 * (q.head % 2 ^ q.rlog)) 64) 0x34 4)).getD 0, ?_⟩
  rw [State.takeRecord]
  generalize State.queuePages = reach
  generalize State.agentPages = agent
  generalize State.pageData = data
  as_aux_lemma =>
    rw [hhead]
    dsimp only
    rw [if_pos hrefused]

variable {r1 : State} {ps : Pages} (hrefused : q.refusedRead = false)
  (hrecord : r.queuePages q v .record (q.ring + 64 * (q.head % 2 ^ q.rlog)) 64 false = .ok (r1, ps))
include hrefused hrecord

theorem State.takeRecord_refused {code : Nat}
    (hcode : recordCode (r1.pageData ps (q.ring + 64 * (q.head % 2 ^ q.rlog)) 64) = some code) :
    s.takeRecord q v =
      (r1.refuseLaunch q (fieldLE (r1.pageData ps (q.ring + 64 * (q.head % 2 ^ q.rlog)) 64) 0x34 4) code).advanceHead q v qs := by
  rw [State.takeRecord]
  generalize State.queuePages = reach at hrecord ⊢
  generalize State.agentPages = agent
  generalize State.pageData = data at hcode ⊢
  as_aux_lemma =>
    rw [hhead]
    dsimp only
    rw [hrefused, if_neg Bool.false_ne_true, hrecord]
    dsimp only
    rw [hcode]

/-- A record that no check refuses is made, and waits its turn. -/
theorem State.takeRecord_made {rcd : List Byte} (hrcd : r1.pageData ps (q.ring + 64 * (q.head % 2 ^ q.rlog)) 64 = rcd) {r2 t : State}
    {ts : Pages} {l : Launch} (hcode : recordCode rcd = none)
    (htables : r1.queuePages q v .record (fieldLE rcd 8 8) (2048 + bandBlock) false = .ok (r2, ts))
    (hlog : r2.logPages v.part v.no 0 9 accRead needRead (ps ++ ts) = some t)
    (hl : t.readLaunch q t.nextId q.head rcd (t.pageData ts (fieldLE rcd 8 8) (2048 + bandBlock)) = .ok l) :
    s.takeRecord q v =
      (({ t with nextId := t.nextId + 1, launches := t.launches ++ [{ l with phase := .waiting }] } : State).advanceHead q v qs).startWaiting
        q.qid := by
  rw [State.takeRecord]
  generalize State.queuePages = reach at hrecord htables ⊢
  generalize State.agentPages = agent
  generalize State.pageData = data at hrcd hl ⊢
  as_aux_lemma =>
    rw [hhead]
    dsimp only
    rw [hrefused, if_neg Bool.false_ne_true, hrecord]
    dsimp only
    rw [hrcd, hcode]
    dsimp only
    rw [htables]
    dsimp only
    rw [hlog]
    dsimp only
    rw [hl]

end

/-! ## Completion entries (R293, R295) -/

/-- The only entry that waits leaves when its ring has room and its place can be written. -/
theorem State.writeEntry_last {s r s2 t : State} {q : Queue} {v : Vif} {e : Completion} {qs ps : Pages} (hlast : q.compl = [e])
    (hrefused : q.refusedEntry = false) (hqcb : s.qcbPages q v .entry = .ok (r, qs))
    (hroom : (q.ctail + 2 ^ 32 - r.qcbNat q qs 0x48 4) % 2 ^ 32 < 2 ^ e.clog)
    (hplace : (r.modQueue q.qid (fun x => { x with chead := r.qcbNat q qs 0x48 4 })).queuePages q v .entry
      (e.cring + 32 * (q.ctail % 2 ^ e.clog)) 32 true = .ok (s2, ps))
    (hlog : s2.logPages v.part v.no 0 9 accWrite needWrite ps = some t) :
    s.writeEntry q v e =
      ((((((t.pageStore (q.req v) ps (e.cring + 32 * (q.ctail % 2 ^ e.clog)) e.toBytes).modQueue q.qid
        (fun x => { x with ctail := (q.ctail + 1) % 2 ^ 32 })).qcbPut q v qs 0x44 (leBytes ((q.ctail + 1) % 2 ^ 32) 4)).modQueue q.qid
          (fun q => { q with compl := q.compl.drop 1, refusedEntry := false })).signal q.vif q.vector).startWaiting q.qid) := by
  rw [State.writeEntry]
  generalize State.qcbPages = qcbReach at hqcb ⊢
  generalize State.queuePages = reach at hplace ⊢
  as_aux_lemma =>
    rw [hrefused]
    dsimp only
    rw [if_neg Bool.false_ne_true, hqcb]
    dsimp only
    rw [if_neg (Nat.not_le.mpr hroom), hplace]
    dsimp only
    rw [hlog]
    dsimp only
    rw [hlast, List.drop_one, List.tail_cons, List.isEmpty_nil, if_pos rfl]

/-- Settles O52: a kick by the migration state and the checks of Table 17.1, a record by what its checks answer, the last entry of a
queue by the room of its ring. -/
theorem queueEvents : Obligations.QueueEvents := by
  unfold Obligations.QueueEvents
  refine ⟨fun s vif slot ps value v q t hv hq => ?kick, fun s qid q v hq hv hkicks hreread hwait hhead hmig htdisp => ?record,
    fun s qid q v e r qs ps s2 t hq hv hlast hreread hrefused hqcb => ?entry⟩
  case kick =>
    have hkick : exec (.kick vif slot value) s = .next (s.kickIn vif slot value) := rfl
    rw [hkick, State.kickIn_eq hv hq]
    refine ⟨fun hmig => congrArg Host.Outcome.next (if_pos hmig), fun hmig => ?runs, fun ht hen hpriv _ => ?publishes,
      State.kickAt_disabled s v ps value⟩
    case runs =>
      refine congrArg Host.Outcome.next (if_neg ?_)
      rcases hmig with h | h <;> simp [h]
    case publishes =>
      intro f tail hring hrlog hcring hclog hval hroom hahead hcompl
      rw [ht]
      refine State.kickAt_publishes hen hpriv (State.badRing_eq_false hring hrlog hcring hclog) ?_ hcompl
      exact not_or.mpr ⟨Nat.not_le.mpr hval, not_or.mpr ⟨Nat.not_lt.mpr hroom, Nat.not_le.mpr hahead⟩⟩
  case record =>
    refine ⟨exec_launchRecordTake hq hv hkicks hreread hwait hhead hmig htdisp,
      fun r qs hpages hrefused => State.takeRecord_refusedRead hpages hrefused, fun r qs r1 ps hpages hrefused hrecord => ?checked⟩
    case checked =>
      exact ⟨fun code hcode => State.takeRecord_refused hpages hrefused hrecord hcode,
        fun r2 ts t l hcode htables hlog hl => State.takeRecord_made hpages hrefused hrecord rfl hcode htables hlog hl⟩
  case entry =>
    intro chead s1 va hroom hplace hlog ctail
    have hwrite : exec (.completionEntryWrite qid) s = .next (s.writeEntry q v e) := by
      change execCompletionEntryWrite qid s = _
      simp only [execCompletionEntryWrite, hq, hlast, hv, hreread, Bool.false_eq_true, if_false]
    exact hwrite.trans (congrArg Host.Outcome.next (State.writeEntry_last hlast hrefused hqcb hroom hplace hlog))

end Sys2Proof.Machine
end

section
/-!
PROOF. Leaving a core and coming back: saves, pre-emption, the attic, bind records and restores (R216, R274, R301 to R318, R339).
-/
namespace Sys2Proof.Machine

/-! ## Saves (R314, R315) -/

/-- A cohort that a lookup by its reference finds, and its reference. -/
theorem State.ref_of_find {s : State} {r : CRef} {c : Cohort} (hc : s.cohorts.find? (fun c => c.ref == r) = some c) : c.ref = r := by
  have h := List.find?_some hc
  exact eq_of_beq h

theorem State.lightSave_clean {s : State} {c : Cohort} {since : Nat} (hclean : (s.flushMaps c since).2 = true) :
    s.lightSave c since = (s.flushMaps c since).1.leaveCore c.ref 3 := by
  rw [State.lightSave]
  generalize s.flushMaps c since = flushed at hclean ⊢
  obtain ⟨t, clean⟩ := flushed
  subst hclean
  rfl

theorem State.lightSave_dirty {s : State} {c : Cohort} {since : Nat} (hdirty : (s.flushMaps c since).2 = false) :
    s.lightSave c since = (s.flushMaps c since).1.modCohort c.ref (fun c => { c with phase := .flushing since }) := by
  rw [State.lightSave]
  generalize s.flushMaps c since = flushed at hdirty ⊢
  obtain ⟨t, clean⟩ := flushed
  subst hdirty
  rfl

section
variable {s : State} {r : CRef} {c : Cohort} (hc : s.cohorts.find? (fun c => c.ref == r) = some c)
include hc

theorem exec_saveComplete_saving {kind : Nat} (hphase : c.phase = .saving kind) :
    exec (.saveComplete r) s = .next (s.leaveCore r kind) := by
  change execSaveComplete r s = _
  rw [execSaveComplete, hc]
  dsimp only
  rw [hphase]

theorem exec_saveComplete_flushing {since : Nat} (hphase : c.phase = .flushing since) :
    exec (.saveComplete r) s = .next (s.lightSave c since) := by
  change execSaveComplete r s = _
  rw [execSaveComplete, hc]
  dsimp only
  rw [hphase]

/-- A cohort whose handlers are over, and that has a group left. -/
theorem exec_saveComplete_over (hphase : c.phase = .resident) (hbudget : c.budget.isSome = true)
    (hover : c.groups.all Group.handlerOver = true) (hleft : c.groups.all (fun x => x.retired) = false) :
    exec (.saveComplete r) s = .next (if !(s.lightOk c) then (s.startSave r 2).leaveCore r 2 else s.lightSave c s.nextId) := by
  have hnone : c.budget.isNone = false := by rw [← Option.not_isSome, hbudget]; rfl
  change execSaveComplete r s = _
  rw [execSaveComplete, hc]
  dsimp only
  rw [hphase]
  dsimp only
  rw [hnone, hover, hleft]
  exact congrArg Host.Outcome.next (if_neg Bool.false_ne_true)

/-! ## The end of a budget (R315, R317) -/

theorem exec_budgetOverrun_saved (hphase : c.phase = .resident) (hbudget : c.budget.isSome = true) (hspatial : c.spatial = false) :
    exec (.budgetOverrun r) s = .next (s.startSave r 2) := by
  have hnone : c.budget.isNone = false := by rw [← Option.not_isSome, hbudget]; rfl
  change execBudgetOverrun r s = _
  rw [execBudgetOverrun, hc]
  dsimp only
  rw [hnone, hphase, hspatial, State.forceSave, hphase, State.ref_of_find hc]
  rfl

/-- The groups of a vacated cohort that are still in their handlers end. -/
theorem exec_budgetOverrun_vacated (hphase : c.phase = .resident) (hbudget : c.budget.isSome = true) (hspatial : c.spatial = true) :
    exec (.budgetOverrun r) s = .next
      (let t := (c.groups.filter Group.inLeaveHandler).foldl (fun s x => s.vacateGroup ⟨r.lid, r.cid, x.gid⟩)
        (s.modCohort r (fun c => { c with budget := some 0 }))
      if c.groups.all (fun x => x.handlerOver || x.inLeaveHandler) then t.post (.saveComplete r) else t.startSave r 2) := by
  have hnone : c.budget.isNone = false := by rw [← Option.not_isSome, hbudget]; rfl
  change execBudgetOverrun r s = _
  rw [execBudgetOverrun, hc]
  dsimp only
  rw [hnone, hphase, hspatial]
  rfl

/-! ## The swap of a starved cohort (R339) -/

theorem exec_cohortSwap {l : Launch} {p : Partition} (hl : s.launch? r.lid = some l) (hphase : c.phase = .resident)
    (hleft : c.groups.any (fun x => !x.retired) = true) (hstarved : c.groups.all (s.starved c l) = true)
    (hserved : s.recs.any c.servedBy = true) (hp : s.part? l.part = some p) :
    exec (.cohortSwap r) s = .next ((s.modCluster (clusterOf c.core) (fun k => { k with cyc := k.cyc + p.swapw })).startSave r 2) := by
  change execCohortSwap r s = _
  rw [execCohortSwap, hc, hl]
  dsimp only
  rw [hphase, hleft, hstarved, hserved, hp]
  rfl

end

/-! ## Requests to leave (R313, R316 to R318) -/

section
variable {s : State} {lid : Nat} {l : Launch} (hl : s.launch? lid = some l) (cores : List Nat)
include hl

theorem exec_cooperativePreemptRequest : exec (.cooperativePreemptRequest lid cores) s =
    .next (((s.leavers lid cores).filter (fun c => c.budget.isNone)).foldl (fun s c =>
      if l.budget = 0 then s.forceSave c 2 else s.requestLeave c.ref 0 l.budget) s) := by
  change execCooperativePreemptRequest lid cores s = _
  rw [execCooperativePreemptRequest, hl]

theorem exec_spatialPreemptRequest : exec (.spatialPreemptRequest lid cores) s =
    (let cs := (s.leavers lid cores).filter (fun c => !c.spatial)
    .next (cs.foldl (fun s c =>
      if !l.trs then s.forceSave c 4 else if l.budget = 0 then s.forceSave c 2 else s.requestLeave c.ref 1 l.budget)
      (s.modLaunch lid (fun l => { l with
        spatial := l.spatial ++ (cs.map (fun c => c.ref)).filter (fun r => !l.spatial.contains r) })))) := by
  change execSpatialPreemptRequest lid cores s = _
  rw [execSpatialPreemptRequest, hl]

end

/-! ## The attic (R306, R310, R311) -/

theorem exec_mapAtticWriteback {s : State} {frame : Nat} {f : Frame} {l : Launch} (hf : s.frames.find? (fun f => f.id == frame) = some f)
    (hl : s.launch? f.cohort.ref.lid = some l) : exec (.mapAtticWriteback frame) s =
    (let t := ((f.mapDirty.map (fun b => b.1 / 65536)).eraseDups).foldl (fun s p => s.atticPage l f p) s
    .next (if t.cohorts.any (fun c => c.ref == f.cohort.ref) then t.post (.restoreFrameReadDone f.cohort.ref) else t)) := by
  change execMapAtticWriteback frame s = _
  rw [execMapAtticWriteback, hf]
  dsimp only
  rw [hl]

/-! ## Bind records (R216, R301, R305) -/

section
variable {s : State} {r : BindRec} {rest : List BindRec}

theorem State.bind_over (hl : s.launch? r.lid = none) : s.bind (r :: rest) false = s.send (.bindRefused r.core) := by
  rw [State.bind, hl]

variable {l : Launch} (hl : s.launch? r.lid = some l)
include hl

theorem State.bind_refused (hrefused : blockShape l (r :: rest) = false ∨ (r.restore = false ∧ r.cid ≠ l.nextCid) ∨
      (r :: rest).any (fun x => s.refuses x l (r :: rest).length) = true) :
    s.bind (r :: rest) false = s.send (.bindRefused r.core) := by
  have hcond : (!(blockShape l (r :: rest)) || (!false && !r.restore && r.cid != l.nextCid) ||
      (r :: rest).any (fun x => s.refuses x l (r :: rest).length)) = true := by
    rcases hrefused with h | ⟨hfresh, hcid⟩ | h
    · rw [h]; rfl
    · rw [hfresh, bne_iff_ne.mpr hcid]; simp
    · rw [h]; simp
  rw [State.bind, hl]
  dsimp only
  rw [if_pos hcond]
  rfl

/-- A block that no check refuses goes on to its frames. -/
theorem State.bind_goes (hshape : blockShape l (r :: rest) = true) (hcid : r.restore = true ∨ r.cid = l.nextCid)
    (hgoes : (r :: rest).any (fun x => s.refuses x l (r :: rest).length) = false) : s.bind (r :: rest) false =
    if (r :: rest).any (s.frameBad l) then s.failLaunch l.lid 0x32 0 0 (tcauseOf 0x32 0 0) 0
    else
      let s1 := (r :: rest).foldl State.writeBind s
      let vs := ((r :: rest).flatMap (fun x => s1.victims x l)).eraseDups
      if vs.isEmpty && !(r :: rest).any (fun x => s1.spilling x l) then
        ((r :: rest).foldl (fun s x => s.dispatchOne x) s1).startBlock ((r :: rest).map (fun x => ⟨x.lid, x.cid⟩))
      else s1.holdRecords (r :: rest) vs := by
  have hcond : ¬(!(blockShape l (r :: rest)) || (!false && !r.restore && r.cid != l.nextCid) ||
      (r :: rest).any (fun x => s.refuses x l (r :: rest).length)) = true := by
    rw [hshape, hgoes]
    rcases hcid with h | h <;> simp [h]
  rw [State.bind, hl]
  dsimp only
  rw [if_neg hcond]
  rfl

end

/-! ## Restores (R312) -/

theorem exec_restoreFrameReadDone {s : State} {r : CRef} {c : Cohort} (hc : s.cohorts.find? (fun c => c.ref == r) = some c) :
    exec (.restoreFrameReadDone r) s = .next (if !s.frameReady c then s
      else
        let t := (s.relock c).rejoinBands c
        let block := t.cohorts.filter (fun x => (t.wholeBlock r).contains x.ref)
        if block.all (fun x => t.frameReady x && x.benr == 0 && x.deferred.isEmpty) then block.foldl (fun s x => s.endRestore x) t
        else t) := by
  change execRestoreFrameReadDone r s = _
  rw [execRestoreFrameReadDone, hc]

theorem State.frameReady_restoring {s : State} {c : Cohort} {id : Nat} (hphase : c.phase = .restoring id) :
    s.frameReady c = ((s.frame? id).map (fun f => f.mapDirty.isEmpty && !s.redirected c && !s.dieAway f.die)).getD false := by
  rw [State.frameReady, State.restoreFrame, hphase]

/-- Settles O54: saves by the phase of the cohort, requests by the launch's budget, bind records by their checks, a restore by its
frame. -/
theorem saveAndRestoreEvents : Obligations.SaveAndRestoreEvents := by
  unfold Obligations.SaveAndRestoreEvents
  refine ⟨fun s r c lid core frame cores l f => ⟨fun hc => ?saves,
      fun hl => ⟨exec_cooperativePreemptRequest hl cores, exec_spatialPreemptRequest hl cores⟩, ?acks, fun hf hl => ?attic⟩,
    fun s r rest l => ⟨fun hl => congrArg Host.Outcome.next (State.bind_over hl), fun hl => ?bind⟩, fun s r c hc => ?restore⟩
  case saves =>
    refine ⟨fun kind hphase => exec_saveComplete_saving hc hphase, fun hphase hbudget hover hleft => ?handlersOver,
      fun since hphase hclean => ?flushed,
      fun hphase hbudget hspatial => exec_budgetOverrun_saved hc hphase hbudget hspatial, fun hphase hbudget hspatial => ?vacated,
      fun hl hphase hleft hstarved hserved p hp => exec_cohortSwap hc hl hphase hleft hstarved hserved hp⟩
    case handlersOver =>
      rw [exec_saveComplete_over hc hphase hbudget hover hleft, ← State.ref_of_find hc]
      refine ⟨fun hlight => ?_, fun hlight hclean => ?_, fun hlight hdirty => ?_⟩
      · rw [hlight]
        rfl
      · rw [hlight, State.lightSave_clean hclean]
        rfl
      · rw [hlight, State.lightSave_dirty hdirty]
        rfl
    case flushed =>
      rw [exec_saveComplete_flushing hc hphase, State.lightSave_clean hclean, State.ref_of_find hc]
    case vacated =>
      rw [exec_budgetOverrun_vacated hc hphase hbudget hspatial]
      exact ⟨fun hall => congrArg Host.Outcome.next (if_pos hall),
        fun hsome => congrArg Host.Outcome.next (if_neg (Bool.eq_false_iff.mp hsome))⟩
  case acks =>
    intro gone retry again
    refine ⟨fun hnone => ?_, fun hsome => ?_⟩ <;> change execAtticWriteAck core s = _
    · exact congrArg (fun t => Host.Outcome.next (retry (again t))) (if_pos (List.isEmpty_iff.mpr hnone))
    · exact congrArg (fun t => Host.Outcome.next (retry (again t))) (if_neg fun h => hsome (List.isEmpty_iff.mp h))
  case attic =>
    rw [exec_mapAtticWriteback hf hl]
    exact ⟨fun haway => congrArg Host.Outcome.next (if_neg (Bool.eq_false_iff.mp haway)), fun hback => congrArg Host.Outcome.next (if_pos hback)⟩
  case bind =>
    intro s1 vs
    refine ⟨fun hrefused => congrArg Host.Outcome.next (State.bind_refused hl hrefused), fun hshape hcid hgoes => ?_⟩
    have hbind := State.bind_goes hl hshape hcid hgoes
    refine ⟨fun hbad => congrArg Host.Outcome.next (hbind.trans (if_pos hbad)), fun hgood => ?_⟩
    have hact := hbind.trans (if_neg (Bool.eq_false_iff.mp hgood))
    refine ⟨fun hvs hspill => congrArg Host.Outcome.next (hact.trans (if_pos ?_)),
      fun hwait => congrArg Host.Outcome.next (hact.trans (if_neg ?_))⟩
    · rw [Bool.and_eq_true, List.isEmpty_iff, Bool.not_eq_true']
      exact ⟨hvs, hspill⟩
    · rw [Bool.and_eq_true, List.isEmpty_iff, Bool.not_eq_true', Classical.not_and_iff_not_or_not, Bool.not_eq_false]
      exact hwait
  case restore =>
    intro t block ready
    rw [exec_restoreFrameReadDone hc]
    refine ⟨fun hwait => ?_, fun hread hready => ?_, fun hread hready => ?_, fun id => State.frameReady_restoring⟩
    · rw [hwait]
      rfl
    · rw [hread]
      exact congrArg Host.Outcome.next (if_pos hready)
    · rw [hread]
      exact congrArg Host.Outcome.next (if_neg (Bool.eq_false_iff.mp hready))

end Sys2Proof.Machine
end

section
/-!
PROOF. The storage tier: frame lists, storage faults, sweeps and write-backs (R348, R351 to R354).
-/
namespace Sys2Proof.Machine

/-! ## What leaving a drive and changing a pool keep -/

/-- A part of the state that neither a post nor an engine's queues change stays when work leaves a drive. -/
theorem State.leaveDrive_frame {β : Type} (view : State → β) (hpost : ∀ s i, view (State.post s i) = view s)
    (hengine : ∀ s e f, view (State.modEngine s e f) = view s) (s : State) (e : EngineId) (work : DriveWork) :
    view (s.leaveDrive e work) = view s := by
  have hwork : ∀ (s : State) (x : DriveIo), view (s.postDrive x.work) = view s := by
    intro s x
    unfold State.postDrive State.postWork
    cases x.work with
    | cmd id => dsimp only; split <;> (try split) <;> simp only [hpost]
    | read rec => exact hpost _ _
    | write vif ipa => exact hpost _ _
  unfold State.leaveDrive
  split
  · rfl
  · exact (hpost _ _).trans ((foldl_frame view _ hwork _ _).trans (hengine _ _ _))

/-- Changing an engine's queues changes the engines alone. -/
theorem State.modEngine_eq (s : State) (e : EngineId) (f : Engine → Engine) : ∃ es, s.modEngine e f = { s with engines := es } := by
  unfold State.modEngine
  split <;> exact ⟨_, rfl⟩

section
variable (s : State) (e : EngineId) (work : DriveWork)

theorem State.leaveDrive_pkg : (s.leaveDrive e work).pkg = s.pkg :=
  State.leaveDrive_frame State.pkg State.post_pkg (fun s e f => by obtain ⟨es, h⟩ := s.modEngine_eq e f; rw [h]) s e work

theorem State.leaveDrive_mem : (s.leaveDrive e work).mem = s.mem :=
  State.leaveDrive_frame State.mem State.post_mem (fun s e f => by obtain ⟨es, h⟩ := s.modEngine_eq e f; rw [h]) s e work

theorem State.leaveDrive_dies : (s.leaveDrive e work).dies = s.dies :=
  State.leaveDrive_frame State.dies State.post_dies (fun s e f => by obtain ⟨es, h⟩ := s.modEngine_eq e f; rw [h]) s e work

theorem State.leaveDrive_parts : (s.leaveDrive e work).parts = s.parts :=
  State.leaveDrive_frame State.parts State.post_parts (fun s e f => by obtain ⟨es, h⟩ := s.modEngine_eq e f; rw [h]) s e work

theorem State.leaveDrive_vifs : (s.leaveDrive e work).vifs = s.vifs :=
  State.leaveDrive_frame State.vifs State.post_vifs (fun s e f => by obtain ⟨es, h⟩ := s.modEngine_eq e f; rw [h]) s e work

end

/-- The hypervisor stage reads its tables at their homes: it depends on the memory, the dies and the partitions' routes. -/
theorem State.hypFrom_congr {s t : State} (hpkg : t.pkg = s.pkg) (hmem : t.mem = s.mem) (hdies : t.dies = s.dies)
    (hparts : t.parts = s.parts) (w : WalkEnv) (ipa n level table : Nat) :
    t.hypFrom w ipa n level table = s.hypFrom w ipa n level table := by
  induction n generalizing level table with
  | zero => rfl
  | succ n ih =>
    have haway (pa : Nat) : t.homeUnavailable pa = s.homeUnavailable pa := by
      simp only [State.homeUnavailable, State.local, State.dieAway, State.die?, hpkg, hdies]
    have hquiet (q : Req) (pa : Nat) : t.quiesced q pa = s.quiesced q pa := by
      simp only [State.quiesced, State.unrouted, State.local, State.die?, State.part?, hpkg, hdies, hparts]
    have hbytes (pa n : Nat) : t.homeBytes pa n = s.homeBytes pa n := by
      simp only [State.homeBytes, State.homeByte, State.rdcDirtyByte?, hmem, hdies]
    simp only [State.hypFrom, haway, hquiet, hbytes, hpkg, ih]

theorem State.vif?_modPool (s : State) (n k : Nat) (f : Pool → Pool) :
    (s.modPool n f).vif? k = if k == n then (s.vif? k).map (fun v => { v with pool := f v.pool }) else s.vif? k :=
  s.vif?_modVif n k _ fun _ => rfl

/-- What a context's walks read with does not depend on its frame pool. -/
theorem State.walkEnv?_modPool (s : State) (n k : Nat) (f : Pool → Pool) : (s.modPool n f).walkEnv? k = s.walkEnv? k := by
  rw [State.walkEnv?, State.walkEnv?, State.vif?_modPool]
  by_cases h : (k == n) = true
  · rw [if_pos h]
    cases s.vif? k <;> rfl
  · rw [if_neg h]
    rfl

/-- The blocks of a storage entry depend on the context's partition alone. -/
theorem State.entryBlocks_congr {s t : State} (hparts : t.parts = s.parts) {vif : Nat}
    (hpart : (t.vif? vif).map (fun v => v.part) = (s.vif? vif).map (fun v => v.part)) (entry : Nat) :
    t.entryBlocks vif entry = s.entryBlocks vif entry := by
  have hno (u : State) : (u.vif? vif).bind (fun v => u.part? v.part) = ((u.vif? vif).map (fun v => v.part)).bind u.part? := by
    rw [Option.bind_map]
    rfl
  have hfind : t.part? = s.part? := by
    funext no
    simp only [State.part?, hparts]
  have hsame : (t.vif? vif).bind (fun v => t.part? v.part) = (s.vif? vif).bind (fun v => s.part? v.part) := by
    rw [hno, hno, hpart, hfind]
  rw [State.entryBlocks, State.entryBlocks, hsame]

theorem State.pageIo_congr {s t : State} {vif entry : Nat} (h : t.entryBlocks vif entry = s.entryBlocks vif entry) (classH : Bool)
    (work : DriveWork) : t.pageIo vif entry classH work = s.pageIo vif entry classH work := by
  simp only [State.pageIo, h]

/-! ## The list of frames (R351) -/

section
variable {s t : State} {vif : Nat} {value : DWord} {v : Vif} (hv : s.vif? vif = some v) (hused : v.pool.used = [])
include hv hused

theorem exec_flist_unreached (hreach : s.ipaReach v value.toNat (8 * min v.fnum (2 ^ 20)) false = (t, none)) :
    exec (.flist vif value) s = .next { t with inputs := t.inputs ++ [.flist vif value] } := by
  change execFlist vif value s = _
  rw [execFlist]
  generalize State.ipaReach = reach at hreach ⊢
  as_aux_lemma =>
    rw [hv]
    dsimp only
    rw [hused, hreach]
    rfl

theorem exec_flist_read {ps : List DevPart} {kept : List Nat} {bad : Nat}
    (hreach : s.ipaReach v value.toNat (8 * min v.fnum (2 ^ 20)) false = (t, some ps))
    (hkeep : t.keepFrames vif ((List.range (min v.fnum (2 ^ 20))).map (fun k => fieldLE (t.devBytes ps) (8 * k) 8)) = some (kept, bad)) :
    exec (.flist vif value) s = .next ((t.modVif vif (fun v => { v with
      flistReg := value.toNat, pool := { list := kept, bad := bad, free := kept.map PoolFrame.empty, used := [], hands := [] } })).wakeStorage
        vif) := by
  change execFlist vif value s = _
  rw [execFlist]
  generalize State.ipaReach = reach at hreach ⊢
  generalize State.keepFrames = keep at hkeep ⊢
  as_aux_lemma =>
    rw [hv]
    dsimp only
    rw [hused, hreach]
    dsimp only
    rw [if_neg (by decide), hkeep]

end

/-! ## The storage fault (R352, R353) -/

/-- A frame is taken for a record; a rescued one needs no read. -/
def State.takenBy (s : State) (id : Nat) (r : FaultRec) (f : PoolFrame) (rescued : Option Bool) : State :=
  (s.modPool r.vif (fun p => { p with
    free := p.free.filter (fun x => x.ipa != f.ipa)
    used := p.used.filter (fun x => x.ipa != f.ipa) ++ [{ f with page := some r.page, saved := some r.pte }] })).modRec id
      (fun r => { r with frame := some f.ipa, rescued := rescued })

section
variable {s : State} {id : Nat} {v : Vif} {r : FaultRec} (hr : s.rec? id = some r) (hv : s.vif? r.vif = some v)
include hr hv

section
variable (hkind : r.kind = 5) (hframe : r.frame = none)
include hkind hframe

theorem exec_storageFrameTaken_rescued {f : PoolFrame} (hf : v.pool.rescue? r.pte = some f) :
    exec (.storageFrameTaken id) s =
      .next (((s.takenBy id r f (some (f.pinned || f.writing))).post (.storagePageReadDone id true)).postSweeps r.vif) := by
  change execStorageFrameTaken id s = _
  simp only [execStorageFrameTaken, hr, hv, hkind, hframe, hf, ne_eq, not_true_eq_false, Option.isSome_none, Bool.false_eq_true, or_self,
    if_false]
  rfl

theorem exec_storageFrameTaken_free {f : PoolFrame} {rest : List PoolFrame} (hnone : v.pool.rescue? r.pte = none)
    (hf : v.pool.free = f :: rest) : exec (.storageFrameTaken id) s =
      .next (((s.takenBy id r f none).queuePage (.storage (bitsOf r.pte.toNat 59 56))
        ((s.takenBy id r f none).pageIo r.vif r.pte.toNat r.classH (.read id))).postSweeps r.vif) := by
  change execStorageFrameTaken id s = _
  simp only [execStorageFrameTaken, hr, hv, hkind, hframe, hnone, hf, ne_eq, not_true_eq_false, Option.isSome_none, Bool.false_eq_true,
    or_self, if_false]
  rfl

theorem exec_storageFrameTaken_none (hnone : v.pool.rescue? r.pte = none) (hf : v.pool.free = []) :
    exec (.storageFrameTaken id) s = .next (s.postSweeps r.vif) := by
  change execStorageFrameTaken id s = _
  simp only [execStorageFrameTaken, hr, hv, hkind, hframe, hnone, hf, ne_eq, not_true_eq_false, Option.isSome_none, Bool.false_eq_true,
    or_self, if_false]

end

/-! ## The end of a page's read (R352, R353) -/

section
variable {ipa : Nat} (hframe : r.frame = some ipa) (haway : s.homeUnavailable r.ipa = false) (hquiet : s.quiesced v.req r.ipa = false)
include hframe haway hquiet

theorem exec_storagePageReadDone_rescued (hrescued : r.rescued.isSome = true) (ok : Bool) :
    exec (.storagePageReadDone id ok) s = .next (s.storageResolve v r ipa) := by
  change execStoragePageReadDone id ok s = _
  rw [execStoragePageReadDone]
  generalize State.ipaReach = reach
  as_aux_lemma =>
    rw [hr]
    dsimp only
    rw [hv, hframe]
    dsimp only
    rw [haway, hquiet, hrescued]
    rfl

variable (hrescued : r.rescued = none) {io : DriveIo}
  (hdrive : s.onDrive? (.storage (s.entryBlocks r.vif r.pte.toNat).1) (.read id) = some io)
  (hturn : s.driveBusyFor (.storage (s.entryBlocks r.vif r.pte.toNat).1) (.read id) = false)
include hrescued hdrive hturn

/-- The page's blocks go to the frame under the context's key. -/
theorem exec_storagePageReadDone_filled {t : State} {ps : List DevPart} (hreach : s.ipaReach v ipa 65536 true = (t, some ps)) :
    let b := s.entryBlocks r.vif r.pte.toNat
    exec (.storagePageReadDone id true) s = .next (((t.devStore v ps (t.readBlocks b.1 b.2.1 b.2.2 16 v.kdom)).leaveDrive (.storage b.1)
      (.read id)).storageResolve v r ipa) := by
  intro b
  change execStoragePageReadDone id true s = _
  rw [execStoragePageReadDone]
  generalize State.ipaReach = reach at hreach ⊢
  as_aux_lemma =>
    rw [hr]
    dsimp only
    rw [hv, hframe]
    dsimp only
    rw [haway, hquiet, hrescued, hdrive, hturn, hreach]
    rfl

/-- The disposition of a failed read. -/
theorem exec_storagePageReadDone_failed : exec (.storagePageReadDone id false) s = .next
    (let e : EngineId := .storage (s.entryBlocks r.vif r.pte.toNat).1
    if r.tries < 2 then
      ((s.modRec id (fun r => { r with tries := r.tries + 1 })).leaveDrive e (.read id)).queuePage e
        (s.pageIo r.vif r.pte.toNat r.classH (.read id))
    else
      (((s.modPool r.vif (fun p => p.release ipa (fun f => { f with page := none, saved := none }))).leaveDrive e
        (.read id)).answerRefused r).wakeStorage r.vif) := by
  change execStoragePageReadDone id false s = _
  rw [execStoragePageReadDone]
  generalize State.ipaReach = reach
  as_aux_lemma =>
    rw [hr]
    dsimp only
    rw [hv, hframe]
    dsimp only
    rw [haway, hquiet, hrescued, hdrive, hturn]
    rfl

end
end

/-- The read that is made again names the blocks that it named before. -/
theorem State.pageIo_retried (s : State) (id : Nat) (f : FaultRec → FaultRec) (e : EngineId) (work : DriveWork) (vif entry : Nat)
    (classH : Bool) (w : DriveWork) :
    ((s.modRec id f).leaveDrive e work).pageIo vif entry classH w = s.pageIo vif entry classH w :=
  State.pageIo_congr (State.entryBlocks_congr (State.leaveDrive_parts _ _ _)
    (by rw [State.vif?, State.leaveDrive_vifs]; rfl) entry) classH w

/-! ## Sweeps and write-backs (R354) -/

/-- The one frame of a pool is swept while fewer than FLOW frames are free. -/
theorem exec_reclaimSweep_one {s : State} {vif engine ipa : Nat} {v : Vif} {f : PoolFrame} (hv : s.vif? vif = some v)
    (hlist : v.pool.list = [ipa]) (hfew : v.pool.free.length < v.flow) (hhand : SMap.get v.pool.hands 0 engine = 0)
    (hf : v.pool.used.find? (fun f => f.ipa == ipa && !f.pinned && !f.writing &&
      ((f.saved.map (fun e => bitsOf e.toNat 59 56 == engine)).getD false)) = some f) {v' : Vif}
    (hv' : ((((s.sweepFrame v f).1.modPool vif (fun p => { p with
      hands := SMap.set p.hands 0 engine (1 % max 1 p.list.length) })).wakeStorage vif).vif? vif) = some v') :
    exec (.reclaimSweep vif engine) s = .next
      (let t := ((s.sweepFrame v f).1.modPool vif (fun p => { p with
        hands := SMap.set p.hands 0 engine (1 % max 1 p.list.length) })).wakeStorage vif
      if (s.sweepFrame v f).2 && v'.pool.free.length < v'.flow then t.post (.reclaimSweep vif engine) else t) := by
  change execReclaimSweep vif engine s = _
  simp only [execReclaimSweep, hv, hlist, hhand, List.drop_zero, List.take_zero, List.append_nil, List.foldl_cons, List.foldl_nil,
    Nat.not_le.mpr hfew, if_false, hf, Bool.false_or, Nat.zero_add, hv']

section
variable {s : State} {vif ipa : Nat} {v : Vif} {f : PoolFrame} (hv : s.vif? vif = some v)
  (hf : v.pool.used.find? (fun f => f.ipa == ipa && f.writing) = some f) {e : DWord} (he : f.saved = some e) {io : DriveIo}
  (hdrive : s.onDrive? (.storage (s.entryBlocks vif e.toNat).1) (.write vif ipa) = some io)
  (hturn : s.driveBusyFor (.storage (s.entryBlocks vif e.toNat).1) (.write vif ipa) = false)
include hv hf he hdrive hturn

theorem exec_reclaimWritebackDone_written {t : State} {ps : List DevPart} (hreach : s.ipaReach v ipa 65536 false = (t, some ps)) :
    let b := s.entryBlocks vif e.toNat
    exec (.reclaimWritebackDone vif ipa true) s = .next (((((t.writeBlocks b.1 b.2.1 b.2.2 16 v.kdom (t.devBytes ps)).leaveDrive
      (.storage b.1) (.write vif ipa)).modPool vif (fun p =>
        if f.page.isNone then p.release ipa (fun f => { f with writing := false })
        else p.modUsed ipa (fun f => { f with writing := false }))).wakeStorage vif).postSweeps vif) := by
  intro b
  change execReclaimWritebackDone vif ipa true s = _
  rw [execReclaimWritebackDone]
  generalize State.ipaReach = reach at hreach ⊢
  as_aux_lemma =>
    rw [hv]
    dsimp only
    rw [hf]
    dsimp only
    rw [he]
    dsimp only
    rw [hdrive, hturn, Option.isNone_some, Bool.or_self, if_neg Bool.false_ne_true, if_pos rfl, hreach]

/-- The disposition of a failed write-back. -/
theorem exec_reclaimWritebackDone_failed : exec (.reclaimWritebackDone vif ipa false) s = .next
    (let d : EngineId := .storage (s.entryBlocks vif e.toNat).1
    if f.tries < 2 then
      ((s.modPool vif (fun p => p.modUsed ipa (fun f => { f with tries := f.tries + 1 }))).leaveDrive d (.write vif ipa)).queuePage d
        (s.pageIo vif e.toNat true (.write vif ipa))
    else
      ((s.modPool vif (fun p => p.modUsed ipa (fun f => { f with writing := false, pinned := true }))).leaveDrive d (.write vif ipa)).logError
        { ErrRec.zero with etype := 7, action := 7, src := 6, die := 4 + (s.entryBlocks vif e.toNat).1 / 8,
                           unit := (s.entryBlocks vif e.toNat).1, pa := (s.ipaPa vif ipa).getD 0, part := v.part, kdom := v.kdom,
                           va := 65536 * f.page.getD 0 }) := by
  change execReclaimWritebackDone vif ipa false s = _
  rw [execReclaimWritebackDone]
  generalize State.ipaReach = reach
  as_aux_lemma =>
    rw [hv]
    dsimp only
    rw [hf]
    dsimp only
    rw [he]
    dsimp only
    rw [hdrive, hturn]
    rfl

end

section
variable (s : State) (vif : Nat) (g : Pool → Pool) (e : EngineId) (work : DriveWork)

/-- A write-back that is made again names the blocks that it named before. -/
theorem State.pageIo_poolRetried (entry : Nat) (classH : Bool) (w : DriveWork) :
    ((s.modPool vif g).leaveDrive e work).pageIo vif entry classH w = s.pageIo vif entry classH w := by
  have hparts : ((s.modPool vif g).leaveDrive e work).parts = s.parts := State.leaveDrive_parts _ _ _
  refine State.pageIo_congr (State.entryBlocks_congr hparts ?_ entry) classH w
  rw [State.vif?, State.leaveDrive_vifs]
  change ((s.modPool vif g).vif? vif).map _ = _
  rw [State.vif?_modPool, beq_self_eq_true, if_pos rfl, Option.map_map]
  rfl

/-- The PA of a frame does not depend on its pool or on the drives. -/
theorem State.ipaPa_poolRetried (ipa : Nat) : ((s.modPool vif g).leaveDrive e work).ipaPa vif ipa = s.ipaPa vif ipa := by
  have henv : ((s.modPool vif g).leaveDrive e work).walkEnv? vif = s.walkEnv? vif := by
    refine Eq.trans ?_ (s.walkEnv?_modPool vif vif g)
    simp only [State.walkEnv?, State.vif?, State.part?, State.leaveDrive_vifs, State.leaveDrive_parts]
  have hwalk (w : WalkEnv) (a : Nat) : ((s.modPool vif g).leaveDrive e work).hypWalk w a = s.hypWalk w a :=
    State.hypFrom_congr (State.leaveDrive_pkg _ _ _) (State.leaveDrive_mem _ _ _) (State.leaveDrive_dies _ _ _)
      (State.leaveDrive_parts _ _ _) w a 5 4 w.hroot
  simp only [State.ipaPa, henv, hwalk]

end

/-- Settles O44: FLIST by its list, a storage fault by the frame it finds, its read and a write-back by how they end, a sweep over one
frame. -/
theorem storageEvents : Obligations.StorageEvents := by
  unfold Obligations.StorageEvents
  refine ⟨fun s t vif id value v r => ⟨fun hv hused => ?list, fun hr hv hkind => ?fault⟩,
    fun s t vif ipa engine v f hv => ⟨fun hlist hfew hhand hf => ?sweep, fun hf e io he => ?writeBack⟩⟩
  case list =>
    exact ⟨exec_flist_unreached hv hused, fun ps kept bad hreach hkeep => exec_flist_read hv hused hreach hkeep⟩
  case fault =>
    intro read
    refine ⟨fun hframe => ⟨fun f hf => exec_storageFrameTaken_rescued hr hv hkind hframe hf,
      fun f rest hnone hf => exec_storageFrameTaken_free hr hv hkind hframe hnone hf,
      fun hnone hf => exec_storageFrameTaken_none hr hv hkind hframe hnone hf⟩, fun ipa hframe haway hquiet => ?read⟩
    intro b e
    refine ⟨fun hrescued ok => exec_storagePageReadDone_rescued hr hv hframe haway hquiet hrescued ok, fun hrescued hdrive hturn => ?_⟩
    have hfailed := exec_storagePageReadDone_failed hr hv hframe haway hquiet hrescued hdrive hturn
    refine ⟨fun ps hreach => exec_storagePageReadDone_filled hr hv hframe haway hquiet hrescued hdrive hturn hreach, fun htries => ?_,
      fun htries => hfailed.trans (congrArg Host.Outcome.next (if_neg (Nat.not_lt.mpr htries)))⟩
    intro u
    have hio : u.pageIo r.vif r.pte.toNat r.classH (.read id) = read := State.pageIo_retried _ _ _ _ _ _ _ _ _
    rw [hio]
    exact hfailed.trans (congrArg Host.Outcome.next (if_pos htries))
  case sweep =>
    intro a t v' hv'
    exact exec_reclaimSweep_one hv hlist hfew hhand hf hv'
  case writeBack =>
    intro b d work hdrive hturn
    have hfailed := exec_reclaimWritebackDone_failed hv hf he hdrive hturn
    refine ⟨fun ps hreach => exec_reclaimWritebackDone_written hv hf he hdrive hturn hreach, fun htries => ?_, fun htries => ?_⟩
    · intro u
      have hio : u.pageIo vif e.toNat true work = s.pageIo vif e.toNat true work := State.pageIo_poolRetried _ _ _ _ _ _ _ _
      rw [hio]
      exact hfailed.trans (congrArg Host.Outcome.next (if_pos htries))
    · intro u
      have hpa : u.ipaPa vif ipa = s.ipaPa vif ipa := State.ipaPa_poolRetried _ _ _ _ _ _
      rw [hpa]
      exact hfailed.trans (congrArg Host.Outcome.next (if_neg (Nat.not_lt.mpr htries)))

end Sys2Proof.Machine
end

section
/-!
PROOF. Virtual interfaces: their TDISP states, their creation, and key domain loads (Table 22.2, R367 to R369, R373).
-/
namespace Sys2Proof.Machine

/-! ## TDISP states (Table 22.2) -/

/-- What the host's attempt to change a locked item does to an interface in a state. -/
def State.itemChanged (s : State) (vif : Nat) : Tdisp → State
  | .locked => s.modVif vif (fun v => { v with tdisp := .error })
  | .run => (s.modVif vif (fun v => { v with tdisp := .error })).vifEnd vif 0x32
  | _ => s

section
variable {s : State} {vif : Nat} {v : Vif} (hv : s.vif? vif = some v)
include hv

theorem exec_stopInterface_unlocked (hunlocked : v.tdisp = .unlocked) : exec (.stopInterface vif) s = .next s := by
  change execStopInterface vif s = _
  rw [execStopInterface, hv]
  dsimp only
  rw [if_pos hunlocked]

/-- The state of a stopping interface before its scrub: one that runs is locked, and its launches have ended. -/
def State.stopRun (s : State) (vif : Nat) (v : Vif) : State :=
  if v.tdisp = .run then (s.modVif vif (fun v => { v with tdisp := .locked })).vifEnd vif 0x38 else s

theorem exec_stopInterface_locked (hlocked : v.tdisp ≠ .unlocked) : exec (.stopInterface vif) s = .next
    ((if (s.stopRun vif v).vifBusy vif then none else (s.stopRun vif v).unlockScrub v).elim
      ((s.stopRun vif v).modVif vif (fun v => { v with unlocking := true }))
      fun u => u.modVif vif (fun v => { v with tdisp := .unlocked, unlocking := false })) := by
  change execStopInterface vif s = _
  rw [execStopInterface, hv]
  dsimp only
  rw [if_neg hlocked]
  generalize hscrub : (if (s.stopRun vif v).vifBusy vif then none else (s.stopRun vif v).unlockScrub v) = scrubbed
  change Host.Outcome.next (match (if (s.stopRun vif v).vifBusy vif then none else (s.stopRun vif v).unlockScrub v) with
    | none => (s.stopRun vif v).modVif vif (fun v => { v with unlocking := true })
    | some s => s.modVif vif (fun v => { v with tdisp := .unlocked, unlocking := false })) = _
  rw [hscrub]
  cases scrubbed <;> rfl

theorem exec_lockedItemChange : exec (.lockedItemChange vif) s = .next (s.itemChanged vif v.tdisp) := by
  change execLockedItemChange vif s = _
  rw [execLockedItemChange, hv]
  dsimp only
  cases v.tdisp <;> rfl

end

/-! ## Creation (R367) -/

/-- What refuses the creation of an interface: bring-up before step 6, a number out of range, a locked or busy interface of its number,
or a queue of another. -/
theorem interfaceCreation_refused_iff (s : State) (d : VifDef) :
    (decide (s.hearth.step < 6) || decide (64 ≤ d.vif) || decide (64 ≤ d.kdom) ||
      ((s.vif? d.vif).map (fun v => v.tdisp != .unlocked || s.vifBusy d.vif)).getD false ||
      s.queues.any (fun q => q.vif != d.vif && d.queues.any (fun k => k.qid == q.qid))) = true ↔
    (s.hearth.step < 6 ∨ 64 ≤ d.vif ∨ 64 ≤ d.kdom ∨
      (∃ v, s.vif? d.vif = some v ∧ (v.tdisp ≠ .unlocked ∨ s.vifBusy d.vif = true)) ∨
      (∃ q k, q ∈ s.queues ∧ k ∈ d.queues ∧ q.vif ≠ d.vif ∧ k.qid = q.qid)) := by
  have hold : ((s.vif? d.vif).map (fun v => v.tdisp != .unlocked || s.vifBusy d.vif)).getD false = true ↔
      ∃ v, s.vif? d.vif = some v ∧ (v.tdisp ≠ .unlocked ∨ s.vifBusy d.vif = true) := by
    cases s.vif? d.vif <;> simp
  have htaken : s.queues.any (fun q => q.vif != d.vif && d.queues.any (fun k => k.qid == q.qid)) = true ↔
      ∃ q k, q ∈ s.queues ∧ k ∈ d.queues ∧ q.vif ≠ d.vif ∧ k.qid = q.qid := by
    simp only [List.any_eq_true, Bool.and_eq_true, bne_iff_ne, beq_iff_eq]
    exact ⟨fun ⟨q, hq, hne, k, hk, heq⟩ => ⟨q, k, hq, hk, hne, heq⟩, fun ⟨q, k, hq, hk, hne, heq⟩ => ⟨q, hq, hne, k, hk, heq⟩⟩
  simp only [Bool.or_eq_true, decide_eq_true_eq, hold, htaken, or_assoc]

/-! ## Key domains (R373) -/

theorem exec_keyDomainLoad {s : State} {kdom key : Nat} (hfree : s.queues.filter (fun q => fieldLE q.shadow 3 1 == kdom) = [])
    (hstep : 5 ≤ s.hearth.step) (hkdom : kdom < 64) : exec (.keyDomainLoad kdom key) s = .next
      (let d : ScrubDef := { reason := 2, vif := 0, part := 0, kdom := kdom, ranges := [], ipa := 0 }
      let t := if s.kdoms.any (fun k => k.no == kdom && k.loaded) then (s.scrub d).1.sendReceipt d (s.scrub d).2 else s
      { t with kdoms := t.kdoms.filter (fun k => k.no != kdom) ++ [{ no := kdom, loaded := true, key := key, scrubbed := false }] }) := by
  have hgoes : ¬(decide (s.hearth.step < 5) || decide (64 ≤ kdom)) = true := by
    rw [Bool.or_eq_true, decide_eq_true_eq, decide_eq_true_eq]
    omega
  change execKeyDomainLoad kdom key s = _
  rw [execKeyDomainLoad, hfree]
  dsimp only
  rw [if_neg (by decide), if_neg hgoes]

/-- Settles O57: the moves of Table 22.2 by the state of the interface, its creation by what refuses one, a load by what the domain
held. -/
theorem interfaceEvents : Obligations.InterfaceEvents := by
  unfold Obligations.InterfaceEvents
  refine ⟨fun s vif v => ?states, fun s d kdom key => ⟨?creation, fun hfree hstep hkdom => ?load⟩⟩
  case states =>
    intro move hv
    have hchange := exec_lockedItemChange hv
    refine ⟨fun _ => rfl, fun _ => rfl, fun h => ⟨exec_stopInterface_unlocked hv h, ?_⟩, fun hlocked => ?stop,
      fun h => ?_, fun h => ?_, fun h => ?_⟩
    case stop =>
      intro t
      have hstop := exec_stopInterface_locked hv hlocked
      refine ⟨fun hwaits => ?_, fun u hidle hscrub => ?_⟩
      · have hnone : (if t.vifBusy vif then none else t.unlockScrub v) = none := by
          rcases hwaits with h | h
          · rw [if_pos h]
          · rw [h, ite_self]
        exact hstop.trans (congrArg (fun o => Host.Outcome.next (Option.elim o _ _)) hnone)
      · have hsome : (if t.vifBusy vif then none else t.unlockScrub v) = some u := by
          rw [hidle, hscrub]
          rfl
        exact hstop.trans (congrArg (fun o => Host.Outcome.next (Option.elim o _ _)) hsome)
    all_goals
      rw [hchange, h]
      rfl
  case creation =>
    intro refused
    have hiff := interfaceCreation_refused_iff s d
    exact ⟨fun h => congrArg Host.Outcome.next (if_pos (hiff.mpr h)), fun h => congrArg Host.Outcome.next (if_neg (mt hiff.mp h))⟩
  case load =>
    intro d load
    have hload := exec_keyDomainLoad (key := key) hfree hstep hkdom
    exact ⟨fun h => hload.trans (congrArg (fun t => Host.Outcome.next (load t)) (if_neg (Bool.eq_false_iff.mp h))),
      fun h => hload.trans (congrArg (fun t => Host.Outcome.next (load t)) (if_pos h))⟩

end Sys2Proof.Machine
end

section
/-!
PROOF. Migration of an interface: its commands, the step to stopped, and the chunks of the window (Table 22.3, R370 to R372).
-/
namespace Sys2Proof.Machine

/-! ## Commands of MIGCMD (R370, R372) -/

section
variable {s : State} {vif : Nat} {v : Vif} (hv : s.vif? vif = some v) (ok : Vif → Bool) (f : Vif → State → State)
include hv

theorem State.migCmd_locked (hlocked : v.tdisp = .locked ∨ v.tdisp = .run) : s.migCmd vif ok f = s.send (.refusedChange vif) := by
  rw [State.migCmd, hv]
  exact if_pos hlocked

/-- A command of an interface that is not locked is noted, and goes on where the migration state allows it. -/
theorem State.migCmd_open (hlocked : v.tdisp ≠ .locked) (hrun : v.tdisp ≠ .run) : s.migCmd vif ok f =
    (let t := s.modVif vif (fun x => { x with migRef := false, migMiss := false, migBadc := !ok x })
    if ok v then f v t else t) := by
  rw [State.migCmd, hv]
  exact if_neg (not_or.mpr ⟨hlocked, hrun⟩)

/-! ## The step to stopped (R371) -/

theorem exec_migrationStopped (hmig : v.mig = .stopping) (hcohorts : s.vifCohorts vif = [])
    (hcmds : s.cmds.any (fun k => k.vif == vif) = false)
    (hframes : (s.vifFrames vif).any (fun f => !f.mapDirty.isEmpty || s.unsettled f.cohort) = false) :
    exec (.migrationStopped vif) s = .next (s.modVif vif (fun x => Vif.place
      { x with mig := .stopped, chunks := x.chunks ++ [5, 6, 7, 8].flatMap (fun k => chunksOf k (s.section v k)) })) := by
  change execMigrationStopped vif s = _
  rw [execMigrationStopped, hv]
  dsimp only
  rw [if_neg (by simp [hmig, hcohorts, hcmds, hframes])]

end

/-! ## Chunks (R372) -/

/-- What MIGACK does at a source, by whether it acknowledges the chunk that stands in the window. -/
theorem migackSource_cases (here : Bool) (x : Vif) (seq : Nat) :
    (if here && x.migFull && seq + 1 == x.migNext then
      Vif.place { x with
        chunks := x.chunks.drop 1, migFull := false
        migEnd := x.migEnd || ((x.chunks.head?.map (fun c => c.sec == 8)).getD false && (x.chunks.drop 1).isEmpty) }
    else x) =
    match here && x.migFull && seq + 1 == x.migNext, x.chunks with
    | true, c :: rest => Vif.place { x with chunks := rest, migFull := false, migEnd := x.migEnd || (c.sec == 8 && rest.isEmpty) }
    | true, [] => { x with migFull := false }
    | false, _ => x := by
  cases here && x.migFull && seq + 1 == x.migNext
  · rfl
  · cases hchunks : x.chunks with
    | nil =>
      simp only [if_true, List.drop_nil, List.head?_nil, Option.map_none, Option.getD_none, Bool.false_and, Bool.or_false, Vif.place]
    | cons c rest => rfl

/-- The checks of MIGACK at a destination. -/
theorem migackDestination_good_iff (x : Vif) (seq : Nat) (f : Nat → Nat → Nat) (data : List Byte) :
    (f 0 4 == seq && seq == x.migNext && decide (f 8 4 ≤ chunkMax) && (f 4 2, f 0x10 8) == x.expects &&
      w64 (f 0x18 8) == Config.migrationTag x.no (x.window.bytes 0 24 ++ data)) = true ↔
    (f 0 4 = seq ∧ seq = x.migNext ∧ f 8 4 ≤ chunkMax ∧ (f 4 2, f 0x10 8) = x.expects ∧
      BitVec.ofNat 64 (f 0x18 8) = Config.migrationTag x.no (x.window.bytes 0 24 ++ data)) := by
  simp only [Bool.and_eq_true, beq_iff_eq, decide_eq_true_eq, and_assoc]
  rfl

/-- Settles O59: each command by Table 22.3, the step to stopped, MIGACK by what it acknowledges or checks. -/
theorem migrationEvents : Obligations.MigrationEvents := by
  unfold Obligations.MigrationEvents
  refine ⟨fun s vif v hv => ?commands, fun s vif seq v =>
    ⟨fun hv hmig hcohorts hcmds hframes => exec_migrationStopped hv hmig hcohorts hcmds hframes, ?source, ?destination⟩⟩
  case commands =>
    intro cmds
    refine ⟨fun hlocked i hi => ?_, fun hlocked hrun => ?_⟩
    · simp only [cmds, List.mem_cons, List.not_mem_nil, or_false] at hi
      rcases hi with rfl | rfl | rfl | rfl | rfl <;> exact congrArg Host.Outcome.next (State.migCmd_locked hv _ _ hlocked)
    · intro marked running precopy stopped arrival resuming t all
      have hopen (ok : Vif → Bool) (f : Vif → State → State) := State.migCmd_open hv ok f hlocked hrun
      have hgoes {ok : Vif → Bool} (h : ok v = true) (f : Vif → State → State) : s.migCmd vif ok f = f v (marked ok) :=
        (hopen ok f).trans (if_pos h)
      have hnot {ok : Vif → Bool} (h : ok v = false) (f : Vif → State → State) : s.migCmd vif ok f = marked ok :=
        (hopen ok f).trans (if_neg (Bool.eq_false_iff.mp h))
      refine ⟨fun h => congrArg Host.Outcome.next (hgoes h _), fun h => congrArg Host.Outcome.next (hgoes h _),
        fun h => congrArg Host.Outcome.next (hgoes h _), fun h => congrArg Host.Outcome.next (hgoes h _),
        fun h hall => congrArg Host.Outcome.next ((hgoes h _).trans (if_pos hall)),
        fun h hall => congrArg Host.Outcome.next ((hgoes h _).trans (if_neg (Bool.eq_false_iff.mp hall))),
        fun h => congrArg Host.Outcome.next (hnot h _), fun h => congrArg Host.Outcome.next (hnot h _),
        fun h => congrArg Host.Outcome.next (hnot h _), fun h => congrArg Host.Outcome.next (hnot h _),
        fun h => congrArg Host.Outcome.next (hnot h _)⟩
  case source =>
    intro sends
    exact congrArg (fun g => Host.Outcome.next (s.modVif vif g)) (funext fun x => migackSource_cases (sends x) x seq)
  case destination =>
    refine congrArg (fun g => Host.Outcome.next (s.modVif vif g)) (funext fun x => ?_)
    have hiff := migackDestination_good_iff x seq (fun off n => x.window.nat off n)
      (x.window.bytes 32 (min (x.window.nat 8 4) chunkMax))
    by_cases hmig : x.mig ≠ .resuming
    · simp only [if_pos hmig]
    · simp only [if_neg hmig]
      exact ite_congr (propext hiff) (fun _ => rfl) fun _ => rfl

end Sys2Proof.Machine
end

section
/-!
PROOF. Scrubs, the log reader's requests, reblocks and partitions (R359, R365, R377, R390, R393 to R396).
-/
namespace Sys2Proof.Machine

/-! ## Demand scrubs (R393 to R396) -/

theorem exec_demandScrub_busy {s : State} {d : ScrubDef} (hbusy : s.scrubBusy d = true) : exec (.demandScrub d) s = .next s := by
  change execDemandScrub d s = _
  rw [execDemandScrub, if_pos hbusy]

theorem exec_demandScrub_free {s : State} {d : ScrubDef} (hfree : s.scrubBusy d = false) : exec (.demandScrub d) s =
    .next (((s.scrub d).1.writeReceipt d (s.scrub d).2).getD { s with inputs := s.inputs ++ [.demandScrub d] }) := by
  change execDemandScrub d s = _
  rw [execDemandScrub, if_neg (Bool.eq_false_iff.mp hfree)]
  rfl

/-- Hearth's next sequence number is taken. -/
def State.seqTaken (s : State) : State := { s with hearth := { s.hearth with count := s.hearth.count + 1 } }

theorem State.writeReceipt_message {s : State} {d : ScrubDef} (hnone : s.vif? d.vif = none) (es : List ScrubEntry) : s.writeReceipt d es =
    some (s.seqTaken.send (.receipt d.ipa (receiptBytes s.hearth.seq d.reason d.vif d.part d.kdom s.pkg es))) := by
  rw [State.writeReceipt, hnone]
  rfl

/-- The receipt of an interface goes to its memory, in the owner's name. -/
theorem State.writeReceipt_memory {s : State} {d : ScrubDef} {v : Vif} (hv : s.vif? d.vif = some v) (es : List ScrubEntry) :
    s.writeReceipt d es =
      (s.seqTaken.ipaPut { v with part := d.part, kdom := d.kdom } d.ipa
        (receiptBytes s.hearth.seq d.reason d.vif d.part d.kdom s.pkg es)).map
          fun t => t.send (.receipt d.ipa (receiptBytes s.hearth.seq d.reason d.vif d.part d.kdom s.pkg es)) := by
  rw [State.writeReceipt]
  generalize State.ipaPut = put
  as_aux_lemma =>
    rw [hv]
    rfl

theorem State.scrub_ranges {d : ScrubDef} (h1 : d.reason ≠ 1) (h2 : d.reason ≠ 2) (h3 : d.reason ≠ 3) (s : State) :
    s.scrub d = (d.ranges.foldl (fun s r => s.zeroRange r.1 r.2) s, d.ranges.map rangeEntry) := by
  unfold State.scrub
  split
  case h_1 heq => exact absurd heq h1
  case h_2 heq => exact absurd heq h2
  case h_3 heq => exact absurd heq h3
  case h_4 => rfl

/-! ## The log reader's requests (R377, R390) -/

section
variable {s : State} {v : Vif} {p : Partition} {buf done n : Nat}

theorem State.exportLog_unwritten (hput : s.seqTaken.ipaPut v buf (s.seqTaken.exportBytes v p (p.log.take n) s.hearth.seq) = none) :
    s.exportLog v p buf done n = none :=
  (s.exportLog_eq v p buf done n).trans (congrArg (Option.bind · _) hput)

variable {u : State} (hput : s.seqTaken.ipaPut v buf (s.seqTaken.exportBytes v p (p.log.take n) s.hearth.seq) = some u)
include hput

theorem State.exportLog_undone
    (hdone : (u.modPart p.no (fun q => { q with log := q.log.drop (p.log.take n).length })).ipaPut v done (leBytes 1 8) = none) :
    s.exportLog v p buf done n = none := by
  rw [State.exportLog_eq]
  generalize State.ipaPut = put at hput hdone ⊢
  as_aux_lemma =>
    dsimp only [State.seqTaken] at hput ⊢
    rw [hput, Option.bind_some, hdone]
    rfl

theorem State.exportLog_done {w : State}
    (hdone : (u.modPart p.no (fun q => { q with log := q.log.drop (p.log.take n).length })).ipaPut v done (leBytes 1 8) = some w) :
    s.exportLog v p buf done n =
      some (w.send (.receipt buf (s.seqTaken.exportBytes v p (p.log.take n) s.hearth.seq))) := by
  rw [State.exportLog_eq]
  generalize State.ipaPut = put at hput hdone ⊢
  as_aux_lemma =>
    dsimp only [State.seqTaken] at hput ⊢
    rw [hput, Option.bind_some, hdone]
    rfl

end

section
variable {s t : State} {vif : Nat} {value : DWord} {v : Vif} {p : Partition} (hv : s.vif? vif = some v) (hp : s.part? v.part = some p)
include hv hp

theorem State.readerOf_eq : (s.vif? vif).bind (fun v => (s.part? v.part).map (fun p => (v, p))) = some (v, p) := by
  rw [hv, Option.bind_some, hp, Option.map_some]

theorem exec_logreq_other (hreader : p.logReader ≠ vif) : exec (.logreq vif value) s = .next s := by
  change execLogreq vif value s = _
  rw [execLogreq]
  generalize State.ipaReach = reach
  generalize State.exportLog = exporter
  as_aux_lemma =>
    rw [State.readerOf_eq hv hp]
    dsimp only
    rw [if_pos hreader]

variable (hreader : p.logReader = vif)
include hreader

theorem exec_logreq_unreached (hreach : s.ipaReach v value.toNat 24 false = (t, none)) :
    exec (.logreq vif value) s = .next { t with inputs := t.inputs ++ [.logreq vif value] } := by
  change execLogreq vif value s = _
  rw [execLogreq]
  generalize State.ipaReach = reach at hreach ⊢
  generalize State.exportLog = exporter
  as_aux_lemma =>
    rw [State.readerOf_eq hv hp]
    dsimp only
    rw [if_neg (not_not_intro hreader), hreach]

/-- A descriptor that has been read names a buffer at a multiple of 4,096, or is ignored. -/
theorem exec_logreq_read {ds : List DevPart} (hreach : s.ipaReach v value.toNat 24 false = (t, some ds)) :
    exec (.logreq vif value) s = .next
      (let f := fieldLE (t.devBytes ds)
      if f 0 8 % 4096 ≠ 0 then t
      else (t.exportLog v p (f 0 8) (f 16 8) (exportCount p.log (f 8 8))).elim { t with inputs := t.inputs ++ [.logreq vif value] } fun u =>
        let x := u.wake.post (.accessLogRecord p.no)
        x.walks.foldl (fun s w => if w.logging then s.post (.walkComplete w.id) else s) x) := by
  change execLogreq vif value s = _
  rw [execLogreq]
  generalize State.ipaReach = reach at hreach ⊢
  generalize State.exportLog = exporter
  as_aux_lemma =>
    rw [State.readerOf_eq hv hp]
    dsimp only
    rw [if_neg (not_not_intro hreader), hreach]
    dsimp only
    generalize exporter t v p _ _ _ = exported
    cases exported <;> rfl

end

/-! ## Reblocks (R359) -/

theorem exec_reblockOrder_refused {s : State} {d : ReblockDef} {signed : Bool} (hrefused : (!signed || !(s.reblockOk d)) = true) :
    exec (.reblockOrder d signed) s = .next s := by
  change execReblockOrder d signed s = _
  rw [execReblockOrder, if_pos hrefused]

theorem exec_reblockRehash {s : State} {d : ReblockDef} {k : Die} (hk : s.die? d.die = some k) (hd : k.reblock = some d) :
    exec (.reblockRehash d.die) s =
      .next (((s.modPart d.losing (·.lose d)).modPart d.gaining (·.gain d)).modDie d.die (fun k => { k with reblock := none })).releasePorts := by
  change execReblockRehash d.die s = _
  rw [execReblockRehash, hk, Option.bind_some, hd]

/-! ## Partitions (R356, R365, R393) -/

/-- A cluster of a partition whose scrub is still to be made is not free. -/
theorem State.partFree_unscrubbed {s : State} {d : PartDef} {q : Partition} {c : Nat} (hq : q ∈ s.parts) (hscrub : q.unscrubbed = true)
    (hmine : c ∈ q.clusters) (hwanted : c ∈ d.clusters) : s.partFree d = false := by
  rw [Bool.eq_false_iff]
  intro hfree
  rw [State.partFree, Bool.and_eq_true] at hfree
  have hall := List.all_eq_true.mp hfree.2 q (List.mem_filter.mpr ⟨hq, by rw [hscrub, Bool.or_true]⟩)
  have hmeets : q.clusters.any d.clusters.contains = true := List.any_eq_true.mpr ⟨c, hmine, List.contains_iff_mem.mpr hwanted⟩
  rw [hmeets] at hall
  simp at hall

/-- Settles O56: a scrub by what its owner has open, a LOGREQ by what can be reached, orders by their signatures, a formation by what
is free. -/
theorem serviceEvents : Obligations.ServiceEvents := by
  unfold Obligations.ServiceEvents
  refine ⟨fun s d v => ⟨exec_demandScrub_busy, fun hfree => ?scrub, fun w t bs ps hreach => State.ipaPut_reached hreach,
      fun h1 h2 h3 => State.scrub_ranges h1 h2 h3 s⟩,
    fun s t vif value v p ds hv hp => ?log,
    fun s d k => ⟨⟨fun hbad => exec_reblockOrder_refused ?_, exec_reblockOrder_refused rfl⟩, fun hok => ?order,
      fun hk hd => exec_reblockRehash hk hd⟩,
    fun s part p d cores => ?parts⟩
  case scrub =>
    intro u w bs owner
    rw [exec_demandScrub_free hfree]
    refine ⟨fun hnone => ?_, fun hv t hput => ?_, fun hv hput => ?_⟩
    · exact congrArg (fun o => Host.Outcome.next (Option.getD o _)) (State.writeReceipt_message hnone _)
    · have hwrite := (State.writeReceipt_memory hv (s.scrub d).2).trans (congrArg (Option.map _) hput)
      exact congrArg (fun o => Host.Outcome.next (Option.getD o _)) hwrite
    · have hwrite := (State.writeReceipt_memory hv (s.scrub d).2).trans (congrArg (Option.map _) hput)
      exact congrArg (fun o => Host.Outcome.next (Option.getD o _)) hwrite
  case log =>
    intro again
    refine ⟨exec_logreq_other hv hp, fun hreader => ⟨exec_logreq_unreached hv hp hreader, fun hreach => ?read⟩,
      fun out seq cap => ⟨rfl, rfl⟩⟩
    intro f t1 out bytes
    have hread := exec_logreq_read hv hp hreader hreach
    refine ⟨fun hodd => hread.trans (congrArg Host.Outcome.next (if_pos hodd)), fun heven hput => ?_, fun heven u hput => ?_⟩
    all_goals have hexport := hread.trans (congrArg Host.Outcome.next (if_neg (not_not_intro heven)))
    · exact hexport.trans (congrArg (fun o => Host.Outcome.next (Option.elim o _ _)) (State.exportLog_unwritten hput))
    · refine ⟨fun hdone => ?_, fun w hdone => ?_⟩
      · exact hexport.trans (congrArg (fun o => Host.Outcome.next (Option.elim o _ _)) (State.exportLog_undone hput hdone))
      · exact hexport.trans (congrArg (fun o => Host.Outcome.next (Option.elim o _ _)) (State.exportLog_done hput hdone))
  case order =>
    intro t q u w
    change execReblockOrder d true s = _
    rw [execReblockOrder, if_neg (by rw [hok]; decide)]
  case parts =>
    refine ⟨fun hp => ?reset, fun q c hq hscrub hmine hwanted => ?kept, fun hdrains => congrArg Host.Outcome.next (if_pos hdrains),
      fun hstep hfree => ?formed, rfl, ?unsigned, rfl⟩
    case reset =>
      change execPartitionReset part true s = _
      rw [execPartitionReset, hp]
      rfl
    case kept =>
      refine congrArg Host.Outcome.next (if_pos ?_)
      rw [State.partFree_unscrubbed hq hscrub hmine hwanted, Bool.not_false, Bool.or_true]
    case formed =>
      refine congrArg Host.Outcome.next (if_neg ?_)
      rw [hfree, Bool.not_true, Bool.or_false, decide_eq_true_eq]
      exact Nat.not_lt.mpr hstep
    case unsigned =>
      change execPartitionReset part false s = _
      rw [execPartitionReset]
      cases s.part? part <;> rfl
  · rw [hbad, Bool.not_false, Bool.or_true]

end Sys2Proof.Machine
end

section
/-!
PROOF. Collective operations, the packets of their views, and agreement about membership (R397 to R408, R426).
-/
namespace Sys2Proof.Machine

/-! ## Collective commands (R398, R399) -/

/-- One move of a collective command whose source can be accessed. -/
theorem State.collStep_works {s t : State} {k k2 k3 : Cmd} {l : Launch} {c : Coll} (hw : s.Works k l (s.sourceTouches l k) t)
    (hc : k.coll = some c) (hruns : c.stopped = false) (h2 : (if c.sent then t else t.sendFirst l k c).cmd? k.id = some k2)
    (h3 : ((if c.sent then t else t.sendFirst l k c).takeHeld k2).cmd? k.id = some k3) :
    s.collStep k.id = (((if c.sent then t else t.sendFirst l k c).takeHeld k2).collFinish l k3).wake := by
  rw [State.collStep, hw.engineDo, hc]
  dsimp only
  rw [hruns, if_neg Bool.false_ne_true, h2]
  dsimp only
  rw [h3]

/-! ## Packets (R365, R400, R426) -/

section
variable {s : State} {p : CollPacket} {m : MGroup}

theorem exec_viewDataPacket_silenced (h : s.silenced p.part = true) : exec (.viewDataPacket p) s = .next (s.send (.errorReply p.part)) := by
  change execViewDataPacket p s = _
  rw [execViewDataPacket, if_pos h]

variable (hformed : s.silenced p.part = false) (hm : s.mgroup? p.group = some m)
include hformed hm

theorem exec_viewDataPacket_foreign (htag : p.tag ≠ BitVec.ofNat 16 m.view) : exec (.viewDataPacket p) s = .next s := by
  change execViewDataPacket p s = _
  rw [execViewDataPacket, if_neg (Bool.eq_false_iff.mp hformed), hm]
  dsimp only
  rw [if_pos (by simp [htag])]

variable (htag : p.tag = BitVec.ofNat 16 m.view) (hview : m.view ≠ 0) (hmember : m.members.getLsbD s.pkg = true)
include htag hview hmember

theorem exec_viewDataPacket_early (hnone : s.collOf p.group p.bucket = none) : exec (.viewDataPacket p) s =
    .next (s.modMGroup p.group (fun m => { m with held := m.held ++ [p] })) := by
  change execViewDataPacket p s = _
  rw [execViewDataPacket, if_neg (Bool.eq_false_iff.mp hformed), hm]
  dsimp only
  rw [if_neg (by simp [htag, hview, hmember]), hnone]

theorem exec_viewDataPacket_taken {k k' : Cmd} {c : Coll} (hk : s.collOf p.group p.bucket = some k) (hc : k.coll = some c)
    (hruns : c.stopped = false) (hsent : c.sent = true) (hcview : c.view = m.view) (hk' : (s.takeBody k p.body).cmd? k.id = some k') :
    exec (.viewDataPacket p) s = .next ((s.takeBody k p.body).postWork k') := by
  change execViewDataPacket p s = _
  rw [execViewDataPacket, if_neg (Bool.eq_false_iff.mp hformed), hm]
  dsimp only
  rw [if_neg (by simp [htag, hview, hmember]), hk]
  dsimp only
  rw [if_neg (by simp [hc, hruns, hsent, hcview]), hk']

end

section
variable {s : State} {a : AbortPacket} {m : MGroup}

theorem exec_collectiveAbort_silenced (h : s.silenced a.part = true) :
    exec (.collectiveAbort a) s = .next (s.send (.errorReply a.part)) := by
  change execCollectiveAbort a s = _
  rw [execCollectiveAbort, if_pos h]

variable (hformed : s.silenced a.part = false) (hm : s.mgroup? a.group = some m)
include hformed hm

theorem exec_collectiveAbort_foreign (htag : a.tag ≠ BitVec.ofNat 16 m.view) : exec (.collectiveAbort a) s = .next s := by
  change execCollectiveAbort a s = _
  rw [execCollectiveAbort, if_neg (Bool.eq_false_iff.mp hformed), hm]
  dsimp only
  rw [if_pos (by simp [htag])]

/-- The packets of an aborted command are dropped. -/
def State.withoutBucket (s : State) (group bucket : Nat) : State :=
  s.modMGroup group (fun m => { m with held := m.held.filter (fun x => x.bucket != bucket) })

/-- The unfinished command of the group and BUCKET ends with the abort's cause. -/
theorem exec_collectiveAbort_ends (htag : a.tag = BitVec.ofNat 16 m.view) (hview : m.view ≠ 0) {k : Cmd}
    (hk : let t := s.withoutBucket a.group a.bucket
      t.cmds.find? (fun k => (t.cmdGroup k).map (fun g => g.no) == some a.group && cmdField k.words 0x1E 2 == a.bucket &&
        (match k.stage with
         | .done _ => false
         | _ => true)) = some k) :
    exec (.collectiveAbort a) s = .next (((s.withoutBucket a.group a.bucket).unqueue k).endCmd k.id
      (6 + 256 * (a.cause % 256) + 65536 * a.bucket)) := by
  change execCollectiveAbort a s = _
  rw [execCollectiveAbort, if_neg (Bool.eq_false_iff.mp hformed), hm]
  dsimp only
  rw [if_neg (by simp [htag, hview])]
  split
  case h_1 found hfound =>
    obtain rfl := Option.some.inj (hfound.symm.trans hk)
    rfl
  case h_2 hnone => exact absurd (hnone.symm.trans hk) nofun

end

/-- Settles O48: the four operations make the same move; a data packet and an abort by their partition, their tag and their command. -/
theorem collectiveEvents : Obligations.CollectiveEvents := by
  unfold Obligations.CollectiveEvents
  refine ⟨fun s k l c t k2 k3 hw hc hruns => ?moves, fun s p a m k k' c => ⟨exec_viewDataPacket_silenced, fun hformed hm => ?data,
    exec_collectiveAbort_silenced, fun hformed hm => ?abort⟩⟩
  case moves =>
    intro t1 h2 h3 u
    have hstep : (.next (s.collStep k.id) : Out) = .next u := congrArg Host.Outcome.next (State.collStep_works hw hc hruns h2 h3)
    exact ⟨hstep, hstep, hstep, hstep⟩
  case data =>
    exact ⟨exec_viewDataPacket_foreign hformed hm, fun htag hview hmember =>
      ⟨exec_viewDataPacket_early hformed hm htag hview hmember, fun hk hc hruns hsent hcview hk' =>
        exec_viewDataPacket_taken hformed hm htag hview hmember hk hc hruns hsent hcview hk'⟩⟩
  case abort =>
    exact ⟨exec_collectiveAbort_foreign hformed hm, fun htag hview => exec_collectiveAbort_ends hformed hm htag hview⟩

/-! ## Agreement (R402 to R404, R408) -/

section
variable {s : State} {p : ViewPacket} {m : MGroup} (hm : s.mgroup? p.group = some m)
include hm

/-- A PROPOSE of a number above the view, to a proposed member. -/
theorem exec_propose (hmember : p.members.getLsbD s.pkg = true) (hview : m.view < p.view) : exec (.propose p) s = .next
    (if m.accepted.contains p.view || m.follows < p.leader then
      s.sendView 3 (s.viewPacket m p.view (if m.follows < 288 then m.follows else p.leader) p.members []) [p.leader]
    else
      let join := m.view != 0 && (p.members &&& ~~~m.members) != 0
      let t := s.modMGroup p.group (fun m => { m with
        accepted := m.accepted ++ [p.view], follows := p.leader, leading := none, pausing := if join then some p else none })
      if join && t.collLeft p.group then t else t.sendAccept p) := by
  change execPropose p s = _
  rw [execPropose, hm]
  dsimp only
  rw [if_neg (by simp [hmember, hview])]
  rfl

section
variable {a : Agreement} (ha : m.leading = some a)
include ha

theorem exec_accept (hview : a.view = p.view) (hsender : a.members.getLsbD p.sender = true) : exec (.accept p) s =
    .next ((s.modMGroup p.group (fun m => { m with leading := m.leading.map (fun a => { a with
      accepted := a.accepted ||| pkgBit p.sender, maps := orMaps a.maps p.cmds }) })).tryCommit p.group) := by
  change execAccept p s = _
  rw [execAccept, hm, Option.bind_some, ha]
  dsimp only
  rw [if_neg (by simp [hview, hsender])]

theorem exec_refuse (hview : a.view = p.view) : exec (.refuse p) s = .next (s.leadAgain m a (pkgBit p.sender ||| p.suspect)) := by
  change execRefuse p s = _
  rw [execRefuse, hm]
  dsimp only
  rw [ha]
  exact congrArg Host.Outcome.next (if_neg (not_not_intro hview))

theorem exec_agreementTimeout : exec (.agreementTimeout p.group) s = .next (s.leadAgain m a (a.members &&& ~~~a.accepted)) := by
  change execAgreementTimeout p.group s = _
  rw [execAgreementTimeout, hm]
  dsimp only
  rw [ha]

end

theorem exec_commit (hmember : p.members.getLsbD s.pkg = true) (haccepted : m.accepted.contains p.view = true)
    (hview : m.view < p.view) : exec (.commit p) s = .next (s.installView m p.view p.members p.cmds) := by
  change execCommit p s = _
  rw [execCommit, hm]
  exact congrArg Host.Outcome.next (if_pos (by simp only [hmember, haccepted, hview, decide_true, Bool.and_self]))

theorem exec_joinreq_own (hsender : p.sender = s.pkg) : exec (.joinreq p) s = .next (s.sendView 5 p (membersOf m.defined)) := by
  change execJoinreq p s = _
  rw [execJoinreq, hm]
  exact congrArg Host.Outcome.next (if_pos hsender)

section
variable (hsender : p.sender ≠ s.pkg) (hview : m.view ≠ 0) (hmember : m.members.getLsbD p.sender = false) {l : Nat}
  (hleader : m.leader = some l)
include hsender hview hmember hleader

theorem exec_joinreq_forwarded (hl : l ≠ s.pkg) : exec (.joinreq p) s = .next (s.sendView 5 p [l]) := by
  change execJoinreq p s = _
  rw [execJoinreq, hm]
  dsimp only
  rw [if_neg hsender, if_neg (by simp [hview, hmember]), hleader]
  exact congrArg Host.Outcome.next (if_pos hl)

theorem exec_joinreq_led (hl : l = s.pkg) (hfree : m.leading = none) : exec (.joinreq p) s = .next (s.lead p.group (some p.sender)) := by
  change execJoinreq p s = _
  rw [execJoinreq, hm]
  dsimp only
  rw [if_neg hsender, if_neg (by simp [hview, hmember]), hleader]
  dsimp only
  rw [if_neg (not_not_intro hl), hfree]
  rfl

end

theorem exec_exclude (hview : m.view ≠ 0) : exec (.exclude p) s = .next (s.exclude m) := by
  change execExclude p s = _
  rw [execExclude, hm]
  exact congrArg Host.Outcome.next (if_neg hview)

end

/-- Settles O49: each packet by what the group has accepted and who leads. -/
theorem membershipEvents : Obligations.MembershipEvents := by
  unfold Obligations.MembershipEvents
  intro s group pkg self members p m a
  refine ⟨rfl, rfl, rfl, fun hm => ⟨?propose, fun ha hview => ⟨exec_accept hm ha hview, exec_refuse hm ha hview, exec_agreementTimeout hm ha⟩,
    exec_commit hm, exec_joinreq_own hm, fun hsender hview hmember => ⟨fun l hl => exec_joinreq_forwarded hm hsender hview hmember hl,
      fun hl => exec_joinreq_led hm hsender hview hmember hl rfl⟩, exec_exclude hm⟩⟩
  case propose =>
    intro refuse hmember hview
    have hpropose := exec_propose hm hmember hview
    refine ⟨fun hrefused => hpropose.trans (congrArg Host.Outcome.next (if_pos ?_)), fun hnew hleader => ?_⟩
    · rwa [Bool.or_eq_true, decide_eq_true_eq]
    · intro join t
      have hgoes := hpropose.trans (congrArg Host.Outcome.next (if_neg (by
        rw [hnew, Bool.false_or, decide_eq_true_eq]
        exact Nat.not_lt.mpr hleader)))
      refine ⟨fun hjoin => hgoes.trans (congrArg Host.Outcome.next (if_neg ?_)), fun hjoin hleft =>
        hgoes.trans (congrArg Host.Outcome.next (if_pos ?_))⟩
      · change ¬(join && t.collLeft p.group) = true
        rw [hjoin]
        exact Bool.false_ne_true
      · change (join && t.collLeft p.group) = true
        rw [hjoin, hleft]
        rfl

/-! ## An excluded package (R407) -/

/-- After an exclusion the group has view 0. -/
theorem State.view_exclude {s : State} {m m' : MGroup} (h : (s.exclude m).mgroup? m.no = some m') : m'.view = 0 := by
  rw [State.exclude, State.mgroup?_modMGroup, beq_self_eq_true, if_pos rfl] at h
  · obtain ⟨k, -, rfl⟩ := Option.map_eq_some_iff.mp h
    rfl
  · exact fun _ => rfl

theorem State.viewMismatch_zero {s : State} {group : Nat} {m : MGroup} (hm : s.mgroup? group = some m) (hview : m.view = 0) (view : Nat) :
    s.viewMismatch group view = some 0 := by
  rw [State.viewMismatch, hm]
  simp [hview]

/-- A collective push of a group of view 0 takes trap 0x21 once its completion record passes. -/
theorem State.pushTrap_excluded {s : State} {x : Ctx} {sel : Nat} {ws : List Word} {m : MGroup} (hsel : bitsOf sel 15 12 = 1)
    (hm : s.mgroup? (cmdField ws 0x1C 2) = some m) (hview : m.view = 0)
    (hrecord : cmdFlags ws % 4 = 0 ∨ x.l.recordTrap (cmdField ws 2 1) (cmdField ws 4 4) false = none) :
    s.pushTrap x sel ws = some (0x21, 0) := by
  have hpasses : (if cmdFlags ws % 4 = 0 then none
      else x.l.recordTrap (cmdField ws 2 1) (cmdField ws 4 4) (bitsOf sel 15 12 == 0)) = none := by
    rw [hsel]
    rcases hrecord with h | h
    · exact if_pos h
    · exact (ite_congr rfl (fun _ => rfl) fun _ => h).trans (ite_self _)
  rw [State.pushTrap, hpasses]
  dsimp only
  rw [if_pos hsel, State.viewMismatch_zero hm hview]
  rfl

/-- Settles O50: EXCLUDE ends in view 0, which every push mismatches. -/
theorem excludedPackage : Obligations.ExcludedPackage := by
  unfold Obligations.ExcludedPackage
  intro s m m' p x lanes o
  refine ⟨fun hm hview => ⟨s.exclude m, exec_exclude hm hview, fun m' hm' => ?_⟩, fun hsel hm hview hrecord hgoes => ?push⟩
  · have hfound : (m.no == p.group) = true := List.find?_some (p := fun g : MGroup => g.no == p.group) hm
    have hno : m.no = p.group := eq_of_beq hfound
    exact State.view_exclude (hno ▸ hm')
  case push =>
    have htrap := State.pushTrap_excluded (x := x) hsel hm hview hrecord
    obtain ⟨j, hj, -⟩ := exists_firstLane (hgoes.lanes_ne rfl)
    refine congrArg Host.Outcome.next (State.runWord_done_traps rfl hgoes ?_ hgoes.quiet (List.ne_nil_of_mem (List.mem_map_of_mem hj)))
    dsimp only
    rw [htrap]
    rfl

end Sys2Proof.Machine
end

section
/-!
PROOF. The device: power and bring-up, watchdogs, warm reset, and the boost arbiter (R409 to R418, R421).
-/
namespace Sys2Proof.Machine

/-! ## Power and bring-up (R409, R410, R413, R418) -/

theorem exec_powerGood {s : State} (hoff : s.hearth.step = 0) (hflash : s.flash.authentic = true) : exec .powerGood s = .next { s with
    flash := { s.flash with counter := s.flash.counter + 1 }
    hearth := { Hearth.off with step := 3, epoch := s.flash.counter + 1 }
    dies := (List.range 4).map Die.fresh
    clusters := (List.range 32).map Cluster.fresh
    cores := (List.range 384).map Core.fresh
    hbms := (List.range 32).map Stack.fresh
    ports := (List.range 18).map Port.fresh } := by
  change execPowerGood s = _
  rw [execPowerGood, if_neg (not_not_intro hoff), hflash, Bool.not_true, if_neg Bool.false_ne_true]

/-- The next image is measured; what follows depends on its signature and its order number. -/
theorem exec_imageUnlock {s : State} (hstep : s.hearth.step = 3) (hruns : s.hearth.halted = none) : exec .imageUnlock s = .next
    (let order := s.hearth.unlocked + 1
    let m := s.measure order
    let t : State := { m with hearth := { m.hearth with unlocked := order, released := s.hearth.released ++ processorsOf order } }
    if !Config.imageVerifies (s.flashImage order) then m.stopBringUp order else if order = 5 then t.trainAll else t) := by
  change execImageUnlock s = _
  rw [execImageUnlock]
  dsimp only
  rw [if_neg (by simp [hstep, hruns])]
  rfl

theorem exec_imageInstall {s : State} {order : Nat} (hlo : 1 ≤ order) (hhi : order ≤ 5) (image : List Byte) :
    exec (.imageInstall order image true) s =
      .next { s with flash := { s.flash with images := s.flash.images.filter (fun x => x.1 != order) ++ [(order, image)] } } := by
  change execImageInstall order image true s = _
  rw [execImageInstall, if_neg]
  rw [Bool.not_true, Bool.false_or, Bool.or_eq_true, decide_eq_true_eq, decide_eq_true_eq]
  omega

/-! ## Watchdogs (R412) -/

/-- The error record of a hung processor. -/
def State.hungRecord (s : State) (p : Processor) (action : Nat) : State :=
  s.logError { ErrRec.zero with etype := 10, action := action, die := (placeOf p).1, unit := (placeOf p).2 }

/-- A hung processor: its record, and what Hearth does about it (`exec_watchdogExpiry_silent`). -/
def State.onHang (s : State) (p : Processor) : State :=
  match p with
  | .scheduling d => (s.hungRecord p 10).post (.warmResetOrder d 1 true true)
  | .storageEngine e => (s.hungRecord p 9).resetEngine (.storage e)
  | .collectiveEngine i => (s.hungRecord p 9).resetEngine (.collective i)
  | .ioManagement _ | .pager _ => (s.hungRecord p 9).unlockAgain
  | .linkControllers => s.hungRecord p 9

section
variable {s : State} {p : Processor} (hreleased : s.hearth.released.contains p = true)
include hreleased

theorem exec_heartbeat (hheard : s.hearth.heard.contains p = false) :
    exec (.heartbeat p) s = .next { s with hearth := { s.hearth with heard := s.hearth.heard ++ [p] } } := by
  change execHeartbeat p s = _
  rw [execHeartbeat, hreleased, hheard]
  rfl

theorem exec_watchdogExpiry_heard (hheard : s.hearth.heard.contains p = true) :
    exec (.watchdogExpiry p) s = .next { s with hearth := { s.hearth with heard := s.hearth.heard.filter (fun x => x != p) } } := by
  change execWatchdogExpiry p s = _
  unfold execWatchdogExpiry
  rw [hreleased, hheard]
  rfl

/-- A processor that has not been heard is hung: what follows its error record depends on what it is. -/
theorem exec_watchdogExpiry_silent (hheard : s.hearth.heard.contains p = false) : exec (.watchdogExpiry p) s = .next (s.onHang p) := by
  change execWatchdogExpiry p s = _
  unfold execWatchdogExpiry
  rw [hreleased, hheard]
  cases p <;> rfl

end

/-! ## Warm reset (Table 26.2) -/

section
variable {s : State} {die step : Nat} {responds : Bool} {k : Die} (hk : s.die? die = some k)
include hk

theorem exec_warmResetOrder_refused {signed : Bool} (h : (!signed || k.wrstep + 1 != step) = true) :
    exec (.warmResetOrder die step signed responds) s = .next s := by
  change execWarmResetOrder die step signed responds s = _
  rw [execWarmResetOrder, hk]
  refine congrArg Host.Outcome.next (if_pos ?_)
  simpa using h

/-- The step that follows the die's last. -/
theorem exec_warmResetOrder_next (hstep : k.wrstep + 1 = step) : exec (.warmResetOrder die step true responds) s = .next
    (if step = 8 then s.readmit die
    else if 8 < step then s
    else if step = 7 && !Config.imageVerifies (s.flashImage 3) then s.stopBringUp 3
    else ((s.modDie die (fun k => { k with wrstep := step })).resetStep die step responds).post
      (.warmResetOrder die (step + 1) true responds)) := by
  change execWarmResetOrder die step true responds s = _
  rw [execWarmResetOrder, hk]
  refine congrArg Host.Outcome.next (if_neg ?_)
  simp [hstep]

/-- Steps 1 to 7 are entered and done; the check of the image comes first in step 7. -/
theorem exec_warmResetOrder_step (hstep : k.wrstep + 1 = step) (hlow : step < 8)
    (hgood : step = 7 → Config.imageVerifies (s.flashImage 3) = true) : exec (.warmResetOrder die step true responds) s =
      .next (((s.modDie die (fun k => { k with wrstep := step })).resetStep die step responds).post
        (.warmResetOrder die (step + 1) true responds)) := by
  have hverified : ¬(step = 7 && !Config.imageVerifies (s.flashImage 3)) = true := by
    simp only [Bool.and_eq_true, decide_eq_true_eq, Bool.not_eq_true', not_and, Bool.not_eq_false]
    exact hgood
  rw [exec_warmResetOrder_next hk hstep, if_neg (by omega), if_neg (by omega), if_neg hverified]

theorem exec_warmResetOrder_stopped (hstep : k.wrstep + 1 = step) (hseven : step = 7)
    (hbad : Config.imageVerifies (s.flashImage 3) = false) : exec (.warmResetOrder die step true responds) s = .next (s.stopBringUp 3) := by
  have hstops : (step = 7 && !Config.imageVerifies (s.flashImage 3)) = true := by
    rw [hbad, decide_eq_true hseven]
    rfl
  rw [exec_warmResetOrder_next hk hstep, if_neg (by omega), if_neg (by omega), if_pos hstops]

end

/-! ## Self-tests (R384) -/

theorem exec_selfTest_pass {s : State} {core : Nat} {c : Core} (hc : s.core? core = some c) : exec (.selfTest core true) s =
    .next (if c.suspect then s.modCore core (fun k => { k with suspect := false, withdrawn := false }) else s) := by
  change execSelfTest core true s = _
  rw [execSelfTest, hc]
  rfl

theorem exec_selfTest_fail {s : State} {core : Nat} {c : Core} (hc : s.core? core = some c) : exec (.selfTest core false) s =
    .next ((s.modCore core (fun k => { k with withdrawn := true })).logError
      { ErrRec.zero with
        etype := 8, action := 6, die := dieOf core, unit := clusterOf core % 8 * 256 + core % 12
        part := (s.parts.find? (fun p => p.formed && p.clusters.contains (clusterOf core))).map (fun p => p.no) }) := by
  change execSelfTest core false s = _
  rw [execSelfTest, hc]
  rfl

/-! ## The boost arbiter (R416, R417) -/

/-- The permits that an interval leaves. -/
def Cluster.permitsAfter (k : Cluster) : Nat :=
  if k.setting ≠ 0 then k.permits else if k.half then min 64 (k.permits + 1) else k.permits

theorem Cluster.earned_eq (k : Cluster) : k.earned = (k.permitsAfter, k.setting == 0 && !k.half) := by
  unfold Cluster.earned Cluster.permitsAfter
  by_cases hs : k.setting = 0
  · cases hh : k.half <;> simp [hs]
  · simp [hs]

/-! The rows of Table 26.4, in order. -/

section
variable {claim setting n : Nat} {held : Bool}

theorem nextSetting_top (hclaim : claim = 4) (hheld : held = true) (hn : 2 ≤ n) : nextSetting claim setting held n = (4, n - 2) :=
  if_pos ⟨hclaim, hheld, hn⟩

variable (hbelow : claim = 4 → held = false)
include hbelow

theorem nextSetting_below : nextSetting claim setting held n =
    if setting = 4 then (2, n - min n 1) else if (claim = 2 ∨ claim = 4) ∧ 1 ≤ n then (2, n - 1) else (0, n) :=
  if_neg fun ⟨hclaim, hheld, _⟩ => Bool.false_ne_true ((hbelow hclaim).symm.trans hheld)

theorem nextSetting_leaves (hsetting : setting = 4) : nextSetting claim setting held n = (2, n - min n 1) :=
  (nextSetting_below hbelow).trans (if_pos hsetting)

theorem nextSetting_pays (hsetting : setting ≠ 4) (hclaim : claim = 2 ∨ claim = 4) (hn : 1 ≤ n) :
    nextSetting claim setting held n = (2, n - 1) :=
  (nextSetting_below hbelow).trans ((if_neg hsetting).trans (if_pos ⟨hclaim, hn⟩))

theorem nextSetting_rests (hsetting : setting ≠ 4) (hzero : claim = 0 ∨ n = 0) : nextSetting claim setting held n = (0, n) := by
  refine (nextSetting_below hbelow).trans ((if_neg hsetting).trans (if_neg ?_))
  omega

end

section
variable {s : State} {cluster : Nat} {k : Cluster} (hk : s.cluster? cluster = some k)
include hk

theorem exec_boostClaim : exec (.boostClaim cluster) s = .next
    (if k.claim = 4 then s.claimSlot cluster else { s with boostWaiting := s.boostWaiting.filter (fun c => c != cluster) }) := by
  change execBoostClaim cluster s = _
  rw [execBoostClaim, hk]

/-- A cluster after an interval: its clock, its setting and its permits. -/
def State.intervalEnded (s : State) (cluster : Nat) (k : Cluster) (setting permits : Nat) : State :=
  s.modCluster cluster (fun x =>
    { x with cyc := x.cyc + (10000 + 500 * x.setting), setting := setting, permits := permits,
             half := (k.setting == 0 && !k.half) && setting == 0 })

/-- The slot of a cluster that is not at 2.4 becomes free. -/
def State.slotLeft (s : State) (cluster : Nat) (claims : Bool) : State :=
  let kept := s.boostSlots.filter (fun b => b.cluster != cluster)
  if kept.length = s.boostSlots.length then s
  else
    let t : State := { s with boostSlots := kept }
    (if claims then ({ t with boostWaiting := t.boostWaiting.filter (fun c => c != cluster) ++ [cluster] } : State) else t).grantFree.revokeFor

theorem exec_boostIntervalBoundary {setting permits : Nat}
    (hnext : nextSetting k.claim k.setting (s.boostSlots.any (fun b => b.cluster == cluster && !b.revoked)) k.permitsAfter = (setting, permits)) :
    exec (.boostIntervalBoundary cluster) s = .next (if setting = 4 then s.intervalEnded cluster k setting permits
      else (s.intervalEnded cluster k setting permits).slotLeft cluster (decide (k.claim = 4))) := by
  change execBoostIntervalBoundary cluster s = _
  rw [execBoostIntervalBoundary, hk]
  dsimp only
  rw [Cluster.earned_eq]
  dsimp only
  rw [hnext]
  simp only [State.slotLeft, decide_eq_true_eq]
  rfl

end

/-- No slot names a cluster, so none is given up. -/
theorem State.slotLeft_none {s : State} {cluster : Nat} (hnone : s.boostSlots.any (fun b => b.cluster == cluster) = false) (claims : Bool) :
    s.slotLeft cluster claims = s := by
  have hall : s.boostSlots.filter (fun b => b.cluster != cluster) = s.boostSlots := by
    rw [List.filter_eq_self]
    intro b hb
    have := List.any_eq_false.mp hnone b hb
    simpa using this
  rw [State.slotLeft, hall]
  exact if_pos rfl

/-- A slot that names the cluster is given up. -/
theorem State.slotLeft_some {s : State} {cluster : Nat} (hsome : s.boostSlots.any (fun b => b.cluster == cluster) = true) :
    s.slotLeft cluster false =
      (State.grantFree { s with boostSlots := s.boostSlots.filter (fun b => b.cluster != cluster) }).revokeFor := by
  obtain ⟨b, hb, hcluster⟩ := List.any_eq_true.mp hsome
  have hfewer : (s.boostSlots.filter (fun b => b.cluster != cluster)).length ≠ s.boostSlots.length := by
    rw [ne_eq, List.length_filter_eq_length_iff]
    intro hall
    simpa [eq_of_beq hcluster] using hall b hb
  exact if_neg hfewer

theorem State.grants_kept {s : State} {cluster : Nat} (hnone : s.boostSlots.any (fun b => b.cluster == cluster) = false) :
    s.boostSlots.any (fun b => b.cluster == cluster && !b.revoked) = false := by
  rw [List.any_eq_false] at hnone ⊢
  intro b hb
  simp [Bool.eq_false_iff.mpr (hnone b hb)]

section
variable {s : State} {cluster : Nat} {k : Cluster} (hk : s.cluster? cluster = some k)
include hk

theorem exec_boostIntervalBoundary_top (hclaim : k.claim = 4)
    (hheld : s.boostSlots.any (fun b => b.cluster == cluster && !b.revoked) = true) (hn : 2 ≤ k.permitsAfter) :
    exec (.boostIntervalBoundary cluster) s = .next (s.intervalEnded cluster k 4 (k.permitsAfter - 2)) :=
  (exec_boostIntervalBoundary hk (nextSetting_top hclaim hheld hn)).trans (congrArg Host.Outcome.next (if_pos rfl))

theorem exec_boostIntervalBoundary_leaves (hslot : s.boostSlots.any (fun b => b.cluster == cluster) = true) (hclaim : k.claim ≠ 4)
    (hsetting : k.setting = 4) : exec (.boostIntervalBoundary cluster) s =
      .next (State.grantFree { s.intervalEnded cluster k 2 (k.permitsAfter - min k.permitsAfter 1) with
        boostSlots := s.boostSlots.filter (fun b => b.cluster != cluster) }).revokeFor := by
  rw [exec_boostIntervalBoundary hk (nextSetting_leaves (fun h => absurd h hclaim) hsetting), if_neg (by decide), decide_eq_false hclaim]
  exact congrArg Host.Outcome.next (State.slotLeft_some (s := s.intervalEnded cluster k 2 _) hslot)

theorem exec_boostIntervalBoundary_slotless (hnone : s.boostSlots.any (fun b => b.cluster == cluster) = false) {setting permits : Nat}
    (hnext : nextSetting k.claim k.setting (s.boostSlots.any (fun b => b.cluster == cluster && !b.revoked)) k.permitsAfter = (setting, permits))
    (hlow : setting ≠ 4) : exec (.boostIntervalBoundary cluster) s = .next (s.intervalEnded cluster k setting permits) := by
  rw [exec_boostIntervalBoundary hk hnext, if_neg hlow]
  exact congrArg Host.Outcome.next (State.slotLeft_none (s := s.intervalEnded cluster k setting permits) hnone _)

end

/-- Settles O60: each event by the state it meets: the bring-up's step, the processor's heartbeat, the die's last step, the claims and slots. -/
theorem deviceEvents : Obligations.DeviceEvents := by
  unfold Obligations.DeviceEvents
  refine ⟨fun s order image => ⟨exec_powerGood, ?unlock, fun hlo hhi => exec_imageInstall hlo hhi image, rfl, rfl⟩, fun s p die e => ?watchdog,
    fun s die step core responds k c => ⟨fun hk => ?warmReset, fun hc => ⟨fun hsuspect => ?pass, fun hwell => ?well, exec_selfTest_fail hc⟩⟩,
    fun s cluster k hk => ⟨fun hclaim => ?noClaim, fun hclaim hheld => ?held, fun hclaim hfree hroom => ?granted, fun hclaim hfree hfull => ?waits,
      ?interval⟩⟩
  case unlock =>
    intro order m hstep hruns
    have hunlock := exec_imageUnlock hstep hruns
    refine ⟨fun hbad => hunlock.trans (congrArg Host.Outcome.next (if_pos (by rw [hbad]; rfl))), fun hgood => ?_⟩
    have hreleased := hunlock.trans (congrArg Host.Outcome.next (if_neg (by rw [hgood]; decide)))
    exact ⟨fun hmore => hreleased.trans (congrArg Host.Outcome.next (if_neg hmore)),
      fun hlast => hreleased.trans (congrArg Host.Outcome.next (if_pos hlast))⟩
  case watchdog =>
    intro hung silent
    exact ⟨fun hreleased => ⟨exec_heartbeat hreleased, exec_watchdogExpiry_heard hreleased⟩, fun h => exec_watchdogExpiry_silent h.1 h.2,
      fun h => exec_watchdogExpiry_silent h.1 h.2, fun h => exec_watchdogExpiry_silent h.1 h.2,
      fun h => exec_watchdogExpiry_silent h.1 h.2, fun h => exec_watchdogExpiry_silent h.1 h.2⟩
  case warmReset =>
    refine ⟨fun hother => exec_warmResetOrder_refused hk (by rw [bne_iff_ne.mpr hother, Bool.or_true]),
      exec_warmResetOrder_refused hk rfl, fun hstep => ?_⟩
    intro t go order
    have henter (hlow : step < 7) : order = .next (go (t.resetStep die step responds)) :=
      exec_warmResetOrder_step hk hstep (by omega) (fun h => by omega)
    refine ⟨?_, ?_, ?_, ?_, ?_, exec_warmResetOrder_stopped hk hstep, fun hseven hgood => ?_, fun height => ?_⟩
    · rintro rfl
      exact henter (by decide)
    · rintro (rfl | rfl) <;> exact henter (by decide)
    · rintro rfl
      exact henter (by decide)
    · rintro rfl
      exact henter (by decide)
    · rintro rfl
      exact henter (by decide)
    · subst hseven
      exact exec_warmResetOrder_step hk hstep (by decide) fun _ => hgood
    · exact ⟨(exec_warmResetOrder_next hk hstep).trans (congrArg Host.Outcome.next (if_pos height)), rfl⟩
  case pass => exact (exec_selfTest_pass hc).trans (congrArg Host.Outcome.next (if_pos hsuspect))
  case well => exact (exec_selfTest_pass hc).trans (congrArg Host.Outcome.next (if_neg (Bool.eq_false_iff.mp hwell)))
  case noClaim => exact (exec_boostClaim hk).trans (congrArg Host.Outcome.next (if_neg hclaim))
  case held =>
    refine (exec_boostClaim hk).trans (congrArg Host.Outcome.next ((if_pos hclaim).trans ?_))
    exact if_pos hheld
  case granted =>
    refine (exec_boostClaim hk).trans (congrArg Host.Outcome.next ((if_pos hclaim).trans ?_))
    exact (if_neg (Bool.eq_false_iff.mp hfree)).trans (if_pos hroom)
  case waits =>
    intro t more
    have hwaits : s.claimSlot cluster = t.revokeFor := (if_neg (Bool.eq_false_iff.mp hfree)).trans (if_neg (Nat.not_lt.mpr hfull))
    have hclaims := (exec_boostClaim hk).trans (congrArg Host.Outcome.next ((if_pos hclaim).trans hwaits))
    refine ⟨fun hfew => hclaims.trans (congrArg Host.Outcome.next (if_pos ?_)),
      fun hmore => hclaims.trans (congrArg Host.Outcome.next (if_neg ?_))⟩
    · rw [Bool.or_eq_true, decide_eq_true_eq, decide_eq_true_eq]
      exact .inr (Nat.not_lt.mp hfew)
    · rw [Bool.or_eq_true, decide_eq_true_eq, decide_eq_true_eq]
      exact not_or.mpr ⟨Nat.not_lt.mpr hfull, Nat.not_le.mpr hmore⟩
  case interval =>
    intro held n moved end_
    refine ⟨exec_boostIntervalBoundary_top hk, exec_boostIntervalBoundary_leaves hk, fun hnone => ?_⟩
    have hnever := State.grants_kept hnone
    exact ⟨fun hsetting => exec_boostIntervalBoundary_slotless hk hnone (nextSetting_leaves (fun _ => hnever) hsetting) (by decide),
      fun hsetting hclaim hn =>
        exec_boostIntervalBoundary_slotless hk hnone (nextSetting_pays (fun _ => hnever) hsetting hclaim hn) (by decide),
      fun hsetting hzero => exec_boostIntervalBoundary_slotless hk hnone (nextSetting_rests (fun _ => hnever) hsetting hzero) (by decide)⟩

end Sys2Proof.Machine
end

section
/-!
PROOF. The integer words of chapter 7: a run over lanes writes what its function gives there, and the numbers that the words compute with
are the patterns of 32 and 64 bits (R108, R113 to R118).
-/
namespace Sys2Proof.Machine

/-! ## Words that write in lanes -/

theorem State.wrote_congr {s : State} {x : Ctx} {lanes : Mask} {d : Nat} {f g : Nat → List Word}
    (h : ∀ l, l ∈ maskLanes lanes → f l = g l) : s.wrote x lanes d f = s.wrote x lanes d g :=
  congrArg (s.modGroup x.ref.g) (funext fun y => List.foldl_ext _ _ y (fun y l hl => by rw [h l hl]))

theorem State.does_of_lanes {s : State} {w : WordSpec} {x : Ctx} {lanes : Mask} {d : Nat} {f : Ctx → Nat → List Word} {v : Nat → List Word}
    (hquiet : w.quiet = false) (hexec : exec w.i s = .next (s.runLanes w d f)) (h : ∀ l, l ∈ maskLanes lanes → f x l = v l) :
    s.Does w x lanes (s.wrote x lanes d v) := fun hgoes => by
  rw [hexec, State.runLanes_does hquiet hgoes, State.wrote_congr h]

theorem State.does_of_preds {s : State} {w : WordSpec} {x : Ctx} {lanes : Mask} {d : Nat} {f : Ctx → Mask → Nat → Bool} {v : Nat → Bool}
    (hquiet : w.quiet = false) (hexec : exec w.i s = .next (s.runPreds w d f)) (h : f x lanes = v) :
    s.Does w x lanes (s.wrotePred x lanes d v) := fun hgoes => by
  rw [hexec, State.runPreds_does hquiet hgoes, h]

/-! ## Numbers and patterns -/


theorem typed_eq_asInt (var : BitVec 4) (n a : Nat) : typed var n a = asInt (signedVar var) (BitVec.ofNat n a) := by
  unfold typed asInt signedVar
  split
  · exact (toInt_ofNat_eq_sextNat n a).symm
  · rw [BitVec.toNat_ofNat]

theorem typed_val (x : Ctx) (var : BitVec 4) (f : BitVec 8) (l : Nat) : typed var 32 (x.val f l) = asInt (signedVar var) (x.word f l) :=
  typed_eq_asInt var 32 _

theorem typed_toNat (var : BitVec 4) {n : Nat} (a : BitVec n) : typed var n a.toNat = asInt (signedVar var) a := by
  rw [typed_eq_asInt, BitVec.ofNat_toNat, BitVec.setWidth_eq]

theorem ofNat_wrapNat (n : Nat) (v : Int) : BitVec.ofNat n (wrapNat v n) = BitVec.ofInt n v := by
  apply BitVec.eq_of_toNat_eq
  rw [BitVec.toNat_ofNat, BitVec.toNat_ofInt, wrapNat]
  have hcast : (2 : Int) ^ n = ((2 ^ n : Nat) : Int) := by push_cast; rfl
  have hpos : (0 : Int) < ((2 ^ n : Nat) : Int) := by exact_mod_cast Nat.two_pow_pos n
  rw [hcast]
  exact Nat.mod_eq_of_lt ((Int.toNat_lt (Int.emod_nonneg v hpos.ne')).mpr (Int.emod_lt_of_pos v hpos))

theorem satS_eq_clampTo (n : Nat) (v : Int) : satS v n = clampTo true n v := by
  have hpos : (0 : Int) < 2 ^ (n - 1) := by positivity
  simp only [satS, clampTo, if_true]
  omega

theorem satZ_eq_clampTo (n : Nat) (v : Int) : satZ v n = clampTo false n v := by
  have hpos : (0 : Int) < 2 ^ n := by positivity
  simp only [satZ, clampTo, Bool.false_eq_true, if_false]
  omega

theorem ofNat_arith (var : BitVec 4) (sat : Bool) (n : Nat) (v : Int) :
    BitVec.ofNat n (arith var sat n v) = narrowTo (signedVar var) sat n v := by
  rw [arith, ofNat_wrapNat, satS_eq_clampTo, satZ_eq_clampTo, narrowTo]
  cases hsigned : signedVar var <;> simp_all [signedVar]

/-! ## Arithmetic words -/

theorem State.intV_does {s : State} {x : Ctx} {lanes : Mask} {i : Instr} {o : FmtV} {ss : List SrcOp} {f : Int → Int → Int → Int}
    {v : Nat → Int} {e : Out} (harm : exec i s = e) (hexec : e = s.intV i o ss f)
    (h : ∀ l, f (asInt (signedVar o.var) (x.word o.sa l)) (asInt (signedVar o.var) (x.word o.sb l))
      (asInt (signedVar o.var) (x.word o.sc l)) = v l) :
    s.Does (specV i o ss [dst o.dst 1]) x lanes
      (s.wrote x lanes o.dst.toNat (fun l => [narrowTo (signedVar o.var) o.sat 32 (v l)])) := by
  refine State.does_of_lanes rfl (harm.trans hexec) (fun l _ => ?_)
  rw [typed_val, typed_val, typed_val, h, w32, ofNat_arith]

theorem State.intI_does {s : State} {x : Ctx} {lanes : Mask} {i : Instr} {p : FmtI} {f : Int → Int → Int} {v : Nat → Int}
    {e : Out} (harm : exec i s = e) (hexec : e = s.intI i p f)
    (h : ∀ l, f (asInt (signedVar p.var) (x.word p.sa l)) (asInt (signedVar p.var) p.imm) = v l) :
    s.Does (specI i p [dst p.dst 1]) x lanes
      (s.wrote x lanes p.dst.toNat (fun l => [narrowTo (signedVar p.var) p.sat 32 (v l)])) := by
  refine State.does_of_lanes rfl (harm.trans hexec) (fun l _ => ?_)
  rw [typed_val, typed_toNat, h, w32, ofNat_arith]

theorem wordsOf_two (a : Nat) : wordsOf a 2 = [(w64 a).extractLsb' 0 32, (w64 a).extractLsb' 32 32] := by
  simp only [wordsOf, w32, w64, List.range_succ, List.range_zero, List.nil_append, List.cons_append, List.map_cons, List.map_nil]
  refine congrArg₂ _ ?_ (congrArg₂ _ ?_ rfl)
  · apply BitVec.eq_of_toNat_eq
    simp only [BitVec.toNat_ofNat, BitVec.extractLsb'_toNat, Nat.shiftRight_zero]
    omega
  · apply BitVec.eq_of_toNat_eq
    simp only [BitVec.toNat_ofNat, BitVec.extractLsb'_toNat, Nat.shiftRight_eq_div_pow]
    omega

theorem iadd64_does (s : State) (x : Ctx) (lanes : Mask) (o : FmtV) :
    s.Does (specV (.iadd64 o) o [srcPair o.sa o.ea, srcPair o.sb o.eb] [dst o.dst 2]) x lanes
      (s.wrote x lanes o.dst.toNat (fun l =>
        let v := narrowTo (signedVar o.var) o.sat 64 (asInt (signedVar o.var) (x.pair o.sa l) + asInt (signedVar o.var) (x.pair o.sb l))
        [v.extractLsb' 0 32, v.extractLsb' 32 32])) := by
  refine State.does_of_lanes rfl rfl (fun l _ => ?_)
  rw [wordsOf_two, w64, ofNat_arith, typed_eq_asInt, typed_eq_asInt]
  rfl

/-- Settles O1: every word is a run over the typed sources, whose results are narrowed. -/
theorem integerArithmeticWords : Obligations.IntegerArithmeticWords := by
  unfold Obligations.IntegerArithmeticWords
  intro s x lanes o p
  refine ⟨State.intV_does (e := execIadd o s) rfl rfl (fun _ => rfl),
    State.intV_does (e := execIsub o s) rfl rfl (fun _ => rfl),
    State.intV_does (e := execImul o s) rfl rfl (fun _ => rfl),
    State.intV_does (e := execImulhi o s) rfl rfl (fun l => ?_),
    State.intV_does (e := execImad o s) rfl rfl (fun _ => rfl),
    State.intV_does (e := execIabs o s) rfl rfl (fun _ => rfl),
    State.intV_does (e := execIneg o s) rfl rfl (fun _ => rfl),
    State.intV_does (e := execImin o s) rfl rfl (fun _ => rfl),
    State.intV_does (e := execImax o s) rfl rfl (fun _ => rfl),
    State.intI_does (e := execIaddImm p s) rfl rfl (fun _ => rfl),
    State.intI_does (e := execImulImm p s) rfl rfl (fun _ => rfl),
    State.intI_does (e := execIminImm p s) rfl rfl (fun _ => rfl),
    State.intI_does (e := execImaxImm p s) rfl rfl (fun _ => rfl),
    iadd64_does s x lanes o⟩
  exact Int.fdiv_eq_ediv_of_nonneg _ (by decide)

end Sys2Proof.Machine
end

section
/-!
PROOF. The bit words of chapter 7: shifts, rotations, counts and bit fields over numbers are those of 32-bit patterns (Table 7.3, R114, R115).
-/
namespace Sys2Proof.Machine

/-! ## Values below 2^32 -/

theorem Ctx.val_lt (x : Ctx) (f : BitVec 8) {l : Nat} (hl : l < 16) : x.val f l < 2 ^ 32 := by
  unfold Ctx.val Ctx.value
  split
  · split
    · decide
    · unfold Ctx.special
      split <;> omega
  · simpa using (x.g.r.read f.toNat l).isLt

theorem Ctx.word_toNat (x : Ctx) (f : BitVec 8) {l : Nat} {lanes : Mask} (hl : l ∈ maskLanes lanes) : (x.word f l).toNat = x.val f l := by
  rw [Ctx.word, w32, BitVec.toNat_ofNat, Nat.mod_eq_of_lt (x.val_lt f (mem_maskLanes_lt hl))]

theorem w32_toNat (a : Word) : w32 a.toNat = a := by
  rw [w32, BitVec.ofNat_toNat, BitVec.setWidth_eq]

theorem State.bitV_does {s : State} {x : Ctx} {lanes : Mask} {i : Instr} {o : FmtV} {ss : List SrcOp} {f : Nat → Nat → Nat → Nat}
    {v : Nat → Word} {e : Out} (harm : exec i s = e) (hexec : e = s.bitV i o ss f)
    (h : ∀ l, w32 (f (x.word o.sa l).toNat (x.word o.sb l).toNat (x.word o.sc l).toNat) = v l) :
    s.Does (specV i o ss [dst o.dst 1]) x lanes (s.wrote x lanes o.dst.toNat (fun l => [v l])) := by
  refine State.does_of_lanes rfl (harm.trans hexec) (fun l hl => ?_)
  rw [← h l, x.word_toNat o.sa hl, x.word_toNat o.sb hl, x.word_toNat o.sc hl]

theorem State.bitI_does {s : State} {x : Ctx} {lanes : Mask} {i : Instr} {p : FmtI} {f : Nat → Nat → Nat} {v : Nat → Word} {e : Out}
    (harm : exec i s = e) (hexec : e = s.bitI i p f) (h : ∀ l, w32 (f (x.word p.sa l).toNat p.imm.toNat) = v l) :
    s.Does (specI i p [dst p.dst 1]) x lanes (s.wrote x lanes p.dst.toNat (fun l => [v l])) := by
  refine State.does_of_lanes rfl (harm.trans hexec) (fun l hl => ?_)
  rw [← h l, x.word_toNat p.sa hl]

/-! ## Patterns -/

theorem w32_and (a b : Word) : w32 (a.toNat &&& b.toNat) = a &&& b := by
  rw [← BitVec.toNat_and, w32_toNat]

theorem w32_or (a b : Word) : w32 (a.toNat ||| b.toNat) = a ||| b := by
  rw [← BitVec.toNat_or, w32_toNat]

theorem w32_xor (a b : Word) : w32 (a.toNat ^^^ b.toNat) = a ^^^ b := by
  rw [← BitVec.toNat_xor, w32_toNat]

theorem imm_toNat (i : BitVec 16) : i.toNat = (i.setWidth 32 : Word).toNat := by
  rw [BitVec.toNat_setWidth, Nat.mod_eq_of_lt (by omega)]

/-! ## Counts -/

theorem List.takeWhile_congr_mem {α : Type} {p q : α → Bool} {xs : List α} (h : ∀ a, a ∈ xs → p a = q a) :
    xs.takeWhile p = xs.takeWhile q := by
  induction xs with
  | nil => rfl
  | cons a xs ih =>
    rw [List.takeWhile_cons, List.takeWhile_cons, h a List.mem_cons_self, ih (fun b hb => h b (List.mem_cons_of_mem a hb))]

theorem clzAuxRec_eq_takeWhile {w n : Nat} (x : BitVec w) (hn : n < w) :
    x.clzAuxRec n = BitVec.ofNat w (w - 1 - n + ((List.range (n + 1)).takeWhile (fun i => !x.getLsbD (n - i))).length) := by
  induction n with
  | zero =>
    rw [BitVec.clzAuxRec_zero]
    cases hx : x.getLsbD 0 <;> simp [hx, show w - 1 + 1 = w by omega]
  | succ n ih =>
    rw [BitVec.clzAuxRec_succ, List.range_succ_eq_map, List.takeWhile_cons, ih (by omega)]
    cases hx : x.getLsbD (n + 1) with
    | true => simp
    | false =>
      simp only [Bool.not_false, if_true, List.takeWhile_map, List.length_cons, List.length_map, Bool.false_eq_true, if_false]
      have hsame : ((fun i => !x.getLsbD (n + 1 - i)) ∘ Nat.succ) = fun i => !x.getLsbD (n - i) :=
        funext fun i => by simp [Nat.add_sub_add_right]
      rw [hsame]
      congr 1
      omega

theorem w32_leadingZeros (a : Word) : w32 (leadingZeros a.toNat) = a.clz := by
  rw [BitVec.clz, clzAuxRec_eq_takeWhile a (by decide)]
  simp only [leadingZeros, bitOf, w32, BitVec.testBit_toNat]
  rw [Nat.sub_self, Nat.zero_add]

theorem w32_trailingZeros (a : Word) : w32 (trailingZeros a.toNat) = a.reverse.clz := by
  rw [← w32_leadingZeros]
  refine congrArg (fun ls : List Nat => w32 ls.length) (List.takeWhile_congr_mem fun i hi => ?_)
  have hi := List.mem_range.mp hi
  simp only [bitOf, BitVec.testBit_toNat, BitVec.getLsbD_reverse, BitVec.getMsbD]
  simp [show 31 - i < 32 by omega, show 31 - (31 - i) = i by omega]

theorem foldl_bits_testBit (p : Nat → Bool) (n i : Nat) :
    ((List.range n).foldl (fun r i => r + (if p i then 2 ^ i else 0)) 0).testBit i = (decide (i < n) && p i) := by
  rw [← (maskWhere_testBit p n i).1, List.foldl_filter]
  simp only [add_ite, Nat.add_zero]

theorem w32_reverseBits (a : Word) : w32 (reverseBits a.toNat) = a.reverse := by
  apply BitVec.eq_of_getLsbD_eq
  intro i hi
  rw [BitVec.getLsbD_reverse, w32, BitVec.getLsbD_ofNat, reverseBits, foldl_bits_testBit, BitVec.getMsbD]
  simp [bitOf, hi, BitVec.testBit_toNat]

/-! ## Shifts -/

theorem w32_shl (a : Word) (k : Nat) : w32 (shl a.toNat k) = a <<< k := by
  apply BitVec.eq_of_toNat_eq
  rw [BitVec.toNat_shiftLeft, Nat.shiftLeft_eq, w32, BitVec.toNat_ofNat, shl]
  split
  · rw [Nat.mod_mod]
  next hk =>
    have hdvd : 2 ^ 32 ∣ a.toNat * 2 ^ k := Dvd.dvd.mul_left (Nat.pow_dvd_pow 2 (by omega)) _
    rw [Nat.zero_mod, Nat.mod_eq_zero_of_dvd hdvd]

theorem w32_shr (a : Word) (k : Nat) : w32 (shr a.toNat k) = a >>> k := by
  apply BitVec.eq_of_toNat_eq
  have ha := a.isLt
  rw [BitVec.toNat_ushiftRight, Nat.shiftRight_eq_div_pow, w32, BitVec.toNat_ofNat, shr]
  split
  · exact Nat.mod_eq_of_lt (lt_of_le_of_lt (Nat.div_le_self _ _) ha)
  next hk =>
    rw [Nat.zero_mod, Nat.div_eq_of_lt (lt_of_lt_of_le ha (Nat.pow_le_pow_right (by decide) (by omega)))]

theorem w32_sar (a : Word) (k : Nat) : w32 (sar a.toNat k) = a.sshiftRight k := by
  rw [sar]
  split
  · rw [w32, ofNat_wrapNat, ← toInt_ofNat_eq_sextNat, BitVec.ofNat_toNat, BitVec.setWidth_eq, Int.fdiv_eq_ediv_of_nonneg _ (by positivity),
      BitVec.sshiftRight, Int.shiftRight_eq_div_pow]
    norm_cast
  next hk =>
    apply BitVec.eq_of_getLsbD_eq
    intro i hi
    rw [BitVec.getLsbD_sshiftRight]
    have hmsb : bitOf a.toNat 31 = a.msb := by simp [bitOf, BitVec.testBit_toNat, BitVec.msb_eq_getLsbD_last]
    rw [hmsb]
    cases a.msb
    · simp [w32, show ¬ k + i < 32 by omega]
    · rw [if_pos rfl, show w32 (2 ^ 32 - 1) = BitVec.allOnes 32 by decide, BitVec.getLsbD_allOnes]
      simp [show ¬ k + i < 32 by omega, show ¬ 32 ≤ i by omega, hi]

theorem w32_rot (a : Word) (k : Nat) : w32 (rot a.toNat k) = a.rotateLeft k := by
  apply BitVec.eq_of_toNat_eq
  have ha := a.isLt
  have hk : k % 32 < 32 := Nat.mod_lt _ (by decide)
  rw [BitVec.toNat_rotateLeft, Nat.shiftLeft_eq, Nat.shiftRight_eq_div_pow, w32, BitVec.toNat_ofNat, rot]
  generalize k % 32 = r at hk
  have hsplit : 2 ^ r * 2 ^ (32 - r) = 2 ^ 32 := by rw [← pow_add, Nat.add_sub_cancel' (by omega)]
  have hhigh : a.toNat * 2 ^ r % 2 ^ 32 = 2 ^ r * (a.toNat % 2 ^ (32 - r)) := by
    rw [Nat.mul_comm, ← hsplit, Nat.mul_mod_mul_left]
  have hlow : a.toNat / 2 ^ (32 - r) < 2 ^ r := by
    rw [Nat.div_lt_iff_lt_mul (Nat.two_pow_pos _), hsplit]
    exact ha
  rw [hhigh, Nat.two_pow_add_eq_or_of_lt hlow]
  refine Nat.mod_eq_of_lt (Nat.or_lt_two_pow ?_ (lt_of_le_of_lt (Nat.div_le_self _ _) ha))
  rw [← hhigh]
  exact Nat.mod_lt _ (by decide)

/-! ## Bit fields -/

theorem fieldLen_le (c : Nat) : fieldLen c ≤ 32 := Nat.min_le_right _ _

/-- The bits that a control names, as a pattern of its length. -/
theorem field_toNat (a : Word) (c : Nat) :
    a.toNat / 2 ^ fieldPos c % 2 ^ fieldLen c = ((a >>> (c % 256)).setWidth (fieldLen c)).toNat := by
  rw [BitVec.toNat_setWidth, BitVec.toNat_ushiftRight, Nat.shiftRight_eq_div_pow, fieldPos]

theorem w32_extractField (signed : Bool) (a : Word) (c : Nat) :
    w32 (extractField signed a.toNat c) =
      if fieldLen c = 0 then 0
      else if signed then ((a >>> (c % 256)).setWidth (fieldLen c)).signExtend 32
      else ((a >>> (c % 256)).setWidth (fieldLen c)).setWidth 32 := by
  simp only [extractField, field_toNat]
  generalize hf : (a >>> (c % 256)).setWidth (fieldLen c) = f
  clear hf
  generalize fieldLen c = n at f
  have hwide : w32 f.toNat = f.setWidth 32 := BitVec.ofNat_toNat 32 f
  rcases Nat.eq_zero_or_pos n with rfl | hn
  · simp [w32, BitVec.of_length_zero (x := f)]
  · rw [if_neg hn.ne']
    cases signed
    · simpa using hwide
    · simp only [hn, decide_true, Bool.and_self, if_true]
      rw [w32, ofNat_wrapNat, ← toInt_ofNat_eq_sextNat, BitVec.ofNat_toNat, BitVec.setWidth_eq, BitVec.signExtend]

/-- The bits of a field where the control puts them. -/
theorem w32_fieldMask (c : Nat) :
    w32 ((2 ^ fieldLen c - 1) * 2 ^ fieldPos c) = (BitVec.allOnes 32 >>> (32 - fieldLen c)) <<< (c % 256) := by
  apply BitVec.eq_of_toNat_eq
  have hlen := fieldLen_le c
  have hsplit : 2 ^ 32 - 1 = 2 ^ (32 - fieldLen c) * (2 ^ fieldLen c - 1) + (2 ^ (32 - fieldLen c) - 1) := by
    have h : 2 ^ (32 - fieldLen c) * 2 ^ fieldLen c = 2 ^ 32 := by rw [← pow_add, Nat.sub_add_cancel hlen]
    have hone := Nat.one_le_two_pow (n := 32 - fieldLen c)
    have htwo := Nat.one_le_two_pow (n := fieldLen c)
    rw [Nat.mul_sub, h, Nat.mul_one]
    have hle : 2 ^ (32 - fieldLen c) ≤ 2 ^ 32 := Nat.pow_le_pow_right (by decide) (by omega)
    omega
  have hones : (BitVec.allOnes 32 >>> (32 - fieldLen c)).toNat = 2 ^ fieldLen c - 1 := by
    rw [BitVec.toNat_ushiftRight, BitVec.toNat_allOnes, Nat.shiftRight_eq_div_pow, hsplit, Nat.mul_add_div (Nat.two_pow_pos _),
      Nat.div_eq_of_lt (Nat.sub_lt (Nat.two_pow_pos _) Nat.one_pos), Nat.add_zero]
  rw [BitVec.toNat_shiftLeft, hones, w32, BitVec.toNat_ofNat, Nat.shiftLeft_eq, fieldPos]

theorem w32_insertField (a b : Word) (c : Nat) :
    w32 (insertField a.toNat b.toNat c) =
      let m := (BitVec.allOnes 32 >>> (32 - fieldLen c)) <<< (c % 256)
      (a &&& ~~~m) ||| ((b <<< (c % 256)) &&& m) := by
  have hshift : w32 (b.toNat * 2 ^ fieldPos c) = b <<< (c % 256) := by
    apply BitVec.eq_of_toNat_eq
    rw [BitVec.toNat_shiftLeft, w32, BitVec.toNat_ofNat, Nat.shiftLeft_eq, fieldPos]
  simp only [insertField, w32_fieldMask, w32_toNat, hshift]

/-! ## The words -/

theorem w32_lop3 {n : Nat} (fx : BitVec n) (a b c : Word) :
    w32 (lopOp (bitsOf fx.toNat 7 4) (lopOp (bitsOf fx.toNat 3 0) (w32 a.toNat) (w32 b.toNat)) (w32 c.toNat)).toNat =
      lopOp (fx.extractLsb' 4 4).toNat (lopOp (fx.extractLsb' 0 4).toNat a b) c := by
  simp only [w32_toNat, BitVec.extractLsb'_toNat, bitsOf, Nat.shiftRight_eq_div_pow]

/-- Settles O2: what each word computes over numbers is the operation on patterns. -/
theorem bitWords : Obligations.BitWords := by
  unfold Obligations.BitWords
  refine ⟨fun s x lanes o p => ?_, fun s x lanes o p => ?_, fun s x lanes o p => ?_⟩
  · refine ⟨State.bitV_does (e := execAnd o s) rfl rfl (fun l => w32_and _ _),
      State.bitV_does (e := execOr o s) rfl rfl (fun l => w32_or _ _),
      State.bitV_does (e := execXor o s) rfl rfl (fun l => w32_xor _ _),
      State.bitV_does (e := execAndn o s) rfl rfl (fun l => ?_),
      State.bitI_does (e := execAndImm p s) rfl rfl (fun l => ?_),
      State.bitI_does (e := execOrImm p s) rfl rfl (fun l => ?_),
      State.bitI_does (e := execXorImm p s) rfl rfl (fun l => ?_),
      State.bitV_does (e := execPopc o s) rfl rfl (fun l => rfl),
      State.bitV_does (e := execClz o s) rfl rfl (fun l => w32_leadingZeros _),
      State.bitV_does (e := execCtz o s) rfl rfl (fun l => w32_trailingZeros _),
      State.bitV_does (e := execBrev o s) rfl rfl (fun l => w32_reverseBits _),
      State.bitV_does (e := execLop3 o s) rfl rfl (fun l => w32_lop3 _ _ _ _)⟩
    · rw [w32_toNat, w32_toNat, w32_toNat]
    · rw [imm_toNat, w32_and]
    · rw [imm_toNat, w32_or]
    · rw [imm_toNat, w32_xor]
  · exact ⟨State.bitV_does (e := execIshl o s) rfl rfl (fun l => w32_shl _ _),
      State.bitV_does (e := execIshr o s) rfl rfl (fun l => w32_shr _ _),
      State.bitV_does (e := execIsar o s) rfl rfl (fun l => w32_sar _ _),
      State.bitV_does (e := execIrot o s) rfl rfl (fun l => w32_rot _ _),
      State.bitI_does (e := execIshlImm p s) rfl rfl (fun l => w32_shl _ _),
      State.bitI_does (e := execIshrImm p s) rfl rfl (fun l => w32_shr _ _),
      State.bitI_does (e := execIsarImm p s) rfl rfl (fun l => w32_sar _ _),
      State.bitI_does (e := execIrotImm p s) rfl rfl (fun l => w32_rot _ _)⟩
  · exact ⟨State.bitV_does (e := execBfx o s) rfl rfl (fun l => w32_extractField _ _ _),
      State.bitI_does (e := execBfxImm p s) rfl rfl (fun l => w32_extractField _ _ _),
      State.bitV_does (e := execBfi o s) rfl rfl (fun l => w32_insertField _ _ _)⟩

end Sys2Proof.Machine
end

section
/-!
PROOF. Comparisons, moves, predicates, exchanges between lanes, votes, `match` and `elect` (R111, R116 to R121).
-/
namespace Sys2Proof.Machine

/-! ## Comparisons -/

/-- The comparison that a code names (R116). -/
def ComparisonHolds (code : Nat) (a b : Int) : Prop :=
  (code = 0 ∧ a = b) ∨ (code = 1 ∧ a ≠ b) ∨ (code = 2 ∧ a < b) ∨ (code = 3 ∧ a ≤ b) ∨ (code = 4 ∧ a > b) ∨ (5 ≤ code ∧ a ≥ b)

theorem compares_iff (code : Nat) (a b : Int) : compares code a b = true ↔ ComparisonHolds code a b := by
  match code with
  | 0 | 1 | 2 | 3 | 4 => simp [compares, ComparisonHolds]
  | n + 5 => simp [compares, ComparisonHolds]

/-- A predicate with the truth of a comparison is the comparison. -/
theorem compares_eq_of_iff {code : Nat} {a b : Int} {t : Bool}
    (h : t = true ↔ ComparisonHolds code a b) :
    compares code a b = t :=
  Bool.eq_iff_iff.mpr ((compares_iff code a b).trans h.symm)

/-- Settles O3: each comparison is a run over predicates, of the truth that its code names. -/
theorem compareWords : Obligations.CompareWords := by
  unfold Obligations.CompareWords
  intro s x lanes o p
  refine ⟨fun f h => State.does_of_preds rfl rfl (funext fun l => ?_), fun f h => State.does_of_preds rfl rfl (funext fun l => ?_)⟩
  · rw [typed_val, typed_val, compares_eq_of_iff (h l)]
  · rw [typed_val, typed_toNat, compares_eq_of_iff (h l)]

/-! ## Moves and predicates -/

theorem State.predV_does {s : State} {x : Ctx} {lanes : Mask} {i : Instr} {o : FmtV} {ss : List SrcOp} {f : Bool → Bool → Bool} {e : Out}
    (harm : exec i s = e) (hexec : e = s.predV i o ss f) :
    s.Does (specV i o ss [.pred o.dst.toNat]) x lanes
      (s.wrotePred x lanes o.dst.toNat (fun l => f (x.g.r.pred o.sa.toNat l) (x.g.r.pred o.sb.toNat l))) :=
  State.does_of_preds rfl (harm.trans hexec) rfl

theorem nop_does (s : State) (x : Ctx) (lanes : Mask) (o : FmtV) : s.Does (plainSpec (.nop o) o.guard) x lanes s := fun hgoes =>
  congrArg Host.Outcome.next (State.runWord_done rfl hgoes rfl hgoes.quiet)

theorem sel_does (s : State) (x : Ctx) (lanes : Mask) (o : FmtV) :
    s.Does (specV (.sel o) o (srcsAB o ++ [.pred o.sc.toNat]) [dst o.dst 1]) x lanes
      (s.wrote x lanes o.dst.toNat (fun l => [if x.g.r.pred o.sc.toNat l then x.word o.sa l else x.word o.sb l])) := by
  refine State.does_of_lanes (f := fun x l => [w32 (if x.predVal o.sc l then x.val o.sa l else x.val o.sb l)]) rfl rfl (fun l _ => ?_)
  rw [apply_ite w32]
  rfl

theorem movi_does (s : State) (x : Ctx) (lanes : Mask) (w : FmtW) :
    s.Does { plainSpec (.movi w) w.guard with dsts := [dst w.dst 1] } x lanes (s.wrote x lanes w.dst.toNat (fun _ => [w.imm])) := fun hgoes => by
  have harm : exec (.movi w) s = execMovi w s := rfl
  exact harm.trans (congrArg Host.Outcome.next (State.runLanes_does (f := fun _ _ => [w.imm]) rfl hgoes))

/-- Settles O4: each word is a run over lanes or over predicates, and `nop` changes nothing. -/
theorem moveAndPredicateWords : Obligations.MoveAndPredicateWords := by
  unfold Obligations.MoveAndPredicateWords
  intro s x lanes o w
  exact ⟨sel_does s x lanes o, State.bitV_does (e := execMov o s) rfl rfl (fun l => w32_toNat _),
    movi_does s x lanes w, nop_does s x lanes o,
    State.predV_does (f := fun a b => a && b) (e := execPand o s) rfl rfl, State.predV_does (f := fun a b => a || b) (e := execPor o s) rfl rfl,
    State.predV_does (f := fun a b => a != b) (e := execPxor o s) rfl rfl, State.predV_does (f := fun a _ => !a) (e := execPnot o s) rfl rfl,
    State.predV_does (f := fun a _ => a) (e := execPmov o s) rfl rfl⟩

/-! ## Exchanges -/

theorem lowestFail_head {c : Nat} {b : Bool} {rest : List (Nat × Bool)} (h : lowestFail ((c, b) :: rest) = none) : b = false := by
  cases b with
  | false => rfl
  | true => exact nomatch h

/-- A word of format V that passes its encoding check has one of its form's types. -/
theorem FmtV.var_mem {o : FmtV} {vars : List Nat} {d : DstUse} {a b c : SrcUse} {rnd sat fx : Bool}
    (h : lowestFail (o.fails vars d a b c rnd sat fx) = none) : o.var.toNat ∈ vars := by
  have hvar := lowestFail_head h
  simpa using hvar

theorem Ctx.encInfo_of_go {x : Ctx} {w : WordSpec} {lanes : Mask} {ts : List LaneTrap} (h : x.check w = .go lanes ts) : w.i.encInfo = none := by
  by_cases hact : x.active w.guard = 0
  · exact nomatch (Ctx.check_inactive hact).symm.trans h
  cases henc : w.i.encInfo with
  | none => rfl
  | some info => exact nomatch (Ctx.check_encoding hact henc).symm.trans h

/-- No live peer of a lane waits for a fill, and no register that a lane reads of its peer is poisoned. -/
def Ctx.PeersFree (x : Ctx) (f : BitVec 8) (lanes : Mask) (peer : Nat → Nat) : Prop :=
  ∀ l, l ∈ maskLanes lanes →
    ¬ (f.toNat < 0xE0 ∧ x.g.r.isEmpty f.toNat (peer l) = true ∧ x.g.r.live.getLsbD (peer l) = true) ∧
    (f.toNat < 0xE0 → SMap.find? x.g.poison (unitKey f.toNat (peer l)) = none)

/-- The word that a lane gets of its peer. -/
def Ctx.peerWord (x : Ctx) (f : BitVec 8) (j : Nat) : Word :=
  if f.toNat < 0xE0 ∧ x.g.r.isEmpty f.toNat j = true ∧ x.g.r.live.getLsbD j = false then 0 else x.word f j

theorem w32_peerValue (x : Ctx) (f : BitVec 8) (j : Nat) : w32 (x.peerValue f j) = x.peerWord f j := by
  unfold Ctx.peerValue Ctx.peerWord Ctx.word
  rw [apply_ite w32]
  simp [w32, and_assoc]

theorem State.exchange_does {s : State} {x : Ctx} {lanes : Mask} {i : Instr} {o : FmtV} {ss : List SrcOp} {name : Ctx → Nat → Nat}
    {peer : Nat → Nat} {e : Out} (harm : exec i s = e) (hexec : e = s.exchange i o ss name) (hfree : x.PeersFree o.sa lanes peer)
    (hpeer : i.encInfo = none → ∀ l, l ∈ maskLanes lanes → name x l = peer l) :
    s.Does (specV i o ss [dst o.dst 1]) x lanes (s.wrote x lanes o.dst.toNat (fun l => [x.peerWord o.sa (peer l)])) := fun hgoes => by
  have hname := hpeer (Ctx.encInfo_of_go hgoes.check)
  have hwaits : ((maskLanes lanes).map (name x)).filter (fun j => x.peerWaits o.sa j) = [] := by
    refine List.filter_eq_nil_iff.mpr (List.forall_mem_map.mpr fun l hl => ?_)
    rw [hname l hl]
    simpa [Ctx.peerWaits, and_assoc] using (hfree l hl).1
  have hclean : (maskLanes lanes).findSome? (fun l =>
      if o.sa.toNat < 0xE0 then x.g.poisonAt (unitKey o.sa.toNat (name x l)) else none) = none := by
    refine List.findSome?_eq_none_iff.mpr fun l hl => ?_
    split
    next hreg => rw [hname l hl, Group.poisonAt, (hfree l hl).2 hreg, Option.map_none]
    · rfl
  refine (harm.trans hexec).trans (congrArg Host.Outcome.next ?_)
  refine State.runWord_done rfl hgoes ?_ hgoes.quiet
  simp only [hwaits, hclean, List.isEmpty_nil, Bool.not_true, Bool.false_eq_true, if_false]
  refine congrArg (WordRes.done · []) ?_
  have hact : x.active o.guard = lanes := Ctx.check_lanes (w := specV i o ss [dst o.dst 1]) rfl hgoes.check
  rw [hact]
  exact State.wrote_congr fun l hl => by rw [w32_peerValue, hname l hl]

/-! ## Votes, `match` and `elect` -/

theorem maskWhere_eq_maskOf (lanes : Mask) (p : Nat → Bool) :
    maskWhere (fun i => lanes.getLsbD i && p i) = maskOf ((maskLanes lanes).filter p) := by
  apply BitVec.eq_of_getLsbD_eq
  intro i hi
  rw [maskWhere_getLsbD, maskOf_getLsbD]
  congr 1
  rw [Bool.eq_iff_iff]
  simp [mem_maskLanes]

theorem maskOf_filter_eq (lanes : Mask) (p : Nat → Bool) :
    (maskWhere (fun i => lanes.getLsbD i && p i) == lanes) = (maskLanes lanes).all p := by
  rw [Bool.eq_iff_iff, beq_iff_eq, List.all_eq_true]
  constructor
  · intro h l hl
    have hbit : (maskWhere (fun i => lanes.getLsbD i && p i)).getLsbD l = lanes.getLsbD l := by rw [h]
    rw [maskWhere_getLsbD, (mem_maskLanes lanes l).mp hl] at hbit
    simpa [mem_maskLanes_lt hl] using hbit
  · intro h
    apply BitVec.eq_of_getLsbD_eq
    intro i hi
    rw [maskWhere_getLsbD]
    cases hin : lanes.getLsbD i with
    | false => simp
    | true => simp [hi, h i ((mem_maskLanes lanes i).mpr hin)]

theorem maskOf_filter_ne_zero (lanes : Mask) (p : Nat → Bool) :
    (maskWhere (fun i => lanes.getLsbD i && p i) != 0) = (maskLanes lanes).any p := by
  rw [Bool.eq_iff_iff, bne_iff_ne, List.any_eq_true]
  constructor
  · intro h
    obtain ⟨i, hi, -⟩ := exists_firstLane h
    rw [mem_maskLanes, maskWhere_getLsbD] at hi
    simp only [Bool.and_eq_true] at hi
    exact ⟨i, (mem_maskLanes lanes i).mpr hi.2.1, hi.2.2⟩
  · rintro ⟨i, hi, hp⟩ h
    have hbit : (maskWhere (fun i => lanes.getLsbD i && p i)).getLsbD i = (0 : Mask).getLsbD i := by rw [h]
    rw [maskWhere_getLsbD, (mem_maskLanes lanes i).mp hi] at hbit
    simp [mem_maskLanes_lt hi, hp] at hbit

/-- A ballot that is 0 is that of no lane. -/
theorem maskOf_filter_eq_zero (lanes : Mask) (p : Nat → Bool) :
    (maskWhere (fun i => lanes.getLsbD i && p i) == 0) = !(maskLanes lanes).any p := by
  rw [← maskOf_filter_ne_zero, bne, Bool.not_not]

theorem vote_does_of_var {s : State} {x : Ctx} {lanes : Mask} {o : FmtV} {answer : Bool} (hvar : o.var ≠ 2)
    (h : (let v := maskWhere (fun i => lanes.getLsbD i && x.g.r.pred o.sa.toNat i)
      match o.var.toNat with
      | 0 => v == lanes
      | 1 => v != 0
      | _ => v == lanes || v == 0) = answer) :
    s.Does (specV (.vote o) o [.pred o.sa.toNat] [.pred o.dst.toNat]) x lanes (s.wrotePred x lanes o.dst.toNat (fun _ => answer)) :=
  State.does_of_preds rfl (Eq.trans (b := execVote o s) rfl (if_neg hvar)) (funext fun _ => h)

theorem ballot_does {s : State} {x : Ctx} {lanes : Mask} {o : FmtV} (hvar : o.var = 2) :
    s.Does (specV (.vote o) o [.pred o.sa.toNat] [dst o.dst 1]) x lanes (s.wrote x lanes o.dst.toNat
      (fun _ => [(maskOf ((maskLanes lanes).filter (fun l => x.g.r.pred o.sa.toNat l))).setWidth 32])) := fun hgoes => by
  refine Eq.trans (b := execVote o s) rfl ((if_pos hvar).trans (congrArg Host.Outcome.next (State.runWord_done rfl hgoes ?_ hgoes.quiet)))
  have hact : x.active o.guard = lanes := Ctx.check_lanes (w := specV (.vote o) o [.pred o.sa.toNat] [dst o.dst 1]) rfl hgoes.check
  rw [hact]
  exact congrArg (WordRes.done · []) (State.wrote_congr fun l _ => by rw [← maskWhere_eq_maskOf]; rfl)

theorem Ctx.special_lt (x : Ctx) (n : Nat) {l : Nat} (hl : l < 16) : x.special n l < 2 ^ 32 := by
  unfold Ctx.special
  split <;> omega

theorem Ctx.valN_lt (x : Ctx) (f : BitVec 8) {l : Nat} (hl : l < 16) : x.valN f 2 l < 2 ^ 64 := by
  have hpair : ∀ a b : Word, 0 + a.toNat * 2 ^ (32 * 0) + b.toNat * 2 ^ (32 * 1) < 2 ^ 64 := fun a b => by
    have ha := a.isLt
    have hb := b.isLt
    omega
  unfold Ctx.valN Ctx.value
  split
  · split
    · exact Nat.sub_lt (Nat.two_pow_pos _) Nat.one_pos
    · exact lt_trans (x.special_lt f.toNat hl) (Nat.pow_lt_pow_right (by decide) (by decide))
  · rw [show List.range 2 = [0, 1] from rfl, List.foldl_cons, List.foldl_cons, List.foldl_nil]
    exact hpair _ _

theorem Ctx.pair_toNat (x : Ctx) (f : BitVec 8) {l : Nat} (hl : l < 16) : (x.pair f l).toNat = x.valN f 2 l := by
  rw [Ctx.pair, w64, BitVec.toNat_ofNat, Nat.mod_eq_of_lt (x.valN_lt f hl)]

theorem match_does {s : State} {x : Ctx} {lanes : Mask} {o : FmtV} {n : Nat} {same : Nat → Nat → Bool} (hn : n = if o.var = 1 then 2 else 1)
    (hsame : ∀ l, l ∈ maskLanes lanes → ∀ j, j ∈ maskLanes lanes → (x.valN o.sa n j == x.valN o.sa n l) = same l j) :
    s.Does (specV (.matchWord o) o [.reg o.sa.toNat o.ea n] [dst o.dst 1]) x lanes
      (s.wrote x lanes o.dst.toNat (fun l => [(maskOf ((maskLanes lanes).filter (same l))).setWidth 32])) := by
  subst hn
  intro hgoes
  refine Eq.trans (b := execMatchWord o s) rfl (congrArg Host.Outcome.next (State.runWord_done rfl hgoes ?_ hgoes.quiet))
  generalize (if o.var = 1 then 2 else 1) = n at hgoes hsame
  have hact : x.active o.guard = lanes := Ctx.check_lanes (w := specV (.matchWord o) o [.reg o.sa.toNat o.ea n] [dst o.dst 1]) rfl hgoes.check
  rw [hact]
  refine congrArg (WordRes.done · []) (State.wrote_congr fun l hl => ?_)
  refine congrArg (fun m : Mask => [m.setWidth 32]) ?_
  rw [← List.filter_congr (hsame l hl)]
  exact maskWhere_eq_maskOf lanes _

theorem firstLane_eq_some_iff {lanes : Mask} {l : Nat} (hl : l ∈ maskLanes lanes) :
    (firstLane lanes == some l) = decide (∀ j, j < l → lanes.getLsbD j = false) := by
  have hin := (mem_maskLanes lanes l).mp hl
  rw [Bool.eq_iff_iff, beq_iff_eq, decide_eq_true_iff, firstLane, laneNumbers, List.find?_range_eq_some]
  simp [hin, mem_maskLanes_lt hl]

theorem State.wrotePred_congr {s : State} {x : Ctx} {lanes : Mask} {p : Nat} {f g : Nat → Bool}
    (h : ∀ l, l ∈ maskLanes lanes → f l = g l) : s.wrotePred x lanes p f = s.wrotePred x lanes p g :=
  congrArg (s.modRegs x.ref.g) (funext fun r => List.foldl_ext _ _ r (fun r l hl => by rw [h l hl]))

theorem elect_does (s : State) (x : Ctx) (lanes : Mask) (o : FmtV) :
    s.Does (specV (.elect o) o [] [.pred o.dst.toNat]) x lanes
      (s.wrotePred x lanes o.dst.toNat (fun l => decide (∀ j, j < l → lanes.getLsbD j = false))) := fun hgoes => by
  refine Eq.trans (b := execElect o s) rfl (congrArg Host.Outcome.next ((State.runPreds_does rfl hgoes).trans ?_))
  rw [State.wrotePred_congr fun l hl => firstLane_eq_some_iff hl]

/-- The peer that `gshf` names in each of its four types. -/
theorem gshf_peer {n l b p : Nat} (h0 : n = 0 → p = b % 16) (h1 : n = 1 → p = if b ≤ l then l - b else l)
    (h2 : n = 2 → p = if l + b ≤ 15 then l + b else l) (h3 : n = 3 → p = l ^^^ (b % 16)) (hn : n ∈ [0, 1, 2, 3]) :
    (match n with
      | 0 => b % 16
      | 1 => if b ≤ l then l - b else l
      | 2 => if l + b ≤ 15 then l + b else l
      | _ => l ^^^ (b % 16)) = p := by
  match n, hn with
  | 0, _ => exact (h0 rfl).symm
  | 1, _ => exact (h1 rfl).symm
  | 2, _ => exact (h2 rfl).symm
  | 3, _ => exact (h3 rfl).symm
  | n + 4, hn => simp at hn

/-- Settles O5: an exchange reads the peer that its form names, a vote folds its predicate over the lanes, and `match` and `elect` compare lanes. -/
theorem laneWords : Obligations.LaneWords := by
  unfold Obligations.LaneWords
  refine ⟨fun s x lanes o => ⟨fun peer hfree hpeer => ?_, fun peer hfree hpeer => ?_, fun peer hfree h0 h1 h2 h3 => ?_⟩,
    fun s x lanes o => ⟨fun hvar => ?_, fun hvar => ?_, fun hvar => ?_, ballot_does, fun hvar => ?_, fun hvar => ?_, ?_⟩⟩
  · exact State.exchange_does (e := execQxch o s) rfl rfl hfree (fun _ l hl => (hpeer l (mem_maskLanes_lt hl)).symm)
  · refine State.exchange_does (e := execQbcast o s) rfl rfl hfree (fun _ l hl => ?_)
    rw [hpeer l (mem_maskLanes_lt hl)]
    dsimp only
    rw [x.word_toNat o.sb hl]
  · refine State.exchange_does (e := execGshf o s) rfl rfl hfree (fun henc l hl => ?_)
    have hl16 := mem_maskLanes_lt hl
    have hword := x.word_toNat o.sb hl
    have hvar : ∀ n : Nat, n < 16 → o.var.toNat = n → o.var = BitVec.ofNat 4 n := fun n hn h => by
      rw [← h, BitVec.ofNat_toNat, BitVec.setWidth_eq]
    refine gshf_peer (fun h => ?_) (fun h => ?_) (fun h => ?_) (fun h => ?_) (FmtV.var_mem henc) <;> dsimp only at h0 h1 h2 h3
    · simp only [h0 l hl16 (hvar 0 (by decide) h), hword]
    · simp only [h1 l hl16 (hvar 1 (by decide) h), hword]
    · simp only [h2 l hl16 (hvar 2 (by decide) h), hword]
    · simp only [h3 l hl16 (hvar 3 (by decide) h), hword]
  · refine vote_does_of_var (by rw [hvar]; decide) ?_
    simp only [hvar]
    exact maskOf_filter_eq lanes _
  · refine vote_does_of_var (by rw [hvar]; decide) ?_
    simp only [hvar]
    exact maskOf_filter_ne_zero lanes _
  · refine vote_does_of_var (by rw [hvar]; decide) ?_
    simp only [hvar]
    exact congrArg₂ or (maskOf_filter_eq lanes _) (maskOf_filter_eq_zero lanes _)
  · refine match_does (by rw [hvar]; rfl) (fun l hl j hj => ?_)
    rw [Bool.eq_iff_iff, beq_iff_eq, beq_iff_eq, ← BitVec.toNat_inj, x.word_toNat o.sa hj, x.word_toNat o.sa hl]
    rfl
  · refine match_does (by rw [hvar]; rfl) (fun l hl j hj => ?_)
    rw [Bool.eq_iff_iff, beq_iff_eq, beq_iff_eq, ← BitVec.toNat_inj, x.pair_toNat o.sa (mem_maskLanes_lt hj),
      x.pair_toNat o.sa (mem_maskLanes_lt hl)]
  · exact elect_does s x lanes o

end Sys2Proof.Machine
end

section
/-!
PROOF. `sel` (R117): a source that is empty in an active lane makes the word wait or traps that lane, by its policy bit, and the others go on.
-/
namespace Sys2Proof.Machine

/-! ## What a source register answers -/

theorem regsOf_one (n : Nat) : regsOf n 1 = if n < 0xE0 then [n] else [] := rfl

/-- A source register's field is empty in a lane. -/
def Ctx.FieldEmpty (x : Ctx) (f : BitVec 8) (l : Nat) : Prop := f.toNat < 0xE0 ∧ x.g.r.isEmpty f.toNat l = true

theorem Ctx.sourceState_src {x : Ctx} (hsent : ∀ n l, x.g.unsentResult n l = false) (l : Nat) (f : BitVec 8) (e : Bool) :
    (x.FieldEmpty f l → x.sourceState l (src f e) = (if e then 2 else 1, f.toNat)) ∧
    (¬ x.FieldEmpty f l → x.sourceState l (src f e) = (0, f.toNat)) := by
  by_cases hreg : f.toNat < 0xE0
  · cases hempty : x.g.r.isEmpty f.toNat l <;> cases e <;> simp [Ctx.FieldEmpty, src, Ctx.sourceState, regsOf_one, hreg, hsent, hempty]
  · simp [Ctx.FieldEmpty, src, Ctx.sourceState, regsOf_one, hreg]

theorem Ctx.sourceState_pred {x : Ctx} (hqueued : x.g.queued = []) (l p : Nat) : x.sourceState l (.pred p) = (0, p) := by
  simp [Ctx.sourceState, hqueued]

/-! ## The verdict of a word that does not wait -/

/-- The traps 0x06 of a word's empty sources (R52). -/
def Ctx.emptyTraps (x : Ctx) (w : WordSpec) : List LaneTrap :=
  ((maskLanes (x.active w.guard)).filter (fun l => (x.firstEmpty w.srcs l).1 == 2)).map (fun l => ⟨l, 0x06, (x.firstEmpty w.srcs l).2⟩)

theorem Ctx.poisonedSource_nil {x : Ctx} (hpoison : x.g.poison = []) (lanes : Mask) (ss : List SrcOp) : x.poisonedSource lanes ss = none := by
  refine List.findSome?_eq_none_iff.mpr fun o _ => ?_
  cases o with
  | reg enc e n =>
    exact List.findSome?_eq_none_iff.mpr fun r _ => List.findSome?_eq_none_iff.mpr fun i _ => by rw [Group.poisonAt, hpoison]; rfl
  | pred p => rfl
  | tile n => simp [hpoison]

theorem Ctx.check_goes {x : Ctx} {w : WordSpec} (hact : x.active w.guard ≠ 0) (henc : w.i.encInfo = none) (hw : w.Ordinary)
    (hbounds : x.bounds w.srcs w.dsts = none) (hawaits : ¬ x.Awaits w) (hpoison : x.g.poison = []) :
    x.check w = .go (x.active w.guard &&& ~~~x.emptyTrapped w) (x.emptyTraps w) := by
  have hwait : ((maskLanes (x.active w.guard)).any (fun l => (x.firstEmpty w.srcs l).1 == 1) || !(x.lateDsts w).isEmpty) = false := by
    simpa [Ctx.Awaits] using hawaits
  unfold Ctx.lateDsts Ctx.emptyTrapped at hwait
  unfold Ctx.emptyTrapped Ctx.emptyTraps
  simp only [Ctx.check, if_neg hact, henc, hw.priv, hw.region, hw.tile, hw.quiet, hbounds, Option.isSome_none, Bool.and_false,
    Bool.false_eq_true, if_false, Option.map_none, Option.getD_none, Bool.or_false, List.any_map, List.filter_map, List.map_map,
    Function.comp_def, List.map_id', hwait, Ctx.poisonedSource_nil hpoison]

theorem Ctx.lateDsts_nil {x : Ctx} {w : WordSpec} {d : BitVec 8} (hdsts : w.dsts = [dst d 1])
    (hfree : ∀ l, l ∈ maskLanes (x.active w.guard) → x.g.outstanding d.toNat l = false) : x.lateDsts w = [] := by
  rw [Ctx.lateDsts, hdsts]
  simp only [Ctx.dstAwaited, dst, List.flatMap_cons, List.flatMap_nil, List.append_nil, regsOf_one]
  split
  · rw [List.flatMap_cons, List.flatMap_nil, List.append_nil, List.map_eq_nil_iff, List.filter_eq_nil_iff]
    intro l hl
    have hact : l ∈ maskLanes (x.active w.guard) := by
      rw [mem_maskLanes] at hl ⊢
      exact (Bool.and_eq_true_iff.mp ((BitVec.getLsbD_and ..).symm.trans hl)).1
    simp [hfree l hact]
  · rfl

/-! ## A word that writes in the lanes that go ahead -/

theorem updateWhere_id {α : Type} (p : α → Bool) (xs : List α) : updateWhere p (fun a => a) xs = xs := by
  simp [updateWhere]

theorem State.modGroup_id (s : State) (g : GRef) : s.modGroup g (fun y => y) = s := by
  have hgroups : ∀ c : Cohort, c.modGroup g.gid (fun y => y) = c := fun c => by rw [Cohort.modGroup, updateWhere_id]
  simp only [State.modGroup, State.modCohort, hgroups, updateWhere_id]

/-- The effect of a word that writes in lanes, of which it has a part. -/
def State.ranLanes (s : State) (x : Ctx) (act lanes : Mask) (d : Nat) (f : Nat → List Word) : State :=
  s.modGroup x.ref.g (fun y => (maskLanes lanes).foldl (fun y i => y.put act d i (f i)) y)

theorem State.ranLanes_none (s : State) (x : Ctx) (act : Mask) (d : Nat) (f : Nat → List Word) : s.ranLanes x act 0 d f = s :=
  State.modGroup_id s x.ref.g

theorem State.runLanes_go {s : State} {x : Ctx} {w : WordSpec} {lanes : Mask} {ts : List LaneTrap} {d : Nat} {f : Ctx → Nat → List Word}
    (hctx : s.ctx? = some x) (hmoves : x.waits = false) (hcalm : s.calm x.l.part) (hcheck : x.check w = .go lanes ts) :
    s.runLanes w d f =
      if ts.isEmpty then (s.ranLanes x (x.active w.guard) lanes d (f x)).advance x (x.active w.guard)
      else s.trapOr x ((s.ranLanes x (x.active w.guard) lanes d (f x)).wordTrap x (x.active w.guard) ts false []) := by
  have hkept : (s.ranLanes x (x.active w.guard) lanes d (f x)).calm x.l.part := State.calm_of_parts rfl hcalm
  have hresult := State.injectResult_quiet _ x lanes w.dsts hkept
  simp only [State.runLanes, State.runWord, hctx, hmoves, Bool.false_eq_true, if_false, State.injectStore_quiet s x _ _ hcalm, hcheck]
  split
  next hnone => rw [hnone, State.ranLanes_none]
  next hsome =>
    unfold State.ranLanes at hresult ⊢
    simp only [hresult, List.append_nil, Bool.false_eq_true, if_false]

/-! ## `sel` -/

/-- The specification of `sel`. -/
def selSpec (o : FmtV) : WordSpec := specV (.sel o) o (srcsAB o ++ [.pred o.sc.toNat]) [dst o.dst 1]

theorem exec_sel (o : FmtV) (s : State) : exec (.sel o) s = .next (s.runLanes (selSpec o) o.dst.toNat
    (fun x l => [w32 (if x.predVal o.sc l then x.val o.sa l else x.val o.sb l)])) := by
  have harm : exec (.sel o) s = execSel o s := rfl
  rw [harm, execSel, selSpec]

theorem selSpec_ordinary (o : FmtV) : (selSpec o).Ordinary := ⟨rfl, rfl, rfl, rfl⟩

/-- The first source of `sel` that is empty in a lane, if one is, decides what the lane does. -/
def Ctx.selState (x : Ctx) (o : FmtV) (l : Nat) : Nat × Nat :=
  match x.sourceState l (src o.sa o.ea) with
  | (0, _) => match x.sourceState l (src o.sb o.eb) with
    | (0, _) => (0, 0)
    | p => p
  | p => p

theorem Ctx.firstEmpty_sel {x : Ctx} (hqueued : x.g.queued = []) (o : FmtV) (l : Nat) : x.firstEmpty (selSpec o).srcs l = x.selState o l := by
  show x.firstEmpty [src o.sa o.ea, src o.sb o.eb, .pred o.sc.toNat] l = _
  unfold Ctx.firstEmpty Ctx.selState
  rcases hsa : x.sourceState l (src o.sa o.ea) with ⟨_ | a, i⟩ <;> rcases hsb : x.sourceState l (src o.sb o.eb) with ⟨_ | b, j⟩ <;>
    simp [hsa, hsb, Ctx.sourceState_pred hqueued]

/-- The lane waits: its first empty source has policy 0. -/
def Ctx.SelWaits (x : Ctx) (o : FmtV) (l : Nat) : Prop :=
  (x.FieldEmpty o.sa l ∧ o.ea = false) ∨ (¬ x.FieldEmpty o.sa l ∧ x.FieldEmpty o.sb l ∧ o.eb = false)

/-- The lane traps: its first empty source has policy 1. -/
def Ctx.SelTraps (x : Ctx) (o : FmtV) (l : Nat) : Prop :=
  (x.FieldEmpty o.sa l ∧ o.ea = true) ∨ (¬ x.FieldEmpty o.sa l ∧ x.FieldEmpty o.sb l ∧ o.eb = true)

theorem Ctx.selState_iff {x : Ctx} (hsent : ∀ n l, x.g.unsentResult n l = false) (o : FmtV) (l : Nat) :
    ((x.selState o l).1 = 1 ↔ x.SelWaits o l) ∧ ((x.selState o l).1 = 2 ↔ x.SelTraps o l) ∧
    (x.SelTraps o l → (x.selState o l).2 = if x.g.r.isEmpty o.sa.toNat l ∧ o.sa.toNat < 0xE0 then o.sa.toNat else o.sb.toNat) := by
  have hA := Ctx.sourceState_src hsent l o.sa o.ea
  have hB := Ctx.sourceState_src hsent l o.sb o.eb
  have hinfo : (x.g.r.isEmpty o.sa.toNat l = true ∧ o.sa.toNat < 0xE0) ↔ x.FieldEmpty o.sa l := and_comm
  unfold Ctx.SelWaits Ctx.SelTraps Ctx.selState
  by_cases ha : x.FieldEmpty o.sa l
  · rw [hA.1 ha]
    rw [if_pos (hinfo.mpr ha)]
    cases o.ea <;> simp [ha]
  · rw [hA.2 ha, if_neg (mt hinfo.mp ha)]
    by_cases hb : x.FieldEmpty o.sb l
    · rw [hB.1 hb]
      cases o.eb <;> simp [ha, hb]
    · rw [hB.2 hb]
      simp [ha, hb]

/-- Settles O6: the verdict of the checks by the first empty source of each lane. -/
theorem selectWord : Obligations.SelectWord := by
  unfold Obligations.SelectWord
  intro s x o w act empty waits traps hctx hmoves hcalm hact henc hbounds hqueued hsent hpoison hfree
  have hfirst : ∀ l, x.firstEmpty (selSpec o).srcs l = x.selState o l := Ctx.firstEmpty_sel hqueued o
  have hstate := Ctx.selState_iff hsent o
  have hlate : x.lateDsts (selSpec o) = [] := Ctx.lateDsts_nil (w := selSpec o) rfl hfree
  have harm := exec_sel o s
  refine ⟨fun hwaits => ?_, fun hgo ls hls hsorted => ?_⟩
  · have hawaits : x.Awaits (selSpec o) := .inl (hwaits.imp fun l h => ⟨h.1, by rw [hfirst]; exact (hstate l).1.mpr h.2⟩)
    have hpark := Ctx.check_awaits (w := selSpec o) hact henc (selSpec_ordinary o) hbounds hawaits
    rw [hlate, List.append_nil] at hpark
    rw [harm, State.runLanes, State.runWord_park hctx hmoves hcalm hpark]
    rfl
  · have hmoves' : ¬ x.Awaits (selSpec o) := by
      rintro (⟨l, hl, h⟩ | h)
      · exact hgo l hl ((hstate l).1.mp (by rw [← hfirst]; exact h))
      · exact h hlate
    have hgoes := Ctx.check_goes (w := selSpec o) hact henc (selSpec_ordinary o) hbounds hmoves' hpoison
    have hlist : (maskLanes act).filter (fun l => (x.firstEmpty (selSpec o).srcs l).1 == 2) = ls := by
      rw [hsorted]
      refine List.filter_congr fun l hl => ?_
      rw [Bool.eq_iff_iff, beq_iff_eq, hfirst, (hstate l).2.1, List.contains_iff_mem, hls l]
      exact (and_iff_right hl).symm
    have htraps : x.emptyTraps (selSpec o) = ls.map (fun l =>
        ⟨l, 0x06, if x.g.r.isEmpty o.sa.toNat l ∧ o.sa.toNat < 0xE0 then o.sa.toNat else o.sb.toNat⟩) := by
      show List.map _ ((maskLanes act).filter (fun l => (x.firstEmpty (selSpec o).srcs l).1 == 2)) = _
      rw [hlist]
      exact List.map_congr_left fun l hl => by rw [hfirst, (hstate l).2.2 ((hls l).mp hl).2]
    have hlanes : x.emptyTrapped (selSpec o) = maskOf ls := congrArg maskOf hlist
    have hrun := State.runLanes_go (d := o.dst.toNat)
      (f := fun x l => [w32 (if x.predVal o.sc l then x.val o.sa l else x.val o.sb l)]) hctx hmoves hcalm hgoes
    rw [htraps, hlanes] at hrun
    have hvalue : ∀ l, w32 (if x.predVal o.sc l then x.val o.sa l else x.val o.sb l) =
        if x.g.r.pred o.sc.toNat l then x.word o.sa l else x.word o.sb l := fun l => apply_ite w32 _ _ _
    simp only [hvalue] at hrun
    refine ⟨fun hnone => ?_, fun hsome => ?_⟩
    · rw [harm, hrun, if_pos (by simp [hnone])]
      rfl
    · rw [harm, hrun, if_neg (by simpa using hsome)]
      rfl

end Sys2Proof.Machine
end

section
/-!
PROOF. Control words, `trap` and the unassigned words: where their lanes go (R90, R91, R123 to R128, R205, R207).
-/
namespace Sys2Proof.Machine

/-! ## Words that end their clause -/

theorem State.jumps_of_run {s t : State} {w : WordSpec} {x : Ctx} {lanes : Mask} {body} {pcs : List (Nat × DWord)} {e : Out}
    (hquiet : w.quiet = false) (harm : exec w.i s = e) (hexec : e = .next (s.runWord w body))
    (hbody : x.active w.guard = lanes → body x lanes s = .jump t [] pcs) : s.Jumps w x lanes t pcs := fun hgoes =>
  harm.trans (hexec.trans (congrArg Host.Outcome.next (State.runWord_jump hquiet hgoes (hbody (Ctx.check_lanes hquiet hgoes.check)))))

/-! ## Targets -/

theorem disp24_eq_toInt (d : BitVec 24) : disp24 d = d.toInt := by
  rw [disp24, ← toInt_ofNat_eq_sextNat, BitVec.ofNat_toNat, BitVec.setWidth_eq]

theorem BitVec.and_not_seven_toNat (a : DWord) : (a &&& ~~~7#64).toNat = a.toNat / 8 * 8 := by
  apply Nat.eq_of_testBit_eq
  intro i
  have hlow : (7#64).getLsbD i = decide (i < 3) := by
    rw [show 7#64 = BitVec.ofNat 64 (2 ^ 3 - 1) from rfl, BitVec.getLsbD_ofNat, Nat.testBit_two_pow_sub_one]
    by_cases hi : i < 3
    · simp [hi, show i < 64 by omega]
    · simp [hi]
  rw [show 8 = 2 ^ 3 from rfl, Nat.testBit_mul_two_pow, Nat.testBit_div_two_pow, BitVec.testBit_toNat, BitVec.testBit_toNat,
    BitVec.getLsbD_and, BitVec.getLsbD_not, hlow]
  by_cases hi : i < 3
  · simp [hi]
  · rw [show i - 3 + 3 = i by omega]
    by_cases hin : i < 64
    · simp [hi, hin, show 3 ≤ i by omega]
    · simp [BitVec.getLsbD_of_ge a i (by omega)]

theorem wordTarget_eq (x : Ctx) (f : BitVec 8) {l : Nat} (hl : l < 16) :
    wordTarget (x.valN f 2 l) = va57 ((x.pair f l &&& ~~~7#64).toNat : Int) := by
  rw [BitVec.and_not_seven_toNat, x.pair_toNat f hl, wordTarget]

theorem ofNat_16_val (x : Ctx) (f : BitVec 8) (l : Nat) : BitVec.ofNat 16 (x.val f l) = (x.word f l).setWidth 16 := by
  apply BitVec.eq_of_toNat_eq
  rw [BitVec.toNat_setWidth, Ctx.word, w32, BitVec.toNat_ofNat, BitVec.toNat_ofNat, Nat.mod_mod_of_dvd _ (by decide)]

theorem map_maskLanes_congr {α : Type} {lanes : Mask} {f g : Nat → α} (h : ∀ l, l < 16 → f l = g l) :
    (maskLanes lanes).map f = (maskLanes lanes).map g :=
  List.map_congr_left fun l hl => h l (mem_maskLanes_lt hl)

theorem Regs.modLanes_congr (r : Regs) {lanes : Mask} {f g : Nat → Lane → Lane} (h : ∀ l, l < 16 → f l = g l) :
    r.modLanes lanes f = r.modLanes lanes g := by
  unfold Regs.modLanes
  refine congrArg (fun ls : Vector Lane 16 => { r with lanes := ls }) (Vector.ext fun i hi => ?_)
  rw [Vector.getElem_mapIdx, Vector.getElem_mapIdx, h i hi]

theorem State.bra_jumps (s : State) (x : Ctx) (lanes : Mask) (o : FmtK) :
    s.Jumps (specK (.bra o) o [] []) x lanes
      (if o.disp = 0 then s.modGroup x.ref.g (fun y =>
        y.setIssue x.ref.second ((y.issue? x.ref.second).map (fun i => { i with loops := true }))) else s)
      (toAll lanes (x.target o.disp.toInt)) :=
  State.jumps_of_run (e := execBra o s) rfl rfl rfl (fun _ => by rw [disp24_eq_toInt])

theorem State.call_jumps (s : State) (x : Ctx) (lanes : Mask) (o : FmtK) :
    s.Jumps (specK (.call o) o [] [dst o.dst 2]) x lanes
       (s.wrote x lanes o.dst.toNat (fun _ => [x.i.fall.extractLsb' 0 32, x.i.fall.extractLsb' 32 32])) (toAll lanes (x.target o.disp.toInt)) := by
  refine State.jumps_of_run (e := execCall o s) rfl rfl rfl (fun hact => ?_)
  have hact : x.active o.guard = lanes := hact
  have hfall : wordsOf x.i.fall.toNat 2 = [x.i.fall.extractLsb' 0 32, x.i.fall.extractLsb' 32 32] := by
    rw [wordsOf_two, w64, BitVec.ofNat_toNat, BitVec.setWidth_eq]
  rw [disp24_eq_toInt, hact, hfall]
  rfl

theorem brxSpec_eq (q : FmtK2) : ({ plainSpec (.brx q) q.guard with srcs := (FmtK2pairs q).map (fun p => .pred (bitsOf p.toNat 18 16)) } : WordSpec) =
    { plainSpec (.brx q) q.guard with srcs := (FmtK2pairs q).map (fun p => .pred (p.toNat / 65536 % 8)) } := rfl

theorem State.brx_jumps (s : State) (x : Ctx) (lanes : Mask) (q : FmtK2) :
    s.Jumps { plainSpec (.brx q) q.guard with srcs := (FmtK2pairs q).map (fun p => .pred (p.toNat / 65536 % 8)) } x lanes s
       ((maskLanes lanes).filterMap (fun l =>
         ((FmtK2pairs q).find? (fun p => x.g.r.pred (p.toNat / 65536 % 8) l != p.getLsbD 19)).map (fun p =>
           (l, x.target (p.setWidth 16).toInt)))) := by
  rw [← brxSpec_eq]
  refine State.jumps_of_run (e := execBrx q s) rfl rfl rfl (fun _ => ?_)
  have htarget : ∀ p : BitVec 20, sextNat p.toNat 16 = (p.setWidth 16).toInt := fun p => by
    rw [← toInt_ofNat_eq_sextNat, BitVec.ofNat_toNat]
  simp only [htarget]
  rfl

theorem State.ret_jumps (s : State) (x : Ctx) (lanes : Mask) (o : FmtK) :
    s.Jumps (specK (.ret o) o [srcPair o.sa o.ea] []) x lanes s
       ((maskLanes lanes).map (fun l => (l, va57 ((x.pair o.sa l &&& ~~~7#64).toNat : Int)))) :=
  State.jumps_of_run (e := execRet o s) rfl rfl rfl (fun _ =>
    congrArg (WordRes.jump s []) (map_maskLanes_congr fun l hl => by rw [wordTarget_eq x o.sa hl]))

theorem State.jmpi_jumps (s : State) (x : Ctx) (lanes : Mask) (o : FmtK) :
    s.Jumps (specK (.jmpi o) o [src o.sa o.ea] []) x lanes s
       ((maskLanes lanes).map (fun l => (l, x.target (o.disp.toInt + (x.word o.sa l).toInt)))) :=
  State.jumps_of_run (e := execJmpi o s) rfl rfl rfl (fun _ => by simp only [disp24_eq_toInt, Ctx.toInt_word])

theorem State.rejoin_jumps (s : State) (x : Ctx) (lanes : Mask) (o : FmtK) :
    s.Jumps (specK (.rejoin o) o [src o.sa o.ea] []) x lanes
       (s.modRegs x.ref.g (fun r => r.modLanes lanes (fun l y => { y with tok := some ⟨x.i.wordPc, (x.word o.sa l).setWidth 16⟩ })))
       (toAll lanes x.i.wordPc) :=
  State.jumps_of_run (e := execRejoin o s) rfl rfl rfl (fun _ => by simp only [ofNat_16_val])

theorem State.kill_jumps (s : State) (x : Ctx) (lanes : Mask) (o : FmtK) :
    let named : Mask := (maskLanes lanes).foldl (fun m l => m ||| (x.word o.sa l).setWidth 16) 0
    let later := named &&& x.g.sameCycle x.ref.second
    s.Jumps (specK (.kill o) o [src o.sa o.ea] []) x lanes
      ((s.modGroup x.ref.g (fun y => { y with run2 := y.run2.map (fun i => { i with dying := i.dying ||| later }) })).modRegs x.ref.g
        (fun r => r.removeLanes (named &&& ~~~later))) [] :=
  State.jumps_of_run (e := execKill o s) rfl rfl rfl (fun _ => by simp only [ofNat_16_val])

theorem State.exit_jumps (s : State) (x : Ctx) (lanes : Mask) (o : FmtK) :
    s.Jumps (specK (.exit o) o [] []) x lanes (s.modRegs x.ref.g (fun r => r.removeLanes lanes)) [] :=
  State.jumps_of_run (e := execExit o s) rfl rfl rfl (fun _ => rfl)

/-- The specification of `rett`. -/
def rettSpec (o : FmtK) (s : State) : WordSpec :=
  { specK (.rett o) o (if o.fx.getLsbD 0 then [srcPair o.sa o.ea] else []) [] with priv := s.inCtx (fun x => !x.g.r.inTrap) }

/-- Where `rett` with a register returns a lane: its address, and the header of the clause that holds it. -/
def State.rettPlace (s : State) (x : Ctx) (f : BitVec 8) (l : Nat) : DWord × DWord :=
  let pc := va57 ((x.pair f l &&& ~~~7#64).toNat : Int)
  (pc, ((s.core? x.c.core).map (fun k => k.headerAt (x.g.gidx % 4) x.l.vif pc)).getD pc)

theorem State.rett_jumps {s : State} {x : Ctx} {lanes : Mask} {o : FmtK} {place : Nat → Option (DWord × DWord)}
    (h : ∀ l, (if o.fx.getLsbD 0 then some (s.rettPlace x o.sa l) else none) = place l) :
    s.Jumps (rettSpec o s) x lanes (s.modRegs x.ref.g (fun r =>
        { r.modLanes lanes (fun l y => y.returnTo (place l)) with retted := r.retted ||| lanes })) (toAll lanes x.i.wordPc) := by
  refine State.jumps_of_run (e := execRett o s) rfl rfl rfl (fun _ => ?_)
  refine congrArg (fun f => WordRes.jump (s.modRegs x.ref.g f) [] (toAll lanes x.i.wordPc)) (funext fun r => ?_)
  refine congrArg (fun r' : Regs => { r' with retted := r.retted ||| lanes }) (r.modLanes_congr fun l hl => funext fun y => ?_)
  rw [← h l]
  dsimp only
  rw [wordTarget_eq x o.sa hl]
  rfl

/-! ## Words that trap -/

theorem trapAll_ne_nil {lanes : Mask} (h : lanes ≠ 0) (code info : Nat) : trapAll lanes code info ≠ [] := by
  obtain ⟨l, hl, -⟩ := exists_firstLane h
  exact List.ne_nil_of_mem (List.mem_map_of_mem hl)

theorem State.runWord_jump_traps {s : State} {w : WordSpec} {x : Ctx} {lanes : Mask} {body} {t : State} {ts : List LaneTrap}
    {pcs : List (Nat × DWord)}
    (hw : w.quiet = false) (g : s.Goes w x lanes) (hb : body x lanes s = .jump t ts pcs) (hts : ts ≠ []) :
    s.runWord w body = s.trapOr x (t.wordTrap x lanes ts true pcs) := by
  have hsome : ts.isEmpty = false := List.isEmpty_eq_false_iff.mpr hts
  unfold State.runWord
  simp only [g.ctx, g.moves, State.injectStore_quiet s x _ _ g.quiet, g.check, g.lanes_ne hw, Ctx.check_lanes hw g.check, hb, hsome,
    List.nil_append, Bool.false_eq_true, if_false]

theorem trap_traps {s : State} {x : Ctx} {lanes : Mask} {o : FmtK} (hgoes : s.Goes (specK (.trap o) o [] []) x lanes) :
    exec (.trap o) s = .next (s.trapOr x (s.wordTrap x lanes (trapAll lanes 0x3F (o.disp.toNat % 256)) true [])) := by
  have harm : exec (.trap o) s = execTrap o s := rfl
  exact harm.trans (congrArg Host.Outcome.next (State.runWord_jump_traps rfl hgoes rfl (trapAll_ne_nil (hgoes.lanes_ne rfl) _ _)))

theorem illegalInstruction_traps (s : State) (x : Ctx) (lanes : Mask) (guard : Guard) (opc : BitVec 8) :
    s.Traps (plainSpec (.illegalInstruction guard opc) guard) x lanes 0x01 0x01 := fun hgoes => by
  have harm : exec (.illegalInstruction guard opc) s = execIllegalInstruction guard opc s := rfl
  exact harm.trans (congrArg Host.Outcome.next
    (State.runWord_done_traps rfl hgoes rfl hgoes.quiet (trapAll_ne_nil (hgoes.lanes_ne rfl) 0x01 0x01)))

/-- Settles O7: each control word is a run that jumps; `trap` and the unassigned words trap in every lane that goes ahead. -/
theorem controlWords : Obligations.ControlWords := by
  unfold Obligations.ControlWords
  refine ⟨fun s x lanes o q => ⟨fun hdisp => ?_, fun hdisp => ?_, State.brx_jumps s x lanes q, State.call_jumps s x lanes o,
    State.ret_jumps s x lanes o, State.jmpi_jumps s x lanes o, State.rejoin_jumps s x lanes o, State.kill_jumps s x lanes o,
    State.exit_jumps s x lanes o, fun hreg => State.rett_jumps fun l => if_neg (Bool.eq_false_iff.mp hreg),
    fun hreg => State.rett_jumps fun l => if_pos hreg⟩,
    fun s x lanes o guard opc => ⟨trap_traps, illegalInstruction_traps s x lanes guard opc⟩⟩
  · have hjumps := State.bra_jumps s x lanes o
    rwa [if_neg hdisp] at hjumps
  · have hjumps := State.bra_jumps s x lanes o
    rwa [if_pos hdisp, hdisp] at hjumps

end Sys2Proof.Machine
end

section
/-!
PROOF. What the results of chapters 8 and 9 leave unchanged, and that moving past a word, or ending its clause, changes no memory, register
or predicate before the cycle's end (R51, R65, R99, R138, R159).
-/
namespace Sys2Proof.Machine

/-! ## Register writes -/

theorem Regs.SameSpecials.refl (r : Regs) : r.SameSpecials r :=
  ⟨rfl, rfl, rfl, rfl, rfl, rfl, rfl, rfl, rfl, rfl, rfl, rfl, rfl, rfl, rfl, rfl, rfl, rfl, rfl⟩

theorem Regs.SameSpecials.trans {a b c : Regs} (hab : a.SameSpecials b) (hbc : b.SameSpecials c) : a.SameSpecials c :=
  ⟨hbc.live.trans hab.live, hbc.fpcr.trans hab.fpcr, hbc.fpsr.trans hab.fpsr, hbc.mfr.trans hab.mfr, hbc.tcause.trans hab.tcause,
    hbc.tskid.trans hab.tskid, hbc.tpc.trans hab.tpc, hbc.taddr.trans hab.taddr, hbc.tvec.trans hab.tvec, hbc.rpc.trans hab.rpc,
    hbc.racc.trans hab.racc, hbc.inReg.trans hab.inReg, hbc.inTrap.trans hab.inTrap, hbc.xheld.trans hab.xheld, hbc.desc.trans hab.desc,
    hbc.acc.trans hab.acc, hbc.shadow.trans hab.shadow, hbc.empty.1.trans hab.empty.1, hbc.empty.2.trans hab.empty.2⟩

/-- Registers that differ from others in FPSR too have the same specials once FPSR is set back. -/
theorem Regs.SameSpecials.resetFpsr {a b : Regs} {v : Word} (hs : Regs.SameSpecials { a with fpsr := v } b) :
    a.SameSpecials { b with fpsr := a.fpsr } :=
  ⟨hs.live, hs.fpcr, rfl, hs.mfr, hs.tcause, hs.tskid, hs.tpc, hs.taddr, hs.tvec, hs.rpc, hs.racc, hs.inReg, hs.inTrap, hs.xheld, hs.desc,
    hs.acc, hs.shadow, hs.empty⟩

theorem Regs.sameSpecials_write (r : Regs) (d l : Nat) (v : Word) : r.SameSpecials (r.write d l v) := by
  constructor <;> simp

theorem Regs.sameSpecials_setPred (r : Regs) (p l : Nat) (b : Bool) : r.SameSpecials (r.setPred p l b) := by
  constructor <;> simp

theorem Regs.pred_of_lanes {a b : Regs} (h : b.lanes = a.lanes) (q l : Nat) : b.pred q l = a.pred q l := by
  rw [Regs.pred, Regs.pred, h]

theorem Regs.read_of_values {a b : Regs} (hv : b.v = a.v) (hw : b.w = a.w) (n l : Nat) : b.read n l = a.read n l := by
  rw [Regs.read, Regs.read, hv, hw]

/-- Writes to registers d to d + n - 1 in the lanes of a mask have been made, and nothing else. -/
structure Regs.Wrote (a b : Regs) (lanes : Mask) (d n : Nat) : Prop where
  keeps : a.keepsBut b lanes d n
  preds : b.lanes = a.lanes
  specials : a.SameSpecials b

theorem Regs.Wrote.refl (r : Regs) (lanes : Mask) (d n : Nat) : r.Wrote r lanes d n := ⟨fun _ _ _ _ => rfl, rfl, .refl r⟩

theorem Regs.Wrote.write {a b : Regs} {lanes : Mask} {d n : Nat} (h : a.Wrote b lanes d n) {e l : Nat} (hl : l ∈ maskLanes lanes)
    (hd : d ≤ e) (hn : e < d + n) (v : Word) : a.Wrote (b.write e l v) lanes d n := by
  refine ⟨fun r k hk hout => ?_, (Regs.write_lanes ..).trans h.preds, h.specials.trans (b.sameSpecials_write e l v)⟩
  rw [Regs.read_write b e l v r k (mem_maskLanes_lt hl) hk, if_neg, h.keeps r k hk hout]
  rintro ⟨rfl, hw | rfl⟩
  · exact hout ⟨hd, hn, .inl hw⟩
  · exact hout ⟨hd, hn, .inr ((mem_maskLanes lanes k).mp hl)⟩

theorem Regs.Wrote.writeFrom {a : Regs} {lanes : Mask} {d n l : Nat} (hl : l ∈ maskLanes lanes) (vs : List Word) :
    ∀ {b : Regs} {e : Nat}, a.Wrote b lanes d n → d ≤ e → e + vs.length ≤ d + n → a.Wrote (b.writeFrom e l vs) lanes d n := by
  induction vs with
  | nil => exact fun h _ _ => h
  | cons v vs ih =>
    intro b e h hd hn
    rw [List.length_cons] at hn
    exact ih (h.write hl hd (by omega) v) (by omega) (by omega)

theorem Group.put_wrote {a : Regs} {y : Group} {lanes act : Mask} {d n l : Nat} {vs : List Word} (h : a.Wrote y.r lanes d n)
    (hl : l ∈ maskLanes lanes) (hn : vs.length ≤ n) : a.Wrote (y.put act d l vs).r lanes d n := by
  unfold Group.put
  split
  · exact h
  · exact h.writeFrom hl vs (Nat.le_refl d) (by omega)

theorem Group.foldl_put_wrote (y : Group) (lanes act : Mask) (d n : Nat) {f : Nat → List Word} (hf : ∀ l, (f l).length ≤ n) :
    y.r.Wrote ((maskLanes lanes).foldl (fun y l => y.put act d l (f l)) y).r lanes d n :=
  List.foldlRecOn (motive := fun z : Group => y.r.Wrote z.r lanes d n) _ _ (.refl ..) (fun _ hz _ hl => Group.put_wrote hz hl (hf _))

theorem Group.foldl_put_gid (y : Group) (lanes act : Mask) (d : Nat) (f : Nat → List Word) :
    ((maskLanes lanes).foldl (fun y l => y.put act d l (f l)) y).gid = y.gid :=
  foldl_frame (fun y : Group => y.gid) _ (fun y l => y.put_gid act d l (f l)) _ y

theorem length_wordsOf (v n : Nat) : (wordsOf v n).length = n := by simp [wordsOf]

/-! ## A predicate's writes -/

theorem getLsbD_bit_ne {p q : Nat} (h : q ≠ p) : (1#7 <<< p).getLsbD q = false := by
  rw [BitVec.getLsbD_shiftLeft]
  by_cases hq : q < p
  · simp [hq]
  · simp [BitVec.getLsbD_one, show q - p ≠ 0 by omega]

theorem Regs.pred_setPred_other (r : Regs) {p l : Nat} (b : Bool) {q k : Nat} (h : ¬ (q = p ∧ k = l)) :
    (r.setPred p l b).pred q k = r.pred q k := by
  unfold Regs.setPred
  split
  · rfl
  rw [Regs.pred_eq, Regs.pred_eq]
  by_cases hk : k < 16
  · rw [Regs.lane_modLane r l _ k hk]
    by_cases hkl : k = l
    · have hbit : (1#7 <<< p).getLsbD q = false := getLsbD_bit_ne fun hq => h ⟨hq, hkl⟩
      rw [if_pos hkl]
      refine congrArg (fun t => if q = 7 then true else t) ?_
      cases b
      · simp only [Bool.false_eq_true, if_false, BitVec.getLsbD_and, BitVec.getLsbD_not, hbit, Bool.not_false, Bool.and_true]
        by_cases hq : q < 7
        · simp [hq]
        · simp [BitVec.getLsbD_of_ge _ q (Nat.le_of_not_lt hq)]
      · simp only [if_true, BitVec.getLsbD_or, hbit, Bool.or_false]
    · rw [if_neg hkl]
  · rw [Regs.lane_beyond _ k (Nat.le_of_not_lt hk), Regs.lane_beyond r k (Nat.le_of_not_lt hk)]

theorem Regs.keepsPredsBut_foldl_setPred (r : Regs) (lanes : Mask) (p : Nat) (c : Nat → Bool) :
    r.keepsPredsBut ((maskLanes lanes).foldl (fun r l => r.setPred p l (c l)) r) lanes p := fun q k hout =>
  List.foldlRecOn (motive := fun r' : Regs => r'.pred q k = r.pred q k) _ _ rfl (fun r' hr l hl => by
    rw [Regs.pred_setPred_other r' (c l), hr]
    rintro ⟨rfl, rfl⟩
    exact hout ⟨rfl, (mem_maskLanes lanes _).mp hl⟩)

theorem Regs.sameSpecials_foldl_setPred (r : Regs) (lanes : Mask) (p : Nat) (c : Nat → Bool) :
    r.SameSpecials ((maskLanes lanes).foldl (fun r l => r.setPred p l (c l)) r) :=
  List.foldlRecOn (motive := fun r' : Regs => r.SameSpecials r') _ _ (.refl r) (fun r' hr l _ => hr.trans (r'.sameSpecials_setPred p l (c l)))

theorem Regs.read_foldl_setPred (r : Regs) (lanes : Mask) (p : Nat) (c : Nat → Bool) (n k : Nat) :
    ((maskLanes lanes).foldl (fun r l => r.setPred p l (c l)) r).read n k = r.read n k :=
  foldl_frame (fun r : Regs => r.read n k) _ (fun r l => Regs.read_of_values (r.setPred_v p l (c l)) (r.setPred_w p l (c l)) n k) _ r

/-! ## Results that fill later -/

/-- A change of nothing but the marks of empty registers. -/
structure Regs.Emptied (a b : Regs) : Prop where
  keeps : a.keepsBut b 0 0 0
  preds : b.lanes = a.lanes
  fpsr : b.fpsr = a.fpsr
  specials : a.SameSpecials { b with ev := a.ev, ew := a.ew }

theorem Regs.emptied_setEmptyN (r : Regs) (d n : Nat) (m : Mask) (e : Bool) : r.Emptied (r.setEmptyN d n m e) := by
  refine List.foldlRecOn (motive := fun r' : Regs => r.Emptied r') _ _ ⟨fun _ _ _ _ => rfl, rfl, rfl, .refl r⟩ (fun b hb k _ => ?_)
  have hstep : Regs.SameSpecials { b with ev := r.ev, ew := r.ew } { b.setEmpty (d + k) m e with ev := r.ev, ew := r.ew } := by
    constructor <;> simp
  refine ⟨fun n l hl hout => ?_, ?_, ?_, hb.specials.trans hstep⟩
  · rw [Regs.read_setEmpty]
    exact hb.keeps n l hl hout
  · rw [Regs.setEmpty_lanes, hb.preds]
  · rw [Regs.setEmpty_fpsr, hb.fpsr]

section
variable {s : State} {g : GRef} {y : Group} (hg : s.group? g = some y)
include hg

theorem State.addFillHeld_group (d n : Nat) (lanes : Mask) (vals : List (Nat × List Word)) (inRegion : Bool) (poison : Option (Poison × Nat))
    (holds : Mask) : (s.addFillHeld g d n lanes vals inRegion poison holds).mem = s.mem ∧
      ∃ z, (s.addFillHeld g d n lanes vals inRegion poison holds).group? g = some z ∧ z.r = y.r := by
  unfold State.addFillHeld
  generalize (if d < 0xC0 then vals else vals.filter (fun p => firstLane lanes == some p.1)) = kept
  dsimp only
  split
  · exact ⟨rfl, y, hg, rfl⟩
  · rw [State.post_mem, State.group?_post]
    exact ⟨rfl, _, State.group?_modGroup_some (s := { s with nextId := s.nextId + 1 }) hg (fun _ => rfl), rfl⟩

theorem State.changesTile_group (tile : Nat) (vals : List (Nat × Nat × Word)) (x : Ctx) (hx : x.ref.g = g) (mma : Bool) :
    (s.changesTile x tile mma vals).mem = s.mem ∧
      ∃ z, (s.changesTile x tile mma vals).group? x.ref.g = some z ∧ z.r = vals.foldl (fun r v => r.accWrite tile v.1 v.2.1 v.2.2) y.r := by
  subst hx
  have hwritten : (s.accWrites x.ref.g tile vals).group? x.ref.g = some { y with
      r := vals.foldl (fun r v => r.accWrite tile v.1 v.2.1 v.2.2) y.r
      poison := y.poison.filter (fun p => !(vals.any (fun v => p.1 == y.r.accUnit tile v.1 v.2.1))) } :=
    State.group?_modGroup_some hg (fun _ => rfl)
  unfold State.changesTile State.startTileOp
  dsimp only
  rw [State.post_mem, State.group?_post]
  exact ⟨rfl, _, State.group?_modGroup_some (s := { s.accWrites x.ref.g tile vals with nextId := (s.accWrites x.ref.g tile vals).nextId + 1 })
    hwritten (fun _ => rfl), rfl⟩

end

/-! ## Tile results -/

theorem accKey_inj {m n i j k l : Nat} (hi : i < 16) (hj : j < 64) (hk : k < 16) (hl : l < 64) (h : accKey m i j = accKey n k l) :
    m = n ∧ i = k ∧ j = l := by
  unfold accKey at h
  omega

theorem Regs.accRead_accWrite_other (r : Regs) {m n i j k l : Nat} (v : Word) (h : accKey m i j ≠ accKey n k l) :
    (r.accWrite n k l v).accRead m i j = r.accRead m i j := by
  have hshadowed : (r.accWrite n k l v).shadowed m = r.shadowed m := by simp [Regs.shadowed]
  have hshadow : SMap.get (r.accWrite n k l v).shadow 0 (accKey m i j) = SMap.get r.shadow 0 (accKey m i j) := by
    unfold Regs.accWrite
    dsimp only
    split <;> simp [SMap.get_set, h]
  have hacc : SMap.get (r.accWrite n k l v).acc 0 (accKey m i j) = SMap.get r.acc 0 (accKey m i j) := by
    unfold Regs.accWrite
    dsimp only
    split <;> simp [SMap.get_set, h]
  rw [Regs.accRead, Regs.accRead, hshadowed, hshadow, hacc]

/-- A change of nothing but accumulators and their shadows. -/
structure Regs.Accumulated (a b : Regs) : Prop where
  keeps : a.keepsBut b 0 0 0
  preds : b.lanes = a.lanes
  specials : a.SameSpecials { b with acc := a.acc, shadow := a.shadow }

theorem Regs.Accumulated.accWrite {a b : Regs} (h : a.Accumulated b) (n i j : Nat) (v : Word) : a.Accumulated (b.accWrite n i j v) := by
  have hstep : Regs.SameSpecials { b with acc := a.acc, shadow := a.shadow } { b.accWrite n i j v with acc := a.acc, shadow := a.shadow } := by
    constructor <;> simp
  refine ⟨fun k l hl hout => ?_, ?_, h.specials.trans hstep⟩
  · rw [Regs.read_of_values (Regs.accWrite_v ..) (Regs.accWrite_w ..)]
    exact h.keeps k l hl hout
  · rw [Regs.accWrite_lanes, h.preds]

theorem Regs.accumulated_foldl (r : Regs) (tile : Nat) (vals : List (Nat × Nat × Word)) :
    r.Accumulated (vals.foldl (fun r v => r.accWrite tile v.1 v.2.1 v.2.2) r) :=
  List.foldlRecOn (motive := fun r' : Regs => r.Accumulated r') _ _ ⟨fun _ _ _ _ => rfl, rfl, .refl r⟩ (fun _ hb _ _ => hb.accWrite ..)

theorem Regs.accRead_foldl_other (r : Regs) {tile m i j : Nat} {vals : List (Nat × Nat × Word)} (hj : j < 64) (hi : i < 16)
    (hout : ¬ (m = tile ∧ ∃ e, e ∈ vals ∧ e.1 = i ∧ e.2.1 = j)) (hvals : ∀ e, e ∈ vals → e.1 < 16 ∧ e.2.1 < 64) :
    (vals.foldl (fun r v => r.accWrite tile v.1 v.2.1 v.2.2) r).accRead m i j = r.accRead m i j := by
  refine List.foldlRecOn (motive := fun r' : Regs => r'.accRead m i j = r.accRead m i j) _ _ rfl (fun b hb e he => ?_)
  rw [Regs.accRead_accWrite_other, hb]
  intro hkey
  obtain ⟨hm, hi, hj⟩ := accKey_inj hi hj (hvals e he).1 (hvals e he).2 hkey
  exact hout ⟨hm, e, he, hi.symm, hj.symm⟩

/-! ## The end of a word -/

/-- A change of the state that touches neither memory nor the registers and predicates of a group. -/
def State.Keeps (s t : State) (g : GRef) : Prop :=
  t.mem = s.mem ∧ ∀ z, t.group? g = some z → ∃ y, s.group? g = some y ∧ z.r.read = y.r.read ∧ z.r.pred = y.r.pred

theorem State.Keeps.refl (s : State) (g : GRef) : s.Keeps s g := ⟨rfl, fun z hz => ⟨z, hz, rfl, rfl⟩⟩

theorem State.Keeps.trans {s t u : State} {g : GRef} (hst : s.Keeps t g) (htu : t.Keeps u g) : s.Keeps u g := by
  refine ⟨htu.1.trans hst.1, fun z hz => ?_⟩
  obtain ⟨y, hy, hread, hpred⟩ := htu.2 z hz
  obtain ⟨x, hx, hread', hpred'⟩ := hst.2 y hy
  exact ⟨x, hx, hread.trans hread', hpred.trans hpred'⟩

theorem Regs.read_pred_of_shown {a b : Regs} (h : b.shown = a.shown) : b.read = a.read ∧ b.pred = a.pred := by
  simp only [Regs.shown, Prod.mk.injEq] at h
  obtain ⟨-, -, -, -, hread, hpred⟩ := h
  exact ⟨hread, hpred⟩

theorem State.keeps_of_shown {s t : State} {g : GRef} (hmem : t.mem = s.mem)
    (h : ∀ z, t.group? g = some z → ∃ y, s.group? g = some y ∧ z.r.shown = y.r.shown) : s.Keeps t g := by
  refine ⟨hmem, fun z hz => ?_⟩
  obtain ⟨y, hy, hshown⟩ := h z hz
  exact ⟨y, hy, Regs.read_pred_of_shown hshown⟩

theorem State.keeps_modGroup (s : State) (g : GRef) {f : Group → Group} (hgid : ∀ x, (f x).gid = x.gid)
    (hshown : ∀ x, (f x).r.shown = x.r.shown) : s.Keeps (s.modGroup g f) g :=
  State.keeps_of_shown rfl fun _ hz => State.shown_of_modGroup hz hgid hshown

theorem State.keeps_post (s : State) (g : GRef) (i : Instr) : s.Keeps (s.post i) g :=
  State.keeps_of_shown (State.post_mem ..) fun z hz => ⟨z, by rwa [State.group?_post] at hz, rfl⟩

theorem State.keeps_settleGroup (s : State) (g : GRef) : s.Keeps (s.settleGroup g) g :=
  State.keeps_of_shown (s.settleGroup_mem g) fun _ hz => State.shown_of_settleGroup hz

theorem State.keeps_reap (s : State) (x : Ctx) : s.Keeps (s.reap x) x.ref.g := by
  unfold State.reap
  split
  · exact .refl ..
  · exact (s.keeps_modGroup x.ref.g (f := fun y => { y with r := y.r.removeLanes x.i.dying }) (fun _ => rfl)
      (fun y => y.r.shown_removeLanes x.i.dying)).trans (State.keeps_settleGroup ..)

theorem Regs.foldl_writeSys_read_pred (r : Regs) (ws : List (Nat × DWord)) :
    (ws.foldl (fun r p => r.writeSys p.1 p.2) r).read = r.read ∧ (ws.foldl (fun r p => r.writeSys p.1 p.2) r).pred = r.pred :=
  ⟨foldl_frame Regs.read (fun (r : Regs) (p : Nat × DWord) => r.writeSys p.1 p.2) (fun r p => r.writeSys_read p.1 p.2) ws r,
    foldl_frame Regs.pred (fun (r : Regs) (p : Nat × DWord) => r.writeSys p.1 p.2) (fun r p => r.writeSys_pred p.1 p.2) ws r⟩

theorem State.keeps_retireClause (s : State) (g : GRef) (second : Bool) : s.Keeps (s.retireClause g second) g := by
  cases hg : s.group? g with
  | none =>
    rw [State.retireClause, hg]
    exact .refl ..
  | some x =>
    cases hi : x.issue? second with
    | none =>
      simp only [State.retireClause, hg, hi]
      exact .refl ..
    | some i =>
      refine ⟨State.retireClause_mem hg hi, fun z hz => ⟨x, hg, ?_⟩⟩
      obtain ⟨hread, hpred⟩ := Regs.read_pred_of_shown (State.shown_of_retireClause hg hi hz)
      obtain ⟨hread', hpred'⟩ := x.r.foldl_writeSys_read_pred i.sysWrites
      exact ⟨hread.trans hread', hpred.trans hpred'⟩

theorem State.keeps_endClause (s : State) (x : Ctx) : s.Keeps (s.endClause x) x.ref.g := by
  unfold State.endClause
  split
  · exact (s.keeps_modGroup x.ref.g (fun y => Group.setIssue_gid y _ _) (fun y => by rw [Group.setIssue_r])).trans (State.keeps_post ..)
  · exact s.keeps_retireClause x.ref.g x.ref.second

theorem Group.noteChange_r (y : Group) (b : Bool) : (y.noteChange b).r = y.r := by
  unfold Group.noteChange
  split <;> rfl

theorem Group.noteChange_gid (y : Group) (b : Bool) : (y.noteChange b).gid = y.gid := by
  unfold Group.noteChange
  split <;> rfl

theorem State.keeps_countWord (s : State) (x : Ctx) (act : Mask) : s.Keeps (s.countWord x act) x.ref.g :=
  s.keeps_modGroup x.ref.g (fun _ => Group.noteChange_gid ..) (fun _ => by rw [Group.noteChange_r])

theorem Regs.shown_placeLanes (r : Regs) (lanes : Mask) (hdr : DWord) (pc : Nat → DWord) (atHeader : Bool) :
    (r.placeLanes lanes hdr pc atHeader).shown = r.shown :=
  Regs.shown_modLanes r lanes (f := fun i l => { l with pc := pc i, hdr := if atHeader then pc i else hdr }) (fun _ _ => rfl)

/-- A group whose lanes and issue set have moved. -/
def Group.moved (second : Bool) (lanes : Mask) (hdr : DWord) (pc : Nat → DWord) (atHeader : Bool) (i : Group → Option Issue)
    (y : Group) : Group :=
  ({ y with r := y.r.placeLanes lanes hdr pc atHeader } : Group).setIssue second (i y)

section
variable (second : Bool) (lanes : Mask) (hdr : DWord) (pc : Nat → DWord) (atHeader : Bool) (i : Group → Option Issue)

theorem Group.moved_gid (y : Group) : (y.moved second lanes hdr pc atHeader i).gid = y.gid := Group.setIssue_gid ..

theorem Group.shown_moved (y : Group) : (y.moved second lanes hdr pc atHeader i).r.shown = y.r.shown := by
  rw [Group.moved, Group.setIssue_r, Regs.shown_placeLanes]

/-- The word is counted, its lanes and its issue set move, and the lanes that `kill` removes leave. -/
theorem State.keeps_moved (s : State) (x : Ctx) (act : Mask) :
    s.Keeps (((s.countWord x act).modGroup x.ref.g (Group.moved second lanes hdr pc atHeader i)).reap x) x.ref.g :=
  ((s.keeps_countWord x act).trans (State.keeps_modGroup _ x.ref.g (Group.moved_gid second lanes hdr pc atHeader i)
    (Group.shown_moved second lanes hdr pc atHeader i))).trans (State.keeps_reap _ x)

end

theorem State.keeps_advance (s : State) (x : Ctx) (lanes : Mask) : ∃ t : State, s.advance x lanes = t.endCycle x ∧ s.Keeps t x.ref.g := by
  have hmoved := s.keeps_moved x.ref.second x.i.lanes x.i.hdr (fun _ => x.i.nextPc) x.i.isLast
    (fun y => (y.issue? x.ref.second).map (fun i => i.goTo (i.idx + x.i.size))) x lanes
  unfold State.advance
  refine ⟨_, rfl, ?_⟩
  split
  · exact hmoved.trans (State.keeps_endClause _ x)
  · exact hmoved

theorem State.keeps_leave (s : State) (x : Ctx) (lanes : Mask) (pcs : List (Nat × DWord)) :
    ∃ t : State, s.leave x lanes pcs = t.endCycle x ∧ s.Keeps t x.ref.g := by
  have hmoved := s.keeps_moved x.ref.second x.i.lanes x.i.hdr (fun i => ((pcs.find? (fun p => p.1 == i)).map (fun p => p.2)).getD x.i.fall) true
    (fun y => (y.issue? x.ref.second).map (fun i => i.goTo i.words.length)) x lanes
  exact ⟨_, rfl, hmoved.trans (State.keeps_endClause _ x)⟩

/-! ## The results -/

/-- Settles O18: what each kind of write keeps, and that a word that moves on, or ends its clause, writes nothing before the cycle ends. -/
theorem resultsFrame : Obligations.ResultsFrame := by
  unfold Obligations.ResultsFrame
  intro s x y lanes d n p tile f v c vals pcs hg old keeps
  refine ⟨?_, ?_, ?_, ?_, ?_, ?_⟩
  · have hwrote := Group.foldl_put_wrote { y with r := { y.r with fpsr := y.r.fpsr ||| raisedBy lanes f } } lanes lanes d n
      (f := fun l => wordsOf (f l).pat n) (fun l => (length_wordsOf (f l).pat n).le)
    exact ⟨rfl, _, State.group?_modGroup_some hg (fun _ => Group.foldl_put_gid ..), hwrote.keeps,
      fun q l _ => Regs.pred_of_lanes hwrote.preds q l, hwrote.specials.resetFpsr, hwrote.specials.fpsr⟩
  · have hemptied := Regs.emptied_setEmptyN { y.r with fpsr := y.r.fpsr ||| raisedBy lanes f } d 1 lanes true
    have hmarked : (s.modGroup x.ref.g (fun y => { y with
        r := ({ y.r with fpsr := y.r.fpsr ||| raisedBy lanes f } : Regs).setEmpty d lanes true })).group? x.ref.g = _ :=
      State.group?_modGroup_some hg (fun _ => rfl)
    obtain ⟨hmem, z, hz, hr⟩ := State.addFillHeld_group hmarked d 1 lanes ((maskLanes lanes).map (fun l => (l, [w32 (f l).pat]))) x.g.r.inReg none
      (if fpcrEnabled x.g.r = 0 then 0 else x.i.lanes)
    refine ⟨hmem, z, hz, ?_⟩
    rw [hr]
    exact ⟨hemptied.keeps, fun q l _ => Regs.pred_of_lanes hemptied.preds q l, hemptied.specials.resetFpsr, hemptied.fpsr⟩
  · have hemptied := Regs.emptied_setEmptyN y.r d n lanes true
    have hmarked : (s.modGroup x.ref.g (fun y => { y with r := y.r.setEmptyN d n lanes true })).group? x.ref.g = _ :=
      State.group?_modGroup_some hg (fun _ => rfl)
    obtain ⟨hmem, z, hz, hr⟩ := State.addFillHeld_group hmarked d n lanes ((maskLanes lanes).map (fun l => (l, v l))) x.g.r.inReg none 0
    refine ⟨hmem, z, hz, ?_⟩
    rw [hr]
    exact ⟨hemptied.keeps, fun q l _ => Regs.pred_of_lanes hemptied.preds q l, hemptied.specials⟩
  · let r0 : Regs := { y.r with fpsr := y.r.fpsr ||| w32 ((maskLanes lanes).foldl (fun m l => m ||| (c l).2) 0) }
    have hs := r0.sameSpecials_foldl_setPred lanes p (fun l => (c l).1)
    exact ⟨rfl, _, State.group?_modGroup_some hg (fun _ => rfl), fun k l _ _ => r0.read_foldl_setPred lanes p (fun l => (c l).1) k l,
      r0.keepsPredsBut_foldl_setPred lanes p (fun l => (c l).1), hs.resetFpsr⟩
  · have hacc := y.r.accumulated_foldl tile vals
    obtain ⟨hmem, z, hz, hr⟩ := State.changesTile_group hg tile vals x rfl true
    refine ⟨hmem, z, hz, ?_⟩
    rw [hr]
    exact ⟨hacc.keeps, fun q l _ => Regs.pred_of_lanes hacc.preds q l, hacc.specials,
      fun m i j hj hi hout hvals => y.r.accRead_foldl_other hj hi hout hvals⟩
  · rintro u hu
    have hkept : ∃ t : State, u = t.endCycle x ∧ s.Keeps t x.ref.g := by
      obtain rfl | rfl := hu
      · exact s.keeps_advance x lanes
      · exact s.keeps_leave x lanes pcs
    obtain ⟨t, hu, hmem, hregs⟩ := hkept
    refine ⟨t, hu, hmem, fun z hz => ?_⟩
    obtain ⟨w, hw, hread, hpred⟩ := hregs z hz
    obtain rfl := Option.some.inj (hw.symm.trans hg)
    exact ⟨fun k l _ _ => by rw [hread], fun q l _ => by rw [hpred]⟩

end Sys2Proof.Machine
end

section
/-!
PROOF. The end of a cycle: what MFR takes, and the trap that is due (R128, R154).
-/
namespace Sys2Proof.Machine

section
variable {s : State} {x : Ctx} {y : Group} (hsecond : x.ref.second = true) (hg : s.group? x.ref.g = some y)
include hsecond hg

theorem State.endCycle_idle (hmfr : y.mfrNext = none) (hdue : y.due = none) : s.endCycle x = s := by
  simp [State.endCycle, hsecond, hg, hmfr, hdue]

theorem State.endCycle_mfr {v : Word} (hmfr : y.mfrNext = some v) (hdue : y.due = none) :
    s.endCycle x = s.modGroup x.ref.g Group.takeMfr := by
  simp [State.endCycle, hsecond, hg, hmfr, hdue]

theorem State.endCycle_due {d : DueTrap} (hdue : y.due = some d) :
    s.endCycle x =
      (if d.lanes &&& y.r.live = 0 then
        (s.modGroup x.ref.g Group.takeMfr).modGroup x.ref.g (fun y => { y.trapShelve with due := none })
      else ((s.modGroup x.ref.g Group.takeMfr).modGroup x.ref.g (fun y => { y.trapShelve with due := none })).takeTrap x.ref.g d.code d.info
        (d.lanes &&& y.r.live) d.tpc 0 0).settleGroup x.ref.g := by
  simp only [State.endCycle, hsecond, hg, hdue, Bool.not_true, Bool.false_eq_true, if_false, Option.isNone_some, Bool.and_false]

end

theorem Group.takeMfr_gid (y : Group) : y.takeMfr.gid = y.gid := by
  unfold Group.takeMfr
  split <;> rfl

/-- Settles O19: the three ways in which the P2 set's word ends a cycle. -/
theorem cycleEnds : Obligations.CycleEnds := by
  unfold Obligations.CycleEnds
  intro s x y hg
  refine ⟨s.endCycle_first, fun hsecond => ⟨State.endCycle_idle hsecond hg, fun v hmfr hdue => ?_,
    fun d hdue => ⟨fun hnone => ?_, fun hlanes => ?_⟩⟩⟩
  · have htaken : y.takeMfr = { y with r := { y.r with mfr := v }, mfrNext := none } := by rw [Group.takeMfr, hmfr]
    rw [State.endCycle_mfr hsecond hg hmfr hdue]
    exact ⟨_, (State.group?_modGroup_some hg Group.takeMfr_gid).trans (congrArg some htaken), rfl, rfl⟩
  · rw [State.endCycle_due hsecond hg hdue, if_pos hnone]
  · rw [State.endCycle_due hsecond hg hdue, if_neg hlanes]

end Sys2Proof.Machine
end

section
/-!
PROOF. The vote of a slot (R22, R96 to R98, R101, R211, R228 to R231): what its winner starts, and that no group with a smaller key waits for
nothing.
-/
namespace Sys2Proof.Machine

/-! ## What a slot does -/

/-- The state in which the winner of a vote starts its lanes: no other group of the slot goes on yielding, and its own wait is over. -/
def State.voted (s : State) (core slot : Nat) (g : GRef) : State :=
  (s.endYields core slot g).modGroup g (fun y => { y with r := { y.r with wait := y.r.wait.drop (fun w => w == .yield) } })

/-- The sets of lanes that a group may start: one under checked execution, else two. -/
def State.votedSets (s : State) (l : Launch) (c : Cohort) (x : Group) : List (LaneSet × Clause) :=
  (s.eligibleSets l c x).take (if c.checked then 1 else 2)

theorem exec_slotVote_vote {s : State} {core slot : Nat} (hsram : s.sram = []) (hbusy : s.slotBusy core slot = false) :
    exec (.slotVote core slot) s = .next (s.vote core slot) := by
  have harm : exec (.slotVote core slot) s = execSlotVote core slot s := rfl
  simp only [harm, execSlotVote, hsram, hbusy, Bool.false_eq_true, if_false]

/-- An error in core-level state restarts the groups of a cohort that are all in regions. -/
theorem exec_slotVote_sram {s : State} {core slot : Nat} {r : CRef} {d : Cohort} {l : Launch} {rest : List SramError}
    (hsram : s.sram = .core r :: rest) (hd : s.cohort? r = some d) (hl : s.launch? r.lid = some l)
    (hin : (d.groups.filter (fun x => !x.retired && x.r.live != 0)).all (fun x => x.r.inReg) = true) :
    ∃ log, exec (.slotVote core slot) s = .next ((d.groups.filter (fun x => !x.retired && x.r.live != 0)).foldl
      (fun s x => s.restartGroup ⟨r.lid, r.cid, x.gid⟩) (({ s with sram := rest } : State).logError log)) := by
  have harm : exec (.slotVote core slot) s = execSlotVote core slot s := rfl
  have hd' : ({ s with sram := rest } : State).cohort? r = some d := hd
  have hl' : ({ s with sram := rest } : State).launch? r.lid = some l := hl
  simp only [harm, execSlotVote, hsram, State.sramError, hd', hl', hin, if_true]
  exact ⟨_, rfl⟩

section
variable {s s0 : State} {core slot : Nat} (hs0 : s0 = s.startFetches core slot (s.fetchesDue core slot))
include hs0

theorem State.vote_none (hnone : s0.winner core slot = none) : s.vote core slot = s0 := by
  subst hs0
  simp only [State.vote, hnone]

variable {l : Launch} {c : Cohort} {x : Group} (hwin : s0.winner core slot = some (l, c, x))
include hwin

theorem State.vote_one {p : LaneSet × Clause} (hsets : s0.votedSets l c x = [p]) (htrap : p.1.trap p.2 l x = none) :
    s.vote core slot = (s0.voted core slot ⟨c.ref.lid, c.ref.cid, x.gid⟩).modGroup ⟨c.ref.lid, c.ref.cid, x.gid⟩
      (fun y => y.begin false c.checked p.1 p.2) := by
  subst hs0
  unfold State.votedSets at hsets
  simp only [State.vote, hwin, hsets, List.findSome?_cons, List.findSome?_nil, htrap, Option.map_none, State.voted]

theorem State.vote_two {p q : LaneSet × Clause} (hsets : s0.votedSets l c x = [p, q]) (hp : p.1.trap p.2 l x = none) (hq : q.1.trap q.2 l x = none) :
    s.vote core slot = (s0.voted core slot ⟨c.ref.lid, c.ref.cid, x.gid⟩).modGroup ⟨c.ref.lid, c.ref.cid, x.gid⟩
      (fun y => (y.begin false c.checked p.1 p.2).begin true c.checked q.1 q.2) := by
  subst hs0
  unfold State.votedSets at hsets
  simp only [State.vote, hwin, hsets, List.findSome?_cons, List.findSome?_nil, hp, hq, Option.map_none, State.voted]

theorem State.vote_trap {t : LaneSet} {k : Clause} {rest : List (LaneSet × Clause)} {code info : Nat} (hsets : s0.votedSets l c x = (t, k) :: rest)
    (htrap : t.trap k l x = some (code, info)) :
    s.vote core slot = s0.headerTrap core ⟨c.ref.lid, c.ref.cid, x.gid⟩ t k code info := by
  subst hs0
  unfold State.votedSets at hsets
  simp only [State.vote, hwin, hsets, List.findSome?_cons, htrap, Option.map_some]

end

/-- Settles O33: the cases of the error queue, of the winner, and of the first trap at a header. -/
theorem slotVote : Obligations.SlotVote := by
  unfold Obligations.SlotVote
  intro s core slot l c x s0 g sets s1
  refine ⟨fun r d l gs rest hsram hd hl hgs hin => ?_, fun hsram hbusy => ⟨fun hnone => ?_, fun hwin => ⟨fun t k hsets htrap => ?_,
    fun t k u j hsets ht hu => ?_, fun t k rest code info hsets htrap => ?_⟩⟩⟩
  · subst hgs
    exact exec_slotVote_sram hsram hd hl hin
  · rw [exec_slotVote_vote hsram hbusy, State.vote_none rfl hnone]
  · rw [exec_slotVote_vote hsram hbusy, State.vote_one rfl hwin hsets htrap]
    rfl
  · rw [exec_slotVote_vote hsram hbusy, State.vote_two rfl hwin hsets ht hu]
    rfl
  · rw [exec_slotVote_vote hsram hbusy, State.vote_trap rfl hwin hsets htrap]

/-! ## The smallest key -/

/-- Lists of one length are ordered by their first difference. -/
theorem keyLess_trans_false {a b c : List Nat} (hab : a.length = b.length) (hbc : b.length = c.length) (h1 : keyLess b a = false)
    (h2 : keyLess c b = false) : keyLess c a = false := by
  induction a generalizing b c with
  | nil => cases c <;> rfl
  | cons a as ih =>
    match b, c with
    | b :: bs, c :: cs =>
      simp only [List.length_cons, Nat.add_right_cancel_iff] at hab hbc
      simp only [keyLess] at h1 h2 ⊢
      split at h1
      · cases h1
      split at h2
      · cases h2
      rw [if_neg (by omega)]
      split
      · rfl
      · rw [if_neg (by omega)] at h1 h2
        exact ih hab hbc h1 h2

theorem keyLess_asymm {a b : List Nat} (h : keyLess a b = true) : keyLess b a = false := by
  induction a generalizing b with
  | nil => cases b <;> cases h
  | cons a as ih =>
    match b with
    | b :: bs =>
      simp only [keyLess] at h ⊢
      split at h
      · rw [if_neg (by omega), if_pos (by omega)]
      · split at h
        · cases h
        · rw [if_neg (by omega), if_neg (by omega)]
          exact ih h

theorem keyLess_irrefl (a : List Nat) : keyLess a a = false := by
  cases h : keyLess a a with
  | false => rfl
  | true => exact (h.symm.trans (keyLess_asymm h))

theorem smallestKey_eq_none {xs : List (Launch × Cohort × Group)} (h : smallestKey xs = none) : xs = [] := by
  cases xs with
  | nil => rfl
  | cons x xs =>
    rw [smallestKey] at h
    split at h
    · cases h
    · split at h <;> cases h

/-- The group that `smallestKey` names is one of the list, and none of the list has a smaller key. -/
theorem smallestKey_spec {xs : List (Launch × Cohort × Group)} {w : Launch × Cohort × Group} (h : smallestKey xs = some w) :
    w ∈ xs ∧ ∀ v, v ∈ xs → keyLess (groupKey v.2.1 v.2.2) (groupKey w.2.1 w.2.2) = false := by
  induction xs generalizing w with
  | nil => cases h
  | cons x xs ih =>
    rw [smallestKey] at h
    split at h
    next hnone =>
      obtain rfl := Option.some.inj h
      rw [smallestKey_eq_none hnone]
      exact ⟨List.mem_cons_self, fun v hv => by rw [List.mem_singleton.mp hv, keyLess_irrefl]⟩
    next y hsome =>
      obtain ⟨hmem, hsmall⟩ := ih hsome
      split at h
      next hless =>
        obtain rfl := Option.some.inj h
        refine ⟨List.mem_cons_of_mem x hmem, fun v hv => ?_⟩
        obtain rfl | hv := List.mem_cons.mp hv
        · exact keyLess_asymm hless
        · exact hsmall v hv
      next hless =>
        obtain rfl := Option.some.inj h
        refine ⟨List.mem_cons_self, fun v hv => ?_⟩
        obtain rfl | hv := List.mem_cons.mp hv
        · exact keyLess_irrefl _
        · exact keyLess_trans_false (b := groupKey y.2.1 y.2.2) rfl rfl (Bool.eq_false_iff.mpr hless) (hsmall v hv)

/-- Settles O34: the groups that wait for nothing are asked first, and the smallest key of them wins. -/
theorem voteTakesTheSmallestKey : Obligations.VoteTakesTheSmallestKey := by
  unfold Obligations.VoteTakesTheSmallestKey
  intro s core slot w v hwin hv hsets hwait
  let able := (s.voters core slot).filter (fun x => !(s.eligibleSets x.1 x.2.1 x.2.2).isEmpty)
  have hable : v ∈ able.filter (fun x => x.2.2.r.wait == .none) := by
    refine List.mem_filter.mpr ⟨List.mem_filter.mpr ⟨hv, ?_⟩, beq_iff_eq.mpr hwait⟩
    simpa using hsets
  cases hready : smallestKey (able.filter (fun x => x.2.2.r.wait == .none)) with
  | none => rw [smallestKey_eq_none hready] at hable; cases hable
  | some u =>
    have hu : s.winner core slot = some u := by
      show (smallestKey (able.filter (fun x => x.2.2.r.wait == .none))).or _ = _
      rw [hready, Option.some_or]
    obtain rfl := Option.some.inj (hu.symm.trans hwin)
    obtain ⟨hmem, hsmall⟩ := smallestKey_spec hready
    exact ⟨beq_iff_eq.mp (List.mem_filter.mp hmem).2, hsmall v hable⟩

end Sys2Proof.Machine
end

section
/-!
PROOF. Groups and cohorts retire (R127, R217, R218, R317).
-/
namespace Sys2Proof.Machine

/-! ## Groups -/

theorem State.ref_of_cohort? {s : State} {r : CRef} {c : Cohort} (h : s.cohort? r = some c) : c.ref = r := by
  obtain hin | ⟨-, hframe⟩ := Option.or_eq_some_iff.mp h
  · simpa using List.find?_some hin
  · obtain ⟨f, hf, rfl⟩ := Option.map_eq_some_iff.mp hframe
    simpa using List.find?_some hf

/-- A group whose lanes have all left and that has nothing outstanding. -/
structure State.Idle (s : State) (g : GRef) (x : Group) : Prop where
  live : x.r.live = 0
  retired : x.retired = false
  accs : x.accs = []
  slots : x.slots = []
  sending : x.sending = []
  run1 : x.run1 = none
  run2 : x.run2 = none
  tileOps : x.tileOps = []
  waiting : s.clusters.any (fun k => k.waiting.any (fun w => w.g == g)) = false

/-- The run of a group that a spatial pre-emption vacated in its handler has gone back (R317). -/
def State.givenBack (s : State) (g : GRef) (c : Cohort) (x : Group) : State :=
  if c.spatial && x.r.inTrap && x.r.tcause.toNat % 256 == 0x38 then s.returnRun g else s

/-- The group has retired, and the barriers that counted it are settled. -/
def State.retiredGroup (s : State) (g : GRef) (c : Cohort) : State :=
  (List.range 4).foldl (fun s id => s.settleBarb g.lid c.bid id)
    ((s.modGroup g (fun x => { x with
      retired := true, fills := [], posted := [], r := { x.r with xheld := false, inTrap := false, handler := 0, grant := none } })).modCohort
        c.ref (fun c => (List.range 16).foldl (fun c id => c.settleBar id) c))

/-- What the retirement of a group leads to for its cohort. -/
def State.afterGroup (s : State) (c : Cohort) : State :=
  if c.groups.all (fun g => g.retired) then
    (s.modCohort c.ref (fun x => if x.phase = .resident then { x with phase := .draining s.nextId, budget := none } else x)).post
      (.cohortRetire c.ref)
  else if c.budget.isSome then s.post (.saveComplete c.ref) else s

theorem exec_groupRetire {s : State} {g : GRef} {l : Launch} {c c' : Cohort} {x : Group} (hst : s.Stands g l c x) (hidle : s.Idle g x)
    (hc' : ((s.givenBack g c x).retiredGroup g c).cohort? c.ref = some c') :
    exec (.groupRetire g) s = .next (((s.givenBack g c x).retiredGroup g c).afterGroup c') := by
  have harm : exec (.groupRetire g) s = execGroupRetire g s := rfl
  have hguard : (decide (x.r.live ≠ 0) || x.retired || !x.accs.isEmpty || !x.slots.isEmpty || !x.sending.isEmpty || x.run1.isSome ||
      x.run2.isSome || !x.tileOps.isEmpty || s.clusters.any (fun k => k.waiting.any (fun w => w.g == g))) = false := by
    simp [hidle.live, hidle.retired, hidle.accs, hidle.slots, hidle.sending, hidle.run1, hidle.run2, hidle.tileOps, hidle.waiting]
  unfold State.retiredGroup State.givenBack at hc' ⊢
  simp only [harm, execGroupRetire, hst.cohort, hst.group, hguard, Bool.false_eq_true, if_false, hc', State.afterGroup]

/-! ## Cohorts -/

theorem exec_cohortRetire {s : State} {r : CRef} {c : Cohort} {since : Nat} (hc : s.cohorts.find? (fun c => c.ref == r) = some c)
    (hretired : c.groups.all (fun g => g.retired) = true) (hcmds : s.cohortCmds r = []) (hasks : s.asksDone c = true)
    (hsince : c.phase = .draining since ∨ ((∀ k, c.phase ≠ .draining k) ∧ since = s.nextId)) :
    exec (.cohortRetire r) s = .next (match s.flushMaps c since with
      | (s, false) => s
      | (s, true) => match s.cohorts.find? (fun c => c.ref == r) with
        | some c => s.releaseCohort c
        | none => s) := by
  have harm : exec (.cohortRetire r) s = execCohortRetire r s := rfl
  have hk : (match c.phase with
      | .draining k => k
      | _ => s.nextId) = since := by
    obtain h | ⟨h, rfl⟩ := hsince
    · rw [h]
    · split
      next k hk => exact absurd hk (h k)
      · rfl
  have hguard : (!(c.groups.all (fun g => g.retired)) || !(s.cohortCmds r).isEmpty || !s.asksDone c) = false := by
    rw [hretired, hcmds, hasks]
    rfl
  simp only [harm, execCohortRetire, hc, hguard, Bool.false_eq_true, if_false]
  rw [← hk] <;> rfl

/-- Settles O53: a retiring group leads to what its cohort does next, a retiring cohort leaves once its maps are clean. -/
theorem retirementEvents : Obligations.RetirementEvents := by
  unfold Obligations.RetirementEvents
  refine ⟨?_, fun s r c c' since hc hretired hcmds hasks hsince => ?_⟩
  · intro s g l c c' x hst hlive hretired haccs hslots hsending hrun1 hrun2 htileOps hwaiting s0 s1 s2 hc'
    have hexec := exec_groupRetire hst ⟨hlive, hretired, haccs, hslots, hsending, hrun1, hrun2, htileOps, hwaiting⟩ hc'
    have href : c'.ref = c.ref := State.ref_of_cohort? hc'
    refine ⟨fun hall => ?_, fun hsome hbudget => ?_, fun hsome hbudget => ?_⟩
    · rw [hexec, State.afterGroup, if_pos hall, href]
      rfl
    · rw [hexec, State.afterGroup, if_neg (Bool.eq_false_iff.mp hsome), hbudget]
      rfl
    · rw [hexec, State.afterGroup, if_neg (Bool.eq_false_iff.mp hsome), if_pos hbudget]
      rfl
  · have hexec := exec_cohortRetire hc hretired hcmds hasks hsince
    generalize s.flushMaps c since = flushed at hexec ⊢
    obtain ⟨t, done⟩ := flushed
    refine ⟨fun hdone => ?_, fun hdone hc' => ?_⟩
    · obtain rfl : done = false := hdone
      exact hexec
    · obtain rfl : done = true := hdone
      have hc' : t.cohorts.find? (fun c => c.ref == r) = some c' := hc'
      simpa only [hc'] using hexec

end Sys2Proof.Machine
end

section
/-!
PROOF. Which operations leave the memory alone, and that the others keep its canonical form (R3): the state's operations, the homes and caches,
the accesses of cores and the bands.
-/
namespace Sys2Proof.Machine

/-! ## Folds -/

theorem State.foldl_mem {α : Type} {f : State → α → State} (h : ∀ s a, (f s a).mem = s.mem) (xs : List α) (s : State) :
    (xs.foldl f s).mem = s.mem :=
  foldl_frame State.mem f h xs s

theorem State.foldl_fst_mem {α β : Type} {f : State × β → α → State × β} (h : ∀ r a, (f r a).1.mem = r.1.mem) (xs : List α)
    (r : State × β) : (xs.foldl f r).1.mem = r.1.mem :=
  foldl_frame (fun r => r.1.mem) f h xs r

theorem State.memOk_foldl {α : Type} {f : State → α → State} (h : ∀ s a, s.memOk → (f s a).memOk) (xs : List α) {s : State}
    (hs : s.memOk) : (xs.foldl f s).memOk :=
  List.foldlRecOn xs f hs (fun t ht a _ => h t a ht)

theorem State.memOk_foldl_fst {α β : Type} {f : State × β → α → State × β} (h : ∀ r a, r.1.memOk → (f r a).1.memOk) (xs : List α)
    {r : State × β} (hr : r.1.memOk) : (xs.foldl f r).1.memOk :=
  List.foldlRecOn (motive := fun r : State × β => r.1.memOk) xs f hr (fun t ht a _ => h t a ht)

theorem State.wf_mem {s : State} (h : s.memOk) : s.mem.wf = true := h

/-- Every state that a word's effect leaves is in canonical form. -/
def WordRes.memOk : WordRes → Prop
  | .done s _ | .jump s _ _ | .park s _ => s.memOk
  | .stall | .poison _ _ => True

/-- Every state that a merge leaves is in canonical form. -/
def Merge.memOk : Merge → Prop
  | .done s | .waits s => s.memOk
  | .fault _ => True

/-- An outcome is a next state, and its memory keeps its canonical form. -/
def State.KeepsMemory (s : State) (o : Out) : Prop := ∃ t, o = .next t ∧ (s.memOk → t.memOk)

/-! ## Operations of the state -/

theorem State.modSeated_mem (s : State) (r : CRef) (f : Cohort → Cohort) : (s.modSeated r f).mem = s.mem := rfl

theorem State.signal_mem (s : State) (vif vector : Nat) : (s.signal vif vector).mem = s.mem := by
  grind [State.signal, State.send_mem, State.modVif_mem]

theorem State.flushMsix_mem (s : State) (vif : Nat) : (s.flushMsix vif).mem = s.mem := by
  grind [State.flushMsix, State.modVif_mem, State.send_mem, State.foldl_mem]

theorem State.logError_mem (s : State) (e : ErrRec) : (s.logError e).mem = s.mem := by
  grind [State.logError, State.modPart_mem]

theorem State.startSave_mem (s : State) (c : CRef) (kind : Nat) : (s.startSave c kind).mem = s.mem := by
  grind [State.startSave, State.post_mem, State.modCohort_mem]

theorem State.takeTrap_mem (s : State) (g : GRef) (code info : Nat) (lanes : Mask) (tpc taddr : DWord) (tskid : Word) :
    (s.takeTrap g code info lanes tpc taddr tskid).mem = s.mem := by
  grind [State.takeTrap, State.modRegs_mem, State.failLaunch_mem, State.startSave_mem, State.modGroup_mem]

theorem State.mem_retireClause (s : State) (g : GRef) (second : Bool) : (s.retireClause g second).mem = s.mem := by
  grind [State.retireClause, State.settleGroup_mem, State.spinIterate_mem, State.modGroup_mem]

/-! ## Homes, RDCs and first-level caches -/

theorem State.countUnavailable_mem (s : State) (pa : Nat) : (s.countUnavailable pa).mem = s.mem := rfl

theorem State.spendAllowance_mem (s : State) (q : Req) : (s.spendAllowance q).mem = s.mem := by
  unfold State.spendAllowance
  split <;> rfl

theorem State.awaitPorts_mem (s : State) (q : Req) : (s.awaitPorts q).mem = s.mem := by
  grind [State.awaitPorts, State.post_mem, State.foldl_mem]

theorem State.sendFlits_mem (s : State) (q : Req) (n : Nat) : (s.sendFlits q n).1.mem = s.mem := by
  induction n generalizing s with
  | zero => rfl
  | succ n ih => grind [State.sendFlits, State.spendAllowance_mem]

theorem State.flushOut_mem (s : State) : s.flushOut.mem = s.mem := by
  grind [State.flushOut, State.awaitPorts_mem, State.sendFlits_mem, State.send_mem, State.foldl_mem, State.foldl_fst_mem]

theorem State.sendPacket_mem (s : State) (part : Nat) (classH : Bool) (bytes : Nat) (m : Message) :
    (s.sendPacket part classH bytes m).mem = s.mem := by
  grind [State.sendPacket, State.flushOut_mem]

theorem State.charge_mem (s : State) (q : Req) (pa : Nat) : (s.charge q pa).mem = s.mem := by
  unfold State.charge
  split <;> rfl

theorem State.spendToken_mem (s : State) (q : Req) (pa : Nat) : (s.spendToken q pa).mem = s.mem := by
  grind [State.spendToken, State.charge_mem]

theorem State.chargeVictim_mem (s : State) (l : L2Line) : (s.chargeVictim l).mem = s.mem := by
  grind [State.chargeVictim, State.charge_mem]

theorem State.dropL2_mem (s : State) (p : L2Line → Bool) : (s.dropL2 p).mem = s.mem := by
  grind [State.dropL2, State.chargeVictim_mem, State.foldl_mem]

theorem State.l2Alloc_mem (s : State) (q : Req) (pa : Nat) : (s.l2Alloc q pa).mem = s.mem := by
  grind [State.l2Alloc, State.chargeVictim_mem]

theorem State.l2Domain_mem (s : State) (q : Req) (pa : Nat) : (s.l2Domain q pa).mem = s.mem := by
  grind [State.l2Domain, State.dropL2_mem]

theorem State.modL2_mem (s : State) (pa : Nat) (q : Req) (f : L2Line → L2Line) : (s.modL2 pa q f).mem = s.mem := by
  grind [State.modL2, State.l2Alloc_mem, State.l2Domain_mem]

theorem State.modSector_mem (s : State) (pa : Nat) (f : Sector → Sector) : (s.modSector pa f).mem = s.mem := by
  unfold State.modSector
  split <;> rfl

theorem State.spinTouch_mem (s : State) (line : Nat) : (s.spinTouch line).mem = s.mem := rfl

theorem State.wakeWaitc_mem (s : State) : s.wakeWaitc.mem = s.mem := by
  grind [State.wakeWaitc, State.post_mem, State.foldl_mem]

theorem State.dropReplicas_mem (s : State) (pa : Nat) : (s.dropReplicas pa).mem = s.mem := rfl

theorem State.noticed_mem (s : State) (pas : List Nat) : (s.noticed pas).mem = s.mem := by
  grind [State.noticed, State.wakeWaitc_mem, State.dropReplicas_mem, State.spinTouch_mem, State.foldl_mem]

theorem State.countAccess_mem (s : State) (q : Req) (from? : Option Nat) (pa : Nat) (write : Bool) :
    (s.countAccess q from? pa write).mem = s.mem := by
  grind [State.countAccess, State.modDie_mem, State.post_mem]

theorem State.rdcDrop_mem (s : State) (pa : Nat) (from? : Nat → Bool) : (s.rdcDrop pa from?).mem = s.mem := rfl

theorem State.backHome_mem (s : State) (w : Req) (die pa : Nat) : (s.backHome w die pa).mem = s.mem := by
  grind [State.backHome, State.countAccess_mem, State.spendAllowance_mem]

theorem State.memOk_rdcDomain {s : State} (q : Req) (pa : Nat) (h : s.memOk) : (s.rdcDomain q pa).memOk := by
  grind [State.rdcDomain, State.rdcDrop_mem, State.memOk_cleanRdcLine, State.memOk_foldl, State.memOk, State.wf_mem]

theorem State.memOk_homeTouch {s : State} (q : Req) (pa : Nat) (h : s.memOk) : (s.homeTouch q pa).memOk := by
  grind [State.homeTouch, State.modL2_mem, State.spendToken_mem, State.l2Domain_mem, State.memOk_rdcDomain, State.memOk, State.wf_mem]

theorem State.memOk_rdcRoom {s : State} (q : Req) (die pa : Nat) (h : s.memOk) : (s.rdcRoom q die pa).memOk := by
  grind [State.rdcRoom, State.rdcDrop_mem, State.memOk_cleanRdcLine, State.memOk, State.wf_mem]

theorem State.memOk_modRdc {s : State} (q : Req) (die pa : Nat) (f : CacheLine → CacheLine) (h : s.memOk) :
    (s.modRdc q die pa f).memOk := by
  grind [State.modRdc, State.modDie_mem, State.memOk_rdcRoom, State.memOk, State.wf_mem]

theorem State.memOk_rdcPut {s : State} (q : Req) (die pa : Nat) (b : Byte) (h : s.memOk) : (s.rdcPut q die pa b).memOk := by
  grind [State.rdcPut, State.memOk_modRdc]

theorem State.memOk_rdcTake {s : State} (q : Req) (die pa : Nat) (h : s.memOk) : (s.rdcTake q die pa).memOk := by
  grind [State.rdcTake, State.rdcDrop_mem, State.memOk_modRdc, State.memOk_foldl, State.memOk, State.wf_mem]

theorem State.memOk_rdcStore {s : State} (q : Req) (die pa : Nat) (b : CByte) (h : s.memOk) : (s.rdcStore q die pa b).memOk := by
  grind [State.rdcStore, State.memOk_modRdc, State.memOk_rdcTake, State.memOk_rdcDomain]

theorem State.memOk_rdcFetch {s : State} (q : Req) (pa : Nat) (h : s.memOk) : (s.rdcFetch q pa).memOk := by
  grind [State.rdcFetch, State.memOk_rdcDomain, State.modDie_mem, State.memOk_rdcPut, State.memOk_foldl, State.memOk, State.wf_mem]

theorem State.markAhead_mem (s : State) (core line : Nat) : (s.markAhead core line).mem = s.mem := rfl

theorem State.memOk_cleanL1Line {s : State} (q : Req) (deep : Bool) (l : CacheLine) (h : s.memOk) : (s.cleanL1Line q deep l).memOk := by
  grind [State.cleanL1Line, State.markAhead_mem, State.memOk_homeStore, State.backHome_mem, State.memOk_rdcStore, State.noticed_mem,
    State.modCore_mem, State.memOk_foldl, State.memOk, State.wf_mem]

theorem State.dropL1_mem (s : State) (core line : Nat) : (s.dropL1 core line).mem = s.mem := rfl

theorem State.memOk_evictL1 {s : State} (q : Req) (l : CacheLine) (h : s.memOk) : (s.evictL1 q l).memOk := by
  grind [State.evictL1, State.dropL1_mem, State.memOk_cleanL1Line, State.memOk, State.wf_mem]

theorem State.memOk_l1Room {s : State} (q : Req) (pa : Nat) (h : s.memOk) : (s.l1Room q pa).memOk := by
  grind [State.l1Room, State.memOk_evictL1, State.memOk, State.wf_mem]

theorem State.memOk_l1Domain {s : State} (q : Req) (pa : Nat) (h : s.memOk) : (s.l1Domain q pa).memOk := by
  grind [State.l1Domain, State.memOk_evictL1]

theorem State.l1Put_mem (s : State) (q : Req) (pa : Nat) (cell : CByte) : (s.l1Put q pa cell).mem = s.mem := rfl

theorem State.memOk_l1Fetch {s : State} (q : Req) (pa n : Nat) (h : s.memOk) : (s.l1Fetch q pa n).memOk := by
  grind [State.l1Fetch, State.memOk_l1Room, State.memOk_l1Domain, State.modCore_mem, State.memOk_homeTouch, State.memOk_rdcFetch,
    State.l1Put_mem, State.memOk_foldl, State.memOk, State.wf_mem]

theorem State.memOk_l1Store {s : State} (q : Req) (pa va : Nat) (bs : List Byte) (h : s.memOk) : (s.l1Store q pa va bs).memOk := by
  grind [State.l1Store, State.spinTouch_mem, State.memOk_l1Room, State.memOk_l1Domain, State.l1Put_mem, State.memOk_foldl, State.memOk,
    State.wf_mem]

theorem State.memOk_evictRange {s : State} (q : Req) (pa n : Nat) (h : s.memOk) : (s.evictRange q pa n).memOk := by
  grind [State.evictRange, State.memOk_evictL1, State.modCore_mem, State.memOk_foldl, State.memOk, State.wf_mem]

theorem State.memOk_agentStore {s : State} (q : Req) (pa : Nat) (bs : List Byte) (h : s.memOk) : (s.agentStore q pa bs).memOk := by
  grind [State.agentStore, State.memOk_homeStore, State.memOk_evictRange]

theorem State.rdcAdopt_mem (s : State) (old new : Nat) : (s.rdcAdopt old new).mem = s.mem := by
  unfold State.rdcAdopt
  split <;> rfl

theorem State.memOk_cleanL1 {s : State} (q : Req) (h : s.memOk) : (s.cleanL1 q).memOk := by
  grind [State.cleanL1, State.modCore_mem, State.memOk_cleanL1Line, State.memOk_foldl, State.memOk, State.wf_mem]

theorem State.memOk_releaseActions {s : State} (q : Req) (scope : Nat) (h : s.memOk) : (s.releaseActions q scope).memOk := by
  grind [State.releaseActions, State.memOk_cleanL1, State.memOk_cleanRdcLine, State.memOk_foldl, State.memOk, State.wf_mem]

theorem State.acquireActions_mem (s : State) (core scope : Nat) : (s.acquireActions core scope).mem = s.mem := by
  grind [State.acquireActions, State.modCore_mem, State.modDie_mem]

theorem State.memOk_expel {s : State} (q : Req) (pa : Nat) (h : s.memOk) : (s.expel q pa).memOk := by
  grind [State.expel, State.memOk_recall, State.dropL1_mem, State.memOk_cleanL1Line, State.memOk, State.wf_mem]

/-! ## Walks and translations -/

theorem State.requestWalk_mem (s : State) (vif die : Nat) (core : Option Nat) (va : Nat) (acc : BitVec 8) (agent : Nat) (classH : Bool)
    (lid cid gid : Nat) (w : Waiter) : (s.requestWalk vif die core va acc agent classH lid cid gid w).mem = s.mem := by
  grind [State.requestWalk, State.post_mem]

theorem State.memOk_putEntry {s : State} (q : Req) (pa e : Nat) (h : s.memOk) : (s.putEntry q pa e).memOk := by
  grind [State.putEntry, State.memOk_homeStore]

theorem State.memOk_useLeaf {s : State} (q : Req) (pa e : Nat) (write : Bool) (h : s.memOk) : (s.useLeaf q pa e write).memOk := by
  grind [State.useLeaf, State.memOk_putEntry]

/-! ## Requests of a lane -/

theorem State.addFillHeld_mem (s : State) (g : GRef) (dst n : Nat) (lanes : Mask) (vals : List (Nat × List Word)) (inRegion : Bool)
    (poison : Option (Poison × Nat)) (holds : Mask) : (s.addFillHeld g dst n lanes vals inRegion poison holds).mem = s.mem := by
  grind [State.addFillHeld, State.post_mem, State.modGroup_mem]

theorem State.addFill_mem (s : State) (g : GRef) (dst n : Nat) (lanes : Mask) (vals : List (Nat × List Word)) (inRegion : Bool)
    (poison : Option (Poison × Nat)) : (s.addFill g dst n lanes vals inRegion poison).mem = s.mem := by
  grind [State.addFill, State.addFillHeld_mem]

theorem State.fillAccess_mem (s : State) (g : GRef) (a : Access) (vals : List (Nat × List Word)) (p : Option (Poison × Nat)) :
    (s.fillAccess g a vals p).mem = s.mem := by
  grind [State.fillAccess, State.addFill_mem]

theorem State.accDone_mem (s : State) (g : GRef) (id : Nat) (done : List Nat) : (s.accDone g id done).mem = s.mem := rfl

/-! ## Accesses of a group -/

theorem State.finishLanes_mem (s : State) (g : GRef) (a : Access) (rs : List LaneResult) : (s.finishLanes g a rs).mem = s.mem := by
  grind [State.finishLanes, State.fillAccess_mem, State.modGroup_mem, State.accDone_mem, State.foldl_mem]

theorem State.injectEvent_mem (s : State) (part target unit : Nat) : (s.injectEvent part target unit).1.mem = s.mem := by
  grind [State.injectEvent, State.modPart_mem]

theorem State.injectHome_mem (s : State) (q : Req) (pa : Nat) : (s.injectHome q pa).mem = s.mem := by
  grind [State.injectHome, State.modSector_mem, State.injectEvent_mem, State.logError_mem]

theorem State.injectRdc_mem (s : State) (q : Req) (pa : Nat) : (s.injectRdc q pa).mem = s.mem := by
  grind [State.injectRdc, State.injectEvent_mem, State.logError_mem, State.modDie_mem, State.modSector_mem]

theorem State.injectRemote_mem (s : State) (q : Req) (pa : Nat) : (s.injectRemote q pa).mem = s.mem := by
  grind [State.injectRemote, State.injectRdc_mem, State.spendAllowance_mem, State.injectEvent_mem]

theorem State.awaitTokens_mem (s : State) (q : Req) (pas : List Nat) : (s.awaitTokens q pas).mem = s.mem := by
  grind [State.awaitTokens, State.post_mem, State.awaitPorts_mem, State.foldl_mem]

theorem State.memOk_reachHome {s : State} (q : Req) (pa : Nat) (write : Bool) (h : s.memOk) : (s.reachHome q pa write).memOk := by
  grind [State.reachHome, State.injectRdc_mem, State.memOk_homeTouch, State.countAccess_mem, State.injectHome_mem,
    State.injectRemote_mem, State.memOk_rdcDomain, State.memOk, State.wf_mem]

theorem State.memOk_globalLoad {s : State} (q : Req) (pa n : Nat) (h : s.memOk) : (s.globalLoad q pa n).1.memOk := by
  grind [State.globalLoad, State.memOk_reachHome, State.memOk_l1Fetch]

theorem State.memOk_globalStoreHome {s : State} (q : Req) (pa : Nat) (bs : List Byte) (h : s.memOk) :
    (s.globalStoreHome q pa bs).memOk := by
  grind [State.globalStoreHome, State.memOk_reachHome, State.memOk_l1Domain, State.l1Put_mem, State.memOk_homeStore, State.memOk_foldl,
    State.memOk, State.wf_mem]

theorem State.memOk_readSector {s : State} (r : CRef) (q : Req) (t : TlbEntry) (e sec pa : Nat) (h : s.memOk) :
    (s.readSector r q t e sec pa).memOk := by
  grind [State.readSector, State.memOk_reachHome, State.memOk_l1Fetch, State.modCohort_mem, State.memOk, State.wf_mem]

theorem State.memOk_startFill {s : State} (r : CRef) (e sec : Nat) (h : s.memOk) : (s.startFill r e sec).memOk := by
  grind [State.startFill, State.post_mem, State.modCohort_mem, State.memOk_readSector, State.memOk, State.wf_mem]

theorem State.memOk_startFills {s : State} (r : CRef) (secs : List (Nat × Nat)) (h : s.memOk) : (s.startFills r secs).memOk := by
  grind [State.startFills, State.memOk_startFill, State.memOk_foldl, State.memOk, State.wf_mem]

theorem State.memOk_performScratch {s : State} (g : GRef) (a : Access) (lanes : Mask) (h : s.memOk) :
    (s.performScratch g a lanes).memOk := by
  grind [State.performScratch, State.memOk_startFills, State.modCohort_mem, State.modGroup_mem, State.finishLanes_mem, State.memOk_foldl,
    State.memOk_foldl_fst, State.memOk, State.wf_mem]

theorem State.performReg_mem (s : State) (g : GRef) (a : Access) (lanes : Mask) : (s.performReg g a lanes).mem = s.mem := by
  grind [State.performReg, State.modGroup_mem, State.finishLanes_mem, State.foldl_mem, State.foldl_fst_mem]

theorem State.performSys_mem (s : State) (g : GRef) (a : Access) (win : Nat) (lanes : Mask) : (s.performSys g a win lanes).mem = s.mem :=
    by
  grind [State.performSys, State.send_mem, State.finishLanes_mem, State.foldl_mem, State.foldl_fst_mem]

theorem State.memOk_mapWriteback {s : State} (l : Launch) (c : Cohort) (e before gid : Nat) (h : s.memOk) :
    (s.mapWriteback l c e before gid).memOk := by
  grind [State.mapWriteback, State.requestWalk_mem, State.awaitTokens_mem, State.memOk_agentStore, State.memOk_reachHome,
    State.modCohort_mem, State.memOk_foldl, State.memOk, State.wf_mem]

theorem State.memOk_performMap {s : State} (g : GRef) (a : Access) (h : s.memOk) : (s.performMap g a).memOk := by
  grind [State.performMap, State.memOk_mapWriteback, State.modCohort_mem, State.modGroup_mem, State.memOk, State.wf_mem]

theorem State.memOk_promoteFlush {s : State} (q : Req) (pa : Nat) (h : s.memOk) : (s.promoteFlush q pa).memOk := by
  grind [State.promoteFlush, State.dropL1_mem, State.memOk_cleanL1, State.memOk_foldl, State.memOk, State.wf_mem]

theorem State.memOk_globalLane {s : State} (q : Req) (a : Access) (i pa va scope : Nat) (home : Bool) (h : s.memOk) :
    (s.globalLane q a i pa va scope home).1.memOk := by
  grind [State.globalLane, State.memOk_globalLoad, State.memOk_globalStoreHome, State.memOk_l1Store, State.memOk_reachHome,
    State.memOk_expel, State.memOk_promoteFlush, State.modL2_mem, State.memOk_homeStore, State.markAhead_mem, State.memOk, State.wf_mem]

theorem State.markReleased_mem (s : State) (g : GRef) (id : Nat) (m : Mask) : (s.markReleased g id m).mem = s.mem := rfl

theorem State.memOk_performGlobal {s : State} (g : GRef) (l : Launch) (c : Cohort) (a : Access) (lanes : Mask) (h : s.memOk) :
    (s.performGlobal g l c a lanes).memOk := by
  grind [State.performGlobal, State.memOk_globalLane, State.modGroup_mem, State.acquireActions_mem, State.finishLanes_mem,
    State.markReleased_mem, State.memOk_foldl, State.memOk_foldl_fst, State.memOk, State.wf_mem]

theorem State.memOk_sectorBack {s : State} (q : Req) (drop : Bool) (pa : Nat) (h : s.memOk) : (s.sectorBack q drop pa).memOk := by
  grind [State.sectorBack, State.memOk_cleanL1Line, State.dropL1_mem, State.memOk_cleanRdcLine, State.rdcDrop_mem, State.memOk,
    State.wf_mem]

theorem State.memOk_performRange {s : State} (g : GRef) (l : Launch) (c : Cohort) (a : Access) (lanes : Mask) (h : s.memOk) :
    (s.performRange g l c a lanes).memOk := by
  grind [State.performRange, State.accDone_mem, State.memOk_sectorBack, State.memOk_foldl, State.memOk, State.wf_mem]

theorem State.slotAccess_mem (s : State) (g : GRef) (a : Access) (ls : List Nat) (id kind engine : Nat) :
    (s.slotAccess g a ls id kind engine).mem = s.mem := by
  grind [State.slotAccess, State.modGroup_mem, State.post_mem]

theorem State.slotSector_mem (s : State) (r : CRef) (sec id kind engine : Nat) : (s.slotSector r sec id kind engine).mem = s.mem := by
  grind [State.slotSector, State.slotAccess_mem, State.foldl_mem]

theorem State.slotFilling_mem (s : State) (r : CRef) : (s.slotFilling r).mem = s.mem := by
  grind [State.slotFilling, State.slotSector_mem, State.foldl_mem]

theorem State.slotBehind_mem (s : State) (g : GRef) : (s.slotBehind g).mem = s.mem := by
  grind [State.slotBehind, State.modGroup_mem, State.foldl_mem]

theorem State.memOk_performLocal {s : State} (g : GRef) (l : Launch) (c : Cohort) (a : Access) (lanes : Mask) (h : s.memOk) :
    (s.performLocal g l c a lanes).memOk := by
  grind [State.performLocal, State.memOk_performMap, State.accDone_mem, State.acquireActions_mem, State.memOk_performScratch,
    State.performReg_mem, State.performSys_mem, State.memOk, State.wf_mem]

theorem State.memOk_tryLocal {s : State} (r : CRef) (gid id : Nat) (h : s.memOk) : (s.tryLocal r gid id).1.memOk := by
  grind [State.tryLocal, State.memOk_performLocal]

theorem State.memOk_drainOnce {s : State} (r : CRef) (h : s.memOk) : (s.drainOnce r).memOk := by
  grind [State.drainOnce, State.memOk_tryLocal, State.memOk_foldl, State.memOk_foldl_fst, State.memOk, State.wf_mem]

theorem State.memOk_drain {s : State} (r : CRef) (n : Nat) (h : s.memOk) : (s.drain r n).memOk := by
  induction n generalizing s with
  | zero => exact h
  | succ n ih => grind [State.drain, State.memOk_drainOnce]

theorem State.keepSlot_mem (s : State) (l : Launch) (c : Cohort) (g : GRef) (a : Access) : (s.keepSlot l c g a).mem = s.mem := by
  grind [State.keepSlot, State.modGroup_mem]

theorem State.askWalks_mem (s : State) (l : Launch) (c : Cohort) (x : Group) (a : Access) : (s.askWalks l c x a).mem = s.mem := by
  grind [State.askWalks, State.requestWalk_mem, State.foldl_mem]

theorem State.keepSlots_mem (s : State) (r : CRef) : (s.keepSlots r).mem = s.mem := by
  grind [State.keepSlots, State.keepSlot_mem, State.foldl_mem]

theorem State.wakeCohort_mem (s : State) (r : CRef) : (s.wakeCohort r).mem = s.mem := by
  grind [State.wakeCohort, State.askWalks_mem, State.post_mem, State.foldl_mem]

theorem State.sendAsks_mem (s : State) (r : CRef) : (s.sendAsks r).mem = s.mem := by
  grind [State.sendAsks, State.post_mem, State.foldl_mem]

theorem State.memOk_wakeOne {s : State} (r : CRef) (h : s.memOk) : (s.wakeOne r).memOk := by
  grind [State.wakeOne, State.sendAsks_mem, State.wakeCohort_mem, State.keepSlots_mem, State.memOk_drain, State.modCohort_mem,
    State.slotFilling_mem, State.slotBehind_mem, State.memOk_foldl, State.memOk_foldl_fst, State.memOk, State.wf_mem]

theorem State.memOk_wake {s : State} (h : s.memOk) : s.wake.memOk := by
  grind [State.wake, State.memOk_wakeOne, State.memOk_foldl, State.memOk_foldl_fst, State.memOk, State.wf_mem]

theorem State.memOk_accept {s : State} (g : GRef) (a : Access) (h : s.memOk) : (s.accept g a).memOk := by
  grind [State.accept, State.modGroup_mem, State.memOk_wakeOne, State.memOk, State.wf_mem]

/-! ## Bands -/

theorem State.memOk_agentReach {s : State} (q : Req) (pa n : Nat) (write : Bool) (h : s.memOk) : (s.agentReach q pa n write).memOk := by
  grind [State.agentReach, State.memOk_reachHome, State.memOk_rdcFetch, State.memOk_foldl, State.memOk, State.wf_mem]

theorem State.memOk_reachParts {s : State} (v : Vif) (parts : Option (List DevPart)) (write : Bool) (h : s.memOk) :
    (s.reachParts v parts write).1.memOk := by
  unfold State.reachParts
  split
  · exact h
  dsimp only
  split
  · exact h
  split
  · rw [State.memOk, State.awaitTokens_mem]
    exact h
  refine State.memOk_foldl (fun t p ht => ?_) _ h
  split
  · exact State.memOk_agentReach _ _ _ _ (State.memOk_useLeaf _ _ _ _ ht)
  · exact State.memOk_agentReach _ _ _ _ ht

theorem State.memOk_ipaReach {s : State} (v : Vif) (ipa n : Nat) (write : Bool) (h : s.memOk) : (s.ipaReach v ipa n write).1.memOk := by
  grind [State.ipaReach, State.memOk_reachParts, State.memOk, State.wf_mem]

theorem State.memOk_devStore {s : State} (v : Vif) (ps : List DevPart) (bs : List Byte) (h : s.memOk) : (s.devStore v ps bs).memOk := by
  grind [State.devStore, State.memOk_homeStore, State.memOk_foldl, State.memOk_foldl_fst, State.memOk, State.wf_mem]

theorem State.memOk_ipaPut {s t : State} (v : Vif) (ipa : Nat) (bs : List Byte) (hs : s.memOk) (h : s.ipaPut v ipa bs = some t) :
    t.memOk := by
  have hok := State.memOk_ipaReach v ipa bs.length true hs
  rcases hreach : s.ipaReach v ipa bs.length true with ⟨u, _ | ps⟩
  · rw [State.ipaPut_none (by rw [hreach])] at h
    cases h
  · rw [State.ipaPut_reached hreach] at h
    cases h
    rw [hreach] at hok
    exact State.memOk_devStore _ _ _ hok

theorem State.logAccess_mem (s : State) (part : Nat) (hits : List Nat) (acc : BitVec 8) (agent vif lid va pa : Nat) :
    (s.logAccess part hits acc agent vif lid va pa).mem = s.mem := by
  grind [State.logAccess, State.modPart_mem, State.foldl_mem]

theorem State.logPages_mem {s t : State} (part vif lid agent : Nat) (acc : BitVec 8) (need : BitVec 4) (ps : List (Nat × Nat × Nat))
    (h : s.logPages part vif lid agent acc need ps = some t) : t.mem = s.mem := by
  grind [State.logPages, State.logAccess_mem, State.foldl_mem]

theorem State.modBand_mem (s : State) (die no : Nat) (f : Band → Band) : (s.modBand die no f).mem = s.mem := rfl

theorem State.memOk_readFill {s : State} (die id : Nat) (h : s.memOk) : (s.readFill die id).memOk := by
  obtain ⟨pages, hpages⟩ : ∃ f, f = State.agentPages := ⟨_, rfl⟩
  rw [State.readFill, ← hpages]
  split
  · exact h
  split
  · exact h
  split
  · exact h
  split
  · dsimp only
    split
    · exact h
    split
    · rw [State.memOk, State.awaitTokens_mem]
      exact h
    split
    · exact h
    next hlog =>
    refine State.memOk_foldl (fun t f ht => ?_) _ (State.memOk_foldl (fun t p ht => State.memOk_agentReach _ _ _ _ ht) _ ?_)
    · split
      · rw [State.memOk, State.post_mem]
        exact ht
      · exact ht
    · rw [State.memOk, State.logPages_mem _ _ _ _ _ _ _ hlog]
      exact h
  · rw [State.memOk, State.foldl_mem (fun t p => State.requestWalk_mem ..)]
    exact h

theorem State.memOk_makeFill {s : State} (die band : Nat) (key : BandKey) (targets : BitVec 96) (deferred : Bool) (h : s.memOk) :
    (s.makeFill die band key targets deferred).memOk := by
  grind [State.makeFill, State.memOk_readFill, State.modDie_mem, State.memOk, State.wf_mem]

theorem State.memOk_endHold {s : State} (die no : Nat) (expired : Bool) (h : s.memOk) : (s.endHold die no expired).memOk := by
  grind [State.endHold, State.memOk_makeFill, State.modBand_mem, State.memOk, State.wf_mem]

theorem State.memOk_evalHold {s : State} (die no : Nat) (h : s.memOk) : (s.evalHold die no).memOk := by
  grind [State.evalHold, State.memOk_endHold, State.memOk, State.wf_mem]

theorem State.memOk_bandLeave {s : State} (die no core : Nat) (h : s.memOk) : (s.bandLeave die no core).memOk := by
  grind [State.bandLeave, State.memOk_evalHold, State.modBand_mem, State.memOk, State.wf_mem]

theorem State.bandJoin_mem (s : State) (die no core : Nat) : (s.bandJoin die no core).mem = s.mem := rfl

theorem State.memOk_bandDrop {s : State} (die no core : Nat) (h : s.memOk) : (s.bandDrop die no core).memOk := by
  grind [State.bandDrop, State.modBand_mem, State.memOk_bandLeave, State.memOk, State.wf_mem]

theorem State.bandAsk_mem (s : State) (g : GRef) (c : Cohort) (no va n : Nat) (hdr pc : DWord) (issuedAt : Nat) :
    (s.bandAsk g c no va n hdr pc issuedAt).mem = s.mem := by
  grind [State.bandAsk, State.post_mem, State.modBand_mem, State.modCohort_mem]

theorem State.memOk_askArrive {s : State} (die no core : Nat) (h : s.memOk) : (s.askArrive die no core).memOk := by
  unfold State.askArrive
  grind [State.modBand_mem, State.memOk_evalHold, State.memOk_makeFill, State.post_mem, State.memOk, State.wf_mem]

theorem State.memOk_bandDepart {s : State} (r : CRef) (h : s.memOk) : (s.bandDepart r).memOk := by
  grind [State.bandDepart, State.modCohort_mem, State.modBand_mem, State.modDie_mem, State.memOk_bandLeave, State.memOk_foldl,
    State.memOk_foldl_fst, State.memOk, State.wf_mem]

theorem State.memOk_bandLeft {s : State} (die no core : Nat) (h : s.memOk) : (s.bandLeft die no core).memOk := by
  grind [State.bandLeft, State.memOk_bandLeave, State.memOk, State.wf_mem]

theorem State.memOk_landFill {s : State} (die id : Nat) (h : s.memOk) : (s.landFill die id).memOk := by
  unfold State.landFill
  split
  · exact h
  split
  · extract_lets t
    have ht : t.memOk := by
      rw [State.memOk, State.modDie_mem]
      exact h
    refine State.memOk_foldl (fun u core hu => ?_) _ ht
    grind [State.memOk_bandLeft, State.modBand_mem, State.memOk_wakeOne, State.modSeated_mem, State.memOk, State.wf_mem]
  · rw [State.memOk, State.modDie_mem]
    exact h

end Sys2Proof.Machine
end

section
/-!
PROOF. The memory under what clauses and engines do: engine traffic, waiting work that goes on, the run of a word, fault records, storage and
the votes of slots.
-/
namespace Sys2Proof.Machine

/-! ## Engine traffic -/

theorem State.takeLocks_mem (s : State) (l : Launch) (c : Cohort) (cmd : Nat) (rs : List Range) : (s.takeLocks l c cmd rs).mem = s.mem :=
    by
  grind [State.takeLocks, State.modCore_mem, State.foldl_mem]

theorem State.modEngine_mem (s : State) (e : EngineId) (f : Engine → Engine) : (s.modEngine e f).mem = s.mem := by
  unfold State.modEngine
  split <;> rfl

theorem State.enqueue_mem (s : State) (c : Cmd) : (s.enqueue c).mem = s.mem := by
  grind [State.enqueue, State.modEngine_mem]

theorem State.memOk_sendPush {s : State} (g : GRef) (l : Launch) (c : Cohort) (x : Group) (pd : Nat) (lanes : Mask) (sel : Nat)
    (ws : List Word) (h : s.memOk) : (s.sendPush g l c x pd lanes sel ws).memOk := by
  grind [State.sendPush, State.modGroup_mem, State.takeLocks_mem, State.enqueue_mem, State.modQueue_mem, State.modCohort_mem,
    State.memOk_wakeOne, State.memOk, State.wf_mem]

theorem State.memOk_sendTstream {s : State} (g : GRef) (l : Launch) (c : Cohort) (x : Group) (pd lane : Nat) (record coords : List Word)
    (coff : Nat) (h : s.memOk) : (s.sendTstream g l c x pd lane record coords coff).memOk := by
  grind [State.sendTstream, State.modGroup_mem, State.takeLocks_mem, State.modCohort_mem, State.memOk_wakeOne, State.enqueue_mem,
    State.memOk_foldl, State.memOk_foldl_fst, State.memOk, State.wf_mem]

theorem State.settleBarb_mem (s : State) (lid bid id : Nat) : (s.settleBarb lid bid id).mem = s.mem := by
  grind [State.settleBarb, State.modCohort_mem, State.acquireActions_mem, State.foldl_mem]

theorem State.arriveBarb_mem (s : State) (c : Cohort) (gid id count : Nat) (lanes : Mask) :
    (s.arriveBarb c gid id count lanes).mem = s.mem := by
  grind [State.arriveBarb, State.modCohort_mem, State.settleBarb_mem]

theorem State.memOk_sendOp {s : State} (g : GRef) (u : SendOp) (h : s.memOk) : (s.sendOp g u).memOk := by
  unfold State.sendOp
  grind [State.memOk_accept, State.modGroup_mem, State.modCohort_mem, State.bandJoin_mem, State.bandAsk_mem, State.memOk_bandDrop,
    State.memOk_sendPush, State.memOk_sendTstream, State.post_mem, State.modCluster_mem, State.modRegs_mem, State.modPart_mem,
    State.memOk_foldl, State.memOk_foldl_fst, State.memOk, State.wf_mem]

theorem State.memOk_sendOps {s : State} (g : GRef) (us : List SendOp) (h : s.memOk) : (s.sendOps g us).memOk := by
  induction us generalizing s with
  | nil => exact h
  | cons u us ih => grind [State.sendOps, State.memOk_sendOp, State.modGroup_mem, State.memOk, State.wf_mem]

theorem State.memOk_resumeSends {s : State} (g : GRef) (h : s.memOk) : (s.resumeSends g).memOk := by
  grind [State.resumeSends, State.memOk_sendOps, State.modGroup_mem, State.memOk, State.wf_mem]

theorem State.memOk_resumeDie {s : State} (die : Nat) (h : s.memOk) : (s.resumeDie die).memOk := by
  grind [State.resumeDie, State.memOk_resumeSends, State.memOk_foldl, State.memOk_foldl_fst, State.memOk, State.wf_mem]

/-! ## Waiting work -/

theorem State.postWork_mem (s : State) (c : Cmd) : (s.postWork c).mem = s.mem := by
  grind [State.postWork, State.post_mem]

theorem State.resumeCmd_mem (s : State) (id : Nat) : (s.resumeCmd id).mem = s.mem := by
  grind [State.resumeCmd, State.modCmd_mem, State.postWork_mem]

theorem State.resumeFetch_mem (s : State) (core slot lid : Nat) (pc : DWord) : (s.resumeFetch core slot lid pc).mem = s.mem := by
  grind [State.resumeFetch, State.modCore_mem, State.post_mem, State.foldl_mem]

theorem State.resumePhase_mem (s : State) (c : Cohort) : (s.resumePhase c).mem = s.mem := by
  grind [State.resumePhase, State.post_mem]

theorem State.memOk_resume {s : State} (w : Waiter) (h : s.memOk) : (s.resume w).memOk := by
  unfold State.resume
  grind [State.memOk_wakeOne, State.resumeFetch_mem, State.resumeCmd_mem, State.memOk_readFill, State.modDie_mem, State.post_mem,
    State.resumePhase_mem, State.modQueue_mem, State.memOk_foldl, State.memOk_foldl_fst, State.memOk, State.wf_mem]

theorem State.postRecord_mem (s : State) (r : FaultRec) : (s.postRecord r).mem = s.mem := by
  grind [State.postRecord, State.post_mem]

theorem State.postSweeps_mem (s : State) (vif : Nat) : (s.postSweeps vif).mem = s.mem := by
  grind [State.postSweeps, State.post_mem, State.foldl_mem]

theorem State.memOk_post {s : State} (i : Instr) (h : s.memOk) : (s.post i).memOk := by
  rw [State.memOk, State.post_mem]
  exact h

theorem State.memOk_ite_post {s : State} (c : Prop) [Decidable c] (i : Instr) (h : s.memOk) : (if c then s.post i else s).memOk := by
  split
  · exact State.memOk_post i h
  · exact h

theorem State.memOk_resumePhase {s : State} (c : Cohort) (h : s.memOk) : (s.resumePhase c).memOk := by
  rw [State.memOk, State.resumePhase_mem]
  exact h

theorem State.memOk_postSweeps {s : State} (vif : Nat) (h : s.memOk) : (s.postSweeps vif).memOk := by
  rw [State.memOk, State.postSweeps_mem]
  exact h

theorem State.memOk_postWork {s : State} (c : Cmd) (h : s.memOk) : (s.postWork c).memOk := by
  rw [State.memOk, State.postWork_mem]
  exact h

theorem State.memOk_postRecord {s : State} (r : FaultRec) (h : s.memOk) : (s.postRecord r).memOk := by
  rw [State.memOk, State.postRecord_mem]
  exact h

theorem State.memOk_retry {s : State} (h : s.memOk) : s.retry.memOk := by
  unfold State.retry
  extract_lets t1 t2 t3 t4 t5 t6 t7 t8 t9 t10 t11 t12 t13 t14 t15 t16
  have h1 : t1.memOk := State.memOk_wake h
  have h2 : t2.memOk := State.memOk_foldl (fun t c ht => State.memOk_foldl (fun t f ht => State.memOk_post _ ht) _ ht) _ h1
  have h3 : t3.memOk := State.memOk_foldl (fun t c ht => State.memOk_postWork c ht) _ h2
  have h4 : t4.memOk := State.memOk_foldl (fun t e ht => State.memOk_post _ ht) _ h3
  have h5 : t5.memOk := State.memOk_foldl (fun t w ht => State.memOk_post _ ht) _ h4
  have h6 : t6.memOk := State.memOk_foldl (fun t r ht => State.memOk_postRecord r ht) _ h5
  have h7 : t7.memOk := by
    refine State.memOk_foldl (fun t q ht => ?_) _ h6
    grind [State.post_mem, State.memOk, State.wf_mem]
  have h8 : t8.memOk := State.memOk_foldl (fun t k ht => State.memOk_post _ ht) _ h7
  have h9 : t9.memOk := State.memOk_foldl (fun t c ht => State.memOk_foldl (fun t e ht =>
    State.memOk_foldl (fun t f ht => State.memOk_post _ ht) _ ht) _ (State.memOk_foldl (fun t g ht =>
      State.memOk_ite_post _ _ (State.memOk_ite_post _ _ (State.memOk_ite_post _ _ (State.memOk_ite_post _ _
        (State.memOk_ite_post _ _ (State.memOk_ite_post _ _ ht)))))) _ (State.memOk_resumePhase c ht))) _ h8
  have h10 : t10.memOk := by
    refine State.memOk_foldl (fun t d ht => State.memOk_foldl (fun t f ht => ?_) _ ht) _ h9
    split
    · exact State.memOk_post _ ht
    split
    · exact State.memOk_readFill d.no f.id ht
    · exact ht
  have h11 : t11.memOk := State.memOk_foldl (fun t c ht => State.memOk_foldl (fun t w ht => State.memOk_post _ ht) _ ht) _ h10
  have h12 : t12.memOk := State.memOk_foldl (fun t i ht => State.memOk_post _ ht) _ h11
  have h13 : t13.memOk := State.memOk_foldl (fun t p ht => State.memOk_post _ ht) _ h12
  have h14 : t14.memOk := State.memOk_foldl (fun t p ht => State.memOk_post _ ht) _ h13
  have h15 : t15.memOk := State.memOk_foldl (fun t d ht => State.memOk_ite_post _ _ ht) _ h14
  have h16 : t16.memOk := State.memOk_foldl (fun t v ht => State.memOk_postSweeps _ (State.memOk_foldl (fun t f ht =>
    State.memOk_ite_post _ _ ht) _ (State.memOk_ite_post _ _ (State.memOk_ite_post _ _ ht)))) _ h15
  exact State.memOk_foldl (fun t f ht => State.memOk_post _ ht) _ h16

/-! ## The run of a word -/

theorem State.restartGroup_mem (s : State) (g : GRef) : (s.restartGroup g).mem = s.mem := rfl

theorem State.vifEnd_mem (s : State) (vif code : Nat) : (s.vifEnd vif code).mem = s.mem := by
  grind [State.vifEnd, State.endTree_mem, State.foldl_mem]

theorem State.vifError_mem (s : State) (vif : Nat) : (s.vifError vif).mem = s.mem := by
  grind [State.vifError, State.vifEnd_mem, State.modVif_mem]

theorem State.consume_mem (s : State) (g : GRef) (kind : Poison) (o : Origin) (pa : Nat) (pc : DWord) :
    (s.consume g kind o pa pc).mem = s.mem := by
  grind [State.consume, State.logError_mem, State.vifError_mem, State.failLaunch_mem, State.restartGroup_mem]

theorem State.stallWord_mem (s : State) (x : Ctx) : (s.stallWord x).mem = s.mem := rfl

theorem State.parkWord_mem (s : State) (x : Ctx) (why : Park) : (s.parkWord x why).mem = s.mem := by
  grind [State.parkWord, State.post_mem, State.modGroup_mem, State.stallWord_mem]

theorem State.memOk_sendAll {s : State} (g : GRef) (h : s.memOk) : (s.sendAll g).memOk := by
  grind [State.sendAll, State.modGroup_mem, State.memOk_sendOps, State.memOk_wakeOne, State.memOk, State.wf_mem]

theorem State.memOk_emit {s : State} (x : Ctx) (early : Bool) (u : SendOp) (h : s.memOk) : (s.emit x early u).memOk := by
  grind [State.emit, State.modGroup_mem, State.memOk_sendOp, State.memOk, State.wf_mem]

theorem State.endClause_mem (s : State) (x : Ctx) : (s.endClause x).mem = s.mem := by
  grind [State.endClause, State.post_mem, State.modGroup_mem, State.mem_retireClause]

theorem State.countWord_mem (s : State) (x : Ctx) (act : Mask) : (s.countWord x act).mem = s.mem := rfl

theorem State.reap_mem (s : State) (x : Ctx) : (s.reap x).mem = s.mem := by
  grind [State.reap, State.settleGroup_mem, State.modRegs_mem]

theorem State.endCycle_mem (s : State) (x : Ctx) : (s.endCycle x).mem = s.mem := by
  grind [State.endCycle, State.modGroup_mem, State.settleGroup_mem, State.takeTrap_mem]

theorem State.advance_mem (s : State) (x : Ctx) (act : Mask) : (s.advance x act).mem = s.mem := by
  grind [State.advance, State.reap_mem, State.modGroup_mem, State.countWord_mem, State.endCycle_mem, State.endClause_mem]

theorem State.leave_mem (s : State) (x : Ctx) (act : Mask) (pcs : List (Nat × DWord)) : (s.leave x act pcs).mem = s.mem := by
  grind [State.leave, State.endCycle_mem, State.endClause_mem, State.reap_mem, State.modGroup_mem, State.countWord_mem]

theorem State.rerunClause_mem (s : State) (g : GRef) (i : Issue) : (s.rerunClause g i).mem = s.mem := rfl

theorem State.memOk_interrupt {s : State} (g : GRef) (h : s.memOk) : (s.interrupt g).memOk := by
  grind [State.interrupt, State.rerunClause_mem, State.memOk_sendAll, State.modGroup_mem, State.memOk, State.wf_mem]

theorem State.memOk_wordTrap {s : State} (x : Ctx) (act : Mask) (traps : List LaneTrap) (control : Bool) (pcs : List (Nat × DWord))
    (h : s.memOk) : (s.wordTrap x act traps control pcs).memOk := by
  unfold State.wordTrap
  split
  · exact h
  next code _ =>
  extract_lets mine infos info t lanes all last first next u v close w
  have hu : u.memOk := by grind [State.countWord_mem, State.modGroup_mem, State.tick_mem, State.memOk, State.wf_mem]
  have hv : v.memOk := by grind [State.memOk_sendAll]
  split
  · rw [State.memOk, State.endCycle_mem]
    exact hv
  split
  · exact hv
  · rw [State.memOk, State.settleGroup_mem, State.takeTrap_mem]
    exact hv

theorem State.memOk_trapOr {s t : State} (x : Ctx) (h : s.memOk) (ht : t.memOk) : (s.trapOr x t).memOk := by
  grind [State.trapOr, State.stallWord_mem, State.rerunClause_mem, State.memOk, State.wf_mem]

theorem State.injectResult_mem (s : State) (x : Ctx) (act : Mask) (ds : List DstOp) : (s.injectResult x act ds).1.mem = s.mem := by
  grind [State.injectResult, State.injectEvent_mem, State.post_mem, State.modGroup_mem, State.tick_mem]

theorem State.poisonUnit_mem (s : State) (g : GRef) (key : Nat) (inj : Bool) : (s.poisonUnit g key inj).mem = s.mem := rfl

theorem State.injectStore_mem (s : State) (x : Ctx) (act : Mask) (ss : List SrcOp) : (s.injectStore x act ss).mem = s.mem := by
  grind [State.injectStore, State.injectEvent_mem, State.poisonUnit_mem]

theorem State.memOk_runWord {s : State} (w : WordSpec) {body : Ctx → Mask → State → WordRes}
    (hbody : ∀ x lanes t, t.memOk → (body x lanes t).memOk) (h : s.memOk) : (s.runWord w body).memOk := by
  unfold State.runWord
  split
  · exact h
  next x0 _ =>
  have hstore : (s.injectStore x0 (x0.active w.guard) w.srcs).memOk := by
    rw [State.memOk, State.injectStore_mem]
    exact h
  generalize s.injectStore x0 (x0.active w.guard) w.srcs = t at hstore ⊢
  have hwaits : (((s.stallWord x0).reap x0).endCycle x0).memOk := by
    rw [State.memOk, State.endCycle_mem, State.reap_mem, State.stallWord_mem]
    exact h
  split
  · exact hwaits
  dsimp only
  split
  · exact hstore
  next x _ =>
  split
  case h_5 lanes traps hcheck =>
    have hb := hbody x lanes t hstore
    grind [WordRes.memOk, State.advance_mem, State.leave_mem, State.memOk_trapOr, State.memOk_wordTrap, State.endCycle_mem,
      State.reap_mem,
      State.stallWord_mem, State.parkWord_mem, State.consume_mem, State.injectResult_mem, State.memOk, State.wf_mem]
  all_goals grind [State.advance_mem, State.memOk_trapOr, State.memOk_wordTrap, State.endCycle_mem, State.reap_mem, State.parkWord_mem,
    State.consume_mem, State.memOk, State.wf_mem]

theorem State.memOk_runLanes {s : State} (w : WordSpec) (d : Nat) (f : Ctx → Nat → List Word) (h : s.memOk) : (s.runLanes w d f).memOk :=
  State.memOk_runWord w (fun _ _ _ ht => ht) h

theorem State.fillLater_mem (s : State) (x : Ctx) (act lanes : Mask) (d n : Nat) (f : Nat → List Word) :
    (s.fillLater x act lanes d n f).mem = s.mem := by
  grind [State.fillLater, State.addFill_mem, State.modGroup_mem]

theorem State.memOk_runPreds {s : State} (w : WordSpec) (p : Nat) (f : Ctx → Mask → Nat → Bool) (h : s.memOk) :
    (s.runPreds w p f).memOk :=
  State.memOk_runWord w (fun _ _ _ ht => ht) h

/-! ## Faults and their answers -/

theorem execAccessLogRecord_keepsMemory (part : Nat) (s : State) : s.KeepsMemory (execAccessLogRecord part s) := by
  refine ⟨_, rfl, fun h => ?_⟩
  grind [State.modPart_mem, State.post_mem, State.foldl_mem, State.foldl_fst_mem, State.memOk_foldl, State.memOk_foldl_fst, State.memOk,
    State.wf_mem]

theorem State.modWalk_mem (s : State) (id : Nat) (f : Walk → Walk) : (s.modWalk id f).mem = s.mem := rfl

theorem State.beginWalk_mem (s : State) (w : Walk) : (s.beginWalk w).mem = s.mem := by
  grind [State.beginWalk, State.post_mem, State.modWalk_mem]

theorem State.postNextWalk_mem (s : State) (die : Nat) : (s.postNextWalk die).mem = s.mem := by
  grind [State.postNextWalk, State.post_mem]

theorem execWalkStart_keepsMemory (walk : Nat) (s : State) : s.KeepsMemory (execWalkStart walk s) := by
  refine ⟨_, rfl, fun h => ?_⟩
  grind [State.postNextWalk_mem, State.beginWalk_mem, State.memOk, State.wf_mem]

theorem State.endWalk_mem (s : State) (w : Walk) : (s.endWalk w).mem = s.mem := by
  grind [State.endWalk, State.postNextWalk_mem]

theorem State.modRec_mem (s : State) (id : Nat) (f : FaultRec → FaultRec) : (s.modRec id f).mem = s.mem := rfl

theorem State.waitOn_mem (s : State) (page id kind engine : Nat) (w : Waiter) : (s.waitOn page id kind engine w).mem = s.mem := by
  unfold State.waitOn
  grind [State.slotAccess_mem, State.modCore_mem, State.resumeCmd_mem, State.modDie_mem, State.slotSector_mem, State.modQueue_mem]

theorem State.fault_mem (s : State) (w : Walk) (k : Stop) (ws : List Waiter) : (s.fault w k ws).mem = s.mem := by
  grind [State.fault, State.modRec_mem, State.waitOn_mem, State.postRecord_mem, State.foldl_mem, State.foldl_fst_mem]

theorem State.memOk_faultWaiters {s : State} (w : Walk) (k : Stop) (h : s.memOk) : (s.faultWaiters w k).memOk := by
  grind [State.faultWaiters, State.fault_mem, State.memOk_resume, State.memOk_foldl, State.memOk_foldl_fst, State.memOk, State.wf_mem]

theorem State.installTlb_mem (s : State) (w : Walk) (t : TlbEntry) : (s.installTlb w t).mem = s.mem := by
  unfold State.installTlb
  split <;> rfl

theorem State.memOk_completeWalk {s : State} (w : Walk) (v : Vif) (e : WalkEnv) (h : s.memOk) : (s.completeWalk w v e).memOk := by
  grind [State.completeWalk, State.countUnavailable_mem, State.endWalk_mem, State.memOk_faultWaiters, State.fault_mem, State.modWalk_mem,
    State.logAccess_mem, State.memOk_useLeaf, State.installTlb_mem, State.memOk_resume, State.memOk_foldl, State.memOk_foldl_fst,
    State.memOk, State.wf_mem]

theorem State.memOk_readTables {s : State} (w : Walk) (e : WalkEnv) (h : s.memOk) : (s.readTables w e).1.memOk := by
  grind [State.readTables, State.awaitTokens_mem, State.memOk_reachHome, State.memOk_foldl, State.memOk, State.wf_mem]

theorem execWalkComplete_keepsMemory (walk : Nat) (s : State) : s.KeepsMemory (execWalkComplete walk s) := by
  refine ⟨_, rfl, fun h => ?_⟩
  grind [State.memOk_readTables, State.memOk_completeWalk, State.beginWalk_mem, State.endWalk_mem, State.memOk, State.wf_mem]

theorem execFaultRecordWrite_keepsMemory (rid : Nat) (s : State) : s.KeepsMemory (execFaultRecordWrite rid s) := by
  refine ⟨_, rfl, fun h => ?_⟩
  grind [State.memOk_reachParts, State.memOk_ipaReach, State.memOk_devStore, State.modVif_mem, State.signal_mem, State.modRec_mem,
    State.memOk, State.wf_mem]

theorem execFresp_keepsMemory (vif : Nat) (hyp : Bool) (value : DWord) (s : State) : s.KeepsMemory (execFresp vif hyp value s) := by
  refine ⟨_, rfl, fun h => ?_⟩
  grind [State.postRecord_mem, State.modRec_mem, State.memOk, State.wf_mem]

theorem State.larderWrite_mem {s t : State} (vif kdom recId va : Nat) (bs : List Byte)
    (h : s.larderWrite vif kdom recId va bs = some t) : t.mem = s.mem := by
  grind [State.larderWrite, State.foldl_mem]

theorem State.modLarder_mem (s : State) (l : Larder) (f : Larder → Larder) : (s.modLarder l f).mem = s.mem := rfl

theorem State.memOk_larderMerge {s : State} (r : FaultRec) (l : Larder) (h : s.memOk) : (s.larderMerge r l).memOk := by
  grind [State.larderMerge, Merge.memOk, State.memOk_useLeaf, State.memOk_agentReach, State.memOk_homeStore, State.memOk_foldl,
    State.awaitTokens_mem, State.countUnavailable_mem, State.memOk, State.wf_mem]

theorem State.memOk_mergeAll {s : State} (r : FaultRec) (ls : List Larder) (h : s.memOk) : (s.mergeAll r ls).1.memOk := by
  induction ls generalizing s with
  | nil => exact h
  | cons l ls ih =>
    have hmerge := State.memOk_larderMerge r l h
    grind [State.mergeAll, Merge.memOk, State.memOk, State.wf_mem]

theorem State.larderFault_mem (s : State) (r : FaultRec) (l : Larder) (k : Stop) : (s.larderFault r l k).mem = s.mem := by
  grind [State.larderFault, State.fault_mem, State.modLarder_mem, State.modRec_mem]

theorem State.releaseSlots_mem (s : State) (r : FaultRec) : (s.releaseSlots r).mem = s.mem := rfl

theorem State.memOk_answerResolved {s : State} (r : FaultRec) (h : s.memOk) : (s.answerResolved r).memOk := by
  grind [State.answerResolved, State.memOk_mergeAll, State.modRec_mem, State.larderFault_mem, State.memOk_resume, State.memOk_wake,
    State.releaseSlots_mem, State.memOk_foldl, State.memOk_foldl_fst, State.memOk, State.wf_mem]

theorem execFaultAnswerResolved_keepsMemory (rid : Nat) (s : State) : s.KeepsMemory (execFaultAnswerResolved rid s) := by
  refine ⟨_, rfl, fun h => ?_⟩
  grind [State.memOk_answerResolved, State.memOk, State.wf_mem]

theorem State.memOk_refuseFetch {s : State} (core slot lid : Nat) (pc va : DWord) (code info : Nat) (h : s.memOk) :
    (s.refuseFetch core slot lid pc va code info).memOk := by
  grind [State.refuseFetch, State.memOk_interrupt, State.takeTrap_mem, State.memOk_foldl, State.memOk_foldl_fst, State.memOk,
    State.wf_mem]

theorem State.refuseSavedFetch_mem (s : State) (core slot lid : Nat) (pc va : DWord) (code info : Nat) :
    (s.refuseSavedFetch core slot lid pc va code info).mem = s.mem := rfl

theorem State.postTrap_mem (s : State) (g : GRef) (code info : Nat) (w : Imprecise) : (s.postTrap g code info w).mem = s.mem := by
  grind [State.postTrap, State.post_mem, State.modGroup_mem]

theorem State.refuseLdw_mem (s : State) (c : CRef) (sec fva : Nat) : (s.refuseLdw c sec fva).mem = s.mem := by
  grind [State.refuseLdw, State.postTrap_mem, State.accDone_mem, State.foldl_mem]

theorem State.refuseCmds_mem (s : State) (c : CRef) (sec status : Nat) : (s.refuseCmds c sec status).mem = s.mem := by
  grind [State.refuseCmds, State.endCmd_mem, State.foldl_mem]

theorem State.refuseMatrix_mem (s : State) (c : CRef) (sec fva : Nat) : (s.refuseMatrix c sec fva).mem = s.mem := by
  grind [State.refuseMatrix, State.failLaunch_mem]

theorem State.memOk_refuseBand {s : State} (die fill va : Nat) (h : s.memOk) : (s.refuseBand die fill va).memOk := by
  grind [State.refuseBand, State.modDie_mem, State.modBand_mem, State.postTrap_mem, State.memOk_bandLeft, State.memOk_resumeDie,
    State.resumePhase_mem, State.modCohort_mem, State.memOk_foldl, State.memOk_foldl_fst, State.memOk, State.wf_mem]

theorem State.memOk_refuse {s : State} (r : FaultRec) (w : Waiter) (h : s.memOk) : (s.refuse r w).memOk := by
  unfold State.refuse
  grind [State.post_mem, State.refuseSavedFetch_mem, State.memOk_refuseFetch, State.modCore_mem, State.endCmd_mem, State.modCmd_mem,
    State.memOk_refuseBand, State.modCohort_mem, State.refuseMatrix_mem, State.refuseCmds_mem, State.refuseLdw_mem, State.failLaunch_mem,
    State.modQueue_mem, State.memOk, State.wf_mem]

theorem State.refuseSlots_mem (s : State) (r : FaultRec) : (s.refuseSlots r).mem = s.mem := rfl

theorem State.larderDiscard_mem (s : State) (r : FaultRec) : (s.larderDiscard r).mem = s.mem := by
  grind [State.larderDiscard, State.post_mem, State.foldl_mem]

theorem State.memOk_answerRefused {s : State} (r : FaultRec) (h : s.memOk) : (s.answerRefused r).memOk := by
  grind [State.answerRefused, State.larderDiscard_mem, State.refuseSlots_mem, State.post_mem, State.memOk_refuse, State.memOk_foldl,
    State.memOk_foldl_fst, State.memOk, State.wf_mem]

theorem execFaultAnswerRefused_keepsMemory (rid : Nat) (s : State) : s.KeepsMemory (execFaultAnswerRefused rid s) := by
  refine ⟨_, rfl, fun h => ?_⟩
  grind [State.memOk_answerRefused, State.memOk, State.wf_mem]

theorem State.memOk_deliverRefusal {s : State} (g : GRef) (h : s.memOk) : (s.deliverRefusal g).memOk := by
  grind [State.deliverRefusal, State.modGroup_mem, State.memOk_interrupt, State.takeTrap_mem, State.memOk, State.wf_mem]

theorem State.dropEntries_mem (s : State) (d : InvDesc) : (s.dropEntries d).mem = s.mem := rfl

theorem State.invalidate_mem (s : State) (d : InvDesc) : (s.invalidate d).mem = s.mem := by
  grind [State.invalidate, State.post_mem, State.dropEntries_mem]

theorem execInvalidateRange_keepsMemory (d : InvDesc) (s : State) : s.KeepsMemory (execInvalidateRange d s) := by
  refine ⟨_, rfl, fun h => ?_⟩
  grind [State.invalidate_mem, State.memOk, State.wf_mem]

theorem execInvalidateContext_keepsMemory (d : InvDesc) (s : State) : s.KeepsMemory (execInvalidateContext d s) := by
  refine ⟨_, rfl, fun h => ?_⟩
  grind [State.invalidate_mem, State.memOk, State.wf_mem]

theorem State.endInv_mem (s : State) (i : Inval) : (s.endInv i).mem = s.mem := by
  grind [State.endInv, State.post_mem]

theorem State.memOk_readInv {s : State} (i : Inval) (at_ : DWord) (h : s.memOk) : (s.readInv i at_).memOk := by
  obtain ⟨reach, hreach⟩ : ∃ f, f = State.ipaReach := ⟨_, rfl⟩
  have hread : ∀ v a n, (reach s v a n false).1.memOk := by
    rw [hreach]
    exact fun v a n => State.memOk_ipaReach v a n false h
  rw [State.readInv, ← hreach]
  grind [State.endInv_mem, State.post_mem, State.dropEntries_mem, State.memOk, State.wf_mem]

theorem State.memOk_invreq {s : State} (vif : Nat) (value : DWord) (h : s.memOk) : (s.invreq vif value).memOk := by
  grind [State.invreq, State.memOk_readInv, State.memOk, State.wf_mem]

theorem execInvreq_keepsMemory (vif : Nat) (value : DWord) (s : State) : s.KeepsMemory (execInvreq vif value s) := by
  refine ⟨_, rfl, fun h => ?_⟩
  grind [State.memOk_invreq, State.memOk, State.wf_mem]

theorem State.memOk_cleanDomain {s : State} (v : Vif) (h : s.memOk) : (s.cleanDomain v).memOk := by
  grind [State.cleanDomain, State.memOk_cleanL1Line, State.memOk_cleanRdcLine, State.memOk_foldl, State.memOk, State.wf_mem]

theorem State.memOk_finishInv {s : State} (i : Inval) (v : Vif) (h : s.memOk) : (s.finishInv i v).memOk := by
  grind [State.finishInv, State.memOk_cleanDomain, State.requestWalk_mem, State.memOk_reachParts, State.endInv_mem, State.memOk_devStore,
    State.memOk, State.wf_mem]

theorem execInvalidationDone_keepsMemory (inv : Nat) (s : State) : s.KeepsMemory (execInvalidationDone inv s) := by
  refine ⟨_, rfl, fun h => ?_⟩
  grind [State.memOk_readInv, State.memOk_finishInv, State.endInv_mem, State.memOk, State.wf_mem]

theorem execPlacementCountThreshold_keepsMemory (page : Nat) (s : State) : s.KeepsMemory (execPlacementCountThreshold page s) := by
  refine ⟨_, rfl, fun h => ?_⟩
  grind [State.modDie_mem, State.send_mem, State.memOk, State.wf_mem]

/-! ## Storage -/

theorem State.writeBlock_mem (s : State) (engine nsid lba kdom : Nat) (bs : List Byte) :
    (s.writeBlock engine nsid lba kdom bs).mem = s.mem := by
  unfold State.writeBlock
  split <;> rfl

theorem State.writeBlocks_mem (s : State) (engine nsid lba n kdom : Nat) (bs : List Byte) :
    (s.writeBlocks engine nsid lba n kdom bs).mem = s.mem := by
  grind [State.writeBlocks, State.writeBlock_mem, State.foldl_mem]

theorem State.queuePage_mem (s : State) (e : EngineId) (io : DriveIo) : (s.queuePage e io).mem = s.mem := by
  grind [State.queuePage, State.post_mem, State.modEngine_mem]

theorem State.submit_mem (s : State) (e : EngineId) (io : DriveIo) : (s.submit e io).mem = s.mem := by
  grind [State.submit, State.modEngine_mem]

theorem State.postDrive_mem (s : State) (work : DriveWork) : (s.postDrive work).mem = s.mem := by
  unfold State.postDrive
  grind [State.postWork_mem, State.post_mem]

theorem State.modPool_mem (s : State) (vif : Nat) (f : Pool → Pool) : (s.modPool vif f).mem = s.mem := rfl

theorem State.wakeStorage_mem (s : State) (vif : Nat) : (s.wakeStorage vif).mem = s.mem := by
  grind [State.wakeStorage, State.post_mem, State.foldl_mem]

theorem execFlist_keepsMemory (vif : Nat) (value : DWord) (s : State) : s.KeepsMemory (execFlist vif value s) := by
  obtain ⟨reach, hreach⟩ : ∃ f, f = State.ipaReach := ⟨_, rfl⟩
  obtain ⟨keep, hkeep⟩ : ∃ f, f = State.keepFrames := ⟨_, rfl⟩
  have hread : s.memOk → ∀ v a n, (reach s v a n false).1.memOk := fun h => by
    rw [hreach]
    exact fun v a n => State.memOk_ipaReach v a n false h
  rw [execFlist, ← hreach, ← hkeep]
  refine ⟨_, rfl, fun h => ?_⟩
  grind [State.wakeStorage_mem, State.modVif_mem, State.memOk, State.wf_mem]

theorem execStorageFrameTaken_keepsMemory (rid : Nat) (s : State) : s.KeepsMemory (execStorageFrameTaken rid s) := by
  refine ⟨_, rfl, fun h => ?_⟩
  grind [State.modPool_mem, State.modRec_mem, State.post_mem, State.queuePage_mem, State.postSweeps_mem, State.memOk, State.wf_mem]

theorem State.memOk_storageResolve {s : State} (v : Vif) (r : FaultRec) (ipa : Nat) (h : s.memOk) : (s.storageResolve v r ipa).memOk := by
  grind [State.storageResolve, State.memOk_homeStore, State.modPool_mem, State.wakeStorage_mem, State.memOk_answerResolved, State.memOk,
    State.wf_mem]

theorem execStoragePageReadDone_keepsMemory (rid : Nat) (ok : Bool) (s : State) : s.KeepsMemory (execStoragePageReadDone rid ok s) := by
  refine ⟨_, rfl, fun h => ?_⟩
  obtain ⟨reach, hreach⟩ : ∃ f, f = State.ipaReach := ⟨_, rfl⟩
  have hread : ∀ v a n, (reach s v a n true).1.memOk := by
    rw [hreach]
    exact fun v a n => State.memOk_ipaReach v a n true h
  rw [← hreach]
  grind [State.memOk_storageResolve, State.leaveDrive_mem, State.memOk_devStore, State.queuePage_mem, State.modRec_mem, State.modPool_mem,
    State.memOk_answerRefused, State.wakeStorage_mem, State.memOk, State.wf_mem]

theorem State.dropPage_mem (s : State) (v : Vif) (page : Nat) : (s.dropPage v page).mem = s.mem := rfl

theorem State.memOk_invalidatePage {s : State} (v : Vif) (page : Nat) (h : s.memOk) : (s.invalidatePage v page).memOk := by
  grind [State.invalidatePage, State.memOk_cleanDomain, State.dropPage_mem, State.memOk, State.wf_mem]

theorem State.memOk_rereadPage {s t : State} (vif pa : Nat) (rec : ErrRec) (hs : s.memOk) (h : s.rereadPage vif pa rec = some t) :
    t.memOk := by
  grind [State.rereadPage, State.dropPage_mem, State.memOk_homeStore, State.modPool_mem, State.logError_mem, State.memOk, State.wf_mem]

theorem State.memOk_sweepFrame {s : State} (v : Vif) (f : PoolFrame) (h : s.memOk) : (s.sweepFrame v f).1.memOk := by
  grind [State.sweepFrame, State.memOk_invalidatePage, State.memOk_homeStore, State.modPool_mem, State.queuePage_mem, State.memOk,
    State.wf_mem]

theorem execReclaimSweep_keepsMemory (vif engine : Nat) (s : State) : s.KeepsMemory (execReclaimSweep vif engine s) := by
  refine ⟨_, rfl, fun h => ?_⟩
  split
  · exact h
  next v _ =>
  extract_lets hand order step
  have hstep : ∀ (r : State × Bool × Nat) (ipa : Nat), r.1.memOk → (step r ipa).1.memOk := fun r ipa hr => by
    grind [State.memOk_sweepFrame]
  have hsweep : (order.foldl step (s, false, 0)).1.memOk := State.memOk_foldl_fst hstep order h
  generalize order.foldl step (s, false, 0) = r at hsweep ⊢
  obtain ⟨t, moved, n⟩ := r
  have ht : t.memOk := hsweep
  grind [State.modPool_mem, State.wakeStorage_mem, State.post_mem, State.memOk, State.wf_mem]

theorem execReclaimWritebackDone_keepsMemory (vif ipa : Nat) (ok : Bool) (s : State) :
    s.KeepsMemory (execReclaimWritebackDone vif ipa ok s) := by
  refine ⟨_, rfl, fun h => ?_⟩
  obtain ⟨reach, hreach⟩ : ∃ f, f = State.ipaReach := ⟨_, rfl⟩
  have hread : ∀ v a n, (reach s v a n false).1.memOk := by
    rw [hreach]
    exact fun v a n => State.memOk_ipaReach v a n false h
  rw [← hreach]
  split
  · exact h
  next v _ =>
  split
  · exact h
  next f _ =>
  split
  · exact h
  next e _ =>
  extract_lets b work
  split
  · exact h
  split
  · have hr := hread v ipa 65536
    split
    next t hreach =>
      rw [hreach] at hr
      exact hr
    next t ps hreach =>
      rw [hreach] at hr
      grind [State.leaveDrive_mem, State.modPool_mem, State.writeBlocks_mem, State.postSweeps_mem, State.wakeStorage_mem, State.memOk,
        State.wf_mem]
  split
  · rw [State.memOk, State.queuePage_mem, State.leaveDrive_mem, State.modPool_mem]
    exact h
  · rw [State.memOk, State.logError_mem, State.leaveDrive_mem, State.modPool_mem]
    exact h

/-! ## Fetches, votes and ends -/

theorem State.startFetches_mem (s : State) (core slot : Nat) (l : List (Nat × DWord)) : (s.startFetches core slot l).mem = s.mem := by
  grind [State.startFetches, State.post_mem, State.modCore_mem, State.foldl_mem]

theorem State.headerTrap_mem (s : State) (core : Nat) (g : GRef) (t : LaneSet) (k : Clause) (code info : Nat) :
    (s.headerTrap core g t k code info).mem = s.mem := by
  grind [State.headerTrap, State.modCore_mem, State.takeTrap_mem]

theorem State.endYields_mem (s : State) (core slot : Nat) (g : GRef) : (s.endYields core slot g).mem = s.mem := rfl

theorem State.vote_mem (s : State) (core slot : Nat) : (s.vote core slot).mem = s.mem := by
  grind [State.vote, State.startFetches_mem, State.headerTrap_mem, State.endYields_mem, State.modGroup_mem]

theorem State.sramError_mem (s : State) (e : SramError) : (s.sramError e).mem = s.mem := by
  unfold State.sramError
  grind [State.poisonUnit_mem, State.modCohort_mem, State.restartGroup_mem, State.logError_mem, State.failLaunch_mem, State.foldl_mem,
    State.foldl_fst_mem]

theorem execSlotVote_keepsMemory (core slot : Nat) (s : State) : s.KeepsMemory (execSlotVote core slot s) := by
  refine ⟨_, rfl, fun h => ?_⟩
  grind [State.sramError_mem, State.vote_mem, State.memOk, State.wf_mem]

theorem State.modFetch_mem (s : State) (core slot lid : Nat) (pc : DWord) (f : Option (Fetch → Fetch)) :
    (s.modFetch core slot lid pc f).mem = s.mem := rfl

theorem State.memOk_fetchPoison {s : State} (core slot lid : Nat) (l : Launch) (c : Cohort) (pc : DWord) (kind : Poison) (pa : Nat)
    (h : s.memOk) : (s.fetchPoison core slot lid l c pc kind pa).memOk := by
  grind [State.fetchPoison, State.memOk_rereadPage, State.post_mem, State.modFetch_mem, State.consume_mem, State.memOk, State.wf_mem]

theorem State.installClause_mem (s : State) (core slot vif lid : Nat) (pc hdr : DWord) (words : List DWord) (bad : Bool) :
    (s.installClause core slot vif lid pc hdr words bad).mem = s.mem := by
  grind [State.installClause, State.modCore_mem, State.modFetch_mem, State.checkDeadlock_mem, State.foldl_mem]

theorem State.fetchBlocked_mem {s t : State} (q : Req) (pas : List Nat) (h : s.fetchBlocked q pas = some t) : t.mem = s.mem := by
  grind [State.fetchBlocked, State.countUnavailable_mem, State.awaitTokens_mem]

theorem State.memOk_fetchReach {s : State} (q : Req) (again : Bool) (pas : List Nat) (h : s.memOk) : (s.fetchReach q again pas).memOk :=
    by
  grind [State.fetchReach, State.memOk_rdcFetch, State.memOk_reachHome, State.memOk_foldl, State.memOk, State.wf_mem]

theorem State.memOk_fetchArrives {s : State} (core slot lid : Nat) (f : Fetch) (l : Launch) (c : Cohort) (noise : Nat)
    (h : s.memOk) : (s.fetchArrives core slot lid f l c noise).memOk := by
  unfold State.fetchArrives
  extract_lets q pc ask
  split
  · rw [State.memOk, State.requestWalk_mem]
    exact h
  next hp _ =>
  extract_lets hdrOf n
  clear_value hdrOf n
  split
  · rw [State.memOk, State.requestWalk_mem]
    exact h
  next bp _ =>
  split
  next hblocked =>
    rw [State.memOk, State.fetchBlocked_mem _ _ hblocked]
    exact h
  extract_lets t
  have ht : t.memOk := State.memOk_fetchReach _ _ _ h
  clear_value t
  generalize List.findSome? _ _ = bad
  split
  · exact State.memOk_fetchPoison _ _ _ _ _ _ _ _ ht
  generalize noisy _ _ = words
  split
  · rw [State.memOk, State.installClause_mem]
    exact ht
  split
  · rw [State.memOk, State.installClause_mem]
    exact ht
  · rw [State.memOk, State.post_mem, State.modFetch_mem]
    exact ht

theorem execClauseFetchDone_keepsMemory (core slot lid pc noise : Nat) (s : State) : s.KeepsMemory
    (execClauseFetchDone core slot lid pc noise s) := by
  refine ⟨_, rfl, fun h => ?_⟩
  grind [State.modFetch_mem, State.memOk_fetchArrives, State.memOk, State.wf_mem]

theorem State.memOk_landReg {s : State} (g : GRef) (f : Fill) (h : s.memOk) : (s.landReg g f).memOk := by
  grind [State.landReg, State.modGroup_mem, State.consume_mem, State.memOk_wakeOne, State.memOk, State.wf_mem]

theorem execRegisterFill_keepsMemory (g : GRef) (fill : Nat) (s : State) : s.KeepsMemory (execRegisterFill g fill s) := by
  refine ⟨_, rfl, fun h => ?_⟩
  grind [State.memOk_landReg, State.memOk, State.wf_mem]

theorem State.replayClause_mem (s : State) (g : GRef) (i : Issue) (k : DWord) : (s.replayClause g i k).mem = s.mem := rfl

theorem State.secondMismatch_mem (s : State) (g : GRef) (l : Launch) (c : Cohort) (i : Issue) : (s.secondMismatch g l c i).mem = s.mem :=
    by
  grind [State.secondMismatch, State.logError_mem, State.modGroup_mem, State.modLaunch_mem, State.modCore_mem, State.startSave_mem,
    State.failLaunch_mem, State.foldl_mem]

theorem execCheckedCompare_keepsMemory (g : GRef) (mismatch : Bool) (s : State) : s.KeepsMemory (execCheckedCompare g mismatch s) := by
  refine ⟨_, rfl, fun h => ?_⟩
  grind [State.rerunClause_mem, State.mem_retireClause, State.memOk_sendAll, State.secondMismatch_mem, State.replayClause_mem,
    State.logError_mem, State.memOk, State.wf_mem]

theorem execCheckedWaitExpiry_keepsMemory (g : GRef) (s : State) : s.KeepsMemory (execCheckedWaitExpiry g s) := by
  refine ⟨_, rfl, fun h => ?_⟩
  grind [State.post_mem, State.modGroup_mem, State.memOk, State.wf_mem]

theorem State.cycTo_mem (s : State) (core n : Nat) : (s.cycTo core n).mem = s.mem := rfl

theorem execSpinDetectLower_keepsMemory (g : GRef) (s : State) : s.KeepsMemory (execSpinDetectLower g s) := by
  refine ⟨_, rfl, fun h => ?_⟩
  grind [State.post_mem, State.modGroup_mem, State.memOk, State.wf_mem]

theorem execSpinReleaseTimeout_keepsMemory (g : GRef) (s : State) : s.KeepsMemory (execSpinReleaseTimeout g s) := by
  refine ⟨_, rfl, fun h => ?_⟩
  grind [State.modGroup_mem, State.cycTo_mem, State.memOk, State.wf_mem]

theorem execSleepExpiry_keepsMemory (g : GRef) (s : State) : s.KeepsMemory (execSleepExpiry g s) := by
  refine ⟨_, rfl, fun h => ?_⟩
  grind [State.modRegs_mem, State.cycTo_mem, State.memOk, State.wf_mem]

theorem State.memOk_deliverPosted {s : State} (g : GRef) (x : Group) (h : s.memOk) : (s.deliverPosted g x).memOk := by
  unfold State.deliverPosted
  grind [State.modGroup_mem, State.memOk_interrupt, State.takeTrap_mem, State.tick_mem, State.modRegs_mem, State.memOk, State.wf_mem]

theorem execAsyncTrapDelivery_keepsMemory (g : GRef) (s : State) : s.KeepsMemory (execAsyncTrapDelivery g s) := by
  refine ⟨_, rfl, fun h => ?_⟩
  grind [State.memOk_deliverRefusal, State.memOk_wakeOne, State.post_mem, State.memOk_deliverPosted, State.memOk, State.wf_mem]

end Sys2Proof.Machine
end

section
/-!
PROOF. The memory under the events of registers, of the memory system and of the engines.
-/
namespace Sys2Proof.Machine

/-! ## Fills -/

theorem State.answerRegister_mem (s : State) (r : RegName) : (s.answerRegister r).mem = s.mem := by
  unfold State.answerRegister
  split <;> rfl

/-! ## Memory events -/

theorem State.memOk_rereadFor {s t : State} (g : GRef) (l : Launch) (c : Cohort) (a : Access) (hs : s.memOk)
    (h : s.rereadFor g l c a = some t) : t.memOk := by
  unfold State.rereadFor at h
  split at h
  · cases h
  obtain ⟨pa, _, hpa⟩ := List.exists_of_findSome?_eq_some h
  grind [→ State.memOk_rereadPage]

theorem State.modAccess_mem (s : State) (g : GRef) (id : Nat) (f : Access → Access) : (s.modAccess g id f).mem = s.mem := rfl

theorem State.memOk_tryHome {s : State} (g : GRef) (id : Nat) (reread : Bool) (h : s.memOk) : (s.tryHome g id reread).memOk := by
  unfold State.tryHome
  grind [State.memOk_wakeOne, State.memOk_wake, State.memOk_performRange, State.post_mem, State.modAccess_mem,
    State.countUnavailable_mem, State.awaitTokens_mem, → State.memOk_rereadFor, State.memOk_performGlobal, State.memOk, State.wf_mem]

theorem execWaitcReread_keepsMemory (g : GRef) (acc : Nat) (s : State) : s.KeepsMemory (execWaitcReread g acc s) := by
  refine ⟨_, rfl, fun h => ?_⟩
  grind [State.memOk_tryHome, State.modAccess_mem, State.memOk, State.wf_mem]

theorem State.memOk_performOuter {s : State} (o : Outer) (r : HomeReq) (h : s.memOk) : (s.performOuter o r).memOk := by
  unfold State.performOuter
  grind [State.countAccess_mem, State.memOk_wake, State.send_mem, State.memOk_homeStore, State.memOk_homeTouch, State.memOk, State.wf_mem]

theorem State.memOk_performAbroad {s : State} (o : Outer) (r : HomeReq) (h : s.memOk) : (s.performAbroad o r).memOk := by
  unfold State.performAbroad
  grind [State.memOk_wake, State.memOk_homeWrite, State.memOk, State.wf_mem]

theorem State.memOk_outerHome {s : State} (o : Outer) (r : HomeReq) (h : s.memOk) : (s.outerHome o r).memOk := by
  grind [State.outerHome, State.memOk_performAbroad, State.send_mem, State.countUnavailable_mem, State.awaitTokens_mem,
    State.memOk_performOuter, State.logAccess_mem, State.memOk, State.wf_mem]

theorem execHomeSliceRequest_keepsMemory (r : HomeReq) (s : State) : s.KeepsMemory (execHomeSliceRequest r s) := by
  refine ⟨_, rfl, fun h => ?_⟩
  grind [State.memOk_tryHome, State.answerRegister_mem, State.memOk_outerHome, State.memOk, State.wf_mem]

theorem execHomeUnavailableRetry_keepsMemory (r : HomeReq) (s : State) : s.KeepsMemory (execHomeUnavailableRetry r s) := by
  refine ⟨_, rfl, fun h => ?_⟩
  grind [State.memOk_wakeOne, State.modAccess_mem, State.memOk, State.wf_mem]

theorem State.awaitRelease_mem (s : State) (q : Req) : (s.awaitRelease q).mem = s.mem := by
  grind [State.awaitRelease, State.awaitTokens_mem, State.foldl_mem]

theorem State.afterRelease_mem (s : State) (g : GRef) (c : Cohort) (a : Access) (lanes : Mask) :
    (s.afterRelease g c a lanes).mem = s.mem := by
  grind [State.afterRelease, State.accDone_mem, State.acquireActions_mem, State.modGroup_mem, State.modCohort_mem, State.arriveBarb_mem,
    State.post_mem]

theorem execReleaseActionsDone_keepsMemory (g : GRef) (acc : Nat) (s : State) : s.KeepsMemory (execReleaseActionsDone g acc s) := by
  refine ⟨_, rfl, fun h => ?_⟩
  grind [State.awaitRelease_mem, State.memOk_releaseActions, State.memOk_wake, State.markReleased_mem, State.afterRelease_mem,
    State.memOk, State.wf_mem]

theorem State.memOk_l1Shrink {s : State} (core : Nat) (h : s.memOk) : (s.l1Shrink core).memOk := by
  grind [State.l1Shrink, State.memOk_evictL1, State.memOk_foldl, State.memOk, State.wf_mem]

theorem State.modStack_mem (s : State) (no : Nat) (f : Stack → Stack) : (s.modStack no f).mem = s.mem := rfl

theorem State.corrected_mem (s : State) (pa : Nat) : (s.corrected pa).mem = s.mem := by
  grind [State.corrected, State.modStack_mem, State.logError_mem]

theorem State.sectorOutcome_mem (s : State) (pa : Nat) (k : SectorCheck) : (s.sectorOutcome pa k).mem = s.mem := by
  grind [State.sectorOutcome, State.modSector_mem, State.logError_mem, State.corrected_mem]

theorem execHbmSectorRead_keepsMemory (sector : Nat) (first second : SectorCheck) (s : State) : s.KeepsMemory
    (execHbmSectorRead sector first second s) := by
  refine ⟨_, rfl, fun h => ?_⟩
  grind [State.sectorOutcome_mem, State.memOk, State.wf_mem]

theorem execPatrolScrubRead_keepsMemory (stack : Nat) (chk : SectorCheck) (s : State) : s.KeepsMemory
    (execPatrolScrubRead stack chk s) := by
  refine ⟨_, rfl, fun h => ?_⟩
  grind [State.sectorOutcome_mem, State.modStack_mem, State.memOk, State.wf_mem]

theorem execRegulatorRefill_keepsMemory (stack : Nat) (s : State) : s.KeepsMemory (execRegulatorRefill stack s) := by
  refine ⟨_, rfl, fun h => ?_⟩
  grind [State.memOk_retry, State.modStack_mem, State.memOk, State.wf_mem]

theorem execRafterAllowanceRefill_keepsMemory (port : Nat) (s : State) : s.KeepsMemory (execRafterAllowanceRefill port s) := by
  refine ⟨_, rfl, fun h => ?_⟩
  grind [State.memOk_retry, State.flushOut_mem, State.memOk, State.wf_mem]

theorem State.memOk_landFilling {s : State} (r : CRef) (core e : Nat) (f : Filling) (h : s.memOk) : (s.landFilling r core e f).memOk := by
  grind [State.landFilling, State.memOk_wakeOne, State.modCohort_mem, State.postWork_mem, State.post_mem, State.memOk_foldl,
    State.memOk_foldl_fst, State.memOk, State.wf_mem]

theorem State.memOk_fillSector {s : State} (r : CRef) (l : Launch) (c : Cohort) (e sec : Nat) (h : s.memOk) :
    (s.fillSector r l c e sec).memOk := by
  unfold State.fillSector
  extract_lets m q va
  split
  · rw [State.memOk, State.requestWalk_mem]
    exact h
  next t _ =>
  extract_lets pa
  split
  · rw [State.memOk, State.countUnavailable_mem]
    exact h
  split
  · exact h
  split
  · rw [State.memOk, State.awaitTokens_mem]
    exact h
  next again _ _ _ =>
  have hagain : ∀ u, again = some u → u.memOk := fun u hu => by
    obtain ⟨p, _, hp⟩ := List.exists_of_findSome?_eq_some hu
    split at hp
    · exact State.memOk_rereadPage _ _ _ h hp
    · cases hp
  clear_value again
  split
  next u =>
    rw [State.memOk, State.post_mem]
    exact hagain u rfl
  · rw [State.memOk, State.post_mem]
    exact State.memOk_readSector _ _ _ _ _ _ h

theorem execFirstTouchFillDone_keepsMemory (r : CRef) (entry sector : Nat) (s : State) : s.KeepsMemory
    (execFirstTouchFillDone r entry sector s) := by
  refine ⟨_, rfl, fun h => ?_⟩
  grind [State.memOk_fillSector, State.memOk_landFilling, State.memOk, State.wf_mem]

/-! ## Engine events -/

theorem State.unqueue_mem (s : State) (k : Cmd) : (s.unqueue k).mem = s.mem := by
  grind [State.unqueue, State.modEngine_mem]

theorem State.toDrive_mem (s : State) (k : Cmd) : (s.toDrive k).mem = s.mem := by
  grind [State.toDrive, State.submit_mem]

theorem State.startCmd_mem (s : State) (k : Cmd) : (s.startCmd k).mem = s.mem := by
  grind [State.startCmd, State.unqueue_mem, State.endCmd_mem, State.modCmd_mem, State.toDrive_mem, State.postWork_mem]

theorem State.submitPage_mem (s : State) (e : EngineId) (io : DriveIo) : (s.submitPage e io).mem = s.mem := by
  grind [State.submitPage, State.post_mem, State.postDrive_mem, State.submit_mem, State.modEngine_mem]

theorem execEngineCommandStart_keepsMemory (e : EngineId) (s : State) : s.KeepsMemory (execEngineCommandStart e s) := by
  refine ⟨_, rfl, fun h => ?_⟩
  grind [State.submitPage_mem, State.post_mem, State.startCmd_mem, State.memOk, State.wf_mem]

theorem State.joinRec_mem (s : State) (k : Cmd) (id : Nat) : (s.joinRec k id).mem = s.mem := rfl

theorem State.stopAt_mem (s : State) (k : Cmd) (va : Nat) (write : Bool) (a : PageAns) : (s.stopAt k va write a).mem = s.mem := by
  unfold State.stopAt
  grind [State.countUnavailable_mem, State.joinRec_mem, State.modCmd_mem, State.requestWalk_mem]

theorem State.engineStop_mem {s t : State} (k : Cmd) (ts : List Touch) (h : s.engineStop k ts = some t) : t.mem = s.mem := by
  grind [State.engineStop, State.stopAt_mem, State.foldl_mem, State.foldl_fst_mem]

theorem State.logTouches_mem {s t : State} (k : Cmd) (ts : List Touch) (h : s.logTouches k ts = some t) : t.mem = s.mem := by
  obtain ⟨u, hu, ht⟩ := Option.bind_eq_some_iff.mp h
  exact (State.logPages_mem _ _ _ _ _ _ _ ht).trans (State.logPages_mem _ _ _ _ _ _ _ hu)

theorem State.tokenStop_mem {s t : State} (k : Cmd) (ts : List Touch) (h : s.tokenStop k ts = some t) : t.mem = s.mem := by
  grind [State.tokenStop, State.awaitTokens_mem]

theorem State.memOk_engineStore {s : State} (k : Cmd) (q : Req) (pa : Nat) (bs : List Byte) (h : s.memOk) :
    (s.engineStore k q pa bs).memOk := by
  grind [State.engineStore, State.memOk_agentStore, State.memOk_homeStore]

theorem State.memOk_engineRead {s : State} (k : Cmd) (va n policy : Nat) (h : s.memOk) : (s.engineRead k va n policy).1.memOk := by
  grind [State.engineRead, State.memOk_agentReach, State.memOk_foldl, State.memOk_foldl_fst, State.memOk, State.wf_mem]

theorem State.markPoison_mem (s : State) (pa : Nat) (bs : List PByte) : (s.markPoison pa bs).mem = s.mem := by
  grind [State.markPoison, State.modSector_mem, State.foldl_mem]

theorem State.getD_larderWrite_mem (s : State) (vif kdom recId va : Nat) (bs : List Byte) :
    ((s.larderWrite vif kdom recId va bs).getD s).mem = s.mem := by
  cases h : s.larderWrite vif kdom recId va bs with
  | none => rfl
  | some t => exact State.larderWrite_mem vif kdom recId va bs h

theorem State.memOk_engineWrite {s : State} (k : Cmd) (va policy : Nat) (bs : List PByte) (h : s.memOk) :
    (s.engineWrite k va policy bs).memOk := by
  unfold State.engineWrite
  split
  · exact h
  refine State.memOk_foldl (fun t p ht => ?_) _ h
  extract_lets part
  split
  · rw [State.memOk, State.modRec_mem, State.getD_larderWrite_mem]
    exact ht
  · rw [State.memOk, State.markPoison_mem]
    exact State.memOk_engineStore _ _ _ _ (State.memOk_agentReach _ _ _ _ ht)
  · exact ht

theorem State.memOk_scratchStop {s t : State} (l : Launch) (k : Cmd) (hs : s.memOk) (h : s.scratchStop l k = some t) : t.memOk := by
  grind [State.scratchStop, State.memOk_startFills, State.memOk, State.wf_mem]

theorem State.memOk_scratchWrite {s : State} (k : Cmd) (o : Nat) (bs : List PByte) (h : s.memOk) : (s.scratchWrite k o bs).memOk := by
  grind [State.scratchWrite, State.memOk_wakeOne, State.modCohort_mem, State.memOk, State.wf_mem]

theorem State.memOk_engineDo {s : State} (id : Nat) (ts : Launch → Cmd → List Touch) {f : Launch → Cmd → State → State}
    (hf : ∀ l k t, t.memOk → (f l k t).memOk) (h : s.memOk) : (s.engineDo id ts f).memOk := by
  unfold State.engineDo
  split
  · exact h
  split
  · exact h
  split
  · rw [State.memOk, State.endCmd_mem]
    exact h
  split
  next hstop =>
    rw [State.memOk, State.engineStop_mem _ _ hstop]
    exact h
  split
  next hstop => exact State.memOk_scratchStop _ _ h hstop
  split
  next hstop =>
    rw [State.memOk, State.tokenStop_mem _ _ hstop]
    exact h
  split
  · exact h
  next l _ _ _ _ _ _ _ _ t hlog =>
  refine State.memOk_wake (hf _ _ _ ?_)
  rw [State.memOk, State.logTouches_mem _ _ hlog]
  exact h

theorem State.memOk_readEnd {s : State} (k : Cmd) (e : CopyEnd) (n : Nat) (h : s.memOk) : (s.readEnd k e n).1.memOk := by
  grind [State.readEnd, State.memOk_engineRead]

theorem State.memOk_writeEnd {s : State} (k : Cmd) (e : CopyEnd) (bs : List PByte) (h : s.memOk) : (s.writeEnd k e bs).memOk := by
  grind [State.writeEnd, State.memOk_scratchWrite, State.memOk_engineWrite, State.memOk, State.wf_mem]

theorem State.memOk_copyWork {s : State} (l : Launch) (k : Cmd) (h : s.memOk) : (s.copyWork l k).memOk := by
  grind [State.copyWork, State.memOk_readEnd, State.memOk_writeEnd, State.endCmd_mem, State.memOk_foldl, State.memOk_foldl_fst,
    State.memOk, State.wf_mem]

theorem execCopyRows_keepsMemory (cmd : Nat) (s : State) : s.KeepsMemory (execCopyRows cmd s) := by
  refine ⟨_, rfl, fun h => ?_⟩
  grind [State.memOk_engineDo, State.memOk_copyWork, State.memOk, State.wf_mem]

theorem State.memOk_fillWork {s : State} (l : Launch) (k : Cmd) (h : s.memOk) : (s.fillWork l k).memOk := by
  grind [State.fillWork, State.endCmd_mem, State.memOk_writeEnd, State.memOk_foldl, State.memOk_foldl_fst, State.memOk, State.wf_mem]

theorem execFillRows_keepsMemory (cmd : Nat) (s : State) : s.KeepsMemory (execFillRows cmd s) := by
  refine ⟨_, rfl, fun h => ?_⟩
  grind [State.memOk_engineDo, State.memOk_fillWork, State.memOk, State.wf_mem]

theorem State.memOk_loadBox {s : State} (l : Launch) (k : Cmd) (h : s.memOk) : (s.loadBox l k).memOk := by
  grind [State.loadBox, State.memOk_engineRead, State.memOk_scratchWrite, State.endCmd_mem, State.memOk_foldl, State.memOk_foldl_fst,
    State.memOk, State.wf_mem]

theorem execTstreamLoad_keepsMemory (cmd : Nat) (s : State) : s.KeepsMemory (execTstreamLoad cmd s) := by
  refine ⟨_, rfl, fun h => ?_⟩
  grind [State.memOk_engineDo, State.memOk_loadBox, State.memOk, State.wf_mem]

theorem State.memOk_storeBox {s : State} (l : Launch) (k : Cmd) (h : s.memOk) : (s.storeBox l k).memOk := by
  grind [State.storeBox, State.memOk_engineWrite, State.endCmd_mem, State.memOk_foldl, State.memOk_foldl_fst, State.memOk, State.wf_mem]

theorem execTstreamStore_keepsMemory (cmd : Nat) (s : State) : s.KeepsMemory (execTstreamStore cmd s) := by
  refine ⟨_, rfl, fun h => ?_⟩
  grind [State.memOk_engineDo, State.memOk_storeBox, State.memOk, State.wf_mem]

theorem State.memOk_storageWork {s : State} (l : Launch) (k : Cmd) (ok : Bool) (h : s.memOk) : (s.storageWork l k ok).memOk := by
  grind [State.storageWork, State.endCmd_mem, State.leaveDrive_mem, State.memOk_engineWrite, State.memOk_engineRead,
    State.writeBlocks_mem, State.memOk, State.wf_mem]

theorem execStorageRead_keepsMemory (cmd : Nat) (ok : Bool) (s : State) : s.KeepsMemory (execStorageRead cmd ok s) := by
  refine ⟨_, rfl, fun h => ?_⟩
  grind [State.memOk_engineDo, State.memOk_storageWork, State.memOk, State.wf_mem]

theorem execStorageWrite_keepsMemory (cmd : Nat) (ok : Bool) (s : State) : s.KeepsMemory (execStorageWrite cmd ok s) := by
  refine ⟨_, rfl, fun h => ?_⟩
  grind [State.memOk_engineDo, State.memOk_storageWork, State.memOk, State.wf_mem]

theorem execStorageFlush_keepsMemory (cmd : Nat) (ok : Bool) (s : State) : s.KeepsMemory (execStorageFlush cmd ok s) := by
  refine ⟨_, rfl, fun h => ?_⟩
  grind [State.memOk_engineDo, State.endCmd_mem, State.leaveDrive_mem, State.memOk, State.wf_mem]

theorem State.memOk_scramble {s : State} (l : Launch) (k : Cmd) (h : s.memOk) : (s.scramble l k).memOk := by
  grind [State.scramble, State.modCohort_mem, State.memOk_engineWrite, State.memOk_foldl, State.memOk_foldl_fst, State.memOk,
    State.wf_mem]

theorem State.freeLocks_mem (s : State) (id : Nat) : (s.freeLocks id).mem = s.mem := rfl

theorem State.memOk_writeRecord_ok {s t : State} (l : Launch) (k : Cmd) (status : Word) (hs : s.memOk)
    (h : s.writeRecord l k status = .ok t) : t.memOk := by
  unfold State.writeRecord at h
  dsimp only at h
  split at h
  · cases h
    exact hs
  · split at h
    · cases h
    split at h
    · cases h
    cases h
    exact State.memOk_wakeOne _ hs
  · split at h
    next pa _ =>
      split at h
      · cases h
      next u hlog =>
      have hu : u.memOk := by
        rw [State.memOk, State.logTouches_mem k _ hlog]
        exact hs
      cases h
      grind [State.memOk_agentReach, State.memOk_evictRange, State.memOk_engineStore]
    · cases h

theorem State.memOk_writeRecord_error {s t : State} (l : Launch) (k : Cmd) (status : Word) (hs : s.memOk)
    (h : s.writeRecord l k status = .error t) : t.memOk := by
  unfold State.writeRecord at h
  grind [State.memOk_startFills, State.stopAt_mem, State.memOk, State.wf_mem]

theorem State.freeChild_mem (s : State) (k : Cmd) : (s.freeChild k).mem = s.mem := by
  grind [State.freeChild, State.modCmd_mem, State.modCohort_mem, State.modQueue_mem]

theorem State.sendAborts_mem (s : State) (k : Cmd) (status : Nat) : (s.sendAborts k status).mem = s.mem := by
  grind [State.sendAborts, State.sendPacket_mem, State.foldl_mem, State.foldl_fst_mem]

theorem State.tellGroups_mem (s : State) (k : Cmd) : (s.tellGroups k).mem = s.mem := by
  grind [State.tellGroups, State.post_mem, State.modGroup_mem, State.modMGroup_mem, State.foldl_mem]

theorem State.memOk_dropCmd {s : State} (k : Cmd) (h : s.memOk) : (s.dropCmd k).memOk := by
  grind [State.dropCmd, State.unqueue_mem, State.post_mem, State.memOk_wake, State.memOk, State.wf_mem]

theorem State.memOk_driveFinish {s : State} (l : Launch) (k : Cmd) (h : s.memOk) : (s.driveFinish l k).memOk := by
  grind [State.driveFinish, → State.engineStop_mem, State.memOk_engineRead, State.writeBlocks_mem, State.leaveDrive_mem, State.memOk,
    State.wf_mem]

theorem State.memOk_completeCmd {s : State} (k : Cmd) (status : Word) (h : s.memOk) : (s.completeCmd k status).memOk := by
  grind [State.completeCmd, State.memOk_dropCmd, State.leaveDrive_mem, State.freeChild_mem, State.freeLocks_mem, State.memOk_driveFinish,
    State.memOk_scramble, State.modCmd_mem, → State.memOk_writeRecord_ok, → State.memOk_writeRecord_error, State.tellGroups_mem,
    State.sendAborts_mem, State.memOk, State.wf_mem]

end Sys2Proof.Machine
end

section
/-!
PROOF. The memory under the words that run on lanes, and under collectives, views, dispensers and queues.
-/
namespace Sys2Proof.Machine

/-! ## Integer words -/

theorem State.intV_keepsMemory (s : State) (i : Instr) (o : FmtV) (ss : List SrcOp) (f : Int → Int → Int → Int) :
    s.KeepsMemory (s.intV i o ss f) :=
  ⟨_, rfl, State.memOk_runLanes _ _ _⟩

theorem State.intI_keepsMemory (s : State) (i : Instr) (o : FmtI) (f : Int → Int → Int) : s.KeepsMemory (s.intI i o f) :=
  ⟨_, rfl, State.memOk_runLanes _ _ _⟩

theorem State.bitV_keepsMemory (s : State) (i : Instr) (o : FmtV) (ss : List SrcOp) (f : Nat → Nat → Nat → Nat) :
    s.KeepsMemory (s.bitV i o ss f) :=
  ⟨_, rfl, State.memOk_runLanes _ _ _⟩

theorem State.bitI_keepsMemory (s : State) (i : Instr) (o : FmtI) (f : Nat → Nat → Nat) : s.KeepsMemory (s.bitI i o f) :=
  ⟨_, rfl, State.memOk_runLanes _ _ _⟩

theorem State.predV_keepsMemory (s : State) (i : Instr) (o : FmtV) (ss : List SrcOp) (f : Bool → Bool → Bool) :
    s.KeepsMemory (s.predV i o ss f) :=
  ⟨_, rfl, State.memOk_runPreds _ _ _⟩

theorem State.exchange_keepsMemory (s : State) (i : Instr) (o : FmtV) (ss : List SrcOp) (peer : Ctx → Nat → Nat) :
    s.KeepsMemory (s.exchange i o ss peer) :=
  ⟨_, rfl, State.memOk_runWord _ (fun x lanes t ht => by grind [WordRes.memOk, State.modGroup_mem, State.memOk, State.wf_mem])⟩

theorem WordRes.memOk_done {s : State} (ts : List LaneTrap) (h : s.memOk) : (WordRes.done s ts).memOk := h

theorem Ctx.memOk_sendFirst (x : Ctx) {w : WordRes} (h : w.memOk) : (x.sendFirst w).memOk := by
  grind [Ctx.sendFirst, WordRes.memOk]

theorem State.memOk_emitDone {s : State} (x : Ctx) (early : Bool) (u : SendOp) (ts : List LaneTrap) (h : s.memOk) :
    (x.sendFirst (.done (s.emit x early u) ts)).memOk :=
  x.memOk_sendFirst (State.memOk_emit x early u h)

theorem execVote_keepsMemory (o : FmtV) (s : State) : s.KeepsMemory (execVote o s) := by
  unfold execVote
  extract_lets votes
  split
  · refine ⟨_, rfl, State.memOk_runWord _ (fun x lanes t ht => WordRes.memOk_done _ ?_)⟩
    rw [State.memOk, State.modGroup_mem]
    exact ht
  · exact ⟨_, rfl, State.memOk_runPreds _ _ _⟩

/-! ## Words with flags -/

theorem State.memOk_runFlags {s : State} (w : WordSpec) (d n : Nat) (f : Ctx → Mask → Nat → FRes) (h : s.memOk) :
    (s.runFlags w d n f).memOk :=
  State.memOk_runWord w (fun _ _ _ ht => ht) h

theorem State.memOk_runLate {s : State} (w : WordSpec) (d : Nat) (f : Ctx → Mask → Nat → FRes) (h : s.memOk) : (s.runLate w d f).memOk :=
  State.memOk_runWord w (fun _ _ _ ht => by grind [WordRes.memOk, State.addFillHeld_mem, State.modGroup_mem, State.memOk, State.wf_mem]) h

theorem State.memOk_runFlagPred {s : State} (w : WordSpec) (p : Nat) (f : Ctx → Nat → Bool × Nat) (h : s.memOk) :
    (s.runFlagPred w p f).memOk :=
  State.memOk_runWord w (fun _ _ _ ht => ht) h

/-! ## Floating-point words -/

theorem State.fltV_keepsMemory (s : State) (i : Instr) (o : FmtV) (ss : List SrcOp)
    (f : FFmt → Nat → Bool → FVal → FVal → FVal → FRes) : s.KeepsMemory (s.fltV i o ss f) :=
  ⟨_, rfl, State.memOk_runFlags _ _ _ _⟩

theorem State.transV_keepsMemory (s : State) (i : Instr) (o : FmtV) (t : TFun) : s.KeepsMemory (s.transV i o t) :=
  ⟨_, rfl, State.memOk_runLate _ _ _⟩

theorem State.halfV_keepsMemory (s : State) (i : Instr) (o : FmtV) (ss : List SrcOp)
    (f : FFmt → Nat → Bool → FVal → FVal → FVal → FRes) : s.KeepsMemory (s.halfV i o ss f) :=
  ⟨_, rfl, State.memOk_runFlags _ _ _ _⟩

/-! ## Collectives -/

theorem State.modColl_mem (s : State) (id : Nat) (f : Coll → Coll) : (s.modColl id f).mem = s.mem := rfl

theorem State.sendColl_mem (s : State) (k : Cmd) (c : Coll) (dest : Nat) (b : CollBody) : (s.sendColl k c dest b).mem = s.mem := by
  unfold State.sendColl
  grind [State.sendPacket_mem]

theorem State.finalChunk_mem (s : State) (k : Cmd) (c : Coll) (chunk : Nat) (es : List Word) : (s.finalChunk k c chunk es).mem = s.mem :=
    by
  grind [State.finalChunk, State.modColl_mem, State.sendColl_mem]

theorem State.takeBody_mem (s : State) (k : Cmd) (b : CollBody) : (s.takeBody k b).mem = s.mem := by
  grind [State.takeBody, State.modColl_mem, State.finalChunk_mem, State.sendColl_mem]

theorem State.memOk_sendFirst {s : State} (l : Launch) (k : Cmd) (c : Coll) (h : s.memOk) : (s.sendFirst l k c).memOk := by
  grind [State.sendFirst, State.memOk_engineRead, State.modColl_mem, State.finalChunk_mem, State.sendColl_mem, State.memOk, State.wf_mem]

theorem State.takeHeld_mem (s : State) (k : Cmd) : (s.takeHeld k).mem = s.mem := by
  grind [State.takeHeld, State.modMGroup_mem, State.takeBody_mem, State.foldl_mem, State.foldl_fst_mem]

theorem State.memOk_collFinish {s : State} (l : Launch) (k : Cmd) (h : s.memOk) : (s.collFinish l k).memOk := by
  unfold State.collFinish
  split
  · exact h
  split
  · exact h
  extract_lets out va t
  split
  next hstop =>
    rw [State.memOk, State.engineStop_mem _ _ hstop]
    exact h
  split
  next hstop =>
    rw [State.memOk, State.tokenStop_mem _ _ hstop]
    exact h
  split
  · exact h
  next u hlog =>
    rw [State.memOk, State.endCmd_mem]
    refine State.memOk_engineWrite _ _ _ _ ?_
    rw [State.memOk, State.logTouches_mem _ _ hlog]
    exact h

theorem State.memOk_collStep {s : State} (id : Nat) (h : s.memOk) : (s.collStep id).memOk := by
  refine State.memOk_engineDo _ _ (fun l k t ht => ?_) h
  grind [State.endCmd_mem, State.memOk_sendFirst, State.takeHeld_mem, State.memOk_collFinish, State.memOk, State.wf_mem]

theorem execAllReduce_keepsMemory (cmd : Nat) (s : State) : s.KeepsMemory (execAllReduce cmd s) := by
  refine ⟨_, rfl, fun h => ?_⟩
  grind [State.memOk_collStep, State.memOk, State.wf_mem]

theorem execReduceScatter_keepsMemory (cmd : Nat) (s : State) : s.KeepsMemory (execReduceScatter cmd s) := by
  refine ⟨_, rfl, fun h => ?_⟩
  grind [State.memOk_collStep, State.memOk, State.wf_mem]

theorem execAllGather_keepsMemory (cmd : Nat) (s : State) : s.KeepsMemory (execAllGather cmd s) := by
  refine ⟨_, rfl, fun h => ?_⟩
  grind [State.memOk_collStep, State.memOk, State.wf_mem]

theorem execBroadcast_keepsMemory (cmd : Nat) (s : State) : s.KeepsMemory (execBroadcast cmd s) := by
  refine ⟨_, rfl, fun h => ?_⟩
  grind [State.memOk_collStep, State.memOk, State.wf_mem]

theorem execViewDataPacket_keepsMemory (p : CollPacket) (s : State) : s.KeepsMemory (execViewDataPacket p s) := by
  refine ⟨_, rfl, fun h => ?_⟩
  grind [State.send_mem, State.modMGroup_mem, State.takeBody_mem, State.postWork_mem, State.memOk, State.wf_mem]

theorem execCollectiveAbort_keepsMemory (p : AbortPacket) (s : State) : s.KeepsMemory (execCollectiveAbort p s) := by
  refine ⟨_, rfl, fun h => ?_⟩
  grind [State.send_mem, State.modMGroup_mem, State.endCmd_mem, State.unqueue_mem, State.memOk, State.wf_mem]

/-! ## Views and membership -/

theorem execMembershipGroupDefinition_keepsMemory (group : Nat) (members : BitVec 288) (self : Nat) (s : State) : s.KeepsMemory
    (execMembershipGroupDefinition group members self s) := by
  refine ⟨_, rfl, fun h => ?_⟩
  grind [State.memOk, State.wf_mem]

theorem State.stopGroup_mem (s : State) (group : Nat) : (s.stopGroup group).mem = s.mem := by
  grind [State.stopGroup, State.modMGroup_mem, State.modColl_mem, State.foldl_mem]

theorem State.settled_mem (s : State) (k : Cmd) (view : Nat) : (s.settled k view).mem = s.mem := rfl

theorem State.shareFinals_mem (s : State) (k : Cmd) (c : Coll) (others : List Nat) : (s.shareFinals k c others).mem = s.mem := by
  grind [State.shareFinals, State.sendColl_mem, State.foldl_mem, State.foldl_fst_mem]

theorem State.settleCmd_mem (s : State) (m : MGroup) (join : Bool) (maps : List (Nat × BitVec 288)) (k : Cmd) :
    (s.settleCmd m join maps k).mem = s.mem := by
  grind [State.settleCmd, State.settled_mem, State.resumeCmd_mem, State.shareFinals_mem, State.modCmd_mem, State.endCmd_mem,
    State.unqueue_mem]

theorem State.installView_mem (s : State) (m : MGroup) (view : Nat) (members : BitVec 288) (maps : List (Nat × BitVec 288)) :
    (s.installView m view members maps).mem = s.mem := by
  grind [State.installView, State.settleCmd_mem, State.modMGroup_mem, State.post_mem, State.foldl_mem, State.foldl_fst_mem]

theorem State.exclude_mem (s : State) (m : MGroup) : (s.exclude m).mem = s.mem := by
  grind [State.exclude, State.endCmd_mem, State.unqueue_mem, State.settled_mem, State.modMGroup_mem, State.foldl_mem]

theorem State.sendView_mem (s : State) (type : Nat) (p : ViewPacket) (dests : List Nat) : (s.sendView type p dests).mem = s.mem := by
  grind [State.sendView, State.send_mem, State.foldl_mem]

theorem State.tryCommit_mem (s : State) (no : Nat) : (s.tryCommit no).mem = s.mem := by
  grind [State.tryCommit, State.sendView_mem, State.installView_mem]

theorem State.acceptOwn_mem (s : State) (no : Nat) (join : Bool) : (s.acceptOwn no join).mem = s.mem := by
  grind [State.acceptOwn, State.stopGroup_mem, State.tryCommit_mem, State.modMGroup_mem]

theorem State.lead_mem (s : State) (no : Nat) (joiner : Option Nat) : (s.lead no joiner).mem = s.mem := by
  grind [State.lead, State.exclude_mem, State.modMGroup_mem, State.sendView_mem, State.acceptOwn_mem, State.post_mem]

theorem State.suspect_mem (s : State) (no : Nat) (bits : BitVec 288) : (s.suspect no bits).mem = s.mem := by
  grind [State.suspect, State.modMGroup_mem, State.exclude_mem, State.lead_mem]

theorem execRafterPortsDown_keepsMemory (pkg : Nat) (s : State) : s.KeepsMemory (execRafterPortsDown pkg s) := by
  refine ⟨_, rfl, fun h => ?_⟩
  grind [State.suspect_mem, State.foldl_mem, State.foldl_fst_mem, State.memOk_foldl, State.memOk_foldl_fst, State.memOk, State.wf_mem]

theorem execRingStepTimeout_keepsMemory (group pkg : Nat) (s : State) : s.KeepsMemory (execRingStepTimeout group pkg s) := by
  refine ⟨_, rfl, fun h => ?_⟩
  grind [State.suspect_mem, State.memOk, State.wf_mem]

theorem State.sendAccept_mem (s : State) (p : ViewPacket) : (s.sendAccept p).mem = s.mem := by
  grind [State.sendAccept, State.stopGroup_mem, State.sendView_mem, State.modMGroup_mem]

theorem execPropose_keepsMemory (p : ViewPacket) (s : State) : s.KeepsMemory (execPropose p s) := by
  refine ⟨_, rfl, fun h => ?_⟩
  grind [State.sendView_mem, State.modMGroup_mem, State.sendAccept_mem, State.memOk, State.wf_mem]

theorem execAccept_keepsMemory (p : ViewPacket) (s : State) : s.KeepsMemory (execAccept p s) := by
  refine ⟨_, rfl, fun h => ?_⟩
  grind [State.tryCommit_mem, State.modMGroup_mem, State.memOk, State.wf_mem]

theorem State.leadAgain_mem (s : State) (m : MGroup) (a : Agreement) (out : BitVec 288) : (s.leadAgain m a out).mem = s.mem := by
  grind [State.leadAgain, State.lead_mem, State.modMGroup_mem]

theorem execRefuse_keepsMemory (p : ViewPacket) (s : State) : s.KeepsMemory (execRefuse p s) := by
  refine ⟨_, rfl, fun h => ?_⟩
  grind [State.leadAgain_mem, State.memOk, State.wf_mem]

theorem execAgreementTimeout_keepsMemory (group : Nat) (s : State) : s.KeepsMemory (execAgreementTimeout group s) := by
  refine ⟨_, rfl, fun h => ?_⟩
  grind [State.leadAgain_mem, State.memOk, State.wf_mem]

theorem execCommit_keepsMemory (p : ViewPacket) (s : State) : s.KeepsMemory (execCommit p s) := by
  refine ⟨_, rfl, fun h => ?_⟩
  grind [State.installView_mem, State.memOk, State.wf_mem]

theorem execJoinreq_keepsMemory (p : ViewPacket) (s : State) : s.KeepsMemory (execJoinreq p s) := by
  refine ⟨_, rfl, fun h => ?_⟩
  grind [State.sendView_mem, State.modMGroup_mem, State.lead_mem, State.memOk, State.wf_mem]

theorem execExclude_keepsMemory (p : ViewPacket) (s : State) : s.KeepsMemory (execExclude p s) := by
  refine ⟨_, rfl, fun h => ?_⟩
  grind [State.exclude_mem, State.memOk, State.wf_mem]

theorem State.resumeJoin_mem (s : State) (no : Nat) : (s.resumeJoin no).mem = s.mem := by
  grind [State.resumeJoin, State.acceptOwn_mem, State.sendAccept_mem]

theorem execCommandCompletion_keepsMemory (cmd : Nat) (s : State) : s.KeepsMemory (execCommandCompletion cmd s) := by
  refine ⟨_, rfl, fun h => ?_⟩
  grind [State.memOk_completeCmd, State.resumeJoin_mem, State.memOk, State.wf_mem]

/-! ## Dispensers -/

theorem State.addRange_mem (s : State) (cluster lid lo hi : Nat) : (s.addRange cluster lid lo hi).mem = s.mem := by
  unfold State.addRange
  split <;> rfl

theorem State.addRanges_mem (s : State) (cluster lid : Nat) (rs : List (Nat × Nat)) : (s.addRanges cluster lid rs).mem = s.mem := by
  grind [State.addRanges, State.addRange_mem, State.foldl_mem]

theorem State.addLow_mem (s : State) (cluster lid lo hi : Nat) : (s.addLow cluster lid lo hi).mem = s.mem := by
  unfold State.addLow
  split <;> rfl

theorem State.answerTiles_mem (s : State) (r : TileReq) (L m : Nat) : (s.answerTiles r L m).mem = s.mem := by
  grind [State.answerTiles, State.modGroup_mem, State.addFill_mem]

theorem State.serveTiles_mem (s : State) (cluster lid n : Nat) : (s.serveTiles cluster lid n).mem = s.mem := by
  induction n generalizing s with
  | zero => rfl
  | succ n ih => grind [State.serveTiles, State.answerTiles_mem, State.modCluster_mem]

theorem State.modSteal_mem (s : State) (cluster lid : Nat) (f : Steal → Steal) : (s.modSteal cluster lid f).mem = s.mem := rfl

theorem State.dropSteal_mem (s : State) (cluster lid : Nat) : (s.dropSteal cluster lid).mem = s.mem := rfl

theorem State.dispense_mem (s : State) (cluster lid : Nat) : (s.dispense cluster lid).mem = s.mem := by
  grind [State.dispense, State.serveTiles_mem, State.post_mem, State.modCluster_mem]

theorem execDispenserRequest_keepsMemory (cluster lid : Nat) (s : State) : s.KeepsMemory (execDispenserRequest cluster lid s) := by
  refine ⟨_, rfl, fun h => ?_⟩
  grind [State.dispense_mem, State.memOk, State.wf_mem]

theorem execStealRequest_keepsMemory (thief lid : Nat) (s : State) : s.KeepsMemory (execStealRequest thief lid s) := by
  refine ⟨_, rfl, fun h => ?_⟩
  grind [State.post_mem, State.modSteal_mem, State.modCluster_mem, State.memOk, State.wf_mem]

theorem State.wakeDispensers_mem (s : State) (lid : Nat) : (s.wakeDispensers lid).mem = s.mem := by
  grind [State.wakeDispensers, State.post_mem, State.foldl_mem]

theorem State.exhausted_mem (s : State) (thief lid : Nat) : (s.exhausted thief lid).mem = s.mem := by
  grind [State.exhausted, State.dropSteal_mem, State.modCluster_mem, State.answerTiles_mem, State.foldl_mem]

theorem State.rehome_mem (s : State) (cluster lid : Nat) : (s.rehome cluster lid).mem = s.mem := by
  grind [State.rehome, State.modCluster_mem, State.wakeDispensers_mem, State.addRanges_mem]

theorem execStealAnswer_keepsMemory (thief lid : Nat) (s : State) : s.KeepsMemory (execStealAnswer thief lid s) := by
  refine ⟨_, rfl, fun h => ?_⟩
  grind [State.post_mem, State.modSteal_mem, State.rehome_mem, State.wakeDispensers_mem, State.dispense_mem, State.addRanges_mem,
    State.dropSteal_mem, State.exhausted_mem, State.memOk, State.wf_mem]

theorem State.returnRun_mem (s : State) (g : GRef) : (s.returnRun g).mem = s.mem := by
  grind [State.returnRun, State.wakeDispensers_mem, State.modRegs_mem, State.addLow_mem]

theorem State.settleSteals_mem (s : State) : s.settleSteals.mem = s.mem := by
  grind [State.settleSteals, State.addRanges_mem, State.dropSteal_mem, State.foldl_mem]

theorem State.evacuate_mem (s : State) (die : Nat) : (s.evacuate die).mem = s.mem := by
  grind [State.evacuate, State.settleSteals_mem, State.modCluster_mem, State.addRange_mem, State.post_mem, State.foldl_mem]

/-! ## Queues -/

/-- What an operation answers that may wait keeps the canonical form of memory, where it goes on and where it waits. -/
def OutKept (α : Type) : Except State (State × α) → Prop
  | .ok r => r.1.memOk
  | .error t => t.memOk

/-- A reach for the pages of a queue keeps the canonical form of memory. It is stated of the function, which is unfolded before it meets an
argument: the kernel would run it on one. -/
def ReachKept (f : State → Queue → Vif → QueueUse → Nat → Nat → Bool → Except State (State × List (Nat × Nat × Nat))) : Prop :=
  ∀ s q v use va n write, s.memOk → OutKept _ (f s q v use va n write)

theorem ReachKept.intro {f : State → Queue → Vif → QueueUse → Nat → Nat → Bool → Except State (State × List (Nat × Nat × Nat))}
    (h : ∀ s q v use va n write, s.memOk → OutKept _ (f s q v use va n write)) : ReachKept f := h

theorem State.reachKept_queuePages : ReachKept State.queuePages := by
  obtain ⟨pages, hpages⟩ : ∃ f, f = State.agentPages := ⟨_, rfl⟩
  obtain ⟨pagesAt, hpagesAt⟩ : ∃ f, f = pagesOf := ⟨_, rfl⟩
  delta State.queuePages
  rw [← hpages, ← hpagesAt]
  refine .intro fun s q v use va n write h => ?_
  extract_lets need acc
  split
  · exact State.memOk_foldl (fun s p h => by rwa [State.memOk, State.requestWalk_mem]) _ h
  split
  · rwa [OutKept, State.memOk, State.countUnavailable_mem]
  split
  · exact h
  split
  · rwa [OutKept, State.memOk, State.awaitTokens_mem]
  · exact State.memOk_foldl (fun s p h => State.memOk_agentReach _ _ _ _ h) _ h

theorem State.memOk_queuePages_ok {s : State} {r : State × List (Nat × Nat × Nat)} (q : Queue) (v : Vif) (use : QueueUse) (va n : Nat)
    (write : Bool) (hs : s.memOk) (h : s.queuePages q v use va n write = .ok r) : r.1.memOk := by
  have hkept := State.reachKept_queuePages s q v use va n write hs
  rwa [h] at hkept

theorem State.memOk_queuePages_error {s t : State} (q : Queue) (v : Vif) (use : QueueUse) (va n : Nat)
    (write : Bool) (hs : s.memOk) (h : s.queuePages q v use va n write = .error t) : t.memOk := by
  have hkept := State.reachKept_queuePages s q v use va n write hs
  rwa [h] at hkept

theorem State.memOk_pageStore {s : State} (r : Req) (ps : Pages) (va : Nat) (bs : List Byte) (h : s.memOk) :
    (s.pageStore r ps va bs).memOk := by
  grind [State.pageStore, State.memOk_homeStore, State.memOk_foldl, State.memOk, State.wf_mem]

theorem State.memOk_clearStatus {s : State} (q : Queue) (v : Vif) (ps : Pages) (h : s.memOk) : (s.clearStatus q v ps).memOk := by
  grind [State.clearStatus, State.memOk_pageStore, State.modQueue_mem, State.memOk, State.wf_mem]

theorem exists_of_map_ok {ε α β : Type} {f : α → β} {x : Except ε α} {b : β} (h : x.map f = .ok b) : ∃ a, x = .ok a ∧ f a = b := by
  cases x with
  | error e => cases h
  | ok a =>
    cases h
    exact ⟨a, rfl, rfl⟩

theorem error_of_map_error {ε α β : Type} {f : α → β} {x : Except ε α} {e : ε} (h : x.map f = .error e) : x = .error e := by
  cases x with
  | error d =>
    cases h
    rfl
  | ok a => cases h

theorem State.memOk_qcbPages_ok {s : State} {r : State × Pages} (q : Queue) (v : Vif) (use : QueueUse) (hs : s.memOk)
    (h : s.qcbPages q v use = .ok r) : r.1.memOk := by
  obtain ⟨p, hp, rfl⟩ := exists_of_map_ok h
  exact State.memOk_clearStatus _ _ _ (State.memOk_queuePages_ok _ _ _ _ _ _ hs hp)

theorem State.memOk_qcbPages_error {s t : State} (q : Queue) (v : Vif) (use : QueueUse) (hs : s.memOk)
    (h : s.qcbPages q v use = .error t) : t.memOk :=
  State.memOk_queuePages_error _ _ _ _ _ _ hs (error_of_map_error h)

theorem State.memOk_qcbPut {s : State} (q : Queue) (v : Vif) (ps : Pages) (off : Nat) (bs : List Byte) (h : s.memOk) :
    (s.qcbPut q v ps off bs).memOk := by
  grind [State.qcbPut, State.memOk_pageStore]

theorem State.memOk_orStatus {s : State} (q : Queue) (v : Vif) (ps : Pages) (bits : Nat) (h : s.memOk) :
    (s.orStatus q v ps bits).memOk := by
  grind [State.orStatus, State.memOk_qcbPut]

theorem State.readRing_mem (s : State) (q : Queue) (ps : Pages) : (s.readRing q ps).mem = s.mem := rfl

theorem State.memOk_kickAt {s : State} (q : Queue) (v : Vif) (ps : Pages) (value : DWord) (ignored : Bool) (h : s.memOk) :
    (s.kickAt q v ps value ignored).memOk := by
  grind [State.kickAt, State.memOk_orStatus, State.memOk_qcbPut, State.readRing_mem, State.post_mem, State.modQueue_mem, State.memOk,
    State.wf_mem]

/-- Running kicks keeps the canonical form of memory; stated of the function, as `ReachKept`. -/
def RunKept (f : State → Nat → Nat → State) : Prop := ∀ s qid n, s.memOk → (f s qid n).memOk

theorem RunKept.intro {f : State → Nat → Nat → State} (h : ∀ s qid n, s.memOk → (f s qid n).memOk) : RunKept f := h

/-- What each step of a structural recursion over a number gives, the recursion gives. -/
theorem brecOn_induct {α β : Type} {F : (n : Nat) → Nat.below (motive := fun _ => α → β) n → α → β} {P : (α → β) → Prop}
    (hzero : P (F 0 ⟨⟩)) (hsucc : ∀ n (b : Nat.below (motive := fun _ => α → β) (n + 1)), P b.1 → P (F (n + 1) b)) :
    ∀ n, P (Nat.brecOn (motive := fun _ => α → β) n F)
  | 0 => hzero
  | n + 1 => hsucc n _ (brecOn_induct hzero hsucc n)

theorem State.runKept_runKicks : RunKept State.runKicks := by
  obtain ⟨pages, hpages⟩ : ∃ f, f = State.qcbPages := ⟨_, rfl⟩
  have hok : ∀ {t : State} {r : State × Pages} (q : Queue) (v : Vif), t.memOk → pages t q v .kick = .ok r → r.1.memOk := by
    rw [hpages]
    exact fun q v => State.memOk_qcbPages_ok q v .kick
  have herr : ∀ {t u : State} (q : Queue) (v : Vif), t.memOk → pages t q v .kick = .error u → u.memOk := by
    rw [hpages]
    exact fun q v => State.memOk_qcbPages_error q v .kick
  delta State.runKicks State.runKicks._f
  rw [← hpages]
  refine .intro fun s qid n h => ?_
  refine brecOn_induct (P := fun g : State → State => ∀ s : State, s.memOk → (g s).memOk) (fun s h => h) (fun n b ih s h => ?_) n s h
  dsimp only
  split
  · exact h
  split
  · split
    · exact ih _ h
    split
    next hp => exact herr _ _ h hp
    next hp =>
    have ht := hok _ _ h hp
    split
    · exact ht
    next hlog =>
      refine ih _ (State.memOk_kickAt _ _ _ _ _ ?_)
      rw [State.memOk, State.modQueue_mem, State.logPages_mem _ _ _ _ _ _ _ hlog]
      exact ht
  · exact h

theorem State.memOk_runKicks {s : State} (qid n : Nat) (h : s.memOk) : (s.runKicks qid n).memOk :=
  State.runKept_runKicks s qid n h

theorem State.memOk_renewRing {s : State} (q : Queue) (v : Vif) (h : s.memOk) : (s.renewRing q v).memOk := by
  grind [State.renewRing, → State.memOk_qcbPages_ok, → State.memOk_qcbPages_error, State.readRing_mem, State.post_mem, State.memOk,
    State.wf_mem]

theorem State.memOk_kickIn {s : State} (vif slot : Nat) (value : DWord) (h : s.memOk) : (s.kickIn vif slot value).memOk := by
  grind [State.kickIn, State.modVif_mem, State.modQueue_mem, State.memOk_runKicks, State.memOk, State.wf_mem]

theorem execKick_keepsMemory (vif slot : Nat) (value : DWord) (s : State) : s.KeepsMemory (execKick vif slot value s) := by
  refine ⟨_, rfl, fun h => ?_⟩
  grind [State.memOk_kickIn, State.memOk, State.wf_mem]

theorem State.startWaiting_mem (s : State) (qid : Nat) : (s.startWaiting qid).mem = s.mem := by
  grind [State.startWaiting, State.modLaunch_mem, State.foldl_mem]

theorem State.memOk_headPages_ok {s : State} {r : State × Option Pages} (q : Queue) (v : Vif) (hs : s.memOk)
    (h : s.headPages q v = .ok r) : r.1.memOk := by
  unfold State.headPages at h
  split at h
  · cases h
    exact hs
  · obtain ⟨p, hp, rfl⟩ := exists_of_map_ok h
    exact State.memOk_qcbPages_ok _ _ _ hs hp

theorem State.memOk_headPages_error {s t : State} (q : Queue) (v : Vif) (hs : s.memOk) (h : s.headPages q v = .error t) : t.memOk := by
  unfold State.headPages at h
  split at h
  · cases h
  · exact State.memOk_qcbPages_error _ _ _ hs (error_of_map_error h)

theorem State.memOk_advanceHead {s : State} (q : Queue) (v : Vif) (ps : Option Pages) (h : s.memOk) : (s.advanceHead q v ps).memOk := by
  unfold State.advanceHead
  grind [State.modQueue_mem, State.memOk_qcbPut, State.post_mem, State.memOk, State.wf_mem]

theorem State.leaveRecord_mem (s : State) (qid : Nat) : (s.leaveRecord qid).mem = s.mem := rfl

theorem State.refuseLaunch_mem (s : State) (q : Queue) (tag code : Nat) : (s.refuseLaunch q tag code).mem = s.mem := by
  grind [State.refuseLaunch, State.post_mem, State.modQueue_mem, State.leaveRecord_mem]

theorem State.memOk_takeRecord {s : State} (q : Queue) (v : Vif) (h : s.memOk) : (s.takeRecord q v).memOk := by
  obtain ⟨heads, hheads⟩ : ∃ f, f = State.headPages := ⟨_, rfl⟩
  obtain ⟨pages, hpages⟩ : ∃ f, f = State.queuePages := ⟨_, rfl⟩
  obtain ⟨read, hread⟩ : ∃ f, f = State.readLaunch := ⟨_, rfl⟩
  have hhok : ∀ {t : State} {r : State × Option Pages}, t.memOk → heads t q v = .ok r → r.1.memOk := by
    rw [hheads]
    exact State.memOk_headPages_ok q v
  have hherr : ∀ {t u : State}, t.memOk → heads t q v = .error u → u.memOk := by
    rw [hheads]
    exact State.memOk_headPages_error q v
  have hpok : ∀ {t : State} {r : State × List (Nat × Nat × Nat)} (va n : Nat),
    t.memOk → pages t q v .record va n false = .ok r → r.1.memOk := by
    rw [hpages]
    exact fun va n => State.memOk_queuePages_ok q v .record va n false
  have hperr : ∀ {t u : State} (va n : Nat), t.memOk → pages t q v .record va n false = .error u → u.memOk := by
    rw [hpages]
    exact fun va n => State.memOk_queuePages_error q v .record va n false
  obtain ⟨check, hcheck⟩ : ∃ f, f = recordCode := ⟨_, rfl⟩
  have hrefuse : ∀ {t : State} (tag code : Nat) (qs : Option Pages), t.memOk → ((t.refuseLaunch q tag code).advanceHead q v qs).memOk :=
    by
    intro t tag code qs ht
    refine State.memOk_advanceHead _ _ _ ?_
    rw [State.memOk, State.refuseLaunch_mem]
    exact ht
  rw [State.takeRecord, ← hheads, ← hpages, ← hread, ← hcheck]
  split
  next he => exact hherr h he
  next t qs ho =>
  have ht : t.memOk := hhok h ho
  split
  · exact hrefuse _ _ _ ht
  split
  next he => exact hperr _ _ ht he
  next u ps ho =>
  have hu : u.memOk := hpok _ _ ht ho
  extract_lets rcd
  split
  · exact hrefuse _ _ _ hu
  split
  next he => exact hperr _ _ hu he
  next w ts ho =>
  have hw : w.memOk := hpok _ _ hu ho
  split
  · exact hw
  next x hlog =>
  have hx : x.memOk := by
    rw [State.memOk, State.logPages_mem _ _ _ _ _ _ _ hlog]
    exact hw
  split
  · exact hrefuse _ _ _ hx
  · rw [State.memOk, State.startWaiting_mem]
    exact State.memOk_advanceHead _ _ _ hx

theorem execLaunchRecordTake_keepsMemory (qid : Nat) (s : State) : s.KeepsMemory (execLaunchRecordTake qid s) := by
  refine ⟨_, rfl, fun h => ?_⟩
  grind [State.memOk_renewRing, State.memOk_runKicks, State.memOk_takeRecord, State.memOk, State.wf_mem]

theorem State.startChild_mem (s : State) (l : Launch) (k : Cmd) : (s.startChild l k).mem = s.mem := by
  -- the kernel would evaluate the two readers of a record: they stand as unknown functions
  obtain ⟨check, hcheck⟩ : ∃ f, f = recordCode := ⟨_, rfl⟩
  obtain ⟨read, hread⟩ : ∃ f, f = State.readLaunch := ⟨_, rfl⟩
  rw [State.startChild, ← hcheck, ← hread, apply_ite State.mem]
  split
  · rfl
  extract_lets va bytes rcd
  split
  · exact State.endCmd_mem ..
  · exact State.endCmd_mem ..
  split
  · exact State.endCmd_mem ..
  · rw [State.post_mem, State.modCmd_mem]

theorem execLaunchCommand_keepsMemory (cmd : Nat) (s : State) : s.KeepsMemory (execLaunchCommand cmd s) := by
  refine ⟨_, rfl, fun h => ?_⟩
  grind [State.memOk_engineDo, State.startChild_mem, State.postWork_mem, State.foldl_mem, State.foldl_fst_mem, State.memOk_foldl,
    State.memOk_foldl_fst, State.memOk, State.wf_mem]

theorem State.memOk_writeEntry {s : State} (q : Queue) (v : Vif) (e : Completion) (h : s.memOk) : (s.writeEntry q v e).memOk := by
  obtain ⟨heads, hheads⟩ : ∃ f, f = State.qcbPages := ⟨_, rfl⟩
  obtain ⟨pages, hpages⟩ : ∃ f, f = State.queuePages := ⟨_, rfl⟩
  have hhok : ∀ {t : State} {r : State × Pages}, t.memOk → heads t q v .entry = .ok r → r.1.memOk := by
    rw [hheads]
    exact State.memOk_qcbPages_ok q v .entry
  have hherr : ∀ {t u : State}, t.memOk → heads t q v .entry = .error u → u.memOk := by
    rw [hheads]
    exact State.memOk_qcbPages_error q v .entry
  have hpok : ∀ {t : State} {r : State × List (Nat × Nat × Nat)} (va n : Nat),
    t.memOk → pages t q v .entry va n true = .ok r → r.1.memOk := by
    rw [hpages]
    exact fun va n => State.memOk_queuePages_ok q v .entry va n true
  have hperr : ∀ {t u : State} (va n : Nat), t.memOk → pages t q v .entry va n true = .error u → u.memOk := by
    rw [hpages]
    exact fun va n => State.memOk_queuePages_error q v .entry va n true
  rw [State.writeEntry, ← hheads, ← hpages]
  grind [State.startWaiting_mem, → State.logPages_mem, State.modQueue_mem, State.memOk_orStatus, State.memOk_qcbPut,
    State.memOk_pageStore,
    State.signal_mem, State.post_mem, State.memOk, State.wf_mem]

theorem execCompletionEntryWrite_keepsMemory (qid : Nat) (s : State) : s.KeepsMemory (execCompletionEntryWrite qid s) := by
  refine ⟨_, rfl, fun h => ?_⟩
  grind [State.post_mem, State.memOk_writeEntry, State.memOk, State.wf_mem]

theorem State.freeBands_mem (s : State) (lid die : Nat) : (s.freeBands lid die).mem = s.mem := by
  unfold State.freeBands
  split <;> rfl

theorem State.launchDone_mem (s : State) (lid : Nat) : (s.launchDone lid).mem = s.mem := by
  grind [State.launchDone, State.complete_mem, State.endCmd_mem]

theorem State.memOk_flushMaps {s : State} (c : Cohort) (since : Nat) (h : s.memOk) : (s.flushMaps c since).1.memOk := by
  grind [State.flushMaps, State.memOk_mapWriteback, State.memOk_foldl, State.memOk, State.wf_mem]

theorem State.memOk_releaseCohort {s : State} (c : Cohort) (h : s.memOk) : (s.releaseCohort c).memOk := by
  grind [State.releaseCohort, State.memOk_bandLeave, State.modCohort_mem, State.modCore_mem, State.modLaunch_mem, State.settleBarb_mem,
    State.wakeDispensers_mem, State.rehome_mem, State.freeBands_mem, State.launchDone_mem, State.memOk_wake, State.memOk_foldl,
    State.memOk_foldl_fst, State.memOk, State.wf_mem]

theorem execCohortRetire_keepsMemory (r : CRef) (s : State) : s.KeepsMemory (execCohortRetire r s) := by
  refine ⟨_, rfl, fun h => ?_⟩
  grind [State.memOk_flushMaps, State.memOk_releaseCohort, State.memOk, State.wf_mem]

theorem execGroupRetire_keepsMemory (g : GRef) (s : State) : s.KeepsMemory (execGroupRetire g s) := by
  refine ⟨_, rfl, fun h => ?_⟩
  grind [State.returnRun_mem, State.modGroup_mem, State.modCohort_mem, State.settleBarb_mem, State.post_mem, State.foldl_mem,
    State.foldl_fst_mem, State.memOk_foldl, State.memOk_foldl_fst, State.memOk, State.wf_mem]

end Sys2Proof.Machine
end

section
/-!
PROOF. The memory under saves, binds, band events and the services of the device.
-/
namespace Sys2Proof.Machine

/-! ## Saves -/

theorem State.memOk_atticTraffic {s : State} (l : Launch) (f : Frame) (write : Bool) (h : s.memOk) : (s.atticTraffic l f write).memOk :=
    by
  grind [State.atticTraffic, State.memOk_homeTouch, State.memOk_foldl, State.memOk, State.wf_mem]

theorem State.memOk_intoFrame {s : State} (l : Launch) (c : Cohort) (kind : Nat) (h : s.memOk) : (s.intoFrame l c kind).memOk := by
  grind [State.intoFrame, State.modCore_mem, State.modLaunch_mem, State.memOk_atticTraffic, State.post_mem, State.wakeDispensers_mem,
    State.memOk_wake, State.rehome_mem, State.memOk, State.wf_mem]

theorem State.memOk_leaveCore {s : State} (r : CRef) (kind : Nat) (h : s.memOk) : (s.leaveCore r kind).memOk := by
  grind [State.leaveCore, State.memOk_bandDepart, State.memOk_releaseActions, State.memOk_intoFrame, State.memOk, State.wf_mem]

theorem State.memOk_atticPage {s : State} (l : Launch) (f : Frame) (page : Nat) (h : s.memOk) : (s.atticPage l f page).memOk := by
  grind [State.atticPage, State.requestWalk_mem, State.awaitTokens_mem, State.logPages_mem, State.memOk_homeStore, State.memOk_reachHome,
    State.memOk_foldl, State.memOk, State.wf_mem]

theorem execMapAtticWriteback_keepsMemory (frame : Nat) (s : State) : s.KeepsMemory (execMapAtticWriteback frame s) := by
  refine ⟨_, rfl, fun h => ?_⟩
  grind [State.memOk_atticPage, State.post_mem, State.foldl_mem, State.foldl_fst_mem, State.memOk_foldl, State.memOk_foldl_fst,
    State.memOk, State.wf_mem]

theorem State.memOk_lightSave {s : State} (c : Cohort) (since : Nat) (h : s.memOk) : (s.lightSave c since).memOk := by
  grind [State.lightSave, State.memOk_flushMaps, State.modCohort_mem, State.memOk_leaveCore, State.memOk, State.wf_mem]

theorem execSaveComplete_keepsMemory (r : CRef) (s : State) : s.KeepsMemory (execSaveComplete r s) := by
  refine ⟨_, rfl, fun h => ?_⟩
  grind [State.memOk_leaveCore, State.startSave_mem, State.memOk_lightSave, State.memOk, State.wf_mem]

theorem State.requestLeave_mem (s : State) (r : CRef) (info budget : Nat) : (s.requestLeave r info budget).mem = s.mem := by
  grind [State.requestLeave, State.modSeated_mem, State.post_mem, State.foldl_mem]

theorem State.vacateGroup_mem (s : State) (g : GRef) : (s.vacateGroup g).mem = s.mem := by
  grind [State.vacateGroup, State.returnRun_mem, State.settleGroup_mem, State.modGroup_mem]

theorem execCohortSwap_keepsMemory (r : CRef) (s : State) : s.KeepsMemory (execCohortSwap r s) := by
  refine ⟨_, rfl, fun h => ?_⟩
  grind [State.startSave_mem, State.modCluster_mem, State.memOk, State.wf_mem]

/-! ## Binds -/

theorem State.allocBands_mem (s : State) (l : Launch) (die : Nat) : (s.allocBands l die).mem = s.mem := by
  grind [State.allocBands, State.modDie_mem, State.foldl_mem]

theorem State.takeAges_mem (s : State) (core n : Nat) : (s.takeAges core n).1.mem = s.mem := rfl

theorem State.placeTiles_mem (s : State) (l : Launch) (core : Nat) : (s.placeTiles l core).mem = s.mem := by
  grind [State.placeTiles, State.modLaunch_mem, State.addRange_mem]

theorem State.writeBind_mem (s : State) (r : BindRec) : (s.writeBind r).mem = s.mem := by
  grind [State.writeBind, State.allocBands_mem, State.modLaunch_mem, State.placeTiles_mem]

theorem State.giveBack_mem (s : State) (r : BindRec) : (s.giveBack r).mem = s.mem := by
  unfold State.giveBack
  split <;> rfl

theorem State.dispatchFresh_mem (s : State) (r : BindRec) (l : Launch) : (s.dispatchFresh r l).mem = s.mem := rfl

theorem State.dispatchRestore_mem (s : State) (r : BindRec) (l : Launch) (f : Frame) : (s.dispatchRestore r l f).mem = s.mem := by
  grind [State.dispatchRestore, State.rdcAdopt_mem, State.acquireActions_mem]

theorem State.dispatchOne_mem (s : State) (r : BindRec) : (s.dispatchOne r).mem = s.mem := by
  grind [State.dispatchOne, State.post_mem, State.dispatchRestore_mem, State.dispatchFresh_mem]

theorem State.startCohort_mem (s : State) (r : CRef) : (s.startCohort r).mem = s.mem := by
  grind [State.startCohort, State.takeAges_mem, State.modCohort_mem, State.post_mem]

theorem State.startBlock_mem (s : State) (rs : List CRef) : (s.startBlock rs).mem = s.mem := by
  grind [State.startBlock, State.startCohort_mem, State.post_mem, State.foldl_mem]

theorem State.startWaitingBlocks_mem (s : State) (core : Nat) : (s.startWaitingBlocks core).mem = s.mem := by
  grind [State.startWaitingBlocks, State.startBlock_mem, State.foldl_mem]

theorem execL1WayWritebackDone_keepsMemory (core stripe : Nat) (s : State) : s.KeepsMemory (execL1WayWritebackDone core stripe s) := by
  refine ⟨_, rfl, fun h => ?_⟩
  grind [State.startWaitingBlocks_mem, State.memOk_l1Shrink, State.memOk, State.wf_mem]

theorem State.stopClassH_mem (s : State) (core : Nat) : (s.stopClassH core).mem = s.mem := rfl

theorem State.memOk_evictOne {s : State} (r : CRef) (h : s.memOk) : (s.evictOne r).memOk := by
  grind [State.evictOne, State.memOk_bandDepart, State.modCore_mem, State.modLaunch_mem, State.wakeDispensers_mem, State.modCohort_mem,
    State.post_mem, State.stopClassH_mem, State.memOk, State.wf_mem]

theorem State.memOk_clearOff {s : State} (c : Cohort) (h : s.memOk) : (s.clearOff c).memOk := by
  grind [State.clearOff, State.memOk_evictOne, State.memOk_leaveCore, State.startCohort_mem, State.memOk, State.wf_mem]

theorem State.memOk_holdRecords {s : State} (rs : List BindRec) (vs : List CRef) (h : s.memOk) : (s.holdRecords rs vs).memOk := by
  grind [State.holdRecords, State.modCore_mem, State.memOk_evictOne, State.post_mem, State.memOk_foldl, State.memOk_foldl_fst,
    State.memOk, State.wf_mem]

theorem State.memOk_bind {s : State} (rs : List BindRec) (again : Bool) (h : s.memOk) : (s.bind rs again).memOk := by
  unfold State.bind
  split
  · exact h
  split
  · exact h
  split
  · split
    · rw [State.memOk, State.foldl_mem State.giveBack_mem]
      exact h
    · exact h
  split
  · rw [State.memOk, State.failLaunch_mem]
    exact h
  extract_lets t vs
  have ht : t.memOk := by
    rw [State.memOk]
    by_cases hagain : again = true
    · simpa only [t, if_pos hagain] using State.wf_mem h
    · simpa only [t, if_neg hagain, State.foldl_mem State.writeBind_mem] using State.wf_mem h
  split
  · rw [State.memOk, State.startBlock_mem, State.foldl_mem State.dispatchOne_mem]
    exact ht
  · exact State.memOk_holdRecords _ _ ht

theorem execBindRecord_keepsMemory (rs : List BindRec) (s : State) : s.KeepsMemory (execBindRecord rs s) := by
  refine ⟨_, rfl, fun h => ?_⟩
  grind [State.memOk_bind, State.memOk, State.wf_mem]

theorem State.memOk_tryHeld {s : State} (core : Nat) (h : s.memOk) : (s.tryHeld core).memOk := by
  grind [State.tryHeld, State.memOk_bind, State.memOk_foldl, State.memOk_foldl_fst, State.memOk, State.wf_mem]

theorem State.memOk_spillCohort {s : State} (r : CRef) (h : s.memOk) : (s.spillCohort r).memOk := by
  grind [State.spillCohort, State.modCore_mem, State.memOk_leaveCore, State.memOk, State.wf_mem]

theorem execAtticWriteAck_keepsMemory (core : Nat) (s : State) : s.KeepsMemory (execAtticWriteAck core s) := by
  refine ⟨_, rfl, fun h => ?_⟩
  grind [State.modCore_mem, State.memOk_spillCohort, State.post_mem, State.memOk_tryHeld, State.foldl_mem, State.foldl_fst_mem,
    State.memOk_foldl, State.memOk_foldl_fst, State.memOk, State.wf_mem]

theorem State.enrol_mem (s : State) (c : Cohort) : (s.enrol c).mem = s.mem := by
  grind [State.enrol, State.bandJoin_mem, State.modBand_mem, State.modSeated_mem, State.foldl_mem]

theorem State.relock_mem (s : State) (c : Cohort) : (s.relock c).mem = s.mem := by
  unfold State.relock
  split <;> rfl

theorem State.memOk_rejoinBands {s : State} (c : Cohort) (h : s.memOk) : (s.rejoinBands c).memOk := by
  grind [State.rejoinBands, State.memOk_makeFill, State.modBand_mem, State.enrol_mem, State.memOk_foldl, State.memOk_foldl_fst,
    State.memOk, State.wf_mem]

theorem State.memOk_endRestore {s : State} (c : Cohort) (h : s.memOk) : (s.endRestore c).memOk := by
  grind [State.endRestore, State.acquireActions_mem, State.takeAges_mem, State.memOk_atticTraffic, State.modCohort_mem, State.post_mem,
    State.memOk_wake, State.settleGroup_mem, State.memOk_resumeSends, State.memOk_foldl, State.memOk_foldl_fst, State.memOk, State.wf_mem]

theorem execRestoreFrameReadDone_keepsMemory (r : CRef) (s : State) : s.KeepsMemory (execRestoreFrameReadDone r s) := by
  refine ⟨_, rfl, fun h => ?_⟩
  grind [State.memOk_rejoinBands, State.relock_mem, State.memOk_endRestore, State.foldl_mem, State.foldl_fst_mem, State.memOk_foldl,
    State.memOk_foldl_fst, State.memOk, State.wf_mem]

theorem State.memOk_forceSave {s : State} (c : Cohort) (kind : Nat) (h : s.memOk) : (s.forceSave c kind).memOk := by
  grind [State.forceSave, State.memOk_evictOne, State.startSave_mem, State.startCohort_mem, State.memOk, State.wf_mem]

theorem execCooperativePreemptRequest_keepsMemory (lid : Nat) (cores : List Nat) (s : State) : s.KeepsMemory
    (execCooperativePreemptRequest lid cores s) := by
  refine ⟨_, rfl, fun h => ?_⟩
  grind [State.memOk_forceSave, State.requestLeave_mem, State.foldl_mem, State.foldl_fst_mem, State.memOk_foldl, State.memOk_foldl_fst,
    State.memOk, State.wf_mem]

theorem execBudgetOverrun_keepsMemory (r : CRef) (s : State) : s.KeepsMemory (execBudgetOverrun r s) := by
  refine ⟨_, rfl, fun h => ?_⟩
  grind [State.memOk_forceSave, State.modCohort_mem, State.vacateGroup_mem, State.post_mem, State.startSave_mem, State.foldl_mem,
    State.foldl_fst_mem, State.memOk_foldl, State.memOk_foldl_fst, State.memOk, State.wf_mem]

theorem execSpatialPreemptRequest_keepsMemory (lid : Nat) (cores : List Nat) (s : State) : s.KeepsMemory
    (execSpatialPreemptRequest lid cores s) := by
  refine ⟨_, rfl, fun h => ?_⟩
  grind [State.modLaunch_mem, State.memOk_forceSave, State.requestLeave_mem, State.foldl_mem, State.foldl_fst_mem, State.memOk_foldl,
    State.memOk_foldl_fst, State.memOk, State.wf_mem]

/-! ## Events of bands -/

theorem execBandAskArrival_keepsMemory (die band core : Nat) (s : State) : s.KeepsMemory (execBandAskArrival die band core s) := by
  refine ⟨_, rfl, fun h => ?_⟩
  grind [State.memOk_askArrive, State.memOk, State.wf_mem]

theorem execBandHoldTimerExpiry_keepsMemory (die band : Nat) (s : State) : s.KeepsMemory (execBandHoldTimerExpiry die band s) := by
  refine ⟨_, rfl, fun h => ?_⟩
  grind [State.memOk_endHold, State.memOk, State.wf_mem]

theorem execBandFillLand_keepsMemory (die fill : Nat) (s : State) : s.KeepsMemory (execBandFillLand die fill s) := by
  refine ⟨_, rfl, fun h => ?_⟩
  grind [State.memOk_readFill, State.memOk_resumeDie, State.memOk_landFill, State.resumePhase_mem, State.foldl_mem, State.foldl_fst_mem,
    State.memOk_foldl, State.memOk_foldl_fst, State.memOk, State.wf_mem]

/-! ## Scrubs and services -/

theorem State.takeSeq_mem (s : State) : s.takeSeq.1.mem = s.mem := rfl

theorem State.sendReceipt_mem (s : State) (d : ScrubDef) (es : List ScrubEntry) : (s.sendReceipt d es).mem = s.mem := rfl

theorem State.memOk_takeSeq {s : State} (h : s.memOk) : s.takeSeq.1.memOk := by
  rw [State.memOk, State.takeSeq_mem]
  exact h

theorem State.memOk_writeReceipt {s t : State} (d : ScrubDef) (es : List ScrubEntry) (hs : s.memOk) (h : s.writeReceipt d es = some t) :
    t.memOk := by
  unfold State.writeReceipt at h
  split at h
  · cases h
    rw [State.memOk, State.sendReceipt_mem]
    exact hs
  · obtain ⟨u, hu, rfl⟩ := Option.map_eq_some_iff.mp h
    rw [State.memOk, State.send_mem]
    exact State.memOk_ipaPut (s := s.takeSeq.1) _ _ _ (State.memOk_takeSeq hs) hu

theorem State.memOk_zeroRange {s : State} (pa len : Nat) (h : s.memOk) : (s.zeroRange pa len).memOk :=
  Memory.wf_filter s.mem _ h

theorem State.scrubVif_mem (s : State) (vif : Nat) : (s.scrubVif vif).1.mem = s.mem := rfl

theorem State.memOk_scrubDomain {s : State} (kdom : Nat) (ranges : List (Nat × Nat)) (h : s.memOk) :
    (s.scrubDomain kdom ranges).1.memOk := by
  grind [State.scrubDomain, State.memOk_zeroRange, State.memOk_foldl, State.memOk_foldl_fst, State.memOk, State.wf_mem]

theorem State.memOk_scrubPart {s : State} (part : Nat) (h : s.memOk) : (s.scrubPart part).1.memOk := by
  grind [State.scrubPart, State.memOk_cleanL1, State.rdcDrop_mem, State.memOk_cleanRdcLine, State.modPart_mem, State.memOk_foldl,
    State.memOk, State.wf_mem]

theorem State.memOk_scrub {s : State} (d : ScrubDef) (h : s.memOk) : (s.scrub d).1.memOk := by
  grind [State.scrub, State.scrubVif_mem, State.memOk_scrubDomain, State.memOk_scrubPart, State.memOk_zeroRange, State.memOk_foldl,
    State.memOk_foldl_fst, State.memOk, State.wf_mem]

theorem State.memOk_scrubbed {s t : State} (d : ScrubDef) (hs : s.memOk) (h : s.scrubbed d = some t) : t.memOk :=
  State.memOk_writeReceipt _ _ (State.memOk_scrub d hs) h

theorem execDemandScrub_keepsMemory (d : ScrubDef) (s : State) : s.KeepsMemory (execDemandScrub d s) := by
  refine ⟨_, rfl, fun h => ?_⟩
  split
  · exact h
  · cases hd : s.scrubbed d with
    | none => exact h
    | some t => exact State.memOk_scrubbed _ h hd

theorem State.memOk_exportLog {s t : State} (v : Vif) (p : Partition) (buf done n : Nat) (hs : s.memOk)
    (h : s.exportLog v p buf done n = some t) : t.memOk := by
  obtain ⟨u, hu, hput⟩ := Option.bind_eq_some_iff.mp h
  obtain ⟨w, hw, rfl⟩ := Option.map_eq_some_iff.mp hput
  rw [State.memOk, State.send_mem]
  refine State.memOk_ipaPut _ _ _ ?_ hw
  rw [State.memOk, State.modPart_mem]
  exact State.memOk_ipaPut (s := s.takeSeq.1) _ _ _ (State.memOk_takeSeq hs) hu

theorem execLogreq_keepsMemory (vif : Nat) (value : DWord) (s : State) : s.KeepsMemory (execLogreq vif value s) := by
  obtain ⟨reach, hreach⟩ : ∃ f, f = State.ipaReach := ⟨_, rfl⟩
  obtain ⟨export_, hexport⟩ : ∃ f, f = State.exportLog := ⟨_, rfl⟩
  have hread : s.memOk → ∀ v a n, (reach s v a n false).1.memOk := fun h => by
    rw [hreach]
    exact fun v a n => State.memOk_ipaReach v a n false h
  have hexp : ∀ (t u : State) v p b d n, t.memOk → export_ t v p b d n = some u → u.memOk := by
    rw [hexport]
    exact fun t u v p b d n => State.memOk_exportLog v p b d n
  rw [execLogreq, ← hreach, ← hexport]
  refine ⟨_, rfl, fun h => ?_⟩
  grind [State.memOk_wake, State.post_mem, State.memOk_foldl, State.memOk, State.wf_mem]

theorem execReblockOrder_keepsMemory (d : ReblockDef) (signed : Bool) (s : State) : s.KeepsMemory (execReblockOrder d signed s) := by
  refine ⟨_, rfl, fun h => ?_⟩
  grind [State.memOk_clearOff, State.modDie_mem, State.memOk_cleanRdcLine, State.dropL2_mem, State.post_mem, State.foldl_mem,
    State.foldl_fst_mem, State.memOk_foldl, State.memOk_foldl_fst, State.memOk, State.wf_mem]

theorem State.memOk_releasePorts {s : State} (h : s.memOk) : s.releasePorts.memOk := by
  grind [State.releasePorts, State.memOk_retry, State.memOk_tryHome, State.memOk_foldl, State.memOk_foldl_fst, State.memOk, State.wf_mem]

theorem execReblockRehash_keepsMemory (die : Nat) (s : State) : s.KeepsMemory (execReblockRehash die s) := by
  refine ⟨_, rfl, fun h => ?_⟩
  grind [State.modDie_mem, State.modPart_mem, State.memOk_releasePorts, State.memOk, State.wf_mem]

theorem execPartitionReset_keepsMemory (part : Nat) (signed : Bool) (s : State) : s.KeepsMemory (execPartitionReset part signed s) := by
  refine ⟨_, rfl, fun h => ?_⟩
  grind [State.endTree_mem, State.modPart_mem, State.post_mem, State.foldl_mem, State.foldl_fst_mem, State.memOk_foldl,
    State.memOk_foldl_fst, State.memOk, State.wf_mem]

theorem execDrainExpiry_keepsMemory (part : Nat) (s : State) : s.KeepsMemory (execDrainExpiry part s) := by
  refine ⟨_, rfl, fun h => ?_⟩
  grind [State.send_mem, State.foldl_mem, State.foldl_fst_mem, State.memOk_foldl, State.memOk_foldl_fst, State.memOk, State.wf_mem]

theorem execPartitionFormation_keepsMemory (d : PartDef) (s : State) : s.KeepsMemory (execPartitionFormation d s) := by
  refine ⟨_, rfl, fun h => ?_⟩
  grind [State.memOk_retry, State.memOk, State.wf_mem]

theorem execCoreWithdrawal_keepsMemory (cores : List Nat) (signed : Bool) (s : State) : s.KeepsMemory
    (execCoreWithdrawal cores signed s) := by
  refine ⟨_, rfl, fun h => ?_⟩
  grind [State.memOk, State.wf_mem]

theorem execSelfTest_keepsMemory (core : Nat) (pass : Bool) (s : State) : s.KeepsMemory (execSelfTest core pass s) := by
  refine ⟨_, rfl, fun h => ?_⟩
  grind [State.modCore_mem, State.logError_mem, State.memOk, State.wf_mem]

end Sys2Proof.Machine
end

section
/-!
PROOF. The memory under interfaces, migration, bring-up and the boost arbiter.
-/
namespace Sys2Proof.Machine

/-! ## Interfaces -/

/-- An operation on an interface and a queue keeps the canonical form of memory; stated of the function, as `ReachKept`. -/
def StatusKept (f : State → Vif → Queue → State) : Prop := ∀ s v q, s.memOk → (f s v q).memOk

theorem StatusKept.intro {f : State → Vif → Queue → State} (h : ∀ s v q, s.memOk → (f s v q).memOk) : StatusKept f := h

theorem State.statusKept_zeroStatus : StatusKept State.zeroStatus := by
  obtain ⟨pagesAt, hpagesAt⟩ : ∃ f, f = pagesOf := ⟨_, rfl⟩
  delta State.zeroStatus
  rw [← hpagesAt]
  refine .intro fun s v q h => ?_
  extract_lets at_
  split
  · exact State.memOk_clearStatus _ _ _ h
  · exact h

theorem State.memOk_zeroStatus {s : State} (v : Vif) (q : Queue) (h : s.memOk) : (s.zeroStatus v q).memOk :=
  State.statusKept_zeroStatus s v q h

theorem execInterfaceCreation_keepsMemory (d : VifDef) (s : State) : s.KeepsMemory (execInterfaceCreation d s) := by
  refine ⟨_, rfl, fun h => ?_⟩
  grind [State.send_mem, State.memOk_zeroStatus, State.foldl_mem, State.foldl_fst_mem, State.memOk_foldl, State.memOk_foldl_fst,
    State.memOk, State.wf_mem]

theorem State.tdispMove_mem (s : State) (vif : Nat) (src dst : Tdisp) : (s.tdispMove vif src dst).mem = s.mem := rfl

theorem execLockInterface_keepsMemory (vif : Nat) (s : State) : s.KeepsMemory (execLockInterface vif s) := by
  refine ⟨_, rfl, fun h => ?_⟩
  grind [State.tdispMove_mem, State.memOk, State.wf_mem]

theorem execStartInterface_keepsMemory (vif : Nat) (s : State) : s.KeepsMemory (execStartInterface vif s) := by
  refine ⟨_, rfl, fun h => ?_⟩
  grind [State.tdispMove_mem, State.memOk, State.wf_mem]

theorem State.memOk_unlockScrub {s t : State} (v : Vif) (hs : s.memOk) (h : s.unlockScrub v = some t) : t.memOk := by
  unfold State.unlockScrub at h
  extract_lets d at h
  have hscrub := State.memOk_scrub d hs
  generalize s.scrub d = r at h hscrub
  obtain ⟨u, es⟩ := r
  refine State.memOk_writeReceipt _ _ ?_ h
  exact hscrub

theorem execStopInterface_keepsMemory (vif : Nat) (s : State) : s.KeepsMemory (execStopInterface vif s) := by
  refine ⟨_, rfl, fun h => ?_⟩
  grind [State.vifEnd_mem, State.modVif_mem, → State.memOk_unlockScrub, State.memOk, State.wf_mem]

theorem execLockedItemChange_keepsMemory (vif : Nat) (s : State) : s.KeepsMemory (execLockedItemChange vif s) := by
  refine ⟨_, rfl, fun h => ?_⟩
  grind [State.modVif_mem, State.vifEnd_mem, State.memOk, State.wf_mem]

theorem State.kickPageWord_mem (s : State) (vif off value : Nat) : (s.kickPageWord vif off value).mem = s.mem := by
  unfold State.kickPageWord
  grind [State.modVif_mem, State.postSweeps_mem]

theorem State.memOk_kickPageWrite {s : State} (v : Vif) (off size value : Nat) (h : s.memOk) :
    (s.kickPageWrite v off size value).memOk := by
  grind [State.kickPageWrite, State.post_mem, State.flushMsix_mem, State.modVif_mem, State.memOk_invreq, State.kickPageWord_mem,
    State.memOk, State.wf_mem]

theorem State.migPageWrite_mem (s : State) (v : Vif) (off size value : Nat) : (s.migPageWrite v off size value).mem = s.mem := by
  unfold State.migPageWrite
  grind [State.post_mem, State.modVif_mem, State.send_mem]

theorem State.change_mem (s : State) (vif : Nat) (f : Vif → Vif) : (s.change vif f).mem = s.mem := by
  unfold State.change
  split <;> rfl

theorem State.changeItem_mem (s : State) (vif : Nat) {f : State → State} (hf : (f s).mem = s.mem) : (s.changeItem vif f).mem = s.mem := by
  grind [State.changeItem, State.send_mem]

theorem State.memOk_changeItem {s : State} (vif : Nat) {f : State → State} (hf : (f s).memOk) (h : s.memOk) :
    (s.changeItem vif f).memOk := by
  grind [State.changeItem, State.send_mem, State.memOk, State.wf_mem]

theorem State.changeQueue_mem (s : State) (qid : Nat) (f : Queue → Queue) : (s.changeQueue qid f).mem = s.mem := by
  grind [State.changeQueue, State.changeItem_mem, State.memOk_changeItem, State.modQueue_mem]

theorem State.memOk_bindQueue {s : State} (vif : Nat) (d : QueueDef) (h : s.memOk) : (s.bindQueue vif d).memOk := by
  grind [State.bindQueue, State.changeItem_mem, State.memOk_changeItem, State.send_mem, State.memOk_zeroStatus, State.memOk, State.wf_mem]

theorem State.unbindQueue_mem (s : State) (qid : Nat) : (s.unbindQueue qid).mem = s.mem := by
  grind [State.unbindQueue, State.changeItem_mem, State.memOk_changeItem, State.send_mem]

theorem State.memOk_writeRegister {s : State} (r : RegName) (value : DWord) (h : s.memOk) : (s.writeRegister r value).memOk := by
  unfold State.writeRegister
  grind [State.memOk_kickPageWrite, State.modVif_mem, State.change_mem, State.modPart_mem, State.flushMsix_mem, State.memOk_bindQueue,
    State.unbindQueue_mem, State.changeQueue_mem, State.changeItem_mem, State.memOk_changeItem, State.send_mem, State.modMGroup_mem,
    State.post_mem, State.modCluster_mem, State.modDie_mem, State.migPageWrite_mem, State.modLaunch_mem, State.modCore_mem,
    State.modQueue_mem, State.memOk_foldl, State.memOk_foldl_fst, State.memOk, State.wf_mem]

theorem execRegisterWrite_keepsMemory (r : RegName) (value : DWord) (s : State) : s.KeepsMemory (execRegisterWrite r value s) := by
  refine ⟨_, rfl, fun h => ?_⟩
  grind [State.memOk_writeRegister, State.memOk, State.wf_mem]

theorem execKeyDomainLoad_keepsMemory (kdom key : Nat) (s : State) : s.KeepsMemory (execKeyDomainLoad kdom key s) := by
  refine ⟨_, rfl, fun h => ?_⟩
  grind [State.send_mem, State.sendReceipt_mem, State.memOk_scrub, State.foldl_mem, State.foldl_fst_mem, State.memOk_foldl,
    State.memOk_foldl_fst, State.memOk, State.wf_mem]

/-! ## Migration -/

theorem State.memOk_migCmd {s : State} (vif : Nat) (ok : Vif → Bool) {f : Vif → State → State}
    (hf : ∀ v t, t.memOk → (f v t).memOk) (h : s.memOk) : (s.migCmd vif ok f).memOk := by
  grind [State.migCmd, State.send_mem, State.modVif_mem, State.memOk, State.wf_mem]

theorem execPrecopy_keepsMemory (vif : Nat) (s : State) : s.KeepsMemory (execPrecopy vif s) := by
  refine ⟨_, rfl, fun h => ?_⟩
  grind [State.memOk_migCmd, State.modVif_mem, State.memOk, State.wf_mem]

theorem execStop_keepsMemory (vif : Nat) (s : State) : s.KeepsMemory (execStop vif s) := by
  refine ⟨_, rfl, fun h => ?_⟩
  grind [State.memOk_migCmd, State.modVif_mem, State.post_mem, State.memOk_forceSave, State.foldl_mem, State.foldl_fst_mem,
    State.memOk_foldl, State.memOk_foldl_fst, State.memOk, State.wf_mem]

theorem execMigrationStopped_keepsMemory (vif : Nat) (s : State) : s.KeepsMemory (execMigrationStopped vif s) := by
  refine ⟨_, rfl, fun h => ?_⟩
  grind [State.modVif_mem, State.memOk, State.wf_mem]

theorem execResume_keepsMemory (vif : Nat) (s : State) : s.KeepsMemory (execResume vif s) := by
  refine ⟨_, rfl, fun h => ?_⟩
  grind [State.memOk_migCmd, State.modVif_mem, State.memOk, State.wf_mem]

theorem State.memOk_runVif {s : State} (vif : Nat) (h : s.memOk) : (s.runVif vif).memOk := by
  unfold State.runVif
  extract_lets held t
  have ht : t.memOk := by
    rw [State.memOk, State.modVif_mem]
    exact h
  exact State.memOk_retry (State.memOk_foldl (fun t k ht => State.memOk_kickIn _ _ _ ht) _ ht)

theorem execAbort_keepsMemory (vif : Nat) (s : State) : s.KeepsMemory (execAbort vif s) := by
  refine ⟨_, rfl, fun h => ?_⟩
  grind [State.memOk_migCmd, State.memOk_runVif, State.memOk, State.wf_mem]

theorem execMigackSource_keepsMemory (vif seq : Nat) (s : State) : s.KeepsMemory (execMigackSource vif seq s) := by
  refine ⟨_, rfl, fun h => ?_⟩
  grind [State.modVif_mem, State.memOk, State.wf_mem]

theorem execMigackDestination_keepsMemory (vif seq : Nat) (s : State) : s.KeepsMemory (execMigackDestination vif seq s) := by
  refine ⟨_, rfl, fun h => ?_⟩
  grind [State.modVif_mem, State.memOk, State.wf_mem]

theorem State.takeQueues_mem (s : State) (v : Vif) (b1 b2 b6 : List Byte) : (s.takeQueues v b1 b2 b6).mem = s.mem := rfl

theorem State.takeLaunch_mem (s : State) (vif lid : Nat) (ns : List Nat) : (s.takeLaunch vif lid ns).mem = s.mem := by
  grind [State.takeLaunch, State.modCluster_mem]

theorem State.takeLaunches_mem (s : State) (vif n : Nat) (bs : List Byte) : (s.takeLaunches vif n bs).1.mem = s.mem := by
  induction n generalizing s bs with
  | zero => rfl
  | succ n ih => grind [State.takeLaunches, State.takeLaunch_mem]

theorem State.takeQueueRests_mem (s : State) (qs : List Queue) (bs : List Byte) : (s.takeQueueRests qs bs).1.mem = s.mem := by
  induction qs generalizing s bs with
  | nil => rfl
  | cons q qs ih => grind [State.takeQueueRests, State.modQueue_mem]

theorem State.takeFrames_mem (s : State) (vif : Nat) (ms : List (Nat × Nat)) (n : Nat) (bs : List Byte) :
    (s.takeFrames vif ms n bs).1.mem = s.mem := by
  induction n generalizing s bs with
  | zero => rfl
  | succ n ih => grind [State.takeFrames]

theorem State.takeRecords_mem (s : State) (v : Vif) (ms : List (Nat × Nat)) (n : Nat) (bs : List Byte) :
    (s.takeRecords v ms n bs).1.mem = s.mem := by
  induction n generalizing s bs with
  | zero => rfl
  | succ n ih => grind [State.takeRecords]

theorem State.takeLarder_mem (s : State) (vif n : Nat) (bs : List Byte) : (s.takeLarder vif n bs).mem = s.mem := by
  induction n generalizing s bs with
  | zero => rfl
  | succ n ih => grind [State.takeLarder]

theorem State.takeSections_mem (s : State) (v : Vif) : (s.takeSections v).mem = s.mem := by
  grind [State.takeSections, State.takeQueues_mem, State.takeLaunches_mem, State.takeQueueRests_mem, State.takeFrames_mem,
    State.modVif_mem, State.modQueue_mem, State.takeRecords_mem, State.takeLarder_mem, State.foldl_mem, State.foldl_fst_mem]

theorem execFinish_keepsMemory (vif : Nat) (s : State) : s.KeepsMemory (execFinish vif s) := by
  refine ⟨_, rfl, fun h => ?_⟩
  grind [State.memOk_migCmd, State.memOk_runVif, State.takeSections_mem, State.modVif_mem, State.memOk, State.wf_mem]

/-! ## Bring-up and the hearth -/

theorem State.stopBringUp_mem (s : State) (order : Nat) : (s.stopBringUp order).mem = s.mem := rfl

theorem execPowerGood_keepsMemory (s : State) : s.KeepsMemory (execPowerGood s) := by
  refine ⟨_, rfl, fun h => ?_⟩
  grind [State.stopBringUp_mem, State.memOk, State.wf_mem]

theorem State.measure_mem (s : State) (order : Nat) : (s.measure order).mem = s.mem := rfl

theorem State.memOk_trainAll {s : State} (h : s.memOk) : s.trainAll.memOk := Memory.wf_filter s.mem _ h

theorem execImageUnlock_keepsMemory (s : State) : s.KeepsMemory (execImageUnlock s) := by
  refine ⟨_, rfl, fun h => ?_⟩
  grind [State.measure_mem, State.stopBringUp_mem, State.memOk_trainAll, State.memOk, State.wf_mem]

theorem execImageInstall_keepsMemory (order : Nat) (image : List Byte) (signed : Bool) (s : State) : s.KeepsMemory
    (execImageInstall order image signed s) := by
  refine ⟨_, rfl, fun h => ?_⟩
  grind [State.memOk, State.wf_mem]

theorem execPowerRemoved_keepsMemory (s : State) : s.KeepsMemory (execPowerRemoved s) :=
  ⟨_, rfl, fun h => Memory.wf_filter s.mem _ h⟩

theorem execHeartbeat_keepsMemory (p : Processor) (s : State) : s.KeepsMemory (execHeartbeat p s) := by
  refine ⟨_, rfl, fun h => ?_⟩
  grind [State.memOk, State.wf_mem]

theorem State.resetEngine_mem (s : State) (e : EngineId) : (s.resetEngine e).mem = s.mem := by
  grind [State.resetEngine, State.modCmd_mem, State.endCmd_mem, State.foldl_mem]

theorem State.unlockAgain_mem (s : State) : s.unlockAgain.mem = s.mem := by
  grind [State.unlockAgain, State.measure_mem, State.stopBringUp_mem, State.foldl_mem]

theorem execWatchdogExpiry_keepsMemory (p : Processor) (s : State) : s.KeepsMemory (execWatchdogExpiry p s) := by
  refine ⟨_, rfl, fun h => ?_⟩
  grind [State.logError_mem, State.post_mem, State.resetEngine_mem, State.unlockAgain_mem, State.memOk, State.wf_mem]

theorem State.memOk_clearCohort {s : State} (c : Cohort) (responds : Bool) (h : s.memOk) : (s.clearCohort c responds).memOk := by
  grind [State.clearCohort, State.logError_mem, State.memOk_evictOne, State.memOk_clearOff, State.memOk_leaveCore, State.failLaunch_mem,
    State.memOk, State.wf_mem]

theorem State.memOk_emptyDie {s : State} (d : Nat) (responds : Bool) (h : s.memOk) : (s.emptyDie d responds).memOk := by
  grind [State.emptyDie, State.memOk_clearCohort, State.giveBack_mem, State.modCore_mem, State.evacuate_mem, State.memOk_foldl,
    State.memOk_foldl_fst, State.memOk, State.wf_mem]

theorem State.memOk_flushOthers {s : State} (d : Nat) (h : s.memOk) : (s.flushOthers d).memOk := by
  grind [State.flushOthers, State.modDie_mem, State.memOk_cleanRdcLine, State.memOk_foldl, State.memOk, State.wf_mem]

theorem State.memOk_flushDie {s : State} (d : Nat) (h : s.memOk) : (s.flushDie d).memOk := by
  grind [State.flushDie, State.memOk_cleanL1, State.memOk_cleanRdcLine, State.memOk_foldl, State.memOk, State.wf_mem]

theorem State.restartDie_mem (s : State) (d : Nat) : (s.restartDie d).mem = s.mem := rfl

theorem State.memOk_readmit {s : State} (d : Nat) (h : s.memOk) : (s.readmit d).memOk := by
  grind [State.readmit, State.memOk_retry, State.modDie_mem, State.memOk, State.wf_mem]

theorem State.memOk_resetStep {s : State} (d step : Nat) (responds : Bool) (h : s.memOk) : (s.resetStep d step responds).memOk := by
  unfold State.resetStep
  grind [State.memOk_emptyDie, State.memOk_flushOthers, State.memOk_flushDie, State.restartDie_mem, State.measure_mem, State.memOk,
    State.wf_mem]

theorem execWarmResetOrder_keepsMemory (die step : Nat) (signed responds : Bool) (s : State) : s.KeepsMemory
    (execWarmResetOrder die step signed responds s) := by
  refine ⟨_, rfl, fun h => ?_⟩
  grind [State.memOk_readmit, State.stopBringUp_mem, State.memOk_resetStep, State.modDie_mem, State.post_mem, State.memOk, State.wf_mem]

theorem execWarmResetReadmit_keepsMemory (die : Nat) (s : State) : s.KeepsMemory (execWarmResetReadmit die s) := by
  refine ⟨_, rfl, fun h => ?_⟩
  grind [State.memOk_readmit, State.memOk, State.wf_mem]

/-! ## The boost arbiter -/

theorem State.grantSlot_mem (s : State) (cluster : Nat) : (s.grantSlot cluster).mem = s.mem := rfl

theorem State.grantFree_mem (s : State) : s.grantFree.mem = s.mem := by
  grind [State.grantFree, State.grantSlot_mem]

theorem State.revokeFor_mem (s : State) : s.revokeFor.mem = s.mem := by
  grind [State.revokeFor]

theorem State.claimSlot_mem (s : State) (cluster : Nat) : (s.claimSlot cluster).mem = s.mem := by
  grind [State.claimSlot, State.grantSlot_mem, State.revokeFor_mem]

theorem execBoostClaim_keepsMemory (cluster : Nat) (s : State) : s.KeepsMemory (execBoostClaim cluster s) := by
  refine ⟨_, rfl, fun h => ?_⟩
  grind [State.claimSlot_mem, State.memOk, State.wf_mem]

theorem execBoostIntervalBoundary_keepsMemory (cluster : Nat) (s : State) : s.KeepsMemory (execBoostIntervalBoundary cluster s) := by
  refine ⟨_, rfl, fun h => ?_⟩
  grind [State.modCluster_mem, State.revokeFor_mem, State.grantFree_mem, State.memOk, State.wf_mem]

end Sys2Proof.Machine
end

section
/-!
PROOF. The memory under the control words, the matrix words, the memory words and the system words.
-/
namespace Sys2Proof.Machine

/-! ## Control words -/

theorem execBra_keepsMemory (o : FmtK) (s : State) : s.KeepsMemory (execBra o s) := by
  refine ⟨_, rfl, State.memOk_runWord _ (fun x lanes t ht => ?_)⟩
  grind [WordRes.memOk, State.modGroup_mem, State.memOk, State.wf_mem]

/-! ## Matrix words -/

theorem State.memOk_mtxReady {s : State} (x : Ctx) (lanes : Mask) (bytes : List (Nat × Nat)) (read : Bool) (h : s.memOk) :
    (s.mtxReady x lanes bytes read).1.memOk := by
  grind [State.mtxReady, State.memOk_startFills]

theorem State.startTileOp_mem (s : State) (g : GRef) (tile : Nat) (mma : Bool) : (s.startTileOp g tile mma).mem = s.mem := by
  grind [State.startTileOp, State.post_mem, State.modGroup_mem]

theorem State.memOk_withDescs {s : State} (x : Ctx) (lanes : Mask) (us : List DescUse) (read : Bool) {f : State → State}
    (hf : ∀ t, t.memOk → (f t).memOk) (h : s.memOk) : (s.withDescs x lanes us read f).memOk := by
  have hready := State.memOk_mtxReady x lanes (us.flatMap (fun u => u.bytes)) read h
  grind [State.withDescs, WordRes.memOk]

theorem State.accWrites_mem (s : State) (g : GRef) (tile : Nat) (vals : List (Nat × Nat × Word)) :
    (s.accWrites g tile vals).mem = s.mem := rfl

theorem execMma_keepsMemory (o : FmtX) (s : State) : s.KeepsMemory (execMma o s) := by
  refine ⟨_, rfl, State.memOk_runWord _ (fun x lanes t ht => ?_)⟩
  grind [WordRes.memOk, State.memOk_withDescs, State.startTileOp_mem, State.accWrites_mem, State.memOk, State.wf_mem]

theorem execMzero_keepsMemory (o : FmtX) (s : State) : s.KeepsMemory (execMzero o s) := by
  refine ⟨_, rfl, State.memOk_runWord _ (fun x lanes t ht => ?_)⟩
  grind [WordRes.memOk, State.startTileOp_mem, State.accWrites_mem, State.memOk, State.wf_mem]

theorem execMld_keepsMemory (o : FmtX) (s : State) : s.KeepsMemory (execMld o s) := by
  refine ⟨_, rfl, State.memOk_runWord _ (fun x lanes t ht => ?_)⟩
  grind [WordRes.memOk, State.memOk_withDescs, State.startTileOp_mem, State.accWrites_mem, State.memOk, State.wf_mem]

theorem execMst_keepsMemory (o : FmtX) (s : State) : s.KeepsMemory (execMst o s) := by
  refine ⟨_, rfl, State.memOk_runWord _ (fun x lanes t ht => ?_)⟩
  grind [WordRes.memOk, State.memOk_withDescs, State.startTileOp_mem, State.memOk_emit, State.memOk, State.wf_mem]

theorem execMrd_keepsMemory (o : FmtX) (s : State) : s.KeepsMemory (execMrd o s) := by
  refine ⟨_, rfl, State.memOk_runWord _ (fun x lanes t ht => ?_)⟩
  grind [WordRes.memOk, State.startTileOp_mem, State.fillLater_mem, State.memOk, State.wf_mem]

theorem execMwr_keepsMemory (o : FmtX) (s : State) : s.KeepsMemory (execMwr o s) := by
  refine ⟨_, rfl, State.memOk_runWord _ (fun x lanes t ht => ?_)⟩
  grind [WordRes.memOk, State.startTileOp_mem, State.accWrites_mem, State.memOk, State.wf_mem]

theorem execMscl_keepsMemory (o : FmtX) (s : State) : s.KeepsMemory (execMscl o s) := by
  refine ⟨_, rfl, State.memOk_runWord _ (fun x lanes t ht => ?_)⟩
  grind [WordRes.memOk, State.memOk_withDescs, State.startTileOp_mem, State.accWrites_mem, State.memOk, State.wf_mem]

theorem execMfd_keepsMemory (o : FmtI) (s : State) : s.KeepsMemory (execMfd o s) := by
  refine ⟨_, rfl, State.memOk_runWord _ (fun x lanes t ht => ?_)⟩
  grind [WordRes.memOk, State.fillLater_mem, State.memOk, State.wf_mem]

theorem execMatrixWordRetire_keepsMemory (g : GRef) (op : Nat) (s : State) : s.KeepsMemory (execMatrixWordRetire g op s) := by
  refine ⟨_, rfl, fun h => ?_⟩
  grind [State.modGroup_mem, State.memOk, State.wf_mem]

/-! ## Memory words -/

theorem State.runMem_keepsMemory (s : State) (w : WordSpec) (o : FmtM) (f : MemForm) (early : Bool) (fill : Ctx → Access → Access) :
    s.KeepsMemory (s.runMem w o f early fill) :=
  ⟨_, rfl, State.memOk_runWord _ (fun x lanes t ht => by
    dsimp only
    split
    · exact ht
    split
    · trivial
    · exact x.memOk_sendFirst (State.memOk_emit x early _ ht))⟩

theorem execLdw_keepsMemory (o : FmtM) (s : State) : s.KeepsMemory (execLdw o s) := by
  unfold execLdw
  extract_lets clr
  exact State.runMem_keepsMemory _ _ _ _ _ _

theorem State.memOk_prefetch {s : State} (x : Ctx) (o : FmtM) (f : MemForm) (lane : Nat) (h : s.memOk) : (s.prefetch x o f lane).memOk :=
    by
  grind [State.prefetch, State.memOk_globalLoad, State.memOk_rdcFetch, State.memOk_reachHome]

theorem execPref_keepsMemory (o : FmtM) (s : State) : s.KeepsMemory (execPref o s) := by
  refine ⟨_, rfl, State.memOk_runWord _ (fun x lanes t ht => ?_)⟩
  grind [WordRes.memOk, State.memOk_prefetch, State.foldl_mem, State.foldl_fst_mem, State.memOk_foldl, State.memOk_foldl_fst,
    State.memOk, State.wf_mem]

theorem execAtom_keepsMemory (o : FmtM) (s : State) : s.KeepsMemory (execAtom o s) := by
  unfold execAtom
  extract_lets n
  exact State.runMem_keepsMemory _ _ _ _ _ _

theorem execCas_keepsMemory (o : FmtM) (s : State) : s.KeepsMemory (execCas o s) := by
  unfold execCas
  extract_lets n
  exact State.runMem_keepsMemory _ _ _ _ _ _

theorem execFence_keepsMemory (o : FmtM) (s : State) : s.KeepsMemory (execFence o s) :=
  ⟨_, rfl, State.memOk_runWord _ (fun x _ _ ht => State.memOk_emitDone x _ _ _ ht)⟩

theorem memOk_allLanes {s : State} (lanes : Mask) (t : Nat × Nat) (h : s.memOk) : (allLanes s lanes t).memOk := h

theorem execBandj_keepsMemory (o : FmtM) (s : State) : s.KeepsMemory (execBandj o s) :=
  ⟨_, rfl, State.memOk_runWord _ (fun x lanes t ht => by grind [memOk_allLanes, State.memOk_emitDone])⟩

theorem execBandx_keepsMemory (o : FmtM) (s : State) : s.KeepsMemory (execBandx o s) :=
  ⟨_, rfl, State.memOk_runWord _ (fun x lanes t ht => by grind [memOk_allLanes, State.memOk_emitDone, WordRes.memOk])⟩

theorem execBandl_keepsMemory (o : FmtM) (s : State) : s.KeepsMemory (execBandl o s) :=
  ⟨_, rfl, State.memOk_runWord _ (fun x lanes t ht => by grind [memOk_allLanes, State.memOk_emitDone])⟩

theorem execMapset_keepsMemory (o : FmtM) (s : State) : s.KeepsMemory (execMapset o s) :=
  ⟨_, rfl, State.memOk_runWord _ (fun x lanes t ht => by grind [memOk_allLanes, State.memOk_emitDone])⟩

theorem execMapflush_keepsMemory (o : FmtM) (s : State) : s.KeepsMemory (execMapflush o s) :=
  ⟨_, rfl, State.memOk_runWord _ (fun x _ _ ht => State.memOk_emitDone x _ _ _ ht)⟩

theorem execHld_keepsMemory (o : FmtM) (s : State) : s.KeepsMemory (execHld o s) := by
  refine ⟨_, rfl, State.memOk_runWord _ (fun x lanes t ht => ?_)⟩
  grind [WordRes.memOk, State.fillLater_mem, State.memOk, State.wf_mem]

/-! ## System words -/

theorem execPush_keepsMemory (o : FmtI) (s : State) : s.KeepsMemory (execPush o s) :=
  ⟨_, rfl, State.memOk_runWord _ (fun x lanes t ht => by grind [memOk_allLanes, State.memOk_emit, WordRes.memOk_done])⟩

theorem execTstream_keepsMemory (o : FmtV) (s : State) : s.KeepsMemory (execTstream o s) :=
  ⟨_, rfl, State.memOk_runWord _ (fun x lanes t ht => by
    extract_lets off coff at_ record
    have hready := State.memOk_mtxReady x lanes [(at_, 64)] false ht
    split
    · exact ht
    split
    next u hr =>
      rw [hr] at hready
      exact hready
    next u hr =>
    have hu : u.memOk := by
      rw [hr] at hready
      exact hready
    split
    · trivial
    split
    · exact hu
    · exact State.memOk_foldl (fun v i hv => State.memOk_emit x _ _ hv) _ hu)⟩

theorem execFetcht_keepsMemory (o : FmtV) (s : State) : s.KeepsMemory (execFetcht o s) := by
  refine ⟨_, rfl, State.memOk_runWord _ (fun x lanes t ht => ?_)⟩
  grind [WordRes.memOk, State.memOk_emit, State.memOk, State.wf_mem]

theorem State.waitAfter_mem (s : State) (x : Ctx) (w : Wait) : (s.waitAfter x w).mem = s.mem := rfl

theorem execBar_keepsMemory (o : FmtI) (s : State) : s.KeepsMemory (execBar o s) := by
  refine ⟨_, rfl, State.memOk_runWord _ (fun x lanes t ht => ?_)⟩
  grind [WordRes.memOk, State.memOk_emit, State.waitAfter_mem, State.memOk, State.wf_mem]

theorem execBarb_keepsMemory (o : FmtI) (s : State) : s.KeepsMemory (execBarb o s) := by
  refine ⟨_, rfl, State.memOk_runWord _ (fun x lanes t ht => ?_)⟩
  grind [WordRes.memOk, State.memOk_emit, State.waitAfter_mem, State.memOk, State.wf_mem]

theorem execSleep_keepsMemory (o : FmtS) (s : State) : s.KeepsMemory (execSleep o s) := by
  refine ⟨_, rfl, State.memOk_runWord _ (fun x lanes t ht => ?_)⟩
  grind [WordRes.memOk, State.post_mem, State.waitAfter_mem, State.memOk, State.wf_mem]

theorem State.passCycles_mem (s : State) (cluster : Nat) : (s.passCycles cluster).mem = s.mem := rfl

theorem execMfs_keepsMemory (o : FmtS) (s : State) : s.KeepsMemory (execMfs o s) := by
  refine ⟨_, rfl, State.memOk_runWord _ (fun x lanes t ht => ?_)⟩
  grind [WordRes.memOk, State.passCycles_mem, State.fillLater_mem, State.modGroup_mem, State.foldl_mem, State.foldl_fst_mem,
    State.memOk_foldl, State.memOk_foldl_fst, State.memOk, State.wf_mem]

theorem execGetc_keepsMemory (o : FmtS) (s : State) : s.KeepsMemory (execGetc o s) :=
  ⟨_, rfl, State.memOk_runWord _ (fun x lanes t ht => by
    grind [memOk_allLanes, State.tick_mem, State.fillLater_mem, WordRes.memOk, State.memOk, State.wf_mem])⟩

theorem execXacq_keepsMemory (o : FmtS) (s : State) : s.KeepsMemory (execXacq o s) :=
  ⟨_, rfl, State.memOk_runWord _ (fun x lanes t ht => by grind [memOk_allLanes, State.memOk_emit, WordRes.memOk_done])⟩

theorem execXrel_keepsMemory (o : FmtS) (s : State) : s.KeepsMemory (execXrel o s) :=
  ⟨_, rfl, State.memOk_runWord _ (fun x lanes t ht => by grind [memOk_allLanes, State.memOk_emit, WordRes.memOk_done, WordRes.memOk])⟩

theorem execInject_keepsMemory (o : FmtS) (s : State) : s.KeepsMemory (execInject o s) := by
  refine ⟨_, rfl, State.memOk_runWord _ (fun x lanes t ht => ?_)⟩
  grind [WordRes.memOk, State.memOk_emit, State.memOk, State.wf_mem]

/-! ## The choice of a step -/

theorem State.atWord_mem (s : State) (g : GRef) (second : Bool) : (s.atWord g second).mem = s.mem := rfl

theorem State.memOk_idle {s : State} (h : s.memOk) : s.idle.memOk := by
  grind [State.idle, State.memOk_retry, State.memOk, State.wf_mem]

end Sys2Proof.Machine
end

section
/-!
PROOF. Every instruction and every event answers a next state and keeps the canonical form of memory, and a step runs what comes next (R3, R99).
-/
namespace Sys2Proof.Machine

theorem exec_keepsMemory (i : Instr) (s : State) : s.KeepsMemory (exec i s) := by
  cases i with
  | iadd o | isub o | imul o | imulhi o | imad o | iabs o | ineg o | imin o | imax o =>
    dsimp only [exec]
    exact State.intV_keepsMemory ..
  | iaddImm o | imulImm o | iminImm o | imaxImm o =>
    dsimp only [exec]
    exact State.intI_keepsMemory ..
  | iadd64 o | sel o | movi o =>
    dsimp only [exec]
    exact ⟨_, rfl, State.memOk_runLanes _ _ _⟩
  | ishl o | ishr o | isar o | irot o | and o | or o | xor o | andn o | popc o | clz o | ctz o | brev o | lop3 o | bfx o | bfi o
  | mov o =>
    dsimp only [exec]
    exact State.bitV_keepsMemory ..
  | ishlImm o | ishrImm o | isarImm o | irotImm o | andImm o | orImm o | xorImm o | bfxImm o =>
    dsimp only [exec]
    exact State.bitI_keepsMemory ..
  | icmp o | icmpImm o | elect o =>
    dsimp only [exec]
    exact ⟨_, rfl, State.memOk_runPreds _ _ _⟩
  | nop o | matchWord o | mtd o | mfmt o | mts o | yield o | brx o | call o | ret o | jmpi o | rejoin o | kill o | exit o
  | trap o | rett o | illegalInstruction guard opc =>
    dsimp only [exec]
    exact ⟨_, rfl, State.memOk_runWord _ (fun _ _ _ ht => ht)⟩
  | pand o | por o | pxor o | pnot o | pmov o =>
    dsimp only [exec]
    exact State.predV_keepsMemory ..
  | qxch o | qbcast o | gshf o =>
    dsimp only [exec]
    exact State.exchange_keepsMemory ..
  | fadd o | fsub o | fmul o | fma o | fround o | fmin o | fmax o | fminn o | fmaxn o | fabs o | fneg o =>
    dsimp only [exec]
    exact State.fltV_keepsMemory ..
  | fscale o | fclass o | cvt o | fpk o | fdot2 o =>
    dsimp only [exec]
    exact ⟨_, rfl, State.memOk_runFlags _ _ _ _⟩
  | fcmp o =>
    dsimp only [exec]
    exact ⟨_, rfl, State.memOk_runFlagPred _ _ _⟩
  | frcp o | frsq o | fsqrt o | fexp2 o | flog2 o | fsin o | fcos o | ftanh o =>
    dsimp only [exec]
    exact State.transV_keepsMemory ..
  | hadd2 o | hmul2 o | hfma2 o =>
    dsimp only [exec]
    exact State.halfV_keepsMemory ..
  | qmx o =>
    dsimp only [exec]
    exact ⟨_, rfl, State.memOk_runLate _ _ _⟩
  | ld o | st o | stf o | promote o | waitc o | wbr o | invr o =>
    dsimp only [exec]
    exact State.runMem_keepsMemory ..
  | vote a => exact execVote_keepsMemory a s
  | mma a => exact execMma_keepsMemory a s
  | mzero a => exact execMzero_keepsMemory a s
  | mld a => exact execMld_keepsMemory a s
  | mst a => exact execMst_keepsMemory a s
  | mrd a => exact execMrd_keepsMemory a s
  | mwr a => exact execMwr_keepsMemory a s
  | mscl a => exact execMscl_keepsMemory a s
  | mfd a => exact execMfd_keepsMemory a s
  | ldw a => exact execLdw_keepsMemory a s
  | pref a => exact execPref_keepsMemory a s
  | atom a => exact execAtom_keepsMemory a s
  | cas a => exact execCas_keepsMemory a s
  | fence a => exact execFence_keepsMemory a s
  | bandj a => exact execBandj_keepsMemory a s
  | bandl a => exact execBandl_keepsMemory a s
  | bandx a => exact execBandx_keepsMemory a s
  | mapset a => exact execMapset_keepsMemory a s
  | mapflush a => exact execMapflush_keepsMemory a s
  | hld a => exact execHld_keepsMemory a s
  | push a => exact execPush_keepsMemory a s
  | tstream a => exact execTstream_keepsMemory a s
  | fetcht a => exact execFetcht_keepsMemory a s
  | bar a => exact execBar_keepsMemory a s
  | barb a => exact execBarb_keepsMemory a s
  | mfs a => exact execMfs_keepsMemory a s
  | getc a => exact execGetc_keepsMemory a s
  | sleep a => exact execSleep_keepsMemory a s
  | xacq a => exact execXacq_keepsMemory a s
  | xrel a => exact execXrel_keepsMemory a s
  | inject a => exact execInject_keepsMemory a s
  | bra a => exact execBra_keepsMemory a s
  | slotVote a b => exact execSlotVote_keepsMemory a b s
  | clauseFetchDone a b c d e => exact execClauseFetchDone_keepsMemory a b c d e s
  | registerFill a b => exact execRegisterFill_keepsMemory a b s
  | checkedCompare a b => exact execCheckedCompare_keepsMemory a b s
  | checkedWaitExpiry a => exact execCheckedWaitExpiry_keepsMemory a s
  | spinDetectLower a => exact execSpinDetectLower_keepsMemory a s
  | spinReleaseTimeout a => exact execSpinReleaseTimeout_keepsMemory a s
  | asyncTrapDelivery a => exact execAsyncTrapDelivery_keepsMemory a s
  | sleepExpiry a => exact execSleepExpiry_keepsMemory a s
  | waitcReread a b => exact execWaitcReread_keepsMemory a b s
  | homeSliceRequest a => exact execHomeSliceRequest_keepsMemory a s
  | releaseActionsDone a b => exact execReleaseActionsDone_keepsMemory a b s
  | l1WayWritebackDone a b => exact execL1WayWritebackDone_keepsMemory a b s
  | hbmSectorRead a b c => exact execHbmSectorRead_keepsMemory a b c s
  | walkStart a => exact execWalkStart_keepsMemory a s
  | walkComplete a => exact execWalkComplete_keepsMemory a s
  | faultRecordWrite a => exact execFaultRecordWrite_keepsMemory a s
  | faultAnswerResolved a => exact execFaultAnswerResolved_keepsMemory a s
  | faultAnswerRefused a => exact execFaultAnswerRefused_keepsMemory a s
  | invalidateRange a => exact execInvalidateRange_keepsMemory a s
  | invalidateContext a => exact execInvalidateContext_keepsMemory a s
  | invalidationDone a => exact execInvalidationDone_keepsMemory a s
  | placementCountThreshold a => exact execPlacementCountThreshold_keepsMemory a s
  | storageFrameTaken a => exact execStorageFrameTaken_keepsMemory a s
  | storagePageReadDone a b => exact execStoragePageReadDone_keepsMemory a b s
  | reclaimSweep a b => exact execReclaimSweep_keepsMemory a b s
  | reclaimWritebackDone a b c => exact execReclaimWritebackDone_keepsMemory a b c s
  | flist a b => exact execFlist_keepsMemory a b s
  | engineCommandStart a => exact execEngineCommandStart_keepsMemory a s
  | copyRows a => exact execCopyRows_keepsMemory a s
  | fillRows a => exact execFillRows_keepsMemory a s
  | allReduce a => exact execAllReduce_keepsMemory a s
  | reduceScatter a => exact execReduceScatter_keepsMemory a s
  | allGather a => exact execAllGather_keepsMemory a s
  | broadcast a => exact execBroadcast_keepsMemory a s
  | storageRead a b => exact execStorageRead_keepsMemory a b s
  | storageWrite a b => exact execStorageWrite_keepsMemory a b s
  | storageFlush a b => exact execStorageFlush_keepsMemory a b s
  | launchCommand a => exact execLaunchCommand_keepsMemory a s
  | tstreamLoad a => exact execTstreamLoad_keepsMemory a s
  | tstreamStore a => exact execTstreamStore_keepsMemory a s
  | commandCompletion a => exact execCommandCompletion_keepsMemory a s
  | dispenserRequest a b => exact execDispenserRequest_keepsMemory a b s
  | stealRequest a b => exact execStealRequest_keepsMemory a b s
  | stealAnswer a b => exact execStealAnswer_keepsMemory a b s
  | kick a b c => exact execKick_keepsMemory a b c s
  | launchRecordTake a => exact execLaunchRecordTake_keepsMemory a s
  | bindRecord a => exact execBindRecord_keepsMemory a s
  | atticWriteAck a => exact execAtticWriteAck_keepsMemory a s
  | mapAtticWriteback a => exact execMapAtticWriteback_keepsMemory a s
  | restoreFrameReadDone a => exact execRestoreFrameReadDone_keepsMemory a s
  | cooperativePreemptRequest a b => exact execCooperativePreemptRequest_keepsMemory a b s
  | budgetOverrun a => exact execBudgetOverrun_keepsMemory a s
  | saveComplete a => exact execSaveComplete_keepsMemory a s
  | spatialPreemptRequest a b => exact execSpatialPreemptRequest_keepsMemory a b s
  | cohortSwap a => exact execCohortSwap_keepsMemory a s
  | groupRetire a => exact execGroupRetire_keepsMemory a s
  | cohortRetire a => exact execCohortRetire_keepsMemory a s
  | completionEntryWrite a => exact execCompletionEntryWrite_keepsMemory a s
  | bandAskArrival a b c => exact execBandAskArrival_keepsMemory a b c s
  | bandHoldTimerExpiry a b => exact execBandHoldTimerExpiry_keepsMemory a b s
  | bandFillLand a b => exact execBandFillLand_keepsMemory a b s
  | firstTouchFillDone a b c => exact execFirstTouchFillDone_keepsMemory a b c s
  | homeUnavailableRetry a => exact execHomeUnavailableRetry_keepsMemory a s
  | regulatorRefill a => exact execRegulatorRefill_keepsMemory a s
  | rafterAllowanceRefill a => exact execRafterAllowanceRefill_keepsMemory a s
  | patrolScrubRead a b => exact execPatrolScrubRead_keepsMemory a b s
  | demandScrub a => exact execDemandScrub_keepsMemory a s
  | reblockOrder a b => exact execReblockOrder_keepsMemory a b s
  | reblockRehash a => exact execReblockRehash_keepsMemory a s
  | partitionReset a b => exact execPartitionReset_keepsMemory a b s
  | drainExpiry a => exact execDrainExpiry_keepsMemory a s
  | lockInterface a => exact execLockInterface_keepsMemory a s
  | startInterface a => exact execStartInterface_keepsMemory a s
  | stopInterface a => exact execStopInterface_keepsMemory a s
  | lockedItemChange a => exact execLockedItemChange_keepsMemory a s
  | invreq a b => exact execInvreq_keepsMemory a b s
  | fresp a b c => exact execFresp_keepsMemory a b c s
  | logreq a b => exact execLogreq_keepsMemory a b s
  | accessLogRecord a => exact execAccessLogRecord_keepsMemory a s
  | registerWrite a b => exact execRegisterWrite_keepsMemory a b s
  | precopy a => exact execPrecopy_keepsMemory a s
  | stop a => exact execStop_keepsMemory a s
  | migrationStopped a => exact execMigrationStopped_keepsMemory a s
  | resume a => exact execResume_keepsMemory a s
  | abort a => exact execAbort_keepsMemory a s
  | finish a => exact execFinish_keepsMemory a s
  | migackSource a b => exact execMigackSource_keepsMemory a b s
  | migackDestination a b => exact execMigackDestination_keepsMemory a b s
  | keyDomainLoad a b => exact execKeyDomainLoad_keepsMemory a b s
  | rafterPortsDown a => exact execRafterPortsDown_keepsMemory a s
  | ringStepTimeout a b => exact execRingStepTimeout_keepsMemory a b s
  | propose a => exact execPropose_keepsMemory a s
  | accept a => exact execAccept_keepsMemory a s
  | refuse a => exact execRefuse_keepsMemory a s
  | commit a => exact execCommit_keepsMemory a s
  | agreementTimeout a => exact execAgreementTimeout_keepsMemory a s
  | joinreq a => exact execJoinreq_keepsMemory a s
  | exclude a => exact execExclude_keepsMemory a s
  | viewDataPacket a => exact execViewDataPacket_keepsMemory a s
  | collectiveAbort a => exact execCollectiveAbort_keepsMemory a s
  | powerGood => exact execPowerGood_keepsMemory s
  | imageUnlock => exact execImageUnlock_keepsMemory s
  | heartbeat a => exact execHeartbeat_keepsMemory a s
  | watchdogExpiry a => exact execWatchdogExpiry_keepsMemory a s
  | warmResetOrder a b c d => exact execWarmResetOrder_keepsMemory a b c d s
  | warmResetReadmit a => exact execWarmResetReadmit_keepsMemory a s
  | selfTest a b => exact execSelfTest_keepsMemory a b s
  | imageInstall a b c => exact execImageInstall_keepsMemory a b c s
  | boostIntervalBoundary a => exact execBoostIntervalBoundary_keepsMemory a s
  | boostClaim a => exact execBoostClaim_keepsMemory a s
  | matrixWordRetire a b => exact execMatrixWordRetire_keepsMemory a b s
  | powerRemoved => exact execPowerRemoved_keepsMemory s
  | partitionFormation a => exact execPartitionFormation_keepsMemory a s
  | membershipGroupDefinition a b c => exact execMembershipGroupDefinition_keepsMemory a b c s
  | interfaceCreation a => exact execInterfaceCreation_keepsMemory a s
  | coreWithdrawal a b => exact execCoreWithdrawal_keepsMemory a b s

theorem State.exists_exec (i : Instr) (s : State) : ∃ t, exec i s = .next t := by
  obtain ⟨t, ht, _⟩ := exec_keepsMemory i s
  exact ⟨t, ht⟩

/-- An instruction executed from a state with the memory of `s` keeps the form of that memory. -/
theorem State.memOk_of_exec {s t u : State} {i : Instr} (hs : s.memOk) (hmem : u.mem = s.mem) (h : exec i u = .next t) : t.memOk := by
  obtain ⟨v, hv, hok⟩ := exec_keepsMemory i u
  cases hv.symm.trans h
  refine hok ?_
  rw [State.memOk, hmem]
  exact hs

/-- Settles O29: no instruction and no event leaves the canonical form of memory. -/
theorem stepKeepsMemory : Obligations.StepKeepsMemory := by
  unfold Obligations.StepKeepsMemory
  intro s t hs h
  have hidle : (.next s.idle : Host.Outcome State Fault Refusal) = .next t → t.memOk := fun h => by
    rw [← Host.Outcome.next.inj h]
    exact State.memOk_idle hs
  unfold step at h
  split at h
  · exact hidle h
  · split at h
    · exact hidle h
    split at h
    · exact State.memOk_of_exec hs (s.atWord_mem ..) h
    split at h
    · exact hidle h
    · cases h
  · split at h
    · exact hidle h
    · exact State.memOk_of_exec (u := s.atPending _) hs rfl h
  · split at h
    · exact hidle h
    · exact State.memOk_of_exec (u := s.atInput) hs rfl h
  · exact State.memOk_of_exec (u := s.atVote) hs rfl h

/-! ## What a step executes -/

theorem fetchInstr_of_decode_ok {w w1 : DWord} {x : Instr} (h : decode w w1 = .ok x) : fetchInstr w w1 = x := by
  simp only [fetchInstr, h]

theorem fetchInstr_of_unassigned {w w1 : DWord} {opc : BitVec 8} (h : decode w w1 = .rejected (.unassigned opc)) :
    fetchInstr w w1 = .illegalInstruction (wordGuard w) opc := by
  simp only [fetchInstr, h]

/-- Words with a bad field stand for an instruction of their opcode, whose own check names the field. -/
theorem exists_fetchInstr_of_field {w w1 : DWord} {info : Nat} (h : decode w w1 = .rejected (.field info)) :
    ∃ y, assignForm w w1 = some y ∧ y.encInfo = some info ∧ fetchInstr w w1 = y := by
  have hfetch : fetchInstr w w1 = (assignForm w w1).getD (.illegalInstruction (wordGuard w) (wordOpc w)) := by
    simp only [fetchInstr, h]
  unfold decode at h
  split at h
  · cases h
  next y hform =>
  split at h
  next hinfo =>
    cases h
    exact ⟨y, hform, hinfo, by rw [hfetch, hform, Option.getD_some]⟩
  · cases h

theorem Issue.instr?_of_words {i : Issue} {w : DWord} {rest : List DWord} (hended : i.ended = false)
    (hwords : i.words.drop i.idx = w :: rest) :
    i.instr? = some (fetchInstr w (rest.headD 0)) := by
  simp [Issue.instr?, hended, hwords]

theorem step_of_word {s : State} {g : GRef} {second : Bool} {i : Issue} {x : Instr} (hchoice : s.nextChoice = some (.word g second))
    (hissue : s.issueOf g second = some i) (hinstr : i.instr? = some x) : step s = exec x (s.atWord g second) := by
  simp only [step, hchoice, hissue, hinstr]

/-- A step stops only at an issue set that has issued its last word. -/
theorem State.goesOn_or_noWordLeft (s : State) : s.goesOn ∨ (step s = .fault .noWordLeft ∧
    ∃ g second i, s.nextChoice = some (.word g second) ∧ s.issueOf g second = some i ∧ i.ended = false ∧ i.words.length ≤ i.idx) := by
  unfold State.goesOn step
  split
  · exact .inl ⟨_, rfl⟩
  next g second hchoice =>
    split
    · exact .inl ⟨_, rfl⟩
    next i hissue =>
    split
    · exact .inl (State.exists_exec ..)
    next hinstr =>
    split
    · exact .inl ⟨_, rfl⟩
    next hended =>
    refine .inr ⟨rfl, g, second, i, hchoice, hissue, Bool.eq_false_iff.mpr hended, ?_⟩
    rw [Issue.instr?, if_neg hended] at hinstr
    split at hinstr
    next hdrop => exact List.drop_eq_nil_iff.mp hdrop
    · cases hinstr
  · split
    · exact .inl ⟨_, rfl⟩
    · exact .inl (State.exists_exec ..)
  · split
    · exact .inl ⟨_, rfl⟩
    · exact .inl (State.exists_exec ..)
  · exact .inl (State.exists_exec ..)

/-- Settles O26, by the cases of `step`. -/
theorem stepRunsTheDecodedWord : Obligations.StepRunsTheDecodedWord := by
  unfold Obligations.StepRunsTheDecodedWord
  refine ⟨fun s g second i w rest x n core slot => ⟨fun hchoice hissue hended hwords => ?_, fun hchoice hpend => ?_,
    fun xs hchoice hinputs => ?_, fun hchoice => ?_, fun hchoice => ?_⟩, State.exists_exec, State.goesOn_or_noWordLeft⟩
  · have hstep := step_of_word hchoice hissue (Issue.instr?_of_words hended hwords)
    refine ⟨fun hok => ?_, fun opc hopc => ?_, fun info hinfo => ?_⟩
    · rw [hstep, fetchInstr_of_decode_ok hok]
    · rw [hstep, fetchInstr_of_unassigned hopc]
    · obtain ⟨y, hform, hfield, hfetch⟩ := exists_fetchInstr_of_field hinfo
      exact ⟨y, hform, hfield, by rw [hstep, hfetch]⟩
  · simp only [step, hchoice, hpend]
  · simp only [step, hchoice, hinputs]
  · simp only [step, hchoice]
  · simp only [step, hchoice]

end Sys2Proof.Machine
end
